-- ==== Sys2Proof/Word.lean ====
section
/-!
DEFINITION. The word types of the Renxo RX7200: 64-bit instruction words, scalars and addresses (R73, R74, R93, R196),
32-bit vector elements (R73), bytes (R23), and the plain arithmetic over them.
-/

namespace Sys2Proof

/-- A 64-bit word: an instruction word, a scalar register (R74), a control register. -/
abbrev Word := BitVec 64

/-- A 64-bit column-local address: OBJ [63:48] and OFF [47:0] (R196). -/
abbrev Addr := BitVec 64

/-- A 32-bit vector register element (R73). -/
abbrev Elem := BitVec 32

/-- A byte of memory (R23). -/
abbrev Byte := BitVec 8

/-- A set of lanes of one team: bit l is lane l; at most 1024 lanes (R46). -/
abbrev Lanes := BitVec 1024

/-- The pattern of an integer in two's complement at width `w`. -/
abbrev wrapBits (w : Nat) (x : Int) : BitVec w := BitVec.ofInt w x

end Sys2Proof
end

