-- ==== Sys2Proof/Syntax.lean ====
section
/-!
DEFINITION. The syntax of the Renxo RX7200: the element types of R107, the six instruction formats of R105 (format E laid out as
R279, R290 and R300 say), and the ONE inductive `Instr`, one constructor for each row of spec/opcode_table.json. The rows from
CLAUSE_START on are steps of the machine that no instruction word encodes; each carries what names the thing it acts on, and
what the outside world hands it.
-/

namespace Sys2Proof

/-- The type field codes of R107, in the order of their codes 0x0 to 0xF. -/
inductive Ty where
  | i8 | i16 | i32 | i64 | n8 | n16 | n32 | n64 | f16 | bf16 | f32 | f64 | e4m3 | e5m2 | rq8 | rn24
deriving DecidableEq, Repr, Inhabited

/-- The rounding modes of R26, encoded 0 to 3 in V-format bits [11:10] (R105). -/
inductive RMode where
  | rn | rz | rd | ru
deriving DecidableEq, Repr, Inhabited

/-- Format V (R105). -/
structure VForm where
  ty : Ty
  d : BitVec 8
  a : BitVec 8
  b : BitVec 8
  c : BitVec 8
  m : BitVec 4
  fs : Bool
  se : Bool
  rnd : RMode
  sat : Bool
  sub : BitVec 9
deriving DecidableEq, Repr, Inhabited

/-- Format I (R105): `cls` is the immediate class of R16. -/
structure IForm where
  ty : Ty
  d : BitVec 8
  a : BitVec 8
  cls : BitVec 2
  imm : BitVec 32
deriving DecidableEq, Repr, Inhabited

/-- Format M (R105, R17): `vo` is bit [41], `base` is bits [40:34], `hint` is bits [19:18]. -/
structure MForm where
  ty : Ty
  d : BitVec 8
  vo : Bool
  base : BitVec 7
  voff : BitVec 8
  m : BitVec 4
  fs : Bool
  se : Bool
  hint : BitVec 2
  off : BitVec 18
deriving DecidableEq, Repr, Inhabited

/-- Format X (R105, R229). -/
structure XForm where
  ty : Ty
  d : BitVec 8
  a : BitVec 8
  b : BitVec 8
  m : BitVec 4
  pat : BitVec 6
  par : BitVec 16
deriving DecidableEq, Repr, Inhabited

/-- Format B (R105, R119): `res` is the reserved field [38:32]. -/
structure BForm where
  creg : BitVec 7
  cond : BitVec 4
  m : BitVec 4
  res : BitVec 7
  imm : BitVec 32
deriving DecidableEq, Repr, Inhabited

/-- Format E as the data commands of the copy engine lay it out (R279). -/
structure CForm where
  ty : Ty
  se : Bool
  fs : Bool
  dk : BitVec 2
  sk : BitVec 2
  dop : BitVec 7
  sop : BitVec 7
  cf : Bool
  cnt : BitVec 13
  hint : BitVec 2
  doff : BitVec 7
  soff : BitVec 7
deriving DecidableEq, Repr, Inhabited

/-- Format E as the remaining copy commands lay it out (R278, R287, R290): bits [53:50], [49], [48] and [47:0]. -/
structure KForm where
  top : BitVec 4
  se : Bool
  fs : Bool
  low : BitVec 48
deriving DecidableEq, Repr, Inhabited

/-- Format E as the matrix commands lay it out (R300); MSIG's scope is bits [2:0] of `off`. -/
structure GForm where
  ty : Ty
  se : Bool
  fs : Bool
  acc : BitVec 3
  fa : BitVec 2
  fm : BitVec 2
  clr : Bool
  sm : BitVec 2
  b : BitVec 7
  c : BitVec 7
  kc : BitVec 8
  mc : BitVec 6
  off : BitVec 10
deriving DecidableEq, Repr, Inhabited

/-- Who issues instruction words (R95, R97): a team, or the copy or matrix stream that the team has forked; each by the team's
identifier in the model. -/
inductive Agent where
  | team (u : Nat)
  | copy (u : Nat)
  | matrix (u : Nat)
deriving DecidableEq, Repr, Inhabited

/-- What a decrement of a completion counter is for (R52, R66, R402): a workgroup of a launch, or a unit of its parent. -/
inductive UnitPart where
  | workgroup (w : Nat)
  | unit (id : Nat)
deriving DecidableEq, Repr, Inhabited

/-- A page entry's name (R369): context, object, the owning team for object 0 (0 otherwise), column, page, and whether it is the
lower-half entry of a split-word object. -/
structure PageRef where
  ctx : Nat
  obj : Nat
  team : Nat
  col : Nat
  page : Nat
  lower : Bool
deriving DecidableEq, Repr, Inhabited

/-- What becomes of an error beyond what a scheme promises (R408, R409): it may still be detected, be missed, or be miscorrected, with the bits named
turned over besides. -/
inductive EccBeyond where
  | detected
  | missed
  | miscorrected (bits : List Nat)
deriving DecidableEq, Repr, Inhabited

/-- The soft errors of what is read (R408, R409): the bits that have turned over, bit k being bit k mod 8 of byte k / 8, and what becomes of errors
beyond the scheme. -/
structure EccObs where
  flips : List Nat
  beyond : EccBeyond
deriving DecidableEq, Repr, Inhabited

/-- The atomic operations of R219. -/
inductive AOp where
  | add | sub | min | max | and | or | xor | xchg | cas | fadd | maxi | mini
deriving DecidableEq, Repr, Inhabited

/-- A far packet that a scale-out frame carries between devices (R406, R423): a request at a column, with its tag; `check` asks for checks alone: of an
access that is to be staged when `num` is 0 (R333), else checks 1 to 5 of `num` elements of a copy command's operand (R281, R283); or the answer to the
request of a tag: its bytes, or an error cause and the address that is charged. -/
inductive FarPacket where
  | read (tag : Nat) (ctx : Nat) (col : Nat) (addr : Addr) (size : Nat)
  | write (tag : Nat) (ctx : Nat) (col : Nat) (addr : Addr) (bytes : List Byte)
  | atomic (tag : Nat) (ctx : Nat) (col : Nat) (addr : Addr) (aop : AOp) (ty : Ty) (x : List Byte) (cmp : List Byte)
  | check (tag : Nat) (ctx : Nat) (col : Nat) (addr : Addr) (size : Nat) (num : Nat) (write : Bool) (atomic : Bool)
  | answer (tag : Nat) (bytes : List Byte)
  | answerErr (tag : Nat) (cause : BitVec 8) (addr : Addr)
deriving DecidableEq, Repr, Inhabited

/-- An Ethernet II frame of a scale-out port (R423): target and source address, EtherType, and the far packet that it carries. -/
structure EtherFrame where
  dst : BitVec 48
  src : BitVec 48
  etherType : BitVec 16
  pkt : FarPacket
deriving DecidableEq, Repr, Inhabited

/-- A job description as the Curator reads it from the host (R404): the root launch record, the phase count, the 64 group-table
entries of four words, the reserve in MiB. (log 27: DESIGN CHOICE, safe.) -/
structure JobDesc where
  record : List Word
  phases : Word
  groups : List (List Word)
  reserve : Word
deriving DecidableEq, Repr, Inhabited

/-- A descriptor image as the Curator reads it from the host (R368, R403), with the page entries it writes at creation (R369):
each page's column, page number, half, and entry word; whether it is a code object, its supervisor mark (R375, R385), and whether
pages without an entry of their own are first-touch. -/
structure ObjImage where
  words : List Word
  code : Bool
  pages : List (Nat × Nat × Bool × Word)
  firstTouch : Bool
deriving DecidableEq, Repr, Inhabited

/-- A firmware image (R427): its bytes, its signature, its version. -/
structure FwImage where
  bytes : List Byte
  sig : List Byte
  version : BitVec 6
deriving DecidableEq, Repr, Inhabited

/-- What stage 1 of bring-up reports (R415, R425, R426): stacks that could not be trained, physical cores that failed their test
(die × 17 + core), the scheduling firmware that M2 measures, and the remap table the Curator writes (logical core, physical core). -/
structure BringUp where
  badStacks : List Nat
  badCores : List Nat
  remap : List (Nat × Nat)
  firmware : FwImage
deriving DecidableEq, Repr, Inhabited

/-- What a step of the machine acts on, and what the outside world hands it. (log 27: DESIGN CHOICE, safe.) (log 34: DESIGN CHOICE, safe.) (log 13: DESIGN CHOICE, safe.) -/
inductive EvArg where
  | none
  | id (n : Nat)
  | pair (n k : Nat)
  | agent (a : Agent)
  | part (p : UnitPart)
  | bind (col w : Nat) (rst : Bool)
  | fork (u : Nat) (mtx : Bool)
  | page (p : PageRef) (tier : BitVec 2) (frame : Nat)
  | dup (p : PageRef) (col frame : Nat)
  | migrate (ctx : Nat) (arrive : Bool) (mac : BitVec 48)
  | refill (ctx col : Nat) (second : Bool) (frames : List Nat)
  | ecc (n : Nat) (obs : EccObs)
  | readPkt (tag n : Nat) (obs : EccObs)
  | readBy (tag n ctx obj : Nat) (obs : EccObs)
  | writePkt (tag n : Nat) (mask : BitVec 128)
  | evict (tag n : Nat) (mask : BitVec 128) (trig loc : Nat) (obs : EccObs)
  | atomPkt (tag n : Nat) (el : Option Nat)
  | sram (op el loc word : Nat) (obs : EccObs)
  | code (a : Agent) (loc word : Nat) (obs : EccObs)
  | reg (u n lane : Nat) (scalar : Bool) (obs : EccObs)
  | cxl (n : Nat) (granules : BitVec 4)
  | die (stack ddie : Nat)
  | bytes (addr : Nat) (data : List Byte)
  | pkt (port : Nat) (f : EtherFrame)
  | job (ctx : Nat) (desc : JobDesc)
  | obj (ctx : Nat) (img : ObjImage)
  | mb (ctx : Option Nat)
  | handler (words : List Word)
  | attest (mapped : Bool) (nonce : List Byte)
  | fw (img : FwImage)
  | bringUp (rep : BringUp)
  | hostw (off : Nat) (v : Word)
  | onOff (b : Bool)
deriving DecidableEq, Repr, Inhabited

/-- One constructor for each row of spec/opcode_table.json: the instructions that have fields first, then those that have none (KILL, BAR,
YLD, GSW, RTE, SFDRN, CEND, MEND: every field of their words is reserved and zero, R106), then the steps of the machine, each in the
table's order. NOP has three constructors, one for each setting of its bits [13:12] that R14 permits: the compiler of Lean limits how many
constructors may have fields. -/
inductive Instr where
  /-- SMOV, opcode 0x001, format V (R139). -/
  | smov (f : VForm)
  /-- SADD, opcode 0x002, format V (R139). -/
  | sadd (f : VForm)
  /-- SSUB, opcode 0x003, format V (R139). -/
  | ssub (f : VForm)
  /-- SMUL, opcode 0x004, format V (R139). -/
  | smul (f : VForm)
  /-- SMULH, opcode 0x005, format V (R139). -/
  | smulh (f : VForm)
  /-- SDIV, opcode 0x006, format V (R140). -/
  | sdiv (f : VForm)
  /-- SREM, opcode 0x007, format V (R140). -/
  | srem (f : VForm)
  /-- SAND, opcode 0x008, format V (R139). -/
  | sand (f : VForm)
  /-- SOR, opcode 0x009, format V (R139). -/
  | sor (f : VForm)
  /-- SXOR, opcode 0x00A, format V (R139). -/
  | sxor (f : VForm)
  /-- SNOT, opcode 0x00B, format V (R139). -/
  | snot (f : VForm)
  /-- SSHL, opcode 0x00C, format V (R141). -/
  | sshl (f : VForm)
  /-- SSHR, opcode 0x00D, format V (R141). -/
  | sshr (f : VForm)
  /-- SSAR, opcode 0x00E, format V (R141). -/
  | ssar (f : VForm)
  /-- SROT, opcode 0x00F, format V (R141). -/
  | srot (f : VForm)
  /-- SCMP, opcode 0x010, format V (R144). -/
  | scmp (f : VForm)
  /-- SSEL, opcode 0x011, format V (R145). -/
  | ssel (f : VForm)
  /-- SMIN, opcode 0x012, format V (R139). -/
  | smin (f : VForm)
  /-- SMAX, opcode 0x013, format V (R139). -/
  | smax (f : VForm)
  /-- SCLZ, opcode 0x014, format V (R142). -/
  | sclz (f : VForm)
  /-- SPOP, opcode 0x015, format V (R142). -/
  | spop (f : VForm)
  /-- SLEA, opcode 0x016, format V (R146). -/
  | slea (f : VForm)
  /-- SMOVI, opcode 0x041, format I (R111). -/
  | smovi (f : IForm)
  /-- SADD_IMM, opcode 0x042, format I (R111). -/
  | saddImm (f : IForm)
  /-- SSUB_IMM, opcode 0x043, format I (R111). -/
  | ssubImm (f : IForm)
  /-- SMUL_IMM, opcode 0x044, format I (R111). -/
  | smulImm (f : IForm)
  /-- SAND_IMM, opcode 0x048, format I (R111). -/
  | sandImm (f : IForm)
  /-- SOR_IMM, opcode 0x049, format I (R111). -/
  | sorImm (f : IForm)
  /-- SXOR_IMM, opcode 0x04A, format I (R111). -/
  | sxorImm (f : IForm)
  /-- SSHL_IMM, opcode 0x04C, format I (R111). -/
  | sshlImm (f : IForm)
  /-- SSHR_IMM, opcode 0x04D, format I (R111). -/
  | sshrImm (f : IForm)
  /-- SSAR_IMM, opcode 0x04E, format I (R111). -/
  | ssarImm (f : IForm)
  /-- SROT_IMM, opcode 0x04F, format I (R111). -/
  | srotImm (f : IForm)
  /-- SMIN_IMM, opcode 0x052, format I (R111). -/
  | sminImm (f : IForm)
  /-- SMAX_IMM, opcode 0x053, format I (R111). -/
  | smaxImm (f : IForm)
  /-- SLEA_IMM, opcode 0x056, format I (R146). -/
  | sleaImm (f : IForm)
  /-- VMOV, opcode 0x080, format V (R139). -/
  | vmov (f : VForm)
  /-- VADD, opcode 0x081, format V (R139). -/
  | vadd (f : VForm)
  /-- VSUB, opcode 0x082, format V (R139). -/
  | vsub (f : VForm)
  /-- VMUL, opcode 0x083, format V (R139). -/
  | vmul (f : VForm)
  /-- VMULH, opcode 0x084, format V (R139). -/
  | vmulh (f : VForm)
  /-- VMAD, opcode 0x085, format V (R139). -/
  | vmad (f : VForm)
  /-- VDIV, opcode 0x086, format V (R140). -/
  | vdiv (f : VForm)
  /-- VREM, opcode 0x087, format V (R140). -/
  | vrem (f : VForm)
  /-- VAND, opcode 0x088, format V (R139). -/
  | vand (f : VForm)
  /-- VOR, opcode 0x089, format V (R139). -/
  | vor (f : VForm)
  /-- VXOR, opcode 0x08A, format V (R139). -/
  | vxor (f : VForm)
  /-- VNOT, opcode 0x08B, format V (R139). -/
  | vnot (f : VForm)
  /-- VSHL, opcode 0x08C, format V (R141). -/
  | vshl (f : VForm)
  /-- VSHR, opcode 0x08D, format V (R141). -/
  | vshr (f : VForm)
  /-- VSAR, opcode 0x08E, format V (R141). -/
  | vsar (f : VForm)
  /-- VROT, opcode 0x08F, format V (R141). -/
  | vrot (f : VForm)
  /-- VCMP, opcode 0x090, format V (R144). -/
  | vcmp (f : VForm)
  /-- VSEL, opcode 0x091, format V (R145). -/
  | vsel (f : VForm)
  /-- VMIN, opcode 0x092, format V (R139). -/
  | vmin (f : VForm)
  /-- VMAX, opcode 0x093, format V (R139). -/
  | vmax (f : VForm)
  /-- VABS, opcode 0x094, format V (R139). -/
  | vabs (f : VForm)
  /-- VNEG, opcode 0x095, format V (R139). -/
  | vneg (f : VForm)
  /-- VCLZ, opcode 0x096, format V (R142). -/
  | vclz (f : VForm)
  /-- VPOP, opcode 0x097, format V (R142). -/
  | vpop (f : VForm)
  /-- VBREV, opcode 0x098, format V (R142). -/
  | vbrev (f : VForm)
  /-- VBFE, opcode 0x099, format V (R143). -/
  | vbfe (f : VForm)
  /-- VBFI, opcode 0x09A, format V (R143). -/
  | vbfi (f : VForm)
  /-- VLEA, opcode 0x09B, format V (R146). -/
  | vlea (f : VForm)
  /-- VIDX, opcode 0x09C, format V (R147). -/
  | vidx (f : VForm)
  /-- VSPLAT, opcode 0x09D, format V (R147). -/
  | vsplat (f : VForm)
  /-- VEXT, opcode 0x09E, format V (R147). -/
  | vext (f : VForm)
  /-- VCVTI, opcode 0x09F, format V (R148). -/
  | vcvti (f : VForm)
  /-- SPK24, opcode 0x0A0, format V (R149). -/
  | spk24 (f : VForm)
  /-- VMOVI, opcode 0x0C0, format I (R111). -/
  | vmovi (f : IForm)
  /-- VADD_IMM, opcode 0x0C1, format I (R111). -/
  | vaddImm (f : IForm)
  /-- VSUB_IMM, opcode 0x0C2, format I (R111). -/
  | vsubImm (f : IForm)
  /-- VMUL_IMM, opcode 0x0C3, format I (R111). -/
  | vmulImm (f : IForm)
  /-- VAND_IMM, opcode 0x0C8, format I (R111). -/
  | vandImm (f : IForm)
  /-- VOR_IMM, opcode 0x0C9, format I (R111). -/
  | vorImm (f : IForm)
  /-- VXOR_IMM, opcode 0x0CA, format I (R111). -/
  | vxorImm (f : IForm)
  /-- VSHL_IMM, opcode 0x0CC, format I (R111). -/
  | vshlImm (f : IForm)
  /-- VSHR_IMM, opcode 0x0CD, format I (R111). -/
  | vshrImm (f : IForm)
  /-- VSAR_IMM, opcode 0x0CE, format I (R111). -/
  | vsarImm (f : IForm)
  /-- VROT_IMM, opcode 0x0CF, format I (R111). -/
  | vrotImm (f : IForm)
  /-- VMIN_IMM, opcode 0x0D2, format I (R111). -/
  | vminImm (f : IForm)
  /-- VMAX_IMM, opcode 0x0D3, format I (R111). -/
  | vmaxImm (f : IForm)
  /-- VLEA_IMM, opcode 0x0DB, format I (R146). -/
  | vleaImm (f : IForm)
  /-- FADD, opcode 0x100, format V (R174). -/
  | fadd (f : VForm)
  /-- FSUB, opcode 0x101, format V (R174). -/
  | fsub (f : VForm)
  /-- FMUL, opcode 0x102, format V (R174). -/
  | fmul (f : VForm)
  /-- FFMA, opcode 0x103, format V (R174). -/
  | ffma (f : VForm)
  /-- FMIN, opcode 0x104, format V (R177). -/
  | fmin (f : VForm)
  /-- FMAX, opcode 0x105, format V (R177). -/
  | fmax (f : VForm)
  /-- FMAXI, opcode 0x106, format V (R180). -/
  | fmaxi (f : VForm)
  /-- FMINI, opcode 0x107, format V (R180). -/
  | fmini (f : VForm)
  /-- FABS, opcode 0x108, format V (R178). -/
  | fabs (f : VForm)
  /-- FNEG, opcode 0x109, format V (R178). -/
  | fneg (f : VForm)
  /-- FCMP, opcode 0x10A, format V (R179). -/
  | fcmp (f : VForm)
  /-- FCLASS, opcode 0x10B, format V (R181). -/
  | fclass (f : VForm)
  /-- FDIV, opcode 0x10C, format V (R174). -/
  | fdiv (f : VForm)
  /-- FSQRT, opcode 0x10D, format V (R174). -/
  | fsqrt (f : VForm)
  /-- FRND, opcode 0x10E, format V (R176). -/
  | frnd (f : VForm)
  /-- FSCL, opcode 0x10F, format V (R175). -/
  | fscl (f : VForm)
  /-- FDOT2, opcode 0x110, format V (R175). -/
  | fdot2 (f : VForm)
  /-- FCVT, opcode 0x111, format V (R182). -/
  | fcvt (f : VForm)
  /-- FCVTI, opcode 0x112, format V (R183). -/
  | fcvti (f : VForm)
  /-- ICVTF, opcode 0x113, format V (R184). -/
  | icvtf (f : VForm)
  /-- FADD_IMM, opcode 0x140, format I (R111). -/
  | faddImm (f : IForm)
  /-- FSUB_IMM, opcode 0x141, format I (R111). -/
  | fsubImm (f : IForm)
  /-- FMUL_IMM, opcode 0x142, format I (R111). -/
  | fmulImm (f : IForm)
  /-- FMIN_IMM, opcode 0x144, format I (R111). -/
  | fminImm (f : IForm)
  /-- FMAX_IMM, opcode 0x145, format I (R111). -/
  | fmaxImm (f : IForm)
  /-- QSIN, opcode 0x180, format V (R190). -/
  | qsin (f : VForm)
  /-- QCOS, opcode 0x181, format V (R190). -/
  | qcos (f : VForm)
  /-- QSC, opcode 0x182, format V (R190). -/
  | qsc (f : VForm)
  /-- QSINP, opcode 0x183, format V (R190). -/
  | qsinp (f : VForm)
  /-- QCOSP, opcode 0x184, format V (R190). -/
  | qcosp (f : VForm)
  /-- QSCP, opcode 0x185, format V (R387). -/
  | qscp (f : VForm)
  /-- QEX2, opcode 0x186, format V (R190). -/
  | qex2 (f : VForm)
  /-- QLG2, opcode 0x187, format V (R190). -/
  | qlg2 (f : VForm)
  /-- QTNH, opcode 0x188, format V (R190). -/
  | qtnh (f : VForm)
  /-- QRCP, opcode 0x189, format V (R190). -/
  | qrcp (f : VForm)
  /-- QRSQ, opcode 0x18A, format V (R190). -/
  | qrsq (f : VForm)
  /-- NCVT, opcode 0x190, format V (R186). -/
  | ncvt (f : VForm)
  /-- RNENC, opcode 0x191, format V (R187). -/
  | rnenc (f : VForm)
  /-- RNDEC, opcode 0x192, format V (R187). -/
  | rndec (f : VForm)
  /-- RNADD, opcode 0x193, format V (R188). -/
  | rnadd (f : VForm)
  /-- RNMUL, opcode 0x194, format V (R188). -/
  | rnmul (f : VForm)
  /-- RNG, opcode 0x198, format V (R189). -/
  | rng (f : VForm)
  /-- LD, opcode 0x1C0, format M (R216). -/
  | ld (f : MForm)
  /-- ST, opcode 0x1C1, format M (R216). -/
  | st (f : MForm)
  /-- LDS, opcode 0x1C2, format M (R217). -/
  | lds (f : MForm)
  /-- STS, opcode 0x1C3, format M (R217). -/
  | sts (f : MForm)
  /-- LDC, opcode 0x1C4, format M (R216). -/
  | ldc (f : MForm)
  /-- LDSP, opcode 0x1C5, format M (R213). -/
  | ldsp (f : MForm)
  /-- STSP, opcode 0x1C6, format M (R213). -/
  | stsp (f : MForm)
  /-- PREF, opcode 0x1CC, format M (R218). -/
  | pref (f : MForm)
  /-- CLNV, opcode 0x1CD, format M (R224). -/
  | clnv (f : MForm)
  /-- ATOM_ADD, opcode 0x1E0, format M (R219). -/
  | atomAdd (f : MForm)
  /-- ATOM_SUB, opcode 0x1E1, format M (R219). -/
  | atomSub (f : MForm)
  /-- ATOM_MIN, opcode 0x1E2, format M (R219). -/
  | atomMin (f : MForm)
  /-- ATOM_MAX, opcode 0x1E3, format M (R219). -/
  | atomMax (f : MForm)
  /-- ATOM_AND, opcode 0x1E4, format M (R219). -/
  | atomAnd (f : MForm)
  /-- ATOM_OR, opcode 0x1E5, format M (R219). -/
  | atomOr (f : MForm)
  /-- ATOM_XOR, opcode 0x1E6, format M (R219). -/
  | atomXor (f : MForm)
  /-- ATOM_XCHG, opcode 0x1E7, format M (R219). -/
  | atomXchg (f : MForm)
  /-- ATOM_CAS, opcode 0x1E8, format M (R220). -/
  | atomCas (f : MForm)
  /-- ATOM_FADD, opcode 0x1E9, format M (R219). -/
  | atomFadd (f : MForm)
  /-- ATOM_MAXI, opcode 0x1EA, format M (R219). -/
  | atomMaxi (f : MForm)
  /-- ATOM_MINI, opcode 0x1EB, format M (R219). -/
  | atomMini (f : MForm)
  /-- ATOMR_ADD, opcode 0x1F0, format M (R223). -/
  | atomrAdd (f : MForm)
  /-- ATOMF_ADD, opcode 0x200, format M (R222). -/
  | atomfAdd (f : MForm)
  /-- ATOMF_SUB, opcode 0x201, format M (R222). -/
  | atomfSub (f : MForm)
  /-- ATOMF_MIN, opcode 0x202, format M (R222). -/
  | atomfMin (f : MForm)
  /-- ATOMF_MAX, opcode 0x203, format M (R222). -/
  | atomfMax (f : MForm)
  /-- ATOMF_AND, opcode 0x204, format M (R222). -/
  | atomfAnd (f : MForm)
  /-- ATOMF_OR, opcode 0x205, format M (R222). -/
  | atomfOr (f : MForm)
  /-- ATOMF_XOR, opcode 0x206, format M (R222). -/
  | atomfXor (f : MForm)
  /-- ATOMF_XCHG, opcode 0x207, format M (R222). -/
  | atomfXchg (f : MForm)
  /-- ATOMF_CAS, opcode 0x208, format M (R222). -/
  | atomfCas (f : MForm)
  /-- ATOMF_FADD, opcode 0x209, format M (R222). -/
  | atomfFadd (f : MForm)
  /-- ATOMF_MAXI, opcode 0x20A, format M (R274). -/
  | atomfMaxi (f : MForm)
  /-- ATOMF_MINI, opcode 0x20B, format M (R274). -/
  | atomfMini (f : MForm)
  /-- FENCE, opcode 0x1D0, format V (R325). -/
  | fence (f : VForm)
  /-- FENCES, opcode 0x1D1, format V (R327). -/
  | fences (f : VForm)
  /-- FENCEX, opcode 0x1D2, format V (R325). -/
  | fencex (f : VForm)
  /-- XLANE, opcode 0x240, format X (R232). -/
  | xlane (f : XForm)
  /-- XSHUF, opcode 0x241, format X (R233). -/
  | xshuf (f : XForm)
  /-- XRED, opcode 0x242, format X (R235). -/
  | xred (f : XForm)
  /-- XSCAN, opcode 0x243, format X (R236). -/
  | xscan (f : XForm)
  /-- XCOL, opcode 0x244, format X (R239). -/
  | xcol (f : XForm)
  /-- XVOTE, opcode 0x245, format X (R237). -/
  | xvote (f : XForm)
  /-- GEN, opcode 0x280, format B (R249). -/
  | gen (f : BForm)
  /-- YIELD, opcode 0x281, format V (R250). -/
  | yield (f : VForm)
  /-- GDONE, opcode 0x282, format V (R251). -/
  | gdone (f : VForm)
  /-- GCON, opcode 0x283, format B (R255). -/
  | gcon (f : BForm)
  /-- GFR, opcode 0x285, format V (R254). -/
  | gfr (f : VForm)
  /-- GFR_INFO, opcode 0x285, format V (R254). -/
  | gfrInfo (f : VForm)
  /-- GBAR, opcode 0x290, format V (R265). -/
  | gbar (f : VForm)
  /-- GPOST, opcode 0x291, format V (R262). -/
  | gpost (f : VForm)
  /-- GPOST_WD, opcode 0x291, format V (R262). -/
  | gpostWd (f : VForm)
  /-- GQRY, opcode 0x292, format V (R266). -/
  | gqry (f : VForm)
  /-- LDG_ADD, opcode 0x2A0, format M (R269). -/
  | ldgAdd (f : MForm)
  /-- LDG_MIN, opcode 0x2A1, format M (R269). -/
  | ldgMin (f : MForm)
  /-- LDG_MAX, opcode 0x2A2, format M (R269). -/
  | ldgMax (f : MForm)
  /-- LDG_AND, opcode 0x2A3, format M (R269). -/
  | ldgAnd (f : MForm)
  /-- LDG_OR, opcode 0x2A4, format M (R269). -/
  | ldgOr (f : MForm)
  /-- LDG_XOR, opcode 0x2A5, format M (R269). -/
  | ldgXor (f : MForm)
  /-- LDG_FADD, opcode 0x2A6, format M (R269). -/
  | ldgFadd (f : MForm)
  /-- LDG_FMIN, opcode 0x2A7, format M (R269). -/
  | ldgFmin (f : MForm)
  /-- LDG_FMAX, opcode 0x2A8, format M (R269). -/
  | ldgFmax (f : MForm)
  /-- LDG_MAXI, opcode 0x2A9, format M (R269). -/
  | ldgMaxi (f : MForm)
  /-- LDG_MINI, opcode 0x2AA, format M (R269). -/
  | ldgMini (f : MForm)
  /-- BRA, opcode 0x2C0, format B (R120). -/
  | bra (f : BForm)
  /-- BRAC, opcode 0x2C1, format B (R121). -/
  | brac (f : BForm)
  /-- BRAV, opcode 0x2C2, format B (R120). -/
  | brav (f : BForm)
  /-- CALL, opcode 0x2C3, format B (R120). -/
  | call (f : BForm)
  /-- CALL_REG, opcode 0x2C3, format B (R120). -/
  | callReg (f : BForm)
  /-- RET, opcode 0x2C4, format B (R120). -/
  | ret (f : BForm)
  /-- EXIT, opcode 0x2C5, format B (R122). -/
  | exit (f : BForm)
  /-- FORK_COPY, opcode 0x2C7, format B (R130). -/
  | forkCopy (f : BForm)
  /-- FORK_MATRIX, opcode 0x2C7, format B (R78). -/
  | forkMatrix (f : BForm)
  /-- FORK_REG, opcode 0x2C7, format B (R130). -/
  | forkReg (f : BForm)
  /-- WAITK, opcode 0x2C9, format V (R128). -/
  | waitk (f : VForm)
  /-- SETK, opcode 0x2CA, format V (R128). -/
  | setk (f : VForm)
  /-- CLRK, opcode 0x2CB, format V (R128). -/
  | clrk (f : VForm)
  /-- ITER, opcode 0x2CE, format V (R132). -/
  | iter (f : VForm)
  /-- RDV, opcode 0x2CF, format V (R131). -/
  | rdv (f : VForm)
  /-- LNCH, opcode 0x2D0, format V (R134). -/
  | lnch (f : VForm)
  /-- CNTW, opcode 0x2D1, format V (R135). -/
  | cntw (f : VForm)
  /-- CNTW_QUERY, opcode 0x2D1, format V (R135). -/
  | cntwQuery (f : VForm)
  /-- CANCEL, opcode 0x2D2, format V (R136). -/
  | cancel (f : VForm)
  /-- CPY, opcode 0x300, format E (R283). -/
  | cpy (f : CForm)
  /-- CPYM, opcode 0x301, format E (R285). -/
  | cpym (f : CForm)
  /-- CPYF, opcode 0x302, format E (R283). -/
  | cpyf (f : CForm)
  /-- CPYG, opcode 0x303, format E (R283). -/
  | cpyg (f : CForm)
  /-- CPYS, opcode 0x304, format E (R283). -/
  | cpys (f : CForm)
  /-- CSIG, opcode 0x308, format E (R290). -/
  | csig (f : KForm)
  /-- CWAIT, opcode 0x309, format E (R290). -/
  | cwait (f : KForm)
  /-- CFENCE, opcode 0x30A, format E (R290). -/
  | cfence (f : KForm)
  /-- CMX, opcode 0x30B, format E (R287). -/
  | cmx (f : KForm)
  /-- MLDN, opcode 0x340, format E (R303). -/
  | mldn (f : GForm)
  /-- MLDW, opcode 0x341, format E (R303). -/
  | mldw (f : GForm)
  /-- MMA, opcode 0x342, format E (R304). -/
  | mma (f : GForm)
  /-- MMAS, opcode 0x343, format E (R299). -/
  | mmas (f : GForm)
  /-- MCLR, opcode 0x344, format E (R303). -/
  | mclr (f : GForm)
  /-- MDRN, opcode 0x345, format E (R305). -/
  | mdrn (f : GForm)
  /-- MSIG, opcode 0x348, format E (R307). -/
  | msig (f : GForm)
  /-- TRAP, opcode 0x380, format I (R358). -/
  | trap (f : IForm)
  /-- CSRR, opcode 0x382, format I (R357). -/
  | csrr (f : IForm)
  /-- CSRW, opcode 0x383, format I (R357). -/
  | csrw (f : IForm)
  /-- CSRW_FSTAT, opcode 0x383, format I (R88). -/
  | csrwFstat (f : IForm)
  /-- CSRW_FCTL, opcode 0x383, format I (R89). -/
  | csrwFctl (f : IForm)
  /-- CSRW_ELOG_INFO, opcode 0x383, format I (R92). -/
  | csrwElogInfo (f : IForm)
  /-- CSRW_TRAP_CAUSE, opcode 0x383, format I (R355). -/
  | csrwTrapCause (f : IForm)
  /-- QFEAT, opcode 0x384, format I (R365). -/
  | qfeat (f : IForm)
  /-- QPHYS, opcode 0x385, format I (R365). -/
  | qphys (f : IForm)
  /-- MAPFT, opcode 0x388, format V (R372). -/
  | mapft (f : VForm)
  /-- CATLD, opcode 0x389, format V (R378). -/
  | catld (f : VForm)
  /-- CATSET_ACCESS, opcode 0x38A, format V (R377). -/
  | catsetAccess (f : VForm)
  /-- CATSET_BOUND, opcode 0x38A, format V (R377). -/
  | catsetBound (f : VForm)
  /-- CATSET_HWM, opcode 0x38A, format V (R374). -/
  | catsetHwm (f : VForm)
  /-- CATSET_PG, opcode 0x38A, format V (R375). -/
  | catsetPg (f : VForm)
  /-- CATSNAP, opcode 0x38B, format V (R379). -/
  | catsnap (f : VForm)
  /-- CATSNAP_REL, opcode 0x38B, format V (R379). -/
  | catsnapRel (f : VForm)
  /-- CTXSV, opcode 0x38C, format V (R361). -/
  | ctxsv (f : VForm)
  /-- CTXLD, opcode 0x38D, format V (R361). -/
  | ctxld (f : VForm)
  /-- WFI, opcode 0x38F, format V (R360). -/
  | wfi (f : VForm)
  /-- GSW, opcode 0x284, format V (R252). -/
  | gsw
  /-- KILL, opcode 0x2C6, format B (R122). -/
  | kill
  /-- BAR, opcode 0x2C8, format V (R126). -/
  | bar
  /-- NOP, opcode 0x2CC, format V (R129). -/
  | nop
  /-- NOP with set enable, flag select 0. -/
  | nopSet0
  /-- NOP with set enable, flag select 1. -/
  | nopSet1
  /-- YLD, opcode 0x2CD, format V (R129). -/
  | yld
  /-- CEND, opcode 0x30F, format E (R277). -/
  | cend
  /-- MEND, opcode 0x34F, format E (R307). -/
  | mend
  /-- RTE, opcode 0x381, format V (R356). -/
  | rte
  /-- SFDRN, opcode 0x38E, format V (R359). -/
  | sfdrn
  /-- The step CLAUSE_START (R97). -/
  | clauseStart
  /-- The step WRITE_PERFORMED (R77). -/
  | writePerformed
  /-- The step SF_QUEUE_WRITE (R193). -/
  | sfQueueWrite
  /-- The step STALL_THRESHOLD (R57). -/
  | stallThreshold
  /-- The step TEAM_EXCHANGE (R59). -/
  | teamExchange
  /-- The step TIME_SLICE_EXPIRY (R60). -/
  | timeSliceExpiry
  /-- The step TEAM_RETIRE (R58). -/
  | teamRetire
  /-- The step WORKGROUP_RETIRE (R66). -/
  | workgroupRetire
  /-- The step COUNTER_DECREMENT (R402). -/
  | counterDecrement
  /-- The step UNIT_BEGIN (R395). -/
  | unitBegin
  /-- The step RECORD_LAUNCH (R392). -/
  | recordLaunch
  /-- The step RECORD_NEW_GRAPH (R392). -/
  | recordNewGraph
  /-- The step RECORD_NEW_PHASE (R392). -/
  | recordNewPhase
  /-- The step RECORD_QUERY (R392). -/
  | recordQuery
  /-- The step CANCEL_REQUEST (R402). -/
  | cancelRequest
  /-- The step CNCL_DELIVERY (R402). -/
  | cnclDelivery
  /-- The step CURATOR_BIND (R399). -/
  | curatorBind
  /-- The step DISPATCH (R400). -/
  | dispatch
  /-- The step PREEMPT (R65). -/
  | preempt
  /-- The step TRAP_ENTRY (R350). -/
  | trapEntry
  /-- The step CONTEXT_SAVE (R363). -/
  | contextSave
  /-- The step RESTORE (R364). -/
  | restore
  /-- The step BAR_OPEN (R126). -/
  | barOpen
  /-- The step GPOST_TAKES_EFFECT (R264). -/
  | gpostTakesEffect
  /-- The step GBAR_COMPLETE (R265). -/
  | gbarComplete
  /-- The step XCOL_COMPLETE (R239). -/
  | xcolComplete
  /-- The step WAITK_COMPLETE (R128). -/
  | waitkComplete
  /-- The step WFI_WAKE (R360). -/
  | wfiWake
  /-- The step RDV_COMPLETE (R289). -/
  | rdvComplete
  /-- The step PENDING_FORK_START (R130). -/
  | pendingForkStart
  /-- The step ITER_ANSWER (R401). -/
  | iterAnswer
  /-- The step STREAM_END (R277). -/
  | streamEnd
  /-- The step FIFO_BYTES_LAND (R284). -/
  | fifoBytesLand
  /-- The step FOLLOW_ON_TRIGGER (R288). -/
  | followOnTrigger
  /-- The step FOLLOW_ON_EXECUTE (R311). -/
  | followOnExecute
  /-- The step CPYM_REQUEST_ARRIVAL (R285). -/
  | cpymRequestArrival
  /-- The step CPYM_SECTOR_READ (R285). -/
  | cpymSectorRead
  /-- The step MM_ISSUE (R314). -/
  | mmIssue
  /-- The step MM_PERFORM (R314). -/
  | mmPerform
  /-- The step MM_EXPORT (R314). -/
  | mmExport
  /-- The step MM_TRANSFER (R314). -/
  | mmTransfer
  /-- The step MM_APPLY (R321). -/
  | mmApply
  /-- The step FENCE_COMPLETE (R325). -/
  | fenceComplete
  /-- The step SPECULATION_CONFLICT (R328). -/
  | speculationConflict
  /-- The step REGISTRAR_RELEASE (R336). -/
  | registrarRelease
  /-- The step LOAN_LEND (R207). -/
  | loanLend
  /-- The step LOAN_RECLAIM_COMPLETE (R207). -/
  | loanReclaimComplete
  /-- The step FAR_FIRST_TOUCH_MAP (R370). -/
  | farFirstTouchMap
  /-- The step COPY_ON_WRITE (R381). -/
  | copyOnWrite
  /-- The step PAGE_MIGRATION (R382). -/
  | pageMigration
  /-- The step PAGE_DUPLICATION (R382). -/
  | pageDuplication
  /-- The step LIVE_MIGRATION (R384). -/
  | liveMigration
  /-- The step POOL_REFILL (R405). -/
  | poolRefill
  /-- The step READ_PACKET (R406). -/
  | readPacket
  /-- The step WRITE_PACKET (R406). -/
  | writePacket
  /-- The step ATOMIC_PACKET (R406). -/
  | atomicPacket
  /-- The step SCRUB_GRANULE (R411). -/
  | scrubGranule
  /-- The step ERROR_RECORD_MERGE_FLUSH (R413). -/
  | errorRecordMergeFlush
  /-- The step REGISTER_UNCORRECTABLE (R410). -/
  | registerUncorrectable
  /-- The step DRAM_DIE_REMOVAL (R414). -/
  | dramDieRemoval
  /-- The step CORE_FAILURE (R415). -/
  | coreFailure
  /-- The step DMA_WRITE (R418). -/
  | dmaWrite
  /-- The step DMA_READ (R418). -/
  | dmaRead
  /-- The step CXL_POISON_REPORT (R422). -/
  | cxlPoisonReport
  /-- The step CXL_HOT_REMOVE (R422). -/
  | cxlHotRemove
  /-- The step SCALEOUT_FRAME_RECEIVE (R423). -/
  | scaleoutFrameReceive
  /-- The step PORT_FAILURE (R424). -/
  | portFailure
  /-- The step DELIVERY_TIMEOUT (R424). -/
  | deliveryTimeout
  /-- The step START_JOB (R404). -/
  | startJob
  /-- The step MB_CANCEL (R403). -/
  | mbCancel
  /-- The step MB_STATUS (R403). -/
  | mbStatus
  /-- The step CREATE_OBJECT (R403). -/
  | createObject
  /-- The step DELETE_OBJECT (R403). -/
  | deleteObject
  /-- The step MAILBOX_OVERRUN (R403). -/
  | mailboxOverrun
  /-- The step SET_PARTITIONS (R416). -/
  | setPartitions
  /-- The step SET_INSTALLATION_ENTRY (R420). -/
  | setInstallationEntry
  /-- The step CREATE_CONTEXT (R420). -/
  | createContext
  /-- The step DESTROY_CONTEXT (R420). -/
  | destroyContext
  /-- The step ATTEST (R429). -/
  | attest
  /-- The step STAGE_FIRMWARE (R427). -/
  | stageFirmware
  /-- The step SET_POWER_LIMIT (R420). -/
  | setPowerLimit
  /-- The step HOST_REGISTER_WRITE (R419). -/
  | hostRegisterWrite
  /-- The step POWER_GOOD (R425). -/
  | powerGood
  /-- The step STAGE0_COMPLETE (R425). -/
  | stage0Complete
  /-- The step STAGE1_COMPLETE (R425). -/
  | stage1Complete
  /-- The step CRITICAL_TEMPERATURE (R425). -/
  | criticalTemperature
  /-- The step DEVICE_RESET (R425). -/
  | deviceReset
  /-- The step MATRIX_COMMAND_COMPLETE (R308). -/
  | matrixCommandComplete
  /-- The step POWER_OR_THERMAL_LIMITING (R421). -/
  | powerOrThermalLimiting
deriving DecidableEq, Repr, Inhabited

/-- The next turn of the machine: an agent issues the word at its slot, or a step of the machine is taken on what its argument names. -/
inductive Turn where
  | issue (a : Agent)
  | ev (i : Instr) (arg : EvArg)
deriving DecidableEq, Repr, Inhabited

end Sys2Proof
end

