-- ==== Sys2Proof/Machine/Fields.lean ====
section
/-!
DEFINITION. What each instruction's description says of its fields: the class of clause that may hold it (R108), its privilege (R348),
whether it must stand last in its clause (R98, R239, R247, R356, R360), which field values its word may have (R14, R16, R106, R119,
R124, R137, R171, R215, R229, R247, R263, R279, R290, R300, R302, R324, R357, R376), and which registers it names (R15).
-/

namespace Sys2Proof

/-- Width of a type in bits (R107). -/
def Ty.width (x : Ty) : Nat :=
  match x with
  | .i8 | .n8 | .e4m3 | .e5m2 | .rq8 => 8
  | .i16 | .n16 | .f16 | .bf16 => 16
  | .i32 | .n32 | .f32 => 32
  | .i64 | .n64 | .f64 => 64
  | .rn24 => 24

/-- The M-format access width of a type in bytes (R107). -/
def Ty.bytes (x : Ty) : Nat :=
  match x with
  | .rn24 => 4
  | t => t.width / 8

/-- The integer types 0x0 to 0x7 (R107). -/
def Ty.isInt (x : Ty) : Bool :=
  match x with
  | .i8 | .i16 | .i32 | .i64 | .n8 | .n16 | .n32 | .n64 => true
  | _ => false

/-- The signed integer types. -/
def Ty.isSigned (x : Ty) : Bool :=
  match x with
  | .i8 | .i16 | .i32 | .i64 => true
  | _ => false

/-- The float types f16, bf16, f32, f64 that the float instructions take (R171). -/
def Ty.isFloat (x : Ty) : Bool :=
  match x with
  | .f16 | .bf16 | .f32 | .f64 => true
  | _ => false

/-- A 64-bit type, which names pairs (R15). -/
def Ty.wide (t : Ty) : Bool :=
  t.width == 64

/-- The code of a type (R107). -/
def Ty.code (x : Ty) : BitVec 4 :=
  match x with
  | .i8 => 0 | .i16 => 1 | .i32 => 2 | .i64 => 3 | .n8 => 4 | .n16 => 5 | .n32 => 6 | .n64 => 7
  | .f16 => 8 | .bf16 => 9 | .f32 => 10 | .f64 => 11 | .e4m3 => 12 | .e5m2 => 13 | .rq8 => 14 | .rn24 => 15

/-- The type of a code (R107). -/
def Ty.ofCode (c : BitVec 4) : Ty :=
  match c.toNat with
  | 0 => .i8 | 1 => .i16 | 2 => .i32 | 3 => .i64 | 4 => .n8 | 5 => .n16 | 6 => .n32 | 7 => .n64
  | 8 => .f16 | 9 => .bf16 | 10 => .f32 | 11 => .f64 | 12 => .e4m3 | 13 => .e5m2 | 14 => .rq8 | _ => .rn24

/-- The code of a rounding mode (R105). -/
def RMode.code : RMode → BitVec 2
  | .rn => 0 | .rz => 1 | .rd => 2 | .ru => 3

/-- The rounding mode of a code (R105). -/
def RMode.ofCode (c : BitVec 2) : RMode :=
  match c.toNat with
  | 0 => .rn | 1 => .rz | 2 => .rd | _ => .ru

/-- A register an instruction names: vector, scalar or mask; read (`s`) or written (`d`). -/
inductive Use where
  | vs (n : Nat) | vd (n : Nat) | ss (n : Nat) | sd (n : Nat) | ms (n : Nat) | md (n : Nat)
deriving DecidableEq, Repr, Inhabited

/-- The class of clause that may hold an instruction (R108); `step` marks the rows that no word encodes. -/
inductive Cls where
  | team | copy | matrix | step
deriving DecidableEq, Repr, Inhabited

/-- What the spec says of an instruction's fields. `ok` is the outcome of the checks that depend on the word alone. -/
structure Rule where
  cls : Cls := .team
  priv : Bool := false
  last : Bool := false
  ok : Bool := true
  uses : List Use := []
deriving DecidableEq, Repr, Inhabited

namespace Fields

/-- A field that holds a scalar index: bit [7] is 0 (R15). -/
def scal (n : BitVec 8) : Bool :=
  decide (n.toNat < 128)

/-- A field that names a register or, for a 64-bit type, a pair by its even index (R15). -/
def pairOk (t : Ty) (n : BitVec 8) : Bool :=
  !t.wide || n.toNat % 2 == 0

/-- An even index. -/
def even (n : BitVec 8) : Bool :=
  n.toNat % 2 == 0

/-- The vector registers read at type `t` from register `n` (R15). -/
def vsrc (t : Ty) (n : BitVec 8) : List Use :=
  if t.wide then [.vs n.toNat, .vs (n.toNat + 1)] else [.vs n.toNat]

/-- The vector registers written at type `t` from register `n` (R15). -/
def vdst (t : Ty) (n : BitVec 8) : List Use :=
  if t.wide then [.vd n.toNat, .vd (n.toNat + 1)] else [.vd n.toNat]

/-- `k` vector registers read from `n` on. -/
def vsrcs (n : Nat) (k : Nat) : List Use :=
  List.map (fun j => .vs (n + j)) (List.range k)

/-- `k` vector registers written from `n` on. -/
def vdsts (n : Nat) (k : Nat) : List Use :=
  List.map (fun j => .vd (n + j)) (List.range k)

/-- The mask operand as a register read (R18, R77). -/
def mask (m : BitVec 4) : List Use :=
  if (m == 0) then [] else [.ms m.toNat]

/-- Flag select needs set enable (R14). -/
def flagOk (permitted : Bool) (se : Bool) (fs : Bool) : Bool :=
  if permitted then se || !fs else !se && !fs

/-- A mask register as a destination: m1 to m15 (R15, R144, R179). -/
def mdst (n : BitVec 8) : Bool :=
  decide (0 < n.toNat ∧ n.toNat < 16)

/-- The V-format fields that an instruction may leave nonzero (R106): source b, source c, mask, flags, rounding, saturate. -/
def vOk (f : VForm) (b c m : Bool) (fl : Bool) (rnd : Bool) (sat : Bool) : Bool :=
  (b || f.b == 0) && (c || f.c == 0) && (m || f.m == 0) && flagOk fl f.se f.fs && (rnd || f.rnd == .rn) &&
    (sat || !f.sat)

/-- A word of format V that uses no field but [13:12] and the sub-operation (R124, R263, R324). -/
def vBare (f : VForm) (fl : Bool) : Bool :=
  f.ty == .i8 && f.d == 0 && f.a == 0 && vOk f false false false fl false false

/-- A scalar instruction of two sources (R137). -/
def s2 (f : VForm) (sat : Bool) (sub : Bool := f.sub == 0) : Rule :=
  { ok := f.ty.isInt && scal f.d && scal f.a && scal f.b &&
          vOk f true false false true false sat &&
        sub,
    uses := [.ss f.a.toNat, .ss f.b.toNat, .sd f.d.toNat] }

/-- A scalar instruction of one source (R137). -/
def s1 (f : VForm) : Rule :=
  { ok := f.ty.isInt && scal f.d && scal f.a && vOk f false false false true false false && f.sub == 0,
    uses := [.ss f.a.toNat, .sd f.d.toNat] }

/-- A vector instruction of one source (R137, R171). -/
def v1 (f : VForm) (ty : Bool) (rnd : Bool) (sat : Bool) (sub : Bool := f.sub == 0) : Rule :=
  { ok := ty && pairOk f.ty f.d && pairOk f.ty f.a && vOk f false false true true rnd sat && sub,
    uses := vsrc f.ty f.a ++ mask f.m ++ vdst f.ty f.d }

/-- A vector instruction of two sources (R137, R171). -/
def v2 (f : VForm) (ty : Bool) (rnd : Bool) (sat : Bool) (sub : Bool := f.sub == 0) : Rule :=
  { ok := ty && pairOk f.ty f.d && pairOk f.ty f.a && pairOk f.ty f.b &&
          vOk f true false true true rnd sat &&
        sub,
    uses := vsrc f.ty f.a ++ vsrc f.ty f.b ++ mask f.m ++ vdst f.ty f.d }

/-- A vector instruction of three sources (R137, R171). -/
def v3 (f : VForm) (ty : Bool) (rnd : Bool) (sat : Bool) : Rule :=
  { ok := ty && pairOk f.ty f.d && pairOk f.ty f.a && pairOk f.ty f.b && pairOk f.ty f.c &&
          vOk f true true true true rnd sat &&
        f.sub == 0,
    uses :=
      vsrc f.ty f.a ++ vsrc f.ty f.b ++ vsrc f.ty f.c ++ mask f.m ++ vdst f.ty f.d }

/-- The limits of an integer type. -/
def minInt (t : Ty) : Int :=
  if t.isSigned then -↑(2 ^ (t.width - 1)) else 0

/-- The limits of an integer type. -/
def maxInt (t : Ty) : Int :=
  if t.isSigned then ↑(2 ^ (t.width - 1)) - 1 else ↑(2 ^ t.width) - 1

/-- The immediate class is permitted for the type and the value lies in its range (R16); `lea` takes class 0 by the signed type of the
instruction's width (R146). -/
def immOk (f : IForm) (lea : Bool := false) : Bool :=
  match f.cls.toNat with
  | 0 => f.ty.isInt && (lea || decide (minInt f.ty ≤ f.imm.toInt) && decide (f.imm.toInt ≤ maxInt f.ty))
  | 1 => f.ty.isInt && decide (↑f.imm.toNat ≤ maxInt f.ty)
  | 2 => f.ty.isFloat
  | _ => f.ty == .i64 || f.ty == .n64 || f.ty == .f64

/-- A scalar immediate twin (R111). -/
def sImm (f : IForm) (lea : Bool := false) : Rule :=
  { ok := f.ty.isInt && (!lea || f.ty == .n64) && scal f.d && scal f.a && immOk f lea,
    uses := [.ss f.a.toNat, .sd f.d.toNat] }

/-- A vector integer immediate twin (R111). -/
def vImm (f : IForm) (lea : Bool := false) : Rule :=
  { ok := f.ty.isInt && (!lea || f.ty == .n64 || f.ty == .n32) && pairOk f.ty f.d && pairOk f.ty f.a &&
        immOk f lea,
    uses := vsrc f.ty f.a ++ vdst f.ty f.d }

/-- A float immediate twin: class 2, or class 3 for f64 (R171). -/
def fImm (f : IForm) : Rule :=
  { ok := f.ty.isFloat && pairOk f.ty f.d && pairOk f.ty f.a && (f.cls == 2 || f.cls == 3 && f.ty == .f64),
    uses := vsrc f.ty f.a ++ vdst f.ty f.d }

/-- A special-function instruction; `pair` for QSC and QSCP (R171, R172, R190). -/
def qf (f : VForm) (pair : Bool) : Rule :=
  { ok := (f.ty == .f32 || f.ty == .bf16) && (!pair || even f.d) &&
          vOk f false false true true false false &&
        f.sub == 0,
    uses := [.vs f.a.toNat] ++ mask f.m ++ vdsts f.d.toNat (if pair then 2 else 1) }

/-- A conversion between the type field's type D and the source type S of sub-operation [3:0] (R148, R171, R172). -/
def conv (f : VForm) (d : Ty → Bool) (s : Ty → Bool) (rnd : Bool) (sat : Bool) : Rule :=
  let S := Ty.ofCode (BitVec.setWidth 4 f.sub)
  { ok := d f.ty && s S && decide (f.sub.toNat < 16) && pairOk f.ty f.d && pairOk S f.a &&
        vOk f false false true true rnd sat,
    uses := vsrc S f.a ++ mask f.m ++ vdst f.ty f.d }

/-- The address fields of an M-format word (R17): base scalar, and vector offset register when bit [41] is 1. -/
def maddr (f : MForm) : List Use :=
  .ss f.base.toNat :: if f.vo then [.vs f.voff.toNat] else []

/-- Field [33:26] is zero without a vector offset (R17); flags under R14; the hint field where it is reserved. -/
def mOk (f : MForm) (hint : Bool) : Bool :=
  (f.vo || f.voff == 0) && flagOk true f.se f.fs && (hint || f.hint == 0)

/-- A load or store of one element per lane (R215). -/
def mem (f : MForm) (ty : Bool) (load : Bool) : Rule :=
  { ok := ty && pairOk f.ty f.d && mOk f true,
    uses := maddr f ++ mask f.m ++ if load then vdst f.ty f.d else vsrc f.ty f.d }

/-- The group size of LDS and STS (R217); 0 for the code that raises IINS. -/
def groupG (f : MForm) : Nat :=
  match f.hint.toNat with
  | 0 => 1
  | 1 => 2
  | 2 => 4
  | _ => 0

/-- Registers of a group access of LDS and STS (R217). -/
def groupRegs (f : MForm) : Nat :=
  groupG f * if f.ty.wide then 2 else 1

/-- LDS and STS (R215, R217). -/
def spad (f : MForm) (load : Bool) : Rule :=
  { ok := groupG f != 0 && decide (groupG f * f.ty.bytes ≤ 16) &&
          f.d.toNat % max 1 (groupRegs f) == 0 &&
        mOk f true,
    uses :=
      maddr f ++ mask f.m ++
        if load then vdsts f.d.toNat (groupRegs f)
        else vsrcs f.d.toNat (groupRegs f) }

/-- The types of an atomic operation (R219). -/
def atomTy (o : AOp) (t : Ty) : Bool :=
  let i := t == .i32 || t == .n32 || t == .i64 || t == .n64
  match o with
  | AOp.xchg => i || t == .f32 || t == .f64
  | AOp.cas => i || t == .f32 || t == .f64
  | AOp.fadd => t == .f32 || t == .f64
  | AOp.maxi => t == .f32
  | AOp.mini => t == .f32
  | _ => i

/-- 32-bit registers in one value of an atomic access (R220). -/
def atomR (o : AOp) (t : Ty) : Nat :=
  match o with
  | .maxi | .mini => 2
  | _ => if t.wide then 2 else 1

/-- Registers of an atomic's data group: value, and comparand for cas (R220). -/
def atomRegs (o : AOp) (t : Ty) : Nat :=
  if (o == AOp.cas) then 2 * atomR o t else atomR o t

/-- ATOM and ATOMF (R215, R219, R220, R222); `far` names the base as the even scalar of a pair. -/
def atom (f : MForm) (o : AOp) (far : Bool) : Rule :=
  { ok := atomTy o f.ty && f.d.toNat % atomRegs o f.ty == 0 && mOk f false &&
        (!far || f.base.toNat % 2 == 0),
    uses :=
      (maddr f ++ if far then [.ss (f.base.toNat + 1)] else []) ++ mask f.m ++
          vsrcs f.d.toNat (atomRegs o f.ty) ++
        vdsts f.d.toNat (atomR o f.ty) }

/-- LDG (R267). -/
def ldg (f : MForm) (ty : Bool) (pair : Bool) : Rule :=
  { ok := (ty && if pair then even f.d else pairOk f.ty f.d) && mOk f false &&
        f.base.toNat % 2 == 0,
    uses :=
      maddr f ++ [.ss (f.base.toNat + 1)] ++ mask f.m ++
        if pair then vdsts f.d.toNat 2 else vdst f.ty f.d }

/-- The integer types of LDG (R267). -/
def ldgInt (t : Ty) : Bool :=
  t == .i32 || t == .n32 || t == .i64 || t == .n64

/-- The reserved bits [13:11] of a width-relative parameter are zero (R106, R230). -/
def paramOk (p : BitVec 16) : Bool := BitVec.extractLsb' 11 3 p == 0

/-- The P count of a width-relative parameter for a team of `lanes` lanes, or none where R230 raises IINS. -/
def param (colw : Nat) (lanes : Nat) (p : BitVec 16) : Option Nat :=
  let n := (BitVec.extractLsb' 0 11 p).toNat
  let res := (BitVec.extractLsb' 11 3 p).toNat
  if (res != 0) then none
  else
    let v :=
      match (BitVec.extractLsb' 14 2 p).toNat with
      | 0 => some n
      | 1 => some (n * colw)
      | 2 => if n ≤ 4 then some (colw / 2 ^ n) else none
      | _ => if n = 0 then some (2 ^ (if lanes ≤ 1 then 0 else Nat.log2 (lanes - 1) + 1)) else none
    match v with
    | some q => if q ≤ 1024 then some q else none
    | none => none

/-- The types of an XRED or XSCAN operation code (R234). -/
def redTy (code : Nat) (t : Ty) : Bool :=
  if code ≤ 5 then t.isInt
  else if code ≤ 8 then t.isFloat else if code ≤ 10 then t == .f16 || t == .bf16 || t == .f32 else false

/-- XRED and XSCAN (R234). -/
def red (f : XForm) (scan : Bool) : Rule :=
  let code := (BitVec.extractLsb' 0 4 f.pat).toNat
  let pair := code == 9 || code == 10
  { ok := redTy code f.ty && (scan || !f.pat.getLsbD 4) && !f.pat.getLsbD 5 && f.b == 0 && paramOk f.par &&
        if pair then even f.d && even f.a else pairOk f.ty f.d && pairOk f.ty f.a,
    uses :=
      (if pair then vsrcs f.a.toNat 2 else vsrc f.ty f.a) ++ mask f.m ++
        if pair then vdsts f.d.toNat 2 else vdst f.ty f.d }

/-- XLANE, XSHUF and XCOL name a destination and a source, and a second register where `b` says so (R229, R232, R233, R239). -/
def perm (f : XForm) (codes : Nat) (b : Bool) (bWide : Bool) (par : Bool) (fillOk : Bool := true) : Rule :=
  { ok := decide ((BitVec.extractLsb' 0 5 f.pat).toNat < codes) && par && fillOk && pairOk f.ty f.d &&
          pairOk f.ty f.a &&
        if b then !bWide || pairOk f.ty f.b else f.b == 0,
    uses :=
      (vsrc f.ty f.a ++
            if b then if bWide then vsrc f.ty f.b else [.vs f.b.toNat] else []) ++
          mask f.m ++
        vdst f.ty f.d }

/-- A branch-format word whose reserved fields are zero (R119). -/
def bOk (f : BForm) (creg : Bool) (cond : Bool) (m : Bool) (imm : Bool) : Bool :=
  (creg || f.creg == 0) && (cond || f.cond == 0) && (m || f.m == 0) && f.res == 0 && (imm || f.imm == 0)

/-- The vector pair that a branch-format word names in [53:47] (R119). -/
def bPair (f : BForm) (load : Bool) : List Use :=
  if load then vsrcs (2 * f.creg.toNat) 2 else vdsts (2 * f.creg.toNat) 2

/-- The flag set that WAITK, SETK, CLRK and WFI name in [53:42] (R124, R360). -/
def flagSet (f : VForm) : BitVec 12 :=
  f.ty.code ++ f.d

/-- Bytes a FIFO holds (R79). -/
def fifoCap (n : Nat) : Nat :=
  if (n == 2) then 16384 else 32768

/-- The operand of a copy command of a kind: FIFO code with zero above, far index even (R279). -/
def cpOperand (k : BitVec 2) (n : BitVec 7) : Bool :=
  match k.toNat with
  | 2 => decide (n.toNat < 3)
  | 3 => n.toNat % 2 == 0
  | _ => true

/-- The scalars of a copy operand. -/
def cpUses (k : BitVec 2) (n : BitVec 7) : List Use :=
  match k.toNat with
  | 2 => []
  | 3 => [.ss n.toNat, .ss (n.toNat + 1)]
  | _ => [.ss n.toNat]

/-- A data command of the copy engine (R279, R280, R312). -/
def cp (f : CForm) (dk : List Nat) (sk : List Nat) (oneFar : Bool) (idx : Option (BitVec 7)) (cpym : Bool) : Rule :=
  { cls := Cls.copy,
    ok :=
      dk.contains f.dk.toNat && sk.contains f.sk.toNat && cpOperand f.dk f.dop && cpOperand f.sk f.sop &&
              (!oneFar || (f.dk == 3) != (f.sk == 3)) &&
            flagOk true f.se f.fs &&
          (!f.cf || decide (f.cnt.toNat < 128)) &&
        (!cpym || f.cf || f.dk != 2 || decide ((f.cnt.toNat + 1) * f.ty.bytes ≤ fifoCap f.dop.toNat)),
    uses :=
      (cpUses f.dk f.dop ++ cpUses f.sk f.sop ++ if f.cf then [.ss f.cnt.toNat] else []) ++
        match idx with
        | some n => [.ss n.toNat]
        | none => [] }

/-- A scope code 0 to 5 (R290, R319). -/
def scopeOk (n : Nat) : Bool :=
  decide (n ≤ 5)

/-- Tile depth Kt of an element type (R294); 0 for a type outside the table. -/
def kt (x : Ty) : Nat :=
  match x with
  | .f16 | .bf16 => 64
  | .e4m3 | .e5m2 => 128
  | .rq8 => 256
  | .f64 => 16
  | _ => 0

/-- Fields of a matrix command that are zero unless it uses them (R300). -/
def gOk (f : GForm) (ty fl acc fa fm clr sm b c kc mc off : Bool) : Bool :=
  (ty || f.ty == .i8) && flagOk fl f.se f.fs && (acc || f.acc == 0) && (fa || f.fa == 0) &&
                  (fm || f.fm == 0) &&
                (clr || !f.clr) &&
              (sm || f.sm == 0) &&
            (b || f.b == 0) &&
          (c || f.c == 0) &&
        (kc || f.kc == 0) &&
      (mc || f.mc == 0) &&
    (off || f.off == 0)

/-- The accumulator that a multiply may name (R302). -/
def accOk (t : Ty) (acc : BitVec 3) : Bool :=
  if (t == .rq8 || t == .f64) then acc == 4 || acc == 5 else decide (acc.toNat < 4)

/-- MLDN and MLDW (R302). -/
def mld (f : GForm) : Rule :=
  { cls := Cls.matrix,
    ok :=
      gOk f true true false true false false false false false true false false && f.fa == 2 &&
        decide (f.kc.toNat < kt f.ty) }

/-- The combinations that MDRN permits (R305). -/
def mdrnOk (f : GForm) : Bool :=
  if f.acc.toNat < 4 then f.sm == 0 && (f.ty == .f32 || f.ty == .bf16)
  else
    if f.acc.toNat < 6 then
      f.sm == 0 && (f.ty == .i64 || f.ty == .n64 || f.ty == .f64) ||
        f.sm != 3 && (f.ty == .f32 || f.ty == .bf16)
    else false

/-- MDRN (R302, R305). -/
def mdrnRule (f : GForm) : Rule :=
  { cls := Cls.matrix,
    ok :=
      gOk f true true true false false true true true true false false true && mdrnOk f &&
        (f.sm != 0 || f.c == 0),
    uses := .ss f.b.toNat :: if (f.sm == 0) then [] else [.ss f.c.toNat] }

/-- The register number of a CSRR or CSRW (R357). -/
def csrNum (f : IForm) : Nat :=
  (BitVec.extractLsb' 0 12 f.imm).toNat

/-- The number of a supervisor control register (R348, R354): 0x800 to 0xFFF. -/
def csrPriv (f : IForm) : Bool := decide (0x800 ≤ csrNum f)

/-- The number of an assigned control or status register (R15, R82 to R91, R354). -/
def csrAssigned (n : Nat) : Bool :=
  [0x000, 0x001, 0x002, 0x003, 0x004, 0x005, 0x006, 0x010, 0x011, 0x012, 0x013, 0x020, 0x021, 0x100, 0x101, 0x102, 0x110, 0x111, 0x800, 0x801,
    0x802, 0x803, 0x804, 0x810].contains n

/-- CSRR (R15, R81, R357): an assigned register, with a vector destination exactly for ID_LANE and TRAP_LADDR. -/
def csrrRule (f : IForm) : Rule :=
  let n := csrNum f
  let vec := f.imm.getLsbD 12
  { priv := csrPriv f,
    ok := f.ty == .i8 && f.cls == 1 && f.a == 0 && decide (f.imm.toNat < 8192) && csrAssigned n && vec == (n == 0 || n == 2052) &&
        if vec then n != 2052 || even f.d else scal f.d,
    uses :=
      if vec then if (n == 2052) then vdsts f.d.toNat 2 else [.vd f.d.toNat]
      else [.sd f.d.toNat] }

/-- CSRW (R15, R357): an assigned register. -/
def csrwRule (f : IForm) : Rule :=
  { priv := csrPriv f,
    ok := f.ty == .i8 && f.cls == 1 && f.d == 0 && scal f.a && decide (f.imm.toNat < 4096) && csrAssigned (csrNum f),
    uses := [.ss f.a.toNat] }

/-- QFEAT and QPHYS (R365). -/
def query (f : IForm) : Rule :=
  { ok := f.ty == .i8 && f.cls == 1 && f.a == 0 && scal f.d, uses := [.sd f.d.toNat] }

/-- A Catalogue instruction on scalars (R376). -/
def cat (f : VForm) (d : Bool) (b : Bool) (sub : Bool) (priv : Bool) : Rule :=
  { priv := priv,
    ok :=
      ((f.ty == .i8 && if d then scal f.d else f.d == 0) && scal f.a &&
            if b then scal f.b else f.b == 0) &&
          vOk f b false false true false false &&
        sub,
    uses :=
      ([.ss f.a.toNat] ++ if b then [.ss f.b.toNat] else []) ++
        if d then [.sd f.d.toNat] else [] }

end Fields

open Fields

/-- What the spec says of each instruction's fields. -/
def Instr.rule (x : Instr) : Rule :=
  match x with
  | .smov f | .snot f | .sclz f | .spop f => s1 f
  | .sadd f | .ssub f | .smul f | .sdiv f => s2 f true
  | .smulh f | .srem f | .sand f | .sor f | .sxor f | .sshl f | .sshr f | .ssar f | .srot f | .smin f | .smax f => s2 f false
  | .scmp f => s2 f false (decide (f.sub.toNat ≤ 5))
  | .ssel f =>
    { ok := f.ty.isInt && scal f.d && scal f.a && scal f.b && scal f.c &&
            vOk f true true false true false false &&
          f.sub == 0,
      uses := [.ss f.a.toNat, .ss f.b.toNat, .ss f.c.toNat, .sd f.d.toNat] }
  | .slea f =>
    let r := s2 f false (decide (f.sub.toNat < 8))
    { cls := r.cls, priv := r.priv, last := r.last, ok := r.ok && f.ty == .n64, uses := r.uses }
  | .smovi f => { ok := f.ty.isInt && scal f.d && f.a == 0 && immOk f, uses := [.sd f.d.toNat] }
  | .saddImm f | .ssubImm f | .smulImm f | .sandImm f | .sorImm f | .sxorImm f | .sshlImm f | .sshrImm f | .ssarImm f
  | .srotImm f | .sminImm f | .smaxImm f => sImm f
  | .sleaImm f => sImm f true
  | .vmov f | .vnot f | .vclz f | .vpop f | .vbrev f => v1 f f.ty.isInt false false
  | .vabs f | .vneg f => v1 f f.ty.isSigned false true
  | .vadd f | .vsub f | .vmul f | .vdiv f => v2 f f.ty.isInt false true
  | .vmulh f | .vrem f | .vand f
  | .vor f | .vxor f | .vshl f | .vshr f | .vsar f | .vrot f | .vmin f | .vmax f => v2 f f.ty.isInt false false
  | .vmad f => v3 f f.ty.isInt false true
  | .vcmp f =>
    { ok := f.ty.isInt && mdst f.d && pairOk f.ty f.a && pairOk f.ty f.b &&
            vOk f true false true true false false &&
          decide (f.sub.toNat ≤ 5),
      uses := vsrc f.ty f.a ++ vsrc f.ty f.b ++ mask f.m ++ [.md f.d.toNat] }
  | .vsel f =>
    { ok := f.ty.isInt && pairOk f.ty f.d && pairOk f.ty f.a && pairOk f.ty f.b &&
              decide (f.c.toNat < 16) &&
            vOk f true true true true false false &&
          f.sub == 0,
      uses :=
        vsrc f.ty f.a ++ vsrc f.ty f.b ++ [.ms f.c.toNat] ++ mask f.m ++ vdst f.ty f.d }
  | .vbfe f =>
    { ok := f.ty.isInt && pairOk f.ty f.d && pairOk f.ty f.a &&
            vOk f true false true true false false &&
          f.sub == 0,
      uses := vsrc f.ty f.a ++ [.vs f.b.toNat] ++ mask f.m ++ vdst f.ty f.d }
  | .vbfi f =>
    { ok := f.ty.isInt && pairOk f.ty f.d && pairOk f.ty f.a && pairOk f.ty f.b &&
            vOk f true true true true false false &&
          f.sub == 0,
      uses :=
        vsrc f.ty f.a ++ vsrc f.ty f.b ++ [.vs f.c.toNat] ++ mask f.m ++ vdst f.ty f.d }
  | .vlea f => v2 f (f.ty == .n32 || f.ty == .n64) false false (decide (f.sub.toNat < 8))
  | .vidx f =>
    { ok := (f.ty == .n32 || f.ty == .i32) && f.a == 0 && vOk f false false true true false false && f.sub == 0,
      uses := mask f.m ++ [.vd f.d.toNat] }
  | .vsplat f =>
    { ok := f.ty.isInt && scal f.a && pairOk f.ty f.d && vOk f false false true true false false &&
          f.sub == 0,
      uses := [.ss f.a.toNat] ++ mask f.m ++ vdst f.ty f.d }
  | .vext f =>
    { ok := f.ty.isInt && scal f.d && scal f.b && pairOk f.ty f.a &&
            vOk f true false false true false false &&
          f.sub == 0,
      uses := vsrc f.ty f.a ++ [.ss f.b.toNat, .sd f.d.toNat] }
  | .vcvti f => conv f Ty.isInt Ty.isInt false true
  | .spk24 f =>
    let narrow := f.ty == .i8 || f.ty == .e4m3 || f.ty == .e5m2 || f.ty == .rq8
    let half := f.ty == .i16 || f.ty == .f16 || f.ty == .bf16
    { ok := (narrow || half) && even f.d && vOk f half false true true false false && f.sub == 0,
      uses :=
        ([.vs f.a.toNat] ++ if half then [.vs f.b.toNat] else []) ++ mask f.m ++
          vdsts f.d.toNat 2 }
  | .vmovi f =>
    { ok := f.ty.isInt && pairOk f.ty f.d && f.a == 0 && immOk f, uses := vdst f.ty f.d }
  | .vaddImm f | .vsubImm f | .vmulImm f | .vandImm f | .vorImm f | .vxorImm f | .vshlImm f | .vshrImm f | .vsarImm f
  | .vrotImm f | .vminImm f | .vmaxImm f => vImm f
  | .vleaImm f => vImm f true
  | .fadd f | .fsub f | .fmul f | .fdiv f => v2 f f.ty.isFloat true true
  | .ffma f => v3 f f.ty.isFloat true true
  | .fmin f | .fmax f => v2 f f.ty.isFloat false false
  | .fmaxi f | .fmini f =>
    { ok := (f.ty == .f16 || f.ty == .bf16 || f.ty == .f32) && even f.d && even f.a &&
              even f.b &&
            vOk f true false true true false false &&
          f.sub == 0,
      uses := vsrcs f.a.toNat 2 ++ vsrcs f.b.toNat 2 ++ mask f.m ++ vdsts f.d.toNat 2 }
  | .fabs f | .fneg f => v1 f f.ty.isFloat false false
  | .fcmp f =>
    { ok := f.ty.isFloat && mdst f.d && pairOk f.ty f.a && pairOk f.ty f.b &&
            vOk f true false true true false false &&
          decide (f.sub.toNat ≤ 7),
      uses := vsrc f.ty f.a ++ vsrc f.ty f.b ++ mask f.m ++ [.md f.d.toNat] }
  | .fclass f =>
    { ok := f.ty.isFloat && pairOk f.ty f.a && vOk f false false true true false false && f.sub == 0,
      uses := vsrc f.ty f.a ++ mask f.m ++ [.vd f.d.toNat] }
  | .fsqrt f => v1 f f.ty.isFloat true false
  | .frnd f => v1 f f.ty.isFloat true false (decide (f.sub.toNat ≤ 1))
  | .fscl f =>
    { ok := f.ty.isFloat && pairOk f.ty f.d && pairOk f.ty f.a &&
            vOk f true false true true true true &&
          f.sub == 0,
      uses := vsrc f.ty f.a ++ [.vs f.b.toNat] ++ mask f.m ++ vdst f.ty f.d }
  | .fdot2 f =>
    { ok := (f.ty == .f16 || f.ty == .bf16) && vOk f true true true true true true && f.sub == 0,
      uses := [.vs f.a.toNat, .vs f.b.toNat, .vs f.c.toNat] ++ mask f.m ++ [.vd f.d.toNat] }
  | .fcvt f => conv f Ty.isFloat Ty.isFloat true true
  | .fcvti f => conv f Ty.isInt Ty.isFloat true false
  | .icvtf f => conv f Ty.isFloat Ty.isInt true true
  | .faddImm f | .fsubImm f | .fmulImm f | .fminImm f | .fmaxImm f => fImm f
  | .qsin f | .qcos f | .qsinp f | .qcosp f | .qex2 f | .qlg2 f | .qtnh f | .qrcp f | .qrsq f => qf f false
  | .qsc f | .qscp f => qf f true
  | .ncvt f =>
    let fmt := (BitVec.extractLsb' 0 3 f.sub).toNat
    let pos := (BitVec.extractLsb' 4 3 f.sub).toNat
    { ok := (f.ty == .f16 || f.ty == .bf16 || f.ty == .f32) && decide (fmt < 4) && (fmt == 3 || decide (pos < 4)) &&
            decide (f.sub.toNat < 128) &&
          vOk f true false true true true true,
      uses :=
        ([.vs f.a.toNat, .vs f.b.toNat] ++ if f.sub.getLsbD 3 then [] else [.vs f.d.toNat]) ++
            mask f.m ++
          [.vd f.d.toNat] }
  | .rnenc f =>
    { ok := f.ty.isInt && pairOk f.ty f.a && vOk f false false true true false true && f.sub == 0,
      uses := vsrc f.ty f.a ++ mask f.m ++ [.vd f.d.toNat] }
  | .rndec f =>
    { ok := f.ty.isInt && pairOk f.ty f.d && vOk f false false true true false true && f.sub == 0,
      uses := [.vs f.a.toNat] ++ mask f.m ++ vdst f.ty f.d }
  | .rnadd f => v2 f (f.ty == .rn24) false false (decide (f.sub.toNat ≤ 1))
  | .rnmul f =>
    { ok := f.ty == .rn24 && decide (f.sub.toNat ≤ 1) && vOk f true (f.sub == 1) true true false false,
      uses :=
        ([.vs f.a.toNat, .vs f.b.toNat] ++ if (f.sub == 1) then [.vs f.c.toNat] else []) ++
            mask f.m ++
          [.vd f.d.toNat] }
  | .rng f =>
    { ok := (f.ty == .n32 || f.ty == .n64 || f.ty == .f32) && pairOk f.ty f.d && f.a == 0 &&
            vOk f false false true true false false &&
          f.sub == 0,
      uses := mask f.m ++ vdst f.ty f.d }
  | .ld f => mem f true true
  | .st f => mem f true false
  | .lds f => spad f true
  | .sts f => spad f false
  | .ldc f =>
    { ok := scal f.d && !f.vo && f.m == 0 && mOk f true, uses := [.ss f.base.toNat, .sd f.d.toNat] }
  | .ldsp f => mem f (f.ty == .f32 || f.ty == .bf16) true
  | .stsp f => mem f (f.ty == .f32 || f.ty == .bf16) false
  | .pref f => { ok := f.d == 0 && mOk f true, uses := maddr f ++ mask f.m }
  | .clnv f =>
    { ok := f.ty == .i8 && decide ((BitVec.extractLsb' 0 2 f.d).toNat < 2) &&
              decide ((BitVec.extractLsb' 2 2 f.d).toNat < 3) &&
            decide (f.d.toNat < 16) &&
          mOk f false,
      uses := maddr f ++ mask f.m }
  | .atomAdd f => atom f AOp.add false
  | .atomSub f => atom f AOp.sub false
  | .atomMin f => atom f AOp.min false
  | .atomMax f => atom f AOp.max false
  | .atomAnd f => atom f AOp.and false
  | .atomOr f => atom f AOp.or false
  | .atomXor f => atom f AOp.xor false
  | .atomXchg f => atom f AOp.xchg false
  | .atomCas f => atom f AOp.cas false
  | .atomFadd f => atom f AOp.fadd false
  | .atomMaxi f => atom f AOp.maxi false
  | .atomMini f => atom f AOp.mini false
  | .atomrAdd f =>
    { ok := (f.ty == .n32 || f.ty == .n64) && pairOk f.ty f.d && mOk f false,
      uses := maddr f ++ mask f.m ++ vsrc f.ty f.d ++ vdst f.ty f.d }
  | .atomfAdd f => atom f AOp.add true
  | .atomfSub f => atom f AOp.sub true
  | .atomfMin f => atom f AOp.min true
  | .atomfMax f => atom f AOp.max true
  | .atomfAnd f => atom f AOp.and true
  | .atomfOr f => atom f AOp.or true
  | .atomfXor f => atom f AOp.xor true
  | .atomfXchg f => atom f AOp.xchg true
  | .atomfCas f => atom f AOp.cas true
  | .atomfFadd f => atom f AOp.fadd true
  | .atomfMaxi f => atom f AOp.maxi true
  | .atomfMini f => atom f AOp.mini true
  | .fence f => { ok := vBare f true && decide (f.sub.toNat ≤ 5) }
  | .fences f =>
    { ok := vBare f true && decide (f.sub.toNat < 32) && decide ((BitVec.extractLsb' 0 3 f.sub).toNat ≤ 5) }
  | .fencex f =>
    { ok := vBare f true && decide ((BitVec.extractLsb' 0 3 f.sub).toNat ≤ 5) &&
            decide ((BitVec.extractLsb' 3 3 f.sub).toNat ≤ 3) &&
          decide ((BitVec.extractLsb' 6 3 f.sub).toNat ≤ 4) }
  | .xlane f =>
    let idx := BitVec.extractLsb' 0 5 f.pat == 0
    perm f 6 idx false (if idx then f.par == 0 else paramOk f.par)
  | .xshuf f =>
    let byte := BitVec.extractLsb' 0 5 f.pat == 4
    perm f 5 true true (if byte then decide (f.par.toNat < 4096) && f.ty.width == 32 else f.par == 0)
      (!byte || !f.pat.getLsbD 5)
  | .xred f => red f false
  | .xscan f => red f true
  | .xcol f =>
    let code := (BitVec.extractLsb' 0 5 f.pat).toNat
    let parOk :=
      if code ≤ 1 then decide (1 ≤ f.par.toNat ∧ f.par.toNat ≤ 3)
      else if (code == 2) then decide (f.par.toNat ≤ 3) else f.par == 0
    let r := perm f 5 (code == 3) false parOk
    { cls := r.cls, priv := r.priv, last := true, ok := r.ok, uses := r.uses }
  | .xvote f =>
    let code := (BitVec.extractLsb' 0 5 f.pat).toNat
    { ok := f.ty == .i8 && scal f.d && decide (f.a.toNat < 16) && f.b == 0 && decide (code < 5) &&
            !f.pat.getLsbD 5 &&
          if (code == 4) then decide (f.par.toNat < 32) else f.par == 0,
      uses := [.ms f.a.toNat] ++ mask f.m ++ [.sd f.d.toNat] }
  | .gen f => { last := true, ok := bOk f true false false true, uses := [.ss f.creg.toNat] }
  | .yield f =>
    { last := true, ok := f.ty == .n32 && f.d == 0 && vOk f false false true true false false && f.sub == 0,
      uses := mask f.m ++ [.vs f.a.toNat] }
  | .gdone f =>
    { last := true,
      ok := f.ty == .i8 && f.d == 0 && f.a == 0 && vOk f false false true false false false && f.sub == 0,
      uses := mask f.m }
  | .gcon f => { last := true, ok := bOk f false false true false, uses := mask f.m }
  | .gsw => { last := true }
  | .gfr f =>
    { ok := f.ty == .n32 && f.a == 0 && vOk f false false false true false false && f.sub == 0,
      uses := [.vd f.d.toNat] }
  | .gfrInfo f =>
    { ok := f.ty == .n64 && scal f.d && f.a == 0 && vOk f false false false false false false && f.sub == 1,
      uses := [.sd f.d.toNat] }
  | .gbar f => { last := true, ok := vBare f false && decide (f.sub.toNat < 64) }
  | .gpost f => { ok := vBare f false && decide (f.sub.toNat < 64) }
  | .gpostWd f => { ok := vBare f false && decide (64 ≤ f.sub.toNat ∧ f.sub.toNat < 128) }
  | .gqry f =>
    { ok := f.ty == .i8 && scal f.d && f.a == 0 && vOk f false false false false false false &&
          decide (f.sub.toNat < 64),
      uses := [.sd f.d.toNat] }
  | .ldgAdd f | .ldgMin f | .ldgMax f | .ldgAnd f | .ldgOr f | .ldgXor f => ldg f (ldgInt f.ty) false
  | .ldgFadd f | .ldgFmin f | .ldgFmax f => ldg f f.ty.isFloat false
  | .ldgMaxi f | .ldgMini f => ldg f (f.ty == .f32) true
  | .bra f => { last := true, ok := bOk f false false true true, uses := mask f.m }
  | .brac f =>
    { last := true, ok := bOk f true true true true && decide (f.cond.toNat ≤ 5),
      uses := mask f.m ++ [.ss f.creg.toNat] }
  | .brav f | .ret f =>
    { last := true, ok := bOk f true false true false, uses := mask f.m ++ bPair f true }
  | .call f =>
    { last := true, ok := bOk f true false true true, uses := mask f.m ++ bPair f false }
  | .callReg f =>
    { last := true, ok := bOk f true true true true && f.cond == 8 && decide (f.imm.toNat < 128),
      uses := mask f.m ++ [.ss f.imm.toNat] ++ bPair f false }
  | .exit f => { last := true, ok := bOk f false false true false, uses := mask f.m }
  | .kill => { last := true }
  | .forkCopy f => { ok := bOk f false true false true && f.cond == 1 }
  | .forkMatrix f => { ok := bOk f false true false true && f.cond == 2 }
  | .forkReg f =>
    { ok := bOk f false true false true && (f.cond == 9 || f.cond == 10) && decide (f.imm.toNat < 128),
      uses := [.ss f.imm.toNat] }
  | .bar => { last := true }
  | .waitk f => { last := true, ok := f.a == 0 && vOk f false false false false false false && f.sub == 0 }
  | .setk f | .clrk f => { ok := f.a == 0 && vOk f false false false false false false && f.sub == 0 }
  | .nop | .nopSet0 | .nopSet1 => {}
  | .yld => { last := true }
  | .iter f =>
    { ok := f.ty == .i8 && scal f.d && f.a == 0 && vOk f false false false true false false && f.sub == 0,
      uses := [.sd f.d.toNat, .sd (f.d.toNat + 1), .sd (f.d.toNat + 2), .sd (f.d.toNat + 3)] }
  | .rdv f => { last := true, ok := vBare f false && decide (f.sub.toNat ≤ 2) }
  | .lnch f =>
    { ok := f.ty == .i8 && scal f.d && scal f.a && vOk f false false false true false false &&
          f.sub == 0,
      uses := [.ss f.a.toNat, .sd f.d.toNat] }
  | .cntw f =>
    { last := true,
      ok :=
        f.ty == .i8 && scal f.d && scal f.a && vOk f false false false false false false &&
          f.sub == 0,
      uses := [.ss f.a.toNat, .sd f.d.toNat] }
  | .cntwQuery f =>
    { last := true,
      ok :=
        f.ty == .i8 && scal f.d && scal f.a && vOk f false false false false false false &&
          f.sub == 1,
      uses := [.ss f.a.toNat, .sd f.d.toNat] }
  | .cancel f =>
    { ok := f.ty == .i8 && f.d == 0 && scal f.a && vOk f false false false false false false && f.sub == 0,
      uses := [.ss f.a.toNat] }
  | .cpy f => cp f [0, 1, 2] [0, 1] false none false
  | .cpym f => cp f [0, 1, 2] [3] false (some f.soff) true
  | .cpyf f => cp f [0, 1, 2, 3] [0, 1, 3] true none false
  | .cpyg f => cp f [0, 1, 2] [0, 3] false (some f.soff) false
  | .cpys f => cp f [0, 3] [0, 1] false (some f.doff) false
  | .csig f => { cls := Cls.copy, ok := f.top == 0 && f.se && decide (f.low.toNat ≤ 5) }
  | .cwait f => { cls := Cls.copy, ok := f.top == 0 && !f.se && !f.fs && decide (f.low.toNat < 4096) }
  | .cfence f => { cls := Cls.copy, ok := f.top == 0 && !f.se && !f.fs && decide (f.low.toNat ≤ 5) }
  | .cmx f => { cls := Cls.copy, ok := f.top == 0 && flagOk true f.se f.fs && f.low == 0 }
  | .cend => { cls := .copy, last := true }
  | .mldn f | .mldw f => mld f
  | .mma f =>
    { cls := Cls.matrix,
      ok :=
        gOk f true true true true false false false false false false true false &&
              decide (0 < kt f.ty) &&
            accOk f.ty f.acc &&
          decide (f.fa.toNat < 3) }
  | .mmas f =>
    { cls := Cls.matrix,
      ok :=
        gOk f true true true true true false false false false false true false && decide (0 < kt f.ty) &&
                  f.ty != .f64 &&
                accOk f.ty f.acc &&
              decide (f.fa.toNat < 3) &&
            decide (f.fm.toNat < 2) &&
          f.fa != f.fm }
  | .mclr f =>
    { cls := Cls.matrix,
      ok :=
        gOk f false true true false false false false false false false false false && decide (f.acc.toNat < 6) }
  | .mdrn f => mdrnRule f
  | .msig f =>
    { cls := Cls.matrix,
      ok :=
        gOk f false true false false false false false false false false false true && f.se &&
          decide (f.off.toNat ≤ 5) }
  | .mend => { cls := .matrix, last := true }
  | .trap f => { ok := f.ty == .i8 && f.d == 0 && f.a == 0 && f.cls == 1 }
  | .rte => { priv := true, last := true }
  | .csrr f => csrrRule f
  | .csrw f | .csrwFstat f | .csrwFctl f | .csrwElogInfo f | .csrwTrapCause f => csrwRule f
  | .qfeat f | .qphys f => query f
  | .mapft f =>
    { priv := true,
      ok := f.ty == .i8 && even f.a && vOk f false false true true false false && f.sub == 0,
      uses := vsrcs f.a.toNat 2 ++ mask f.m ++ [.vd f.d.toNat] }
  | .catld f => cat f true false (decide (f.sub.toNat < 8)) false
  | .catsetAccess f => cat f false true (f.sub == 0) true
  | .catsetBound f => cat f false true (f.sub == 1) true
  | .catsetHwm f => cat f false true (f.sub == 7) true
  | .catsetPg f => cat f false true (f.sub == 8) true
  | .catsnap f => cat f true false (f.sub == 0) false
  | .catsnapRel f => cat f false false (f.sub == 1) false
  | .ctxsv f | .ctxld f =>
    { priv := true,
      ok :=
        f.ty == .i8 && f.d == 0 && scal f.a && vOk f false false false true false false && f.sub == 0,
      uses := [.ss f.a.toNat] }
  | .sfdrn => {}
  | .wfi f =>
    { priv := true, last := true, ok := f.a == 0 && vOk f false false false false false false && f.sub == 0 }
  | .clauseStart | .writePerformed | .sfQueueWrite | .stallThreshold | .teamExchange | .timeSliceExpiry | .teamRetire
  | .workgroupRetire | .counterDecrement | .unitBegin | .recordLaunch | .recordNewGraph | .recordNewPhase | .recordQuery
  | .cancelRequest | .cnclDelivery | .curatorBind | .dispatch | .preempt | .trapEntry | .contextSave | .restore | .barOpen
  | .gpostTakesEffect | .gbarComplete | .xcolComplete | .waitkComplete | .wfiWake | .rdvComplete | .pendingForkStart
  | .iterAnswer | .streamEnd | .fifoBytesLand | .followOnTrigger | .followOnExecute | .cpymRequestArrival | .cpymSectorRead
  | .mmIssue | .mmPerform | .mmExport | .mmTransfer | .mmApply | .fenceComplete | .speculationConflict | .registrarRelease
  | .loanLend | .loanReclaimComplete | .farFirstTouchMap | .copyOnWrite | .pageMigration | .pageDuplication | .liveMigration
  | .poolRefill | .readPacket | .writePacket | .atomicPacket | .scrubGranule | .errorRecordMergeFlush | .registerUncorrectable
  | .dramDieRemoval | .coreFailure | .dmaWrite | .dmaRead | .cxlPoisonReport | .cxlHotRemove | .scaleoutFrameReceive
  | .portFailure | .deliveryTimeout | .startJob | .mbCancel | .mbStatus | .createObject | .deleteObject | .mailboxOverrun
  | .setPartitions | .setInstallationEntry | .createContext | .destroyContext | .attest | .stageFirmware | .setPowerLimit
  | .hostRegisterWrite | .powerGood | .stage0Complete | .stage1Complete | .criticalTemperature | .deviceReset
  | .matrixCommandComplete | .powerOrThermalLimiting => { cls := .step }

/-- The class of clause of an instruction (R108). -/
def Instr.cls (i : Instr) : Cls :=
  i.rule.cls

/-- Whether an instruction names a flag to set, and which of its clause's two (R14, R99): the fields of its format, where the format has them. -/
def Instr.flagSel (x : Instr) : Bool × Bool :=
  match x with
  | .smov f | .sadd f | .ssub f | .smul f | .smulh f | .sdiv f | .srem f | .sand f | .sor f | .sxor f | .snot f | .sshl f | .sshr f | .ssar f
  | .srot f | .scmp f | .ssel f | .smin f | .smax f | .sclz f | .spop f | .slea f | .vmov f | .vadd f | .vsub f | .vmul f | .vmulh f | .vmad f
  | .vdiv f | .vrem f | .vand f | .vor f | .vxor f | .vnot f | .vshl f | .vshr f | .vsar f | .vrot f | .vcmp f | .vsel f | .vmin f | .vmax f
  | .vabs f | .vneg f | .vclz f | .vpop f | .vbrev f | .vbfe f | .vbfi f | .vlea f | .vidx f | .vsplat f | .vext f | .vcvti f | .spk24 f | .fadd f
  | .fsub f | .fmul f | .ffma f | .fmin f | .fmax f | .fmaxi f | .fmini f | .fabs f | .fneg f | .fcmp f | .fclass f | .fdiv f | .fsqrt f | .frnd f
  | .fscl f | .fdot2 f | .fcvt f | .fcvti f | .icvtf f | .qsin f | .qcos f | .qsc f | .qsinp f | .qcosp f | .qscp f | .qex2 f | .qlg2 f | .qtnh f
  | .qrcp f | .qrsq f | .ncvt f | .rnenc f | .rndec f | .rnadd f | .rnmul f | .rng f | .fence f | .fences f | .fencex f | .yield f | .gdone f
  | .gfr f | .gfrInfo f | .gbar f | .gpost f | .gpostWd f | .gqry f | .waitk f | .setk f | .clrk f | .iter f | .rdv f | .lnch f | .cntw f
  | .cntwQuery f | .cancel f | .mapft f | .catld f | .catsetAccess f | .catsetBound f | .catsetHwm f | .catsetPg f | .catsnap f | .catsnapRel f
  | .ctxsv f | .ctxld f | .wfi f => (f.se, f.fs)
  | .ld f | .st f | .lds f | .sts f | .ldc f | .ldsp f | .stsp f | .pref f | .clnv f | .atomAdd f | .atomSub f | .atomMin f | .atomMax f | .atomAnd f
  | .atomOr f | .atomXor f | .atomXchg f | .atomCas f | .atomFadd f | .atomMaxi f | .atomMini f | .atomrAdd f | .atomfAdd f | .atomfSub f
  | .atomfMin f | .atomfMax f | .atomfAnd f | .atomfOr f | .atomfXor f | .atomfXchg f | .atomfCas f | .atomfFadd f | .atomfMaxi f | .atomfMini f
  | .ldgAdd f | .ldgMin f | .ldgMax f | .ldgAnd f | .ldgOr f | .ldgXor f | .ldgFadd f | .ldgFmin f | .ldgFmax f | .ldgMaxi f | .ldgMini f => (f.se, f.fs)
  | .cpy f | .cpym f | .cpyf f | .cpyg f | .cpys f => (f.se, f.fs)
  | .csig f | .cwait f | .cfence f | .cmx f => (f.se, f.fs)
  | .mldn f | .mldw f | .mma f | .mmas f | .mclr f | .mdrn f | .msig f => (f.se, f.fs)
  | .smovi _ | .saddImm _ | .ssubImm _ | .smulImm _ | .sandImm _ | .sorImm _ | .sxorImm _ | .sshlImm _ | .sshrImm _ | .ssarImm _ | .srotImm _
  | .sminImm _ | .smaxImm _ | .sleaImm _ | .vmovi _ | .vaddImm _ | .vsubImm _ | .vmulImm _ | .vandImm _ | .vorImm _ | .vxorImm _ | .vshlImm _
  | .vshrImm _ | .vsarImm _ | .vrotImm _ | .vminImm _ | .vmaxImm _ | .vleaImm _ | .faddImm _ | .fsubImm _ | .fmulImm _ | .fminImm _ | .fmaxImm _
  | .trap _ | .csrr _ | .csrw _ | .csrwFstat _ | .csrwFctl _ | .csrwElogInfo _ | .csrwTrapCause _ | .qfeat _ | .qphys _ | .xlane _ | .xshuf _
  | .xred _ | .xscan _ | .xcol _ | .xvote _ | .gen _ | .gcon _ | .bra _ | .brac _ | .brav _ | .call _ | .callReg _ | .ret _ | .exit _ | .forkCopy _
  | .forkMatrix _ | .forkReg _ | .gsw | .kill | .bar | .nop | .nopSet0 | .nopSet1 | .yld | .cend | .mend | .rte | .sfdrn | .clauseStart
  | .writePerformed | .sfQueueWrite | .stallThreshold | .teamExchange | .timeSliceExpiry | .teamRetire | .workgroupRetire | .counterDecrement
  | .unitBegin | .recordLaunch | .recordNewGraph | .recordNewPhase | .recordQuery | .cancelRequest | .cnclDelivery | .curatorBind | .dispatch
  | .preempt | .trapEntry | .contextSave | .restore | .barOpen | .gpostTakesEffect | .gbarComplete | .xcolComplete | .waitkComplete | .wfiWake
  | .rdvComplete | .pendingForkStart | .iterAnswer | .streamEnd | .fifoBytesLand | .followOnTrigger | .followOnExecute | .cpymRequestArrival
  | .cpymSectorRead | .mmIssue | .mmPerform | .mmExport | .mmTransfer | .mmApply | .fenceComplete | .speculationConflict | .registrarRelease
  | .loanLend | .loanReclaimComplete | .farFirstTouchMap | .copyOnWrite | .pageMigration | .pageDuplication | .liveMigration | .poolRefill
  | .readPacket | .writePacket | .atomicPacket | .scrubGranule | .errorRecordMergeFlush | .registerUncorrectable | .dramDieRemoval | .coreFailure
  | .dmaWrite | .dmaRead | .cxlPoisonReport | .cxlHotRemove | .scaleoutFrameReceive | .portFailure | .deliveryTimeout | .startJob | .mbCancel
  | .mbStatus | .createObject | .deleteObject | .mailboxOverrun | .setPartitions | .setInstallationEntry | .createContext | .destroyContext | .attest
  | .stageFirmware | .setPowerLimit | .hostRegisterWrite | .powerGood | .stage0Complete | .stage1Complete | .criticalTemperature | .deviceReset
  | .matrixCommandComplete | .powerOrThermalLimiting => (false, false)

/-- A row of the table that no word encodes: a step of the machine. -/
def Instr.isStep (i : Instr) : Bool :=
  i.cls == Cls.step

end Sys2Proof
end

