-- ==== Sys2Proof/Machine/Flags.lean ====
section
/-!
DEFINITION. Number formats (R152 to R155), the rounding function and the sticky flags it raises (R157 to R161), and the residue family
(R165, R166). A sticky-flag set is five bits in the places of FSTAT (R88): NX, UF, OF, DZ, NV.
-/

namespace Sys2Proof.Machine

/-- A set of sticky flags (R88). -/
abbrev Sticky := BitVec 5

/-- NX (R88). -/
def fNX : Sticky := 1
/-- UF (R88). -/
def fUF : Sticky := 2
/-- OF (R88). -/
def fOF : Sticky := 4
/-- DZ (R88). -/
def fDZ : Sticky := 8
/-- NV (R88). -/
def fNV : Sticky := 16

/-- The flags if a condition holds. -/
def flagIf (b : Bool) (f : Sticky) : Sticky := if b then f else 0

/-- The binary floating-point formats of R152. -/
inductive Fmt where
  | f64 | f32 | f16 | bf16 | e5m2 | e4m3 | e2m1
deriving DecidableEq, Repr, Inhabited

/-- Fraction width p (R152). -/
def Fmt.p : Fmt → Nat
  | .f64 => 52 | .f32 => 23 | .f16 => 10 | .bf16 => 7 | .e5m2 => 2 | .e4m3 => 3 | .e2m1 => 1

/-- Exponent field width (R152). -/
def Fmt.eb : Fmt → Nat
  | .f64 => 11 | .f32 => 8 | .f16 => 5 | .bf16 => 8 | .e5m2 => 5 | .e4m3 => 4 | .e2m1 => 2

/-- Bias (R152). -/
def Fmt.bias : Fmt → Nat
  | .f64 => 1023 | .f32 => 127 | .f16 => 15 | .bf16 => 127 | .e5m2 => 15 | .e4m3 => 7 | .e2m1 => 1

/-- Width in bits (R152). -/
def Fmt.width (f : Fmt) : Nat := 1 + f.eb + f.p

/-- The format has infinities (R152). -/
def Fmt.hasInf : Fmt → Bool
  | .e4m3 | .e2m1 => false
  | _ => true

/-- The pattern of the largest finite value, positive (R152). -/
def Fmt.maxPat : Fmt → Nat
  | .e4m3 => 0x7E
  | .e2m1 => 0x7
  | f => (2 ^ f.eb - 1) * 2 ^ f.p - 1

/-- The pattern of the sign bit. -/
def Fmt.signPat (f : Fmt) (neg : Bool) : Nat := if neg then 2 ^ (f.width - 1) else 0

/-- The pattern of an infinity; in a format without infinities, what R159 gives: the NaN of E4M3, the largest value of E2M1. -/
def Fmt.infPat (f : Fmt) (neg : Bool) : Nat :=
  f.signPat neg + match f with
    | .e4m3 => 0x7F
    | .e2m1 => 0x7
    | f => (2 ^ f.eb - 1) * 2 ^ f.p

/-- The canonical NaN (R154); E2M1 has none and takes +0 (R155). -/
def Fmt.canonicalNaN : Fmt → Nat
  | .f64 => 0x7FF8000000000000 | .f32 => 0x7FC00000 | .f16 => 0x7E00 | .bf16 => 0x7FC0 | .e5m2 => 0x7E | .e4m3 => 0x7F | .e2m1 => 0

/-- The format of a float type (R152); the f32 format for the types that are no float. -/
def fmtOf : Ty → Fmt
  | .f64 => .f64 | .f16 => .f16 | .bf16 => .bf16 | .e4m3 => .e4m3 | .e5m2 => .e5m2 | _ => .f32

/-- A decoded pattern (R153): a NaN with its sign, quiet bit, fraction and fraction width; an infinity; or (-1)^neg × m × 2^e. -/
inductive Val where
  | nan (neg quiet : Bool) (frac p : Nat)
  | inf (neg : Bool)
  | fin (neg : Bool) (m : Nat) (e : Int)
deriving DecidableEq, Repr, Inhabited

/-- Decode a pattern (R153, R154). -/
def decodeF (f : Fmt) (pat : Nat) : Val :=
  let neg := pat.testBit (f.width - 1)
  let ex := pat / 2 ^ f.p % 2 ^ f.eb
  let fr := pat % 2 ^ f.p
  let emin : Int := 1 - (f.bias : Int) - (f.p : Int)
  if ex = 2 ^ f.eb - 1 ∧ f.hasInf then (if fr = 0 then .inf neg else .nan neg (fr.testBit (f.p - 1)) fr f.p)
  else if f = .e4m3 ∧ ex = 15 ∧ fr = 7 then .nan neg true fr f.p
  else if ex = 0 then .fin neg fr emin
  else .fin neg (2 ^ f.p + fr) ((ex : Int) - (f.bias : Int) - (f.p : Int))

/-- A NaN. -/
def Val.isNaN : Val → Bool
  | .nan _ _ _ _ => true
  | _ => false

/-- A signalling NaN. -/
def Val.isSig : Val → Bool
  | .nan _ q _ _ => !q
  | _ => false

/-- An infinity. -/
def Val.isInf : Val → Bool
  | .inf _ => true
  | _ => false

/-- A zero. -/
def Val.isZero : Val → Bool
  | .fin _ m _ => m == 0
  | _ => false

/-- The magnitude of a finite value as m × 2^e; zero for the others. -/
def Val.mag : Val → Nat × Int
  | .fin _ m e => (m, e)
  | _ => (0, 0)

/-- The sign. -/
def Val.neg : Val → Bool
  | .nan n _ _ _ => n
  | .inf n => n
  | .fin n _ _ => n

/-- A NaN taken to a format: its sign, the fraction bits that fit, quieted (R154, R155). -/
def nanTo (f : Fmt) (neg : Bool) (frac p : Nat) : Nat :=
  match f with
  | .e4m3 => f.signPat neg + 0x7F
  | .e2m1 => f.signPat neg
  | f =>
    let fr := if p ≤ f.p then frac * 2 ^ (f.p - p) else frac / 2 ^ (p - f.p)
    f.signPat neg + (2 ^ f.eb - 1) * 2 ^ f.p + (fr ||| 2 ^ (f.p - 1))

/-- An exact real: (-1)^neg × (m + δ) × 2^e, where δ is 0, or lies strictly between 0 and 1 when `sticky`. -/
structure Ex where
  neg : Bool
  m : Nat
  e : Int
  sticky : Bool
deriving DecidableEq, Repr, Inhabited

/-- Round (m + δ) ÷ 2^shift to an integer in a mode; the second part is true when that is inexact (R26). -/
def shiftRound (mode : RMode) (neg : Bool) (m : Nat) (sticky : Bool) (shift : Nat) : Nat × Bool :=
  let sh := min shift (Nat.log2 m + 3)
  let hi := m / 2 ^ sh
  let rem := m % 2 ^ sh
  let inexact := rem != 0 || sticky
  let half := 2 ^ (sh - 1)
  let up := match mode with
    | .rn => decide (sh ≠ 0) && (decide (half < rem) || (rem == half && (sticky || hi % 2 == 1)))
    | .rz => false
    | .rd => neg && inexact
    | .ru => !neg && inexact
  (if up then hi + 1 else hi, inexact)

/-- A result with the flags it raises. -/
structure Rounded where
  pat : Nat
  flags : Sticky
deriving DecidableEq, Repr, Inhabited

/-- The value that replaces an overflow (R158). -/
def overflowPat (f : Fmt) (mode : RMode) (sat neg : Bool) : Nat :=
  let big := f.signPat neg + f.maxPat
  if sat || f == .e2m1 then big
  else match mode with
    | .rn => f.infPat neg
    | .rz => big
    | .rd => if neg then f.infPat neg else big
    | .ru => if neg then big else f.infPat neg

/-- Round, or RoundSat with `sat`, of a finite real (R157, R158, R160, R161). A zero keeps its sign. -/
def roundEx (f : Fmt) (mode : RMode) (sat : Bool) (x : Ex) : Rounded :=
  if x.m = 0 then { pat := f.signPat x.neg, flags := 0 }
  else
    let p : Int := f.p
    let emin : Int := 1 - (f.bias : Int)
    let top : Int := (Nat.log2 x.m : Int) + x.e
    let q : Int := max (top - p) (emin - p)
    let r := if x.e ≤ q then shiftRound mode x.neg x.m x.sticky (q - x.e).toNat
      else (x.m * 2 ^ (x.e - q).toNat, x.sticky)
    let qu : Int := top - p
    let z := if x.e ≤ qu then shiftRound mode x.neg x.m x.sticky (qu - x.e).toNat
      else (x.m * 2 ^ (x.e - qu).toNat, x.sticky)
    let ztop : Int := if z.1 = 2 ^ (f.p + 1) then top + 1 else top
    let tiny := decide (ztop < emin)
    let m1 := if r.1 = 2 ^ (f.p + 1) then 2 ^ f.p else r.1
    let q1 : Int := if r.1 = 2 ^ (f.p + 1) then q + 1 else q
    if m1 < 2 ^ f.p then { pat := f.signPat x.neg + m1, flags := flagIf r.2 fNX ||| flagIf (tiny && r.2) fUF }
    else
      let field : Int := q1 + p + (f.bias : Int)
      let mag : Nat := field.toNat * 2 ^ f.p + (m1 - 2 ^ f.p)
      if f.maxPat < mag then { pat := overflowPat f mode sat x.neg, flags := fOF ||| fNX }
      else { pat := f.signPat x.neg + mag, flags := flagIf r.2 fNX ||| flagIf (tiny && r.2) fUF }

/-- Round, or RoundSat with `sat`, of an infinity (R159, R161). -/
def roundInf (f : Fmt) (sat neg : Bool) : Rounded :=
  let nv := flagIf (!f.hasInf) fNV
  if sat then { pat := f.signPat neg + f.maxPat, flags := nv } else { pat := f.infPat neg, flags := nv }

/-- A NaN rounded or converted to a format (R155): a signalling one raises NV, and so does any taken to E2M1. -/
def roundNaN (f : Fmt) (neg quiet : Bool) (frac p : Nat) : Rounded :=
  { pat := nanTo f neg frac p, flags := flagIf (!quiet || f == .e2m1) fNV }

/-- Round, or RoundSat, of a decoded value (R155, R157, R159). -/
def roundVal (f : Fmt) (mode : RMode) (sat : Bool) : Val → Rounded
  | .nan n q fr p => roundNaN f n q fr p
  | .inf n => roundInf f sat n
  | .fin n m e => roundEx f mode sat { neg := n, m := m, e := e, sticky := false }

/-- A pattern of one format widened to another as an operand (R162): exact, and a NaN keeps its quiet or signalling state. -/
def widenPat (src dst : Fmt) (pat : Nat) : Nat :=
  match decodeF src pat with
  | .nan n _ fr p => dst.signPat n + (2 ^ dst.eb - 1) * 2 ^ dst.p + fr * 2 ^ (dst.p - p)
  | v => (roundVal dst .rn false v).pat

/-! ### Exact arithmetic -/

/-- A signed integer of a sign and a magnitude. -/
def sgn (neg : Bool) (m : Nat) : Int := if neg then -(m : Int) else m

/-- The real i × 2^e as an exact value; the sign of zero is `zneg`. -/
def exOfInt (i : Int) (e : Int) (zneg : Bool) : Ex :=
  { neg := if i = 0 then zneg else decide (i < 0), m := i.natAbs, e := e, sticky := false }

/-- The sign of an exactly zero sum (R157): the common sign of its terms, else + except in rd. -/
def zeroSign (mode : RMode) (signs : List Bool) : Bool :=
  match signs with
  | [] => false
  | n :: r => if r.all fun x => x == n then n else mode == .rd

/-- The exact sum of terms (-1)^neg × m × 2^e. -/
def sumEx (mode : RMode) (ts : List (Bool × (Nat × Int))) : Ex :=
  let e := ts.foldl (fun a t => min a t.2.2) (match ts with | t :: _ => t.2.2 | [] => 0)
  let i := ts.foldl (fun a t => a + sgn t.1 t.2.1 * (2 ^ (t.2.2 - e).toNat : Nat)) 0
  exOfInt i e (zeroSign mode (ts.map (·.1)))

/-- The exact quotient of two finite values, the divisor nonzero, to 80 significant bits and a sticky part. -/
def divEx (an : Bool) (am : Nat) (ae : Int) (bn : Bool) (bm : Nat) (be : Int) : Ex :=
  let k := Nat.log2 bm + 80
  let num := am * 2 ^ k
  { neg := an != bn, m := num / bm, e := ae - be - (k : Int), sticky := num % bm != 0 }

/-- The integer square root, bit by bit from bit `n` down. -/
def isqrtBits (x : Nat) : Nat → Nat → Nat
  | 0, r => if (r + 1) * (r + 1) ≤ x then r + 1 else r
  | n + 1, r => isqrtBits x n (if (r + 2 ^ (n + 1)) * (r + 2 ^ (n + 1)) ≤ x then r + 2 ^ (n + 1) else r)

/-- The integer square root. -/
def isqrt (x : Nat) : Nat := isqrtBits x (Nat.log2 x / 2 + 1) 0

/-- The exact square root of a finite nonnegative value, to at least 80 significant bits and a sticky part. -/
def sqrtEx (m : Nat) (e : Int) : Ex :=
  let odd := decide (e % 2 ≠ 0)
  let m1 := (if odd then 2 * m else m) * 2 ^ 160
  let e1 : Int := (if odd then e - 1 else e) - 160
  let r := isqrt m1
  { neg := false, m := r, e := e1 / 2, sticky := r * r != m1 }

/-- A finite value rounded to an integer in a mode: magnitude and whether that is inexact (R26). -/
def intRound (mode : RMode) (neg : Bool) (m : Nat) (e : Int) : Nat × Bool :=
  if 0 ≤ e then (m * 2 ^ e.toNat, false) else if m = 0 then (0, false) else shiftRound mode neg m false (-e).toNat

/-! ### The NaN rules of R174 -/

/-- The first NaN of the operands, and whether any is signalling. -/
def firstNaN (ops : List Val) : Option (Bool × Nat × Nat) :=
  (ops.find? Val.isNaN).bind fun v => match v with
    | .nan n _ fr p => some (n, fr, p)
    | _ => none

/-- The frame of R174: NaN operands, then Invalid, then the result of the operation. -/
def arith (f : Fmt) (ops : List Val) (invalid : Bool) (rest : Rounded) : Rounded :=
  match firstNaN ops with
  | some n => { pat := nanTo f n.1 n.2.1 n.2.2, flags := flagIf (ops.any Val.isSig || invalid) fNV }
  | none => if invalid then { pat := f.canonicalNaN, flags := fNV } else rest

/-- FADD (R174); FSUB is FADD with the sign of b inverted once its NaNs are seen. -/
def faddV (f : Fmt) (mode : RMode) (sat : Bool) (sub : Bool) (a b : Val) : Rounded :=
  let bn := b.neg != sub
  arith f [a, b] (a.isInf && b.isInf && a.neg != bn)
    (if a.isInf then roundInf f sat a.neg
      else if b.isInf then roundInf f sat bn
      else roundEx f mode sat (sumEx mode [(a.neg, a.mag), (bn, b.mag)]))

/-- One is zero and the other infinite. -/
def zeroTimesInf (a b : Val) : Bool := (a.isZero && b.isInf) || (a.isInf && b.isZero)

/-- FMUL (R174). -/
def fmulV (f : Fmt) (mode : RMode) (sat : Bool) (a b : Val) : Rounded :=
  arith f [a, b] (zeroTimesInf a b)
    (if a.isInf || b.isInf then roundInf f sat (a.neg != b.neg)
      else roundEx f mode sat { neg := a.neg != b.neg, m := a.mag.1 * b.mag.1, e := a.mag.2 + b.mag.2, sticky := false })

/-- The magnitude of a product. -/
def prodMag (a b : Val) : Nat × Int := (a.mag.1 * b.mag.1, a.mag.2 + b.mag.2)

/-- FFMA (R174): one rounding of a × b + c. -/
def ffmaV (f : Fmt) (mode : RMode) (sat : Bool) (a b c : Val) : Rounded :=
  let pn := a.neg != b.neg
  let pinf := a.isInf || b.isInf
  arith f [a, b, c] (zeroTimesInf a b || (pinf && !a.isNaN && !b.isNaN && c.isInf && c.neg != pn))
    (if c.isInf then roundInf f sat c.neg
      else if pinf then roundInf f sat pn
      else roundEx f mode sat (sumEx mode [(pn, prodMag a b), (c.neg, c.mag)]))

/-- FDIV (R174). -/
def fdivV (f : Fmt) (mode : RMode) (sat : Bool) (a b : Val) : Rounded :=
  let n := a.neg != b.neg
  arith f [a, b] ((a.isZero && b.isZero) || (a.isInf && b.isInf))
    (if a.isInf then roundInf f sat n
      else if b.isInf then { pat := f.signPat n, flags := 0 }
      else if b.mag.1 = 0 then { pat := if sat then f.signPat n + f.maxPat else f.infPat n, flags := fDZ }
      else roundEx f mode sat (divEx a.neg a.mag.1 a.mag.2 b.neg b.mag.1 b.mag.2))

/-- FSQRT (R174): invalid below zero; a NaN is not below zero, whatever its sign. -/
def fsqrtV (f : Fmt) (mode : RMode) (a : Val) : Rounded :=
  arith f [a] (a.neg && !a.isZero && !a.isNaN)
    (match a with
      | .fin n m e => if m = 0 then { pat := f.signPat n, flags := 0 } else roundEx f mode false (sqrtEx m e)
      | _ => roundInf f false false)

/-- FSCL (R174, R175): a × 2^n. -/
def fsclV (f : Fmt) (mode : RMode) (sat : Bool) (a : Val) (n : Int) : Rounded :=
  arith f [a] false
    (match a with
      | .fin s m e => roundEx f mode sat { neg := s, m := m, e := e + n, sticky := false }
      | v => roundInf f sat v.neg)

/-- FRND (R174, R176): `exact` is `.x`. -/
def frndV (f : Fmt) (mode : RMode) (exact : Bool) (a : Val) : Rounded :=
  arith f [a] false
    (match a with
      | .fin s m e =>
        let r := intRound mode s m e
        { pat := (roundEx f mode false { neg := s, m := r.1, e := 0, sticky := false }).pat, flags := flagIf (exact && r.2) fNX }
      | v => roundInf f false v.neg)

/-- FDOT2 (R175): a0 × b0 + a1 × b1 + c, rounded once to FP32. -/
def fdot2V (mode : RMode) (sat : Bool) (a0 b0 a1 b1 c : Val) : Rounded :=
  let p0 := a0.neg != b0.neg
  let p1 := a1.neg != b1.neg
  let i0 := (a0.isInf || b0.isInf) && !a0.isNaN && !b0.isNaN
  let i1 := (a1.isInf || b1.isInf) && !a1.isNaN && !b1.isNaN
  let infs := (if i0 then [p0] else []) ++ (if i1 then [p1] else []) ++ (if c.isInf then [c.neg] else [])
  let clash := match infs with
    | n :: r => r.any fun x => x != n
    | [] => false
  arith .f32 [a0, b0, a1, b1, c] (zeroTimesInf a0 b0 || zeroTimesInf a1 b1 || clash)
    (match infs with
      | n :: _ => roundInf .f32 sat n
      | [] => roundEx .f32 mode sat (sumEx mode [(p0, prodMag a0 b0), (p1, prodMag a1 b1), (c.neg, c.mag)]))

/-! ### Order -/

/-- The magnitude bits of a pattern. -/
def magOf (f : Fmt) (pat : Nat) : Nat := pat % 2 ^ (f.width - 1)

/-- The sign bit of a pattern. -/
def signOf (f : Fmt) (pat : Nat) : Bool := pat.testBit (f.width - 1)

/-- Order of numbers with −0 below +0 (R177, R180). -/
def keyOf (f : Fmt) (pat : Nat) : Int := if signOf f pat then -(magOf f pat : Int) - 1 else magOf f pat

/-- Order of numbers with −0 equal to +0 (R179). -/
def ordOf (f : Fmt) (pat : Nat) : Int := if signOf f pat then -(magOf f pat : Int) else magOf f pat

/-- A pattern is a NaN of its format. -/
def isNaNPat (f : Fmt) (pat : Nat) : Bool := (decodeF f pat).isNaN

/-- Quiet (R154). -/
def quietPat (f : Fmt) (pat : Nat) : Nat := if f == .e4m3 || f == .e2m1 then pat else pat ||| 2 ^ (f.p - 1)

/-- FMIN and FMAX (R177). -/
def fminmaxV (f : Fmt) (isMax : Bool) (a b : Nat) : Rounded :=
  let va := decodeF f a
  let vb := decodeF f b
  let nv := flagIf (va.isSig || vb.isSig) fNV
  let r :=
    if va.isNaN && vb.isNaN then quietPat f a
    else if va.isNaN then b
    else if vb.isNaN then a
    else if isMax then (if keyOf f a ≥ keyOf f b then a else b)
    else if keyOf f a ≤ keyOf f b then a else b
  { pat := r, flags := nv }

/-- Wins of R180. -/
def winsV (f : Fmt) (isMax : Bool) (x i y j : Nat) : Bool :=
  let nx := isNaNPat f x
  let ny := isNaNPat f y
  if nx || ny then (if nx && ny then decide (i ≤ j) else nx)
  else if keyOf f x ≠ keyOf f y then (if isMax then decide (keyOf f x > keyOf f y) else decide (keyOf f x < keyOf f y))
  else decide (i ≤ j)

/-- The winner of FMAXI or FMINI (R180): the value, a NaN quieted, and the index. -/
def fmaxiV (f : Fmt) (isMax : Bool) (x i y j : Nat) : Nat × Nat :=
  let w := if winsV f isMax x i y j then (x, i) else (y, j)
  (if isNaNPat f w.1 then quietPat f w.1 else w.1, w.2)

/-- FCMP (R179): whether the condition holds, and the flags. -/
def fcmpV (f : Fmt) (cond a b : Nat) : Bool × Sticky :=
  let va := decodeF f a
  let vb := decodeF f b
  let un := va.isNaN || vb.isNaN
  let x := ordOf f a
  let y := ordOf f b
  let r := match cond with
    | 0 => !un && decide (x = y)
    | 1 => un || decide (x ≠ y)
    | 2 => !un && decide (x < y)
    | 3 => !un && decide (x ≤ y)
    | 4 => !un && decide (x > y)
    | 5 => !un && decide (x ≥ y)
    | 6 => un
    | _ => !un
  let nv := if decide (2 ≤ cond ∧ cond ≤ 5) then un else va.isSig || vb.isSig
  (r, flagIf nv fNV)

/-- FCLASS (R181). -/
def fclassV (f : Fmt) (a : Nat) : Nat :=
  match decodeF f a with
  | .nan _ q _ _ => if q then 1 else 2
  | .inf n => if n then 512 else 4
  | .fin n m _ =>
    if m = 0 then (if n then 64 else 32)
    else if m < 2 ^ f.p then (if n then 128 else 16)
    else if n then 256 else 8

/-! ### The residue family -/

/-- M = 255 × 256 × 253 (R166). -/
def resM : Nat := 16515840

/-- ResVal (R166). -/
def resVal (b : Nat) : Int :=
  let x255 : Int := (b % 256 % 255 : Nat)
  let c1 : Int := (b / 256 % 256 : Nat)
  let x253 : Int := (b / 65536 % 256 % 253 : Nat)
  let c2 : Int := (x255 - c1) % 255
  let c3 : Int := ((x253 - c1 - 256 * c2) * 211) % 253
  let x := c1 + 256 * c2 + 65280 * c3
  if x ≥ 8257920 then x - resM else x

/-- ResEnc (R166). -/
def resEnc (x : Int) : Nat :=
  let y := (x % resM).toNat
  y % 253 * 65536 + y % 256 * 256 + y % 255

/-- An RQ8 pattern as an integer (R165): 0x80 reads as -127 and raises NV. -/
def rq8Val (b : Nat) : Int × Sticky :=
  if b = 0x80 then (-127, fNV) else ((BitVec.ofNat 8 b).toInt, 0)

end Sys2Proof.Machine
end

