-- ==== Sys2Proof/Config.lean ====
section
/-!
DEFINITION. What an RX7200 fixes (the implementation constants of R43 and R84) and the FREE VALUES: what the spec leaves open. A free
value is an opaque constant with no body: nothing can evaluate it, and a claim holds whatever it is.
-/

namespace Sys2Proof.Config

/-- CFG_COLW, the datapath width (R43, R49). -/
def colw : Nat := 32

/-- Compute dies (R43). -/
def dies : Nat := 8

/-- Logical cores per compute die (R43). -/
def coresPerDie : Nat := 16

/-- Columns per core (R43). -/
def columnsPerCore : Nat := 4

/-- Logical columns of the device (R8, R32). -/
def columns : Nat := 512

/-- Scratchpad banks per column (R43). -/
def banks : Nat := 32

/-- log2 of the L2 and L3 line size in bytes (R84). -/
def lineLog : Nat := 10

/-- log2 of the sector size in bytes (R84). -/
def sectorLog : Nat := 7

/-- Bytes of a column's scratchpad (R8). -/
def spadBytes : Nat := 524288

/-- Vector registers of a column (R55). -/
def columnVregs : Nat := 65536

/-- Bytes of a page (R369). -/
def pageBytes : Nat := 65536

/-- MiB of a pseudo-channel of HBM4E before any removal (R29). -/
def hbmMiB : Nat := 768

/-- DESIGN CHOICE, safe (log 1): FREE VALUE, the turn that may be taken at each tick when the input schedule names none. It stands for every
order of the steps of different agents that the spec leaves open. -/
opaque freeTurn : Nat → Turn

/-- DESIGN CHOICE, safe (log 1): FREE VALUE, how many free turns stand before the n-th turn that is owed (R67, R68). -/
opaque patience : Nat → Nat

/-- DESIGN CHOICE, safe (log 2): FREE VALUE, how many clk of the device pass at each tick. -/
opaque clkStep : Nat → Nat

/-- DESIGN CHOICE, safe (log 2): FREE VALUE, how many clk more than the device a column counts in the n-th clk (R69). -/
opaque clkExtra : (col n : Nat) → Nat

/-- DESIGN CHOICE, safe (log 2): FREE VALUE, what a column's clk counter holds at the reset of the device (R86). -/
opaque clkBase : Nat → Word

/-- DESIGN CHOICE, safe (log 7): FREE VALUE, which of the FP32 values within one unit of last place of the exact result the special function numbered `fn` gives
for operand `x` (R190, R191). -/
opaque sfPick : (fn : Nat) → (x : BitVec 32) → Nat

/-- DESIGN CHOICE, safe (log 8): FREE VALUE, the special-function revision that QFEAT selector 1 returns (R365). -/
opaque sfRevision : BitVec 16

/-- DESIGN CHOICE, safe (log 9): FREE VALUE, the identifier the Curator would give the n-th unit it creates (R133). -/
opaque unitId : Nat → BitVec 32

/-- DESIGN CHOICE, safe (log 9): FREE VALUE, the identifier the Catalogue would give the n-th object it creates (R367). -/
opaque objId : Nat → BitVec 16

/-- DESIGN CHOICE, safe (log 10): FREE VALUE, true for ordering code GLN-RX7200-M, false for GLN-RX7200-P (R4). -/
opaque moduleM : Bool

/-- DESIGN CHOICE, safe (log 10): FREE VALUE, MiB of second-tier memory fitted on GLN-RX7200-P (R5). -/
opaque fittedTotal : Nat

/-- DESIGN CHOICE, safe (log 10): FREE VALUE, true when the second tier of GLN-RX7200-P is CXL-attached (R5, R6). -/
opaque secondTierCxl : Bool

/-- DESIGN CHOICE, unsafe (log 11): FREE VALUE, the SLH-DSA-SHAKE-256s signature of the device key over a report (R429), one byte for each position. -/
opaque attestSignature : List Byte → Nat → Byte

/-- DESIGN CHOICE, unsafe (log 11): FREE VALUE, the device public key (R429), one byte for each position. -/
opaque devicePublicKey : Nat → Byte

/-- DESIGN CHOICE, unsafe (log 11): FREE VALUE, the serial number of the device certificate (R429), one byte for each position. -/
opaque serialNumber : Nat → Byte

/-- DESIGN CHOICE, unsafe (log 11): FREE VALUE, Glonel's root signature over some bytes (R429), one byte for each position. -/
opaque rootSignature : List Byte → Nat → Byte

/-- DESIGN CHOICE, unsafe (log 11): FREE VALUE, the public key in package ROM that firmware signatures are checked by (R427). -/
opaque romKey : List Byte

/-- DESIGN CHOICE, unsafe (log 11): FREE VALUE, the signature that the holder of a public key's secret makes over some bytes (R427). -/
opaque slhSign : (key message : List Byte) → List Byte

/-- DESIGN CHOICE, unsafe (log 11): FREE VALUE, what else FIPS 205 admits as a signature: a public key, the bytes signed and a signature (R427). -/
opaque slhAdmits : (key message signature : List Byte) → Bool

/-- The check of FIPS 205 for SLH-DSA-SHAKE-256s (R427): what was signed passes it, and so may what the algorithm admits besides. -/
def slhVerify (key message signature : List Byte) : Bool := signature == slhSign key message || slhAdmits key message signature

/-- DESIGN CHOICE, unsafe (log 11): FREE VALUE, the stage-0 firmware of package ROM (R425), which M0 measures (R428). -/
opaque stage0Image : List Byte

/-- DESIGN CHOICE, unsafe (log 11): FREE VALUE, the training configuration, which M1 measures (R428). -/
opaque trainingConfig : List Byte

/-- DESIGN CHOICE, safe (log 12): FREE VALUE, the scale-out ports that reach a device (R424). -/
opaque portReaches : (port dev : Nat) → Bool

/-- DESIGN CHOICE, safe (log 12): FREE VALUE, the hash that chooses a request's scale-out port from its target device and column (R424). -/
opaque portHash : Nat → Nat → Nat

/-- DESIGN CHOICE, unsafe (log 38): FREE VALUE, what ITER writes where the spec states no value (R72), by the launch's seed, the
workgroup's index, the team's ID_TWG and the register of the two. -/
opaque freeWord : (seed : Word) → (wg team reg : Nat) → Word

/-- DESIGN CHOICE, safe (log 16): FREE VALUE, the frames that the Curator has exposed to the host (R418), by tier, column and frame number. -/
opaque exposed : Nat → Nat → Nat → Bool

/-- MiB of second-tier memory fitted for a logical column: 3072 on -M; on -P the total over 512 in units of 64 MiB, at most 3072 (R4, R5, R422). (log 10: DESIGN CHOICE, safe.) -/
def fittedMiB : Nat := if moduleM then 3072 else min 3072 (fittedTotal / 512 / 64 * 64)

end Sys2Proof.Config
end

