-- ==== Sys2Proof/Machine/State.lean ====
section
/-!
DEFINITION. The state of one RX7200 device as plain data, the reasons a step can stop, and the state after reset.
Sparse data (memory, register files, per-lane values) is a `Store`: pairs of a key and a nonzero value, keys strictly rising; an
unlisted key reads as zero.
-/

namespace Sys2Proof.Machine

/-- Sparse data by key in canonical form: keys strictly rising, no value equal to zero. (log 3: DESIGN CHOICE, unsafe.) -/
abbrev Store (w : Nat) := List (Nat × BitVec w)

/-- Bytes by address, in the canonical form of `Store`. -/
abbrev Memory := List Host.Cell

/-- The five paths of the memory model (R15, R324). -/
inductive Path where
  | T | C | M | F | I
deriving DecidableEq, Repr, Inhabited

/-- The trap causes of R349. -/
inductive Cause where
  | iins | ialn | icls | mbnd | mcol | mprm | mnul | maln | pftp | phwm | pnot | euce | gabs | fpen | brkp | pree | cncl
deriving DecidableEq, Repr, Inhabited

/-- The states of a resident or saved team (R56). Bound is a state of the workgroup here. -/
inductive TState where
  | pendingReady | pendingWait | active | stalled | handler | saved | retiring | retired
deriving DecidableEq, Repr, Inhabited

/-- What a team waits for before its next clause may start (R57), apart from its clause wait mask. `rte` is the wait of a PREE handler
that has reached its RTE (R356). -/
inductive Wait where
  | none
  | bar
  | gbar (g : Nat)
  | waitk (flags : BitVec 12)
  | cntw (op : Nat)
  | rdv (cls : Nat)
  | wfi (flags : BitVec 12)
  | xcol (op : Nat)
  | rte
deriving DecidableEq, Repr, Inhabited

/-- A register that an outstanding operation will write (R77). -/
inductive Dest where
  | v (n : Nat)
  | s (n : Nat)
  | m (n : Nat)
deriving DecidableEq, Repr, Inhabited

/-- A register write that an outstanding operation holds: an element of a vector register under a bit mask, a scalar, or bits of a mask
register. -/
inductive RegWr where
  | v (n lane : Nat) (bits val : Elem)
  | s (n : Nat) (val : Word)
  | m (n : Nat) (lanes vals : Lanes)
deriving DecidableEq, Repr, Inhabited

/-- Where an access reads or writes: an object's slice in a column, with the owning team for object 0 (R196, R197); a workgroup's
scratchpad (R204); a device other than this one; or nowhere, for a far address whose route word gives an error response (R198, R417). -/
inductive Space where
  | slice (ctx col team : Nat)
  | spad (w : Nat)
  | remote (dev col ctx : Nat)
  | nowhere (c : Cause)
deriving DecidableEq, Repr, Inhabited

/-- What an access does when it is performed: a prefetch reads nothing (R218), and a clean puts a line in DRAM when `l3` (R224). -/
inductive Act where
  | read
  | pref
  | clean (l3 : Bool)
  | write (bytes : List Byte)
  | atomic (aop : AOp) (ty : Ty) (x cmp : List Byte)
deriving DecidableEq, Repr, Inhabited

/-- Where the bytes a read returns land: `vreg n ty k` is k elements of type ty in registers n, n + 1, …; `half n upper` is half of an
element, and `upper n` a BF16 pattern (R213); `sreg n ty` is a scalar; `data k` is place k of the operation's data. -/
inductive Land where
  | none
  | vreg (n : Nat) (ty : Ty) (k : Nat)
  | half (n : Nat) (upper : Bool)
  | upper (n : Nat)
  | sreg (n : Nat) (ty : Ty)
  | data (k : Nat)
deriving DecidableEq, Repr, Inhabited

/-- One access of an operation: element number within the operation, lane for ELOG, path, place, full address, size in bytes, act and
landing place. For LDSP and STSP, `halves` lists the halves that the lane uses and `lower` is the half of this access (R213); else `halves`
is empty. -/
structure Access where
  el : Nat
  lane : Nat
  path : Path
  space : Space
  addr : Addr
  size : Nat
  act : Act
  land : Land
  lower : Bool
  halves : List Bool
deriving DecidableEq, Repr, Inhabited

/-- An operand of a copy command (R279): kind, base address, route word of a far operand, FIFO number. -/
structure CpOperand where
  kind : Nat
  base : Addr
  route : Word
  fifo : Nat
deriving DecidableEq, Repr, Inhabited

/-- Which data command of the copy engine (R279). -/
inductive COp where
  | cpy | cpym | cpyf | cpyg | cpys
deriving DecidableEq, Repr, Inhabited

/-- A copy command in progress: its elements not yet read, those read and not yet written or landed (element, destination index, bytes), the
next element to land in its FIFO, the elements that got an error response and land as zero (R281), the index list address, the fault it
stopped on, CPYM's mask word, whether its request has arrived at the source slice, whether it has reserved its space in its FIFO (R312), whether
its staging has been judged (R338), how many range checks another device has yet to answer, the checks that have failed so far, each with the
rank of its operand (R281), and the elements of CPYS whose destination on another device has been asked for its checks, each with whether it has
passed them (R283). -/
structure CopyCmd where
  cop : COp
  ty : Ty
  hint : BitVec 2
  n : Nat
  w : Nat
  src : CpOperand
  dst : CpOperand
  index : Addr
  mask : Word
  left : List Nat
  got : List (Nat × Nat × List Byte)
  landed : Nat
  failed : List Nat
  stopped : Option Cause
  arrived : Bool
  reserved : Bool
  staged : Bool
  ask : Nat
  bad : List (Nat × Cause × Addr)
  dests : List (Nat × Bool)
deriving DecidableEq, Repr, Inhabited

/-- The state of a fence (R329). -/
inductive FState where
  | pending | speculating | replaying
deriving DecidableEq, Repr, Inhabited

/-- What kind of work an outstanding operation is. An LDG keeps its group, if its address pair has the form of R261, its operation code, type
and destination, and the address of each active lane; the records of a YIELD are `yield`; an instruction of the Catalogue keeps itself, its two scalars and its lanes'
addresses. -/
inductive OpKind where
  | alu
  | sf
  | mem
  | yield
  | fence (p q : Path) (scope : Nat) (st : FState)
  | iter (d : Nat)
  | lnch (d : Nat) (sent : Bool)
  | cntw (d : Nat) (h : Word)
  | gpost (g : Nat) (wd : Bool)
  | copy (c : CopyCmd)
  | csig (scope : Nat)
  | cfence (scope : Nat)
  | cmx (payload : Word) (slot : Nat) (hdr : Addr) (queued : Bool)
  | matrix
  | msig (scope : Nat)
  | xcol (k d : Nat) (wide fill : Bool) (sel : List (Nat × Nat × Nat))
  | image (load : Bool)
  | cancel (h : Word)
  | cat (i : Instr) (a b : Word) (lanes : List (Nat × Addr))
  | ldg (grp : Option Nat) (code : Nat) (ty : Ty) (d : Nat) (lanes : List (Nat × Addr))
deriving DecidableEq, Repr, Inhabited

/-- A write of a later-issued operation, with its place in issue order. -/
structure LaterWr where
  seq : Nat
  wr : RegWr
deriving DecidableEq, Repr, Inhabited

/-- An operation that has issued and has not completed: its issuer, issue order, completion flag, the registers it will write, the
writes it holds, the writes of later-issued operations that stay in force when it writes (R77), whether it can raise a flag (R89), its
accesses not yet performed, whether they stand in the path queue, the flags it will raise, lanes that got an error response, its
address, its slot, what it has read so far, whether its team's handler issued it, and its kind. -/
structure Op where
  id : Nat
  agent : Agent
  team : Nat
  seq : Nat
  flag : Option Nat
  dests : List Dest
  writes : List RegWr
  later : List LaterWr
  raiser : Bool
  acc : List Access
  queued : Bool
  raises : BitVec 5
  errLanes : Lanes
  addr : Addr
  slot : Nat
  data : Memory
  sup : Bool
  kind : OpKind
deriving DecidableEq, Repr, Inhabited

/-- A write that its issuer has performed and that is not yet in memory: issuer, team, path, issue order, operation, element, lane, slot,
place, address, bytes; the stage it has reached: 0 in B, 1 in S, 2 in S and A (R313), 3 on its way to another device (R323); its die,
number and stamp once it has crossed from its die (R320); whether it lies in a speculative window (R327); whether it only asks another device for
checks: those of `num` elements of an operand (R281, R283), or of an access to be staged when `num` is 0 (R333); and the pieces, each an address and a
length, that its store has already brought to memory in the words that it reaches (R410). An atomic that crosses dies
travels the same way (R316), and so does any access to another device. -/
structure BufWrite where
  id : Nat
  agent : Agent
  team : Nat
  path : Path
  seq : Nat
  op : Nat
  el : Nat
  lane : Nat
  slot : Nat
  space : Space
  addr : Addr
  lower : Bool
  act : Act
  land : Land
  size : Nat
  stage : Nat
  die : Nat
  num : Nat
  stamp : List Nat
  spec : Bool
  probe : Bool
  before : List (Addr × Nat)
deriving DecidableEq, Repr, Inhabited

/-- A staged access of a deterministic launch (R333, R336): its ticket (ID_TWG, path rank, sequence, element), place, address, act, and the pieces of
its store that have been released before it (R410). -/
structure Staged where
  twg : Nat
  rank : Nat
  seq : Nat
  el : Nat
  space : Space
  addr : Addr
  lower : Bool
  act : Act
  before : List (Addr × Nat)
deriving DecidableEq, Repr, Inhabited

/-- Phase of the generator loop (R244). -/
inductive Phase where
  | off | producing | consuming
deriving DecidableEq, Repr, Inhabited

/-- The Vitrine state of a team (R244). -/
structure Vitrine where
  phase : Phase
  gset : Lanes
  pset : Lanes
  cset : Lanes
  n : Nat
  t : Nat
  d : Nat
  base : Nat
  cent : Addr
  xent : Addr
  cur : Nat
  fill0 : Nat
  fill1 : Nat
  cfr : Nat
  drain : Bool
  pass : BitVec 32
  pra : Store 64
deriving DecidableEq, Repr, Inhabited

/-- What a trap banks (R350), and whether the team was in Retiring. -/
structure Bank where
  retiring : Bool
  s : Store 64
  v : Store 32
  m : Store 1024
  live : Lanes
  ra : Store 64
  pc : Addr
deriving DecidableEq, Repr, Inhabited

/-- A trap of an engine stream's clause that waits for its team's boundary (R101, R352); `op` is the copy command that has stopped, 0 for a
fetch. -/
structure EngCause where
  cause : Cause
  addr : Addr
  slot : Nat
  eng : Nat
  laddr : Addr
  op : Nat
deriving DecidableEq, Repr, Inhabited

/-- A trap taken at issue that waits for the team to settle (R350): cause, recorded slot, resume slot, TRAP_ARG, handler mask, faulting
addresses. -/
structure IssueTrap where
  cause : Cause
  slot : Nat
  rslot : Nat
  arg : BitVec 32
  lanes : Lanes
  laddr : Store 64
  addr : Addr
deriving DecidableEq, Repr, Inhabited

/-- A forked engine stream (R130, R277, R308): clause header address, whether its clause has started, its header and words (R103), the slot, the
scalar snapshot (R22), flags that CWAIT waits for, whether it has stopped on a page fault (R103, R282), whether it issues nothing more
(its CEND or MEND has issued, or it has halted), and whether it counts as ended for RDV (R131). -/
structure Stream where
  pc : Addr
  started : Bool
  hdr : Word
  words : List Word
  slot : Nat
  snap : Store 64
  cwait : BitVec 12
  stopped : Bool
  halted : Bool
  ended : Bool
deriving DecidableEq, Repr, Inhabited

/-- A FORK that has issued and waits for its stream or the matrix unit (R78, R130); `sup` says that the team's handler issued it. -/
structure PendFork where
  mtx : Bool
  target : Addr
  snap : Store 64
  seq : Nat
  sup : Bool
deriving DecidableEq, Repr, Inhabited

/-- An error response (R200): path code, lane, cause, address, slot, place in issue order. -/
structure HeldErr where
  path : Path
  lane : Nat
  cause : Cause
  addr : Addr
  slot : Nat
  seq : Nat
deriving DecidableEq, Repr, Inhabited

/-- The checkpoint and window of a speculative fence (R327): fence operation, registers, masks, frontier, place, read set by places,
stores issued, held flags and held error responses (lane, cause, address); `fell` as in the team (R116). -/
structure Spec where
  op : Nat
  seq : Nat
  sregs : Store 64
  vregs : Store 32
  masks : Store 1024
  live : Lanes
  ra : Store 64
  pc : Addr
  started : Bool
  hdr : Word
  slot : Nat
  fell : Bool
  readSet : List (Space × Addr × Bool)
  stores : Nat
  raises : BitVec 5
  errs : List HeldErr
  conflict : Bool
deriving DecidableEq, Repr, Inhabited

/-- One reservation of a team (R223, R341): counter address, width 64 bits, base, capacity, running count. -/
structure Resv where
  used : Bool
  caddr : Addr
  wide : Bool
  base : Int
  cap : Nat
  count : Nat
deriving DecidableEq, Repr, Inhabited

/-- What a team posted at one XCOL (R239, R243): arrival number, whether it posts pairs, its elements by lane and half. -/
structure XPost where
  k : Nat
  wide : Bool
  els : Store 32
  lanes : Lanes
deriving DecidableEq, Repr, Inhabited

/-- The error responses given to a team in one clk (R92): the clk, their number, and the one that is recorded if none was held before:
its rank, ELOG_INFO without COUNT, its address; and whether ELOG holds one of them. -/
structure ErrNow where
  clk : Nat
  count : Nat
  rank : Nat
  info : Word
  addr : Addr
  recorded : Bool
deriving DecidableEq, Repr, Inhabited

/-- The error response for which a team will trap (R200): its clk, rank and cause. -/
structure PendErr where
  clk : Nat
  rank : Nat
  cause : Cause
deriving DecidableEq, Repr, Inhabited

/-- A team (R46). `since` is the clk from which it waits for its next clause or its exchange, `activeSince` the clk from which it is
Active without a break (R60), `lastClk` the CLKC value that its saved context holds (R363), `maskAt` the clk from which it has waited on its
clause wait mask and `stallAt` the clk at which it became Stalled (R57, R59). `fell`: it fell through to a header that could not be read, whose
block entry is judged when its clause starts (R116). `pendGabs`: a GBAR of it was
cut short by a withdrawal, and GABS follows (R265). `dying`: KILL or CNCL has stopped its streams (R292, R309). `resuming`: it has been restored
and has yet to take its pending causes, before which its streams do not run (R364). `wait` is what its user code waits for and `hwait` what its handler waits for. Scalars
are keyed by number, vector elements by number × 1024 + lane, masks by number, per-lane values by lane. -/
structure Team where
  wg : Nat
  twg : Nat
  lanes : Nat
  nv : Nat
  ns : Nat
  st : TState
  since : Nat
  wait : Wait
  hwait : Wait
  pc : Addr
  started : Bool
  hdr : Word
  slot : Nat
  rslot : Nat
  sregs : Store 64
  vregs : Store 32
  masks : Store 1024
  live : Lanes
  ra : Store 64
  rngC : Store 64
  holds : BitVec 12
  fstat : BitVec 5
  fctl : BitVec 5
  pstat : BitVec 2
  elogAddr : Addr
  elogInfo : Word
  errNow : Option ErrNow
  trapCause : Word
  trapAddr : Addr
  trapRpc : Addr
  trapArg : BitVec 32
  trapLaddr : Store 64
  bank : Option Bank
  issueTrap : Option IssueTrap
  pendErr : Option PendErr
  pendGabs : Bool
  pendFpen : Bool
  pendCopy : Option EngCause
  pendMtx : Option EngCause
  pendPree : Bool
  pendCncl : Bool
  causeSince : Nat
  clkOff : Word
  vit : Vitrine
  barArr : Bool
  gbarArr : Option Nat
  xcount : Nat
  xposts : List XPost
  hwm : Nat
  resv : List Resv
  forks : List PendFork
  copy : Option Stream
  mtx : Option Stream
  spec : Option Spec
  wake : Bool
  activeSince : Nat
  lastClk : Word
  maskAt : Option Nat
  stallAt : Nat
  fell : Bool
  dying : Bool
  resuming : Bool
deriving DecidableEq, Repr, Inhabited

/-- The states of a workgroup (R54, R56, R66). -/
inductive WgState where
  | unbound | bound | resident | saved | retired | dropped
deriving DecidableEq, Repr, Inhabited

/-- A tile in Bt (R295): type, used depth, element patterns keyed by k × 64 + n. -/
structure Tile where
  ty : Ty
  kc : Nat
  els : Store 64
deriving DecidableEq, Repr, Inhabited

/-- A matrix command that has begun or is queued (R288, R308): its operation, the instruction, its scalar snapshot, whether it is a follow-on,
the rows that it has done, its place in issue order: it issues when it begins (R308), and the values that it has taken for a row of MMAS whose
metadata it still lacks (R296). -/
structure MCmd where
  op : Nat
  instr : Instr
  snap : Store 64
  follow : Bool
  row : Nat
  seq : Nat
  vals : Option (List Byte)
deriving DecidableEq, Repr, Inhabited

/-- What the matrix unit holds (R79, R295). Accumulator elements are keyed by 64 × row + column. -/
structure MxState where
  a0 : Store 32
  a1 : Store 32
  a2 : Store 32
  a3 : Store 32
  w0 : Store 64
  w1 : Store 64
  qa : List Byte
  qb : List Byte
  qs : List Byte
  bt : Option Tile
  busy : Option MCmd
  follow : List MCmd
deriving DecidableEq, Repr, Inhabited

/-- A workgroup (R50): launch unit, index, column, state, teams in order of ID_TWG, scratchpad with poisoned word offsets, placement,
ITER position, staged accesses and entries used, saved matrix state, the group of its open GBAR arrival and whether that has raised A (R265), free launches it created, whether its
launch counter has been decremented and its staged accesses released, whether it is fatal (R353) or pre-empted, the teams to which a
CANCEL has yet to deliver CNCL (R402), whether a CANCEL has reached it: what it stages afterwards is discarded (R54), and the clk at which it was
last restored (R80). -/
structure Workgroup where
  launch : Nat
  idx : Nat
  col : Nat
  st : WgState
  teams : List Nat
  spad : Memory
  spadPoison : List Nat
  spadBase : Nat
  iterPos : Nat
  staged : List Staged
  stageUsed : Nat
  savedMx : Option (Nat × MxState)
  gbarK : Option Nat
  gbarUp : Bool
  children : List Nat
  counted : Bool
  released : Bool
  fatal : Bool
  preempted : Bool
  cncl : List Nat
  cancelled : Bool
  restoredAt : Nat
deriving DecidableEq, Repr, Inhabited

/-- The levels of R52. -/
inductive Level where
  | launch | graph | phase | job
deriving DecidableEq, Repr, Inhabited

/-- A `.team` and `.regs` shape, as CFG_TEAM reports it (R85). -/
structure Shape where
  lanes : Nat
  nv : Nat
  ns : Nat
  twg : Nat
  spad : Nat
deriving DecidableEq, Repr, Inhabited

/-- What a launch record and its kernel descriptor fix (R392, R394). -/
structure Launch where
  kaddr : Addr
  shape : Shape
  params : List (Nat × Word)
  g : Nat
  p : Nat
  q : Nat
  priv : Nat
  seed : Word
  stage : Nat
  det : Bool
  gang : Bool
  group : Option Nat
  node : Nat
  pred : BitVec 32
  creator : Option Nat
  free : Bool
  resv : List (Bool × Addr × Bool × Nat × List Nat)
  fl : BitVec 5
deriving DecidableEq, Repr, Inhabited

/-- A completion unit (R52, R53, R395): identifier, level, context, counter, status, whether a CANCEL has reached it (R54), whether it has
begun and is complete, whether its parent's counter has counted it, parts wanted and attached, parent unit, order among its parent's parts,
and the launch it is, if it is one. -/
structure Completion where
  ident : BitVec 32
  level : Level
  ctx : Nat
  counter : Nat
  cancelled : Bool
  dropped : Bool
  begun : Bool
  done : Bool
  counted : Bool
  want : Nat
  parts : List Nat
  parent : Option Nat
  order : Nat
  launch : Option Launch
deriving DecidableEq, Repr, Inhabited

/-- A slot-table entry (R399); `lid` and `w` name the launch and workgroup. SEQ counts modulo 2^32. -/
structure SlotEntry where
  valid : Bool
  rst : Bool
  lid : BitVec 32
  wgIdx : BitVec 32
  seqNo : BitVec 32
  w : Nat
deriving DecidableEq, Repr, Inhabited

/-- The states of a Loan unit (R207). -/
inductive LoanState where
  | free | lent | allocated | reclaiming
deriving DecidableEq, Repr, Inhabited

/-- A post slot of a column for a context's group (R262). -/
structure PostSlot where
  ctx : Nat
  g : Nat
  holder : Option Nat
  a : Nat
  withdrawn : Bool
deriving DecidableEq, Repr, Inhabited

/-- A merge entry of a column's L2 slice (R285): the key, the requests joined, the next sector, their number, whether it still accepts
joins. -/
structure Merge where
  key : List Nat
  joined : List Nat
  next : Nat
  total : Nat
  openJoin : Bool
deriving DecidableEq, Repr, Inhabited

/-- A logical column (R31, R34). -/
structure Column where
  dp : Option Nat
  slots : List SlotEntry
  seqNo : BitVec 32
  loan : List (LoanState × Nat)
  posts : List PostSlot
  mxHolder : Option Nat
  mx : MxState
  mxWaiters : List Nat
  sfq : List Nat
  poolHbm : List Nat
  poolSec : List Nat
  merges : List Merge
deriving DecidableEq, Repr, Inhabited

/-- A page entry (R369). -/
structure Pte where
  p : Bool
  ft : Bool
  w : Bool
  x : Bool
  tier : BitVec 2
  sh : Bool
  col : Nat
  frame : Nat
deriving DecidableEq, Repr, Inhabited

/-- An object's descriptor (R368), whether it is a code object and supervisor-only (R375, R385), the page from which on
pages without an entry are first-touch, the replicas of its pages, each the page, the column of its frame and its entry of TIER 2 (R369, R382), and
the scale snapshot taken in one step with it, if it is a snapshot (R379). -/
structure Obj where
  ty : Ty
  w : Bool
  split : Bool
  tol : Bool
  scale : BitVec 2
  dup : Bool
  snap : Bool
  bound : Nat
  sbase : Addr
  rows : BitVec 32
  pitch : BitVec 32
  bcol : Nat
  ncol : Nat
  stride : Nat
  blk : BitVec 32
  source : Addr
  code : Bool
  sup : Bool
  ftFrom : Nat
  replicas : List (PageRef × Nat × Pte)
  mate : Option Nat
deriving DecidableEq, Repr, Inhabited

/-- A group-table entry (R259). -/
structure Group where
  memb : BitVec 128
  v : Bool
  abs : Bool
deriving DecidableEq, Repr, Inhabited

/-- A mailbox with its error queue (R403, R419): command words, response words, head, tail, dropped count, records by place. -/
structure Mailbox where
  cmd : List Word
  resp : List Word
  head : Word
  tail : Word
  dropped : Word
  queue : List (Nat × List Word)
deriving DecidableEq, Repr, Inhabited

/-- A context (R367, R417, R420): object 0's bound, W and DUP (R374, R377), and the frames of its reserve that it has given to each column's pool
(R405). -/
structure Context where
  part : Nat
  dev : Nat
  privBound : Nat
  privW : Bool
  privDup : Bool
  tvec : Addr
  objs : List (Nat × Obj)
  pages : List (PageRef × Pte)
  groups : List Group
  reserve : Nat
  given : List (Nat × Nat)
  qfeat0 : Word
  qfeat1 : Word
  qfeat2 : Word
  mb : Mailbox
  log : List (List Word)
  events : Nat
deriving DecidableEq, Repr, Inhabited

/-- An entry of the Curator's intake FIFO (R391): a launch record with the operation that issued it, or, from the mailbox, with its job
description; or a cancel request with its handle. -/
inductive Intake where
  | record (ctx : Nat) (op : Option Nat) (words : List Word) (desc : Option JobDesc)
  | cancel (ctx : Nat) (h : Word)
deriving DecidableEq, Repr, Inhabited

/-- An entry of the intake FIFO with the clk in which it reached base die 0 and its issuing column (R391); 512 stands for the mailbox. -/
structure Arrival where
  clk : Nat
  col : Nat
  entry : Intake
deriving DecidableEq, Repr, Inhabited

/-- An entry of the installation (R420, R424): a local partition or a remote device, its MAC address, whether it is unreachable. -/
structure Install where
  part : Option Nat
  mac : BitVec 48
  unreachable : Bool
deriving DecidableEq, Repr, Inhabited

/-- The reply of the base-die controller to a packet (R406): its tag, the bytes it returns, and their poison bits by word. -/
structure PacketReply where
  tag : Nat
  bytes : List Byte
  poison : BitVec 32
deriving DecidableEq, Repr, Inhabited

/-- Whom an error is charged to, and where it lies (R412, R413): the context, the object, the offset of its granule, and the frame's TIER. -/
structure Charge where
  owner : Option Nat
  obj : Nat
  off : Nat
  tier : Nat
deriving DecidableEq, Repr, Inhabited

/-- Corrected errors of one frame that wait to be written as one record (R413): the key, source and location of the first, the context whose access
triggered it where the record names one, their number, and the charge as it stood at the first. -/
structure Corrected where
  key : Nat
  src : Nat
  loc : Nat
  trig : Option Nat
  count : Nat
  charge : Charge
deriving DecidableEq, Repr, Inhabited

/-- The stages of R425 and R421; `reset` is the device before power is good. -/
inductive Stage where
  | reset | stage0 | stage1 | stage2 | recovery | halted
deriving DecidableEq, Repr, Inhabited

/-- A context that has moved to another device (R384): the context, its workgroups and teams, their units, incomplete copy
commands and post slots, and the contents and poison of its frames. -/
structure Migrated where
  ctx : Nat
  body : Context
  wgs : List (Nat × Workgroup)
  teams : List (Nat × Team)
  units : List (Nat × Completion)
  ops : List Op
  posts : List (Nat × PostSlot)
  mem : Memory
  poison : List Nat
deriving DecidableEq, Repr, Inhabited

/-- The state of one device. Associations are lists of key and value with no repeated key. `resvDone` holds the reservations made so far for the
record at the head of the intake, `resvAsk` the Curator's requests to another device for the next one, each with its answer: an error or bytes
(R341), `resvWant` the pages that its adds wait for. `cxlLost` is the second-tier memory of a column, in MiB, that hot removal has taken (R422). `removed`
lists the DRAM dies that are out of use, `boot` is the image that was staged when this start began (R427), `recorded` those that the package remembers (R414, R426). `idleMb` holds what the host has written in the
pages of contexts that do not exist (R419). `inbox` holds the requests of other devices that wait for a page (R370, R381), each with its port;
`farCounts` counts accesses from other devices by page and source (R382); `moved` tells where a context that has left has gone (R384); `reply` is the
last reply of the base-die controllers (R406). (log 3: DESIGN CHOICE, unsafe.) -/
structure State where
  sched : List Turn
  tick : Nat
  now : Nat
  seq : Nat
  nextId : Nat
  free : Nat
  cur : Agent
  arg : EvArg
  stage : Stage
  nPart : Nat
  throt : Bool
  crem : Nat
  removed : List (Nat × Nat)
  recorded : List (Nat × Nat)
  fwver : BitVec 12
  rollback : BitVec 6
  staged : Option FwImage
  boot : Option FwImage
  power : Nat
  m0 : BitVec 512
  m1 : BitVec 512
  m2 : BitVec 512
  remap : List (Nat × Nat)
  unavail : List Nat
  install : List (Nat × Install)
  portsDown : List Nat
  devMb : Mailbox
  idleMb : List (Nat × Mailbox)
  hostMem : Memory
  contexts : List (Nat × Context)
  columns : List (Nat × Column)
  teams : List (Nat × Team)
  wgs : List (Nat × Workgroup)
  units : List (Nat × Completion)
  intake : List Arrival
  ops : List Op
  bufs : List BufWrite
  vclk : List (List Nat)
  pclk : List (List Nat)
  mem : Memory
  dram : Memory
  poison : List Nat
  dmaOut : List Byte
  egress : List (Nat × EtherFrame)
  inbox : List (Nat × EtherFrame)
  farCounts : List ((PageRef × BitVec 48) × Nat)
  moved : List (Nat × BitVec 48)
  reply : Option PacketReply
  corrected : List Corrected
  elsewhere : List Migrated
  badFrames : List (Nat × Nat × Nat)
  cxlLost : Nat
  resvDone : List (Bool × Addr × Bool × Nat × List Nat)
  resvAsk : List (Nat × Option (Option (List Byte)))
  resvWant : List PageRef
deriving DecidableEq, Repr, Inhabited

/-- Why a step can stop with a fault. -/
inductive Fault where
  /-- Raised by `step` alone, when a turn of the input schedule names an instruction word's instruction as a step of the machine. No such
  step exists on the hardware, so the stop is safe. -/
  | notAStep
deriving DecidableEq, Repr, Inhabited

/-- Why an instruction has no meaning. -/
inductive Refusal where
  /-- An arm of `exec` that is not written yet; no meaning answers with it. Safe. -/
  | notModelled (mnemonic : String)
deriving DecidableEq, Repr, Inhabited

/-- The clocks of n agents, each of 8 counters, all zero (R320). -/
def zeroClocks (n : Nat) : List (List Nat) := List.replicate n (List.replicate 8 0)

/-- An empty mailbox; its response slot reads DONE (log 6). (log 6: DESIGN CHOICE, unsafe.) -/
def Mailbox.initial : Mailbox :=
  { cmd := List.replicate 8 0, resp := 1 :: List.replicate 7 0, head := 0, tail := 0, dropped := 0, queue := [] }

/-- The matrix unit as the next holder finds it (R78, R295). -/
def MxState.initial : MxState :=
  { a0 := [], a1 := [], a2 := [], a3 := [], w0 := [], w1 := [], qa := [], qb := [], qs := [], bt := none, busy := none, follow := [] }

/-- An empty entry of a slot table (R399). -/
def SlotEntry.empty : SlotEntry := { valid := false, rst := false, lid := 0, wgIdx := 0, seqNo := 0, w := 0 }

/-- A column that has run nothing (R399, log 5). (log 5: DESIGN CHOICE, unsafe.) -/
def Column.initial : Column :=
  { dp := none, slots := List.replicate 32 SlotEntry.empty, seqNo := 0, loan := List.replicate 8 (.free, 0), posts := [], mxHolder := none, mx := MxState.initial,
    mxWaiters := [], sfq := [], poolHbm := [], poolSec := [], merges := [] }

/-- The Vitrine outside a loop (R244). (log 4: DESIGN CHOICE, unsafe.) -/
def Vitrine.initial : Vitrine :=
  { phase := .off, gset := 0, pset := 0, cset := 0, n := 0, t := 0, d := 0, base := 0, cent := 0, xent := 0, cur := 0, fill0 := 0,
    fill1 := 0, cfr := 0, drain := false, pass := 0, pra := [] }

/-- The remap table at reset: each logical core is served by the physical core with the same number (R33). Keys are die × 16 + core,
values are physical core numbers. -/
def remapInitial : List (Nat × Nat) := (List.range 128).map fun i => (i, i % 16)

/-- The device right after reset (R320, R416, R421, R428; logs 1 to 6). (log 3: DESIGN CHOICE, unsafe.) (log 6: DESIGN CHOICE, unsafe.) -/
def State.reset : State :=
  { sched := [], tick := 0, now := 0, seq := 0, nextId := 1, free := 0, cur := .team 0, arg := .none, stage := .reset, nPart := 1, throt := false,
    crem := 0, removed := [], recorded := [], fwver := 0, rollback := 0, staged := none, boot := none, power := 2800, m0 := 0, m1 := 0, m2 := 0,
    remap := remapInitial, unavail := [], install := [], portsDown := [], devMb := Mailbox.initial, idleMb := [], hostMem := [], contexts := [],
    columns := [], teams := [], wgs := [], units := [], intake := [], ops := [], bufs := [], vclk := zeroClocks 8,
    pclk := zeroClocks 4, mem := [], dram := [], poison := [], dmaOut := [], egress := [], inbox := [], farCounts := [],
    moved := [], reply := none, corrected := [],
    elsewhere := [], badFrames := [], cxlLost := 0, resvDone := [], resvAsk := [], resvWant := [] }

end Sys2Proof.Machine
end

