-- ==== Sys2Proof/Machine/Store.lean ====
section
/-!
DEFINITION. Sparse data in canonical form: reading and writing a `Store`, associations by a number, and byte lists in memory order (R23).
-/

namespace Sys2Proof.Machine

/-- The value at a key; an unlisted key reads as zero. (log 3: DESIGN CHOICE, unsafe.) -/
def Store.get {w : Nat} : Store w → Nat → BitVec w
  | [], _ => 0
  | (j, x) :: r, k => if j = k then x else if k < j then 0 else Store.get r k

/-- Write one key, keeping the canonical form: writing zero removes the entry. -/
def Store.set {w : Nat} : Store w → Nat → BitVec w → Store w
  | [], k, v => if v = 0 then [] else [(k, v)]
  | (j, x) :: r, k, v =>
    if k < j then (if v = 0 then (j, x) :: r else (k, v) :: (j, x) :: r)
    else if k = j then (if v = 0 then r else (k, v) :: r)
    else (j, x) :: Store.set r k v

/-- The canonical form from a lower bound on: keys strictly rising, no value zero. -/
def Store.wfFrom {w : Nat} : Nat → Store w → Bool
  | _, [] => true
  | lo, (k, v) :: r => decide (lo ≤ k) && decide (v ≠ 0) && Store.wfFrom (k + 1) r

/-- The canonical form. -/
def Store.wf {w : Nat} (st : Store w) : Bool := Store.wfFrom 0 st

/-- The entries whose key satisfies `p`. -/
def Store.keep {w : Nat} (st : Store w) (p : Nat → Bool) : Store w := st.filter fun e => p e.1

/-- Write every entry of `src` into `dst`, each at its own key. -/
def Store.merge {w : Nat} (dst src : Store w) : Store w := src.foldl (fun d e => Store.set d e.1 e.2) dst

/-- Replace the entries of `dst` whose key satisfies `p` by those of `src`. -/
def Store.restore {w : Nat} (dst src : Store w) (p : Nat → Bool) : Store w := Store.merge (dst.filter fun e => !p e.1) src

/-- The bytes of `n` consecutive addresses. (log 3: DESIGN CHOICE, unsafe.) -/
def Memory.bytes (m : Memory) (a : Nat) : Nat → List Byte
  | 0 => []
  | n + 1 => Store.get (w := 8) m a :: Memory.bytes m (a + 1) n

/-- Write consecutive bytes. -/
def Memory.setBytes (m : Memory) (a : Nat) : List Byte → Memory
  | [] => m
  | b :: bs => Memory.setBytes (Store.set (w := 8) m a b) (a + 1) bs

/-- The canonical form of a memory. -/
def Memory.wf (m : Memory) : Bool := Store.wf (w := 8) m

/-- The number whose bytes, least significant first, are `bs` (R23). -/
def natOfBytes : List Byte → Nat
  | [] => 0
  | b :: bs => b.toNat + 256 * natOfBytes bs

/-- The `n` low bytes of a number, least significant first (R23). -/
def bytesOfNat (x : Nat) : Nat → List Byte
  | 0 => []
  | n + 1 => BitVec.ofNat 8 x :: bytesOfNat (x / 256) n

/-- The value a key names in an association. -/
def assoc {α : Type} : List (Nat × α) → Nat → Option α
  | [], _ => none
  | (j, x) :: r, k => if j = k then some x else assoc r k

/-- Set a key of an association: replaced in place, or added at the end. -/
def assocSet {α : Type} : List (Nat × α) → Nat → α → List (Nat × α)
  | [], k, v => [(k, v)]
  | (j, x) :: r, k, v => if j = k then (j, v) :: r else (j, x) :: assocSet r k v

/-- Remove a key of an association. -/
def assocDel {α : Type} (l : List (Nat × α)) (k : Nat) : List (Nat × α) := l.filter fun e => e.1 != k

/-- The set of the lanes listed. -/
def lanesOf : List Nat → Lanes
  | [] => 0
  | l :: ls => lanesOf ls ||| (BitVec.twoPow 1024 l)

/-- Lanes 0 to n - 1. -/
def lanesBelow (n : Nat) : Lanes := BitVec.ofNat 1024 (2 ^ n - 1)

/-- The lanes of a set below a bound, ascending. -/
def laneList (m : Lanes) (n : Nat) : List Nat := (List.range n).filter fun l => m.getLsbD l

/-- Set one bit of a lane set. -/
def setLane (m : Lanes) (l : Nat) (b : Bool) : Lanes :=
  if b then m ||| BitVec.twoPow 1024 l else m &&& ~~~(BitVec.twoPow 1024 l)

end Sys2Proof.Machine
end

