-- ==== Sys2Proof/Machine/Regs.lean ====
section
/-!
DEFINITION. The parts of the state by name, the registers of a team (R73 to R75), its completion flags (R20, R76), the operations that have
issued and not completed (R77, R89), and the error log (R91, R92).
-/

namespace Sys2Proof.Machine

/-- The outcome of a step. -/
abbrev Out := Host.Outcome State Fault Refusal

/-- The team with an identifier. -/
def State.team? (s : State) (u : Nat) : Option Team := assoc s.teams u

/-- Replace a team. -/
def State.setTeam (s : State) (u : Nat) (t : Team) : State := { s with teams := assocSet s.teams u t }

/-- Change a team, if it is there. -/
def State.modTeam (s : State) (u : Nat) (f : Team → Team) : State :=
  match s.team? u with
  | some t => s.setTeam u (f t)
  | none => s

/-- The workgroup with an identifier. -/
def State.wg? (s : State) (w : Nat) : Option Workgroup := assoc s.wgs w

/-- Change a workgroup, if it is there. -/
def State.modWg (s : State) (w : Nat) (f : Workgroup → Workgroup) : State :=
  match s.wg? w with
  | some g => { s with wgs := assocSet s.wgs w (f g) }
  | none => s

/-- The completion unit with a key. -/
def State.unit? (s : State) (n : Nat) : Option Completion := assoc s.units n

/-- Change a completion unit, if it is there. -/
def State.modUnit (s : State) (n : Nat) (f : Completion → Completion) : State :=
  match s.unit? n with
  | some c => { s with units := assocSet s.units n (f c) }
  | none => s

/-- A column; one that has run nothing is `Column.initial`. -/
def State.column (s : State) (c : Nat) : Column := (assoc s.columns c).getD Column.initial

/-- Change a column. -/
def State.modCol (s : State) (c : Nat) (f : Column → Column) : State :=
  { s with columns := assocSet s.columns c (f (s.column c)) }

/-- A context. -/
def State.ctx? (s : State) (x : Nat) : Option Context := assoc s.contexts x

/-- Change a context, if it is there. -/
def State.modCtx (s : State) (x : Nat) (f : Context → Context) : State :=
  match s.ctx? x with
  | some c => { s with contexts := assocSet s.contexts x (f c) }
  | none => s

/-- The column on which a workgroup is resident (R51). -/
def State.colOfWg (s : State) (w : Nat) : Nat := match s.wg? w with | some g => g.col | none => 0

/-- The column of a team. -/
def State.colOf (s : State) (t : Team) : Nat := s.colOfWg t.wg

/-- The launch unit of a workgroup. -/
def State.launchKey (s : State) (w : Nat) : Nat := match s.wg? w with | some g => g.launch | none => 0

/-- The launch of a workgroup. -/
def State.launchOf (s : State) (w : Nat) : Option Launch := (s.unit? (s.launchKey w)).bind (·.launch)

/-- The context of a workgroup. -/
def State.ctxOfWg (s : State) (w : Nat) : Nat := match s.unit? (s.launchKey w) with | some c => c.ctx | none => 0

/-- The context of a team. -/
def State.ctxOf (s : State) (t : Team) : Nat := s.ctxOfWg t.wg

/-- The declared scratchpad size of a workgroup's launch (R204). -/
def State.spadSize (s : State) (w : Nat) : Nat := match s.launchOf w with | some l => l.shape.spad | none => 0

/-- True when the launch of a workgroup is deterministic (R332). -/
def State.isDet (s : State) (w : Nat) : Bool := match s.launchOf w with | some l => l.det | none => false

/-- A team that runs at supervisor privilege: it is in Handler (R347). -/
def Team.priv (t : Team) : Bool := t.st == .handler

/-- The clk that a column has counted when the device has counted n: at least as many (R69). (log 2: DESIGN CHOICE, safe.) -/
def colClk (c : Nat) : Nat → Nat
  | 0 => 0
  | n + 1 => colClk c n + 1 + Config.clkExtra c n

/-- The clk of a column since the device's clk was `since`. (log 2: DESIGN CHOICE, safe.) -/
def State.elapsed (s : State) (c since : Nat) : Nat := colClk c s.now - colClk c since

/-! ### Registers -/

/-- Scalar n (R74). -/
def Team.scal (t : Team) (n : Nat) : Word := Store.get t.sregs n

/-- Mask register n (R46). -/
def Team.mask (t : Team) (n : Nat) : Lanes := Store.get t.masks n

/-- Element of vector register n in lane l (R73). -/
def Team.elem (t : Team) (n l : Nat) : Elem := Store.get t.vregs (n * 1024 + l)

/-- The lanes of a team as a set. -/
def Team.all (t : Team) : Lanes := lanesBelow t.lanes

/-- ActiveLanes(M) of R18, as a set. -/
def Team.activeSet (t : Team) (m : BitVec 4) : Lanes :=
  t.all &&& (if m == 0 then t.mask 0 else t.mask 0 &&& t.mask m.toNat)

/-- ActiveLanes(M) of R18, ascending. -/
def Team.active (t : Team) (m : BitVec 4) : List Nat := laneList (t.activeSet m) t.lanes

/-- The summary word of a mask register: bit w is 1 when mask word w is nonzero (R46, R47). -/
def summaryOf (m : Lanes) : BitVec 32 :=
  (List.range 32).foldl (fun acc w => if m.extractLsb' (32 * w) 32 != 0 then acc ||| BitVec.twoPow 32 w else acc) 0

/-- The pattern of type `ty` that an instruction reads in lane l at register n: the pair for a 64-bit type, else the low bits (R73). -/
def Team.pat (t : Team) (ty : Ty) (n l : Nat) : Word :=
  if ty.wide then t.elem (n + 1) l ++ t.elem n l else ((t.elem n l).setWidth 64) &&& BitVec.ofNat 64 (2 ^ ty.width - 1)

/-- The pattern of type `ty` in the low bits of a scalar (R74). -/
def Team.spat (t : Team) (ty : Ty) (n : Nat) : Word := t.scal n &&& BitVec.ofNat 64 (2 ^ ty.width - 1)

/-- A pattern of width `ty.width` extended to 32 bits as R73 writes it. -/
def extend32 (ty : Ty) (x : Word) : Elem :=
  match ty with
  | .i8 => (x.setWidth 8).signExtend 32
  | .i16 => (x.setWidth 16).signExtend 32
  | _ => (x &&& BitVec.ofNat 64 (2 ^ ty.width - 1)).setWidth 32

/-- A pattern of width `ty.width` extended to 64 bits as R74 writes it. -/
def extend64 (ty : Ty) (x : Word) : Word :=
  match ty with
  | .i8 => (x.setWidth 8).signExtend 64
  | .i16 => (x.setWidth 16).signExtend 64
  | .i32 => (x.setWidth 32).signExtend 64
  | _ => x &&& BitVec.ofNat 64 (2 ^ ty.width - 1)

/-- The register writes that put a pattern of type `ty` in lane l at register n (R73). -/
def putPat (ty : Ty) (n l : Nat) (x : Word) : List RegWr :=
  if ty.wide then [.v n l (BitVec.allOnes 32) (x.setWidth 32), .v (n + 1) l (BitVec.allOnes 32) (x.extractLsb' 32 32)]
  else [.v n l (BitVec.allOnes 32) (extend32 ty x)]

/-- Write a whole element (R73). -/
def putElem (n l : Nat) (x : Elem) : List RegWr := [.v n l (BitVec.allOnes 32) x]

/-- The vector destinations of a value of type `ty` at register n. -/
def destsV (ty : Ty) (n : Nat) : List Dest := if ty.wide then [.v n, .v (n + 1)] else [.v n]

/-- One register write (R47, R73, R74, R75): bits of lanes at and above L are not written. -/
def Team.applyWr (t : Team) : RegWr → Team
  | .v n l bits val =>
    { t with vregs := Store.set t.vregs (n * 1024 + l) ((t.elem n l &&& ~~~bits) ||| (val &&& bits)) }
  | .s n val => { t with sregs := Store.set t.sregs n val }
  | .m n lanes vals =>
    let on := lanes &&& t.all
    { t with masks := Store.set t.masks n ((t.mask n &&& ~~~on) ||| (vals &&& on)) }

/-- Several register writes, in order. -/
def Team.applyAll (t : Team) (ws : List RegWr) : Team := ws.foldl Team.applyWr t

/-- The register that a write goes to. -/
def RegWr.dest : RegWr → Dest
  | .v n _ _ _ => .v n
  | .s n _ => .s n
  | .m n _ _ => .m n

/-- The register an instruction reads, if the use is a read. -/
def useSource : Use → Option Dest
  | .vs n => some (.v n)
  | .ss n => some (.s n)
  | .ms n => some (.m n)
  | .vd _ | .sd _ | .md _ => none

/-! ### Operations that have issued and not completed -/

/-- The operation with an identifier. -/
def State.op? (s : State) (id : Nat) : Option Op := s.ops.find? fun o => o.id == id

/-- Replace an operation. -/
def State.setOp (s : State) (o : Op) : State := { s with ops := s.ops.map fun p => if p.id == o.id then o else p }

/-- Remove an operation. -/
def State.delOp (s : State) (id : Nat) : State := { s with ops := s.ops.filter fun o => o.id != id }

/-- The outstanding operations of a team and its streams. -/
def State.opsOf (s : State) (u : Nat) : List Op := s.ops.filter fun o => o.team == u

/-- The team runs its handler (R347). -/
def State.inHandler (s : State) (u : Nat) : Bool := match s.team? u with | some t => t.priv | none => false

/-- A register that a trap banks (R350). -/
def Dest.banked : Dest → Bool
  | .v n => decide (n < 4)
  | .s n => decide (n < 8)
  | .m n => decide (n < 4)

/-- A write of a register is pending for team u (R77). In Handler a banked register is the handler's own: a write of the user's that is still
outstanding goes to the bank (R127, R240, R350). -/
def State.pendingDest (s : State) (u : Nat) (d : Dest) : Bool :=
  s.ops.any fun o => o.team == u && o.dests.contains d && !(d.banked && s.inHandler u && !o.sup)

/-- Flag n of a team is set: a software hold stands, or a setter is outstanding (R20, R128). -/
def State.flag (s : State) (u n : Nat) : Bool :=
  (match s.team? u with | some t => t.holds.getLsbD n | none => false) || s.ops.any fun o => o.team == u && o.flag == some n

/-- KSTAT (R87). -/
def State.kstat (s : State) (u : Nat) : BitVec 12 :=
  (List.range 12).foldl (fun acc n => if s.flag u n then acc ||| BitVec.twoPow 12 n else acc) 0

/-- An operation issued by an agent. -/
def Op.by_ (o : Op) (a : Agent) : Bool := o.agent == a

/-- An operation with nothing in it. -/
def Op.blank (id : Nat) (a : Agent) (u sq : Nat) (k : OpKind) : Op :=
  { id := id, agent := a, team := u, seq := sq, flag := none, dests := [], writes := [], later := [], raiser := false, acc := [],
    queued := false, raises := 0, errLanes := 0, addr := 0, slot := 0, data := [], sup := false, kind := k }

/-- The operation is a YIELD's (R250). -/
def Op.isYield (o : Op) : Bool := o.kind == .yield

/-- A scratchpad offset lies in the frame under consumption (R246, R254). -/
def Vitrine.inFrame (v : Vitrine) (a : Nat) : Bool :=
  decide (v.base + 4 * (v.cfr * v.n * v.d) ≤ a ∧ a < v.base + 4 * ((v.cfr + 1) * v.n * v.d))

/-- Add an operation of the agent that issues, at the next place in issue order. -/
def State.addOp (s : State) (u : Nat) (k : OpKind) (f : Op → Op) : State :=
  let o := f { Op.blank s.nextId s.cur u s.seq k with sup := s.cur == .team u && s.inHandler u }
  { s with ops := s.ops ++ [o], nextId := s.nextId + 1, seq := s.seq + 1 }

/-- The path codes of R91. -/
def Path.code : Path → Nat
  | .T => 0
  | .C => 1
  | .M => 2
  | .F => 3
  | .I => 4

/-- The cause codes of R349. -/
def Cause.code : Cause → BitVec 8
  | .iins => 0x01 | .ialn => 0x02 | .icls => 0x03 | .mbnd => 0x10 | .mcol => 0x11 | .mprm => 0x12 | .mnul => 0x13 | .maln => 0x14
  | .pftp => 0x18 | .phwm => 0x19 | .pnot => 0x1A | .euce => 0x20 | .gabs => 0x21 | .fpen => 0x30 | .brkp => 0x38 | .pree => 0x40
  | .cncl => 0x41

/-- The rank by which R92 chooses among the error responses of one clk: path, then issue order, then lane. (log 77: DESIGN CHOICE, unsafe.) -/
def errRank (p : Path) (sq lane : Nat) : Nat := (p.code * 2 ^ 64 + sq) * 1024 + lane

/-- ELOG_INFO of a first record, COUNT 1 (R91). -/
def elogWord (p : Path) (lane : Nat) (c : Cause) (slot : Nat) : Word :=
  let onT := p == .T
  BitVec.ofNat 64 (1 + 2 * p.code + 256 * c.code.toNat + 65536 * (if onT then lane % 1024 else 0) + 2 ^ 32 +
    2 ^ 48 * (if onT then slot % 16 else 0))

/-- COUNT of ELOG_INFO set to `n`, stopping at 65,535 (R91). -/
def elogCount (info : Word) (n : Nat) : Word :=
  (info &&& ~~~(0x0000FFFF00000000 : Word)) ||| BitVec.ofNat 64 (2 ^ 32 * min n 65535)

/-- Record an error response in ELOG (R91, R92). -/
def Team.elog (t : Team) (now : Nat) (p : Path) (lane : Nat) (c : Cause) (a : Addr) (slot sq : Nat) : Team :=
  let rank := errRank p sq lane
  let info := elogWord p lane c slot
  let vacant := !t.elogInfo.getLsbD 0
  let prev := match t.errNow with | some e => if e.clk = now then some e else none | none => none
  let first := match prev with | some e => decide (rank < e.rank) | none => true
  let rec0 : ErrNow := match prev with
    | some e =>
      if first then { e with count := e.count + 1, rank := rank, info := info, addr := a, recorded := e.recorded || vacant }
      else { e with count := e.count + 1, recorded := e.recorded || vacant }
    | none => { clk := now, count := 1, rank := rank, info := info, addr := a, recorded := vacant }
  let n := ((t.elogInfo >>> 32) &&& 0xFFFF).toNat + 1
  if vacant then { t with elogInfo := info, elogAddr := a, errNow := some rec0 }
  else if first && rec0.recorded then { t with elogInfo := elogCount info n, elogAddr := a, errNow := some rec0 }
  else { t with elogInfo := elogCount t.elogInfo n, errNow := some rec0 }

/-- CSRW of ELOG_INFO with bit [0] = 0, which takes effect before the error responses of the same clk (R92). -/
def Team.elogClear (t : Team) (now : Nat) : Team :=
  match t.errNow with
  | some e =>
    if e.clk = now then
      { t with elogInfo := elogCount e.info e.count, elogAddr := e.addr, errNow := some { e with recorded := true } }
    else { t with elogInfo := 0, elogAddr := 0, errNow := none }
  | none => { t with elogInfo := 0, elogAddr := 0 }

/-- An error response given to a team or to a stream of it (R200, R353): ELOG, and on paths T and F a trap at the next clause boundary
unless the team is in Retiring or in Handler. -/
def Team.errResp (t : Team) (now : Nat) (p : Path) (lane : Nat) (c : Cause) (a : Addr) (slot sq : Nat) : Team :=
  let t1 := t.elog now p lane c a slot sq
  if (p == .T || p == .F) && t.st != .retiring && t.st != .handler then
    let rank := errRank p sq lane
    match t.pendErr with
    | none => { t1 with pendErr := some { clk := now, rank := rank, cause := c } }
    | some e => if e.clk = now ∧ rank < e.rank then { t1 with pendErr := some { clk := now, rank := rank, cause := c } } else t1
  else t1

/-- Flags raised by an instruction of the team or of a stream of it (R88, R89). In Retiring no FPEN follows (R58). -/
def Team.raise (t : Team) (f : BitVec 5) : Team :=
  let t1 := { t with fstat := t.fstat ||| f }
  if f &&& t.fctl != 0 && t.st != .retiring then { t1 with pendFpen := true } else t1

/-- The place in issue order of the window's fence when team u runs one and `sq` lies in the window (R327). -/
def Team.inWindow (t : Team) (sq : Nat) : Bool := match t.spec with | some sp => decide (sp.seq < sq) | none => false

/-- Give an error response, held back when its instruction lies in a speculative window (R327). -/
def State.giveErr (s : State) (u : Nat) (p : Path) (lane : Nat) (c : Cause) (a : Addr) (slot sq : Nat) : State :=
  s.modTeam u fun t =>
    if t.inWindow sq && p == .T then
      match t.spec with
      | some sp =>
        { t with spec := some { sp with errs := sp.errs ++ [{ path := p, lane := lane, cause := c, addr := a, slot := slot, seq := sq }] } }
      | none => t
    else t.errResp s.now p lane c a slot sq

/-- Raise flags, held back when their instruction lies in a speculative window (R327). (log 47: DEDUCED, unsafe.) -/
def State.giveRaise (s : State) (u : Nat) (f : BitVec 5) (sq : Nat) : State :=
  s.modTeam u fun t =>
    if t.inWindow sq then
      match t.spec with
      | some sp => { t with spec := some { sp with raises := sp.raises ||| f } }
      | none => t
    else t.raise f

/-- The registers of the checkpoint take the writes of instructions issued before the fence (R327). -/
def Spec.applyAll (sp : Spec) (t : Team) (ws : List RegWr) : Spec :=
  let c := ({ t with sregs := sp.sregs, vregs := sp.vregs, masks := sp.masks }).applyAll ws
  { sp with sregs := c.sregs, vregs := c.vregs, masks := c.masks }

/-- Write registers for an instruction with place `sq` in issue order: later-issued writers stay in force, and the writes are kept for
earlier-issued operations that have yet to write the same registers (R77). What a handler (`sup`) writes to a banked register is no later
write of it for the user's operations (R350). -/
def State.writeRegs (s : State) (u sq : Nat) (sup : Bool) (ws : List RegWr) (later : List LaterWr) : State :=
  let s1 := s.modTeam u fun t =>
    let t1 := t.applyAll (ws ++ later.map (·.wr))
    match t.spec with
    | some sp =>
      if sq < sp.seq then
        { t1 with spec := some (sp.applyAll t (ws ++ (later.filter fun w => decide (w.seq < sp.seq)).map (·.wr))) }
      else t1
    | none => t1
  { s1 with ops := s1.ops.map fun o =>
      if o.team == u && decide (o.seq < sq) && !o.dests.isEmpty then
        { o with later := o.later ++ ((ws.map fun w => ({ seq := sq, wr := w } : LaterWr)) ++ later).filter fun w =>
            o.dests.contains w.wr.dest && !(w.wr.dest.banked && sup && !o.sup) }
      else o }

/-- Complete an operation: its register writes are performed, its raises take effect, and it stops setting its flag (R20, R77, R89). (log 18: DEDUCED, safe.) -/
def State.completeOp (s : State) (o : Op) : State :=
  let s1 := s.writeRegs o.team o.seq o.sup o.writes o.later
  let s2 := if o.raises == 0 then s1 else s1.giveRaise o.team o.raises o.seq
  s2.delOp o.id

end Sys2Proof.Machine
end

