-- ==== Sys2Proof/Machine/Ops.lean ====
section
/-!
DEFINITION. The named operations of the machine: objects, page entries and the checks of an access (R196 to R204, R367 to R370), fetching a
word (R103), clause headers and the flow from clause to clause (R93 to R98, R115, R116), taking a trap and returning from one (R349 to
R356), and the frame in which a team's instruction issues (R77, R99, R100, R113).
-/

namespace Sys2Proof.Machine

/-! ### Objects and page entries -/

/-- OBJ of an address (R196). -/
def objId (a : Addr) : Nat := (a.extractLsb' 48 16).toNat

/-- OFF of an address (R196). -/
def offOf (a : Addr) : Nat := (a.extractLsb' 0 48).toNat

/-- An address of an object and an offset (R196). -/
def addrOf (obj off : Nat) : Addr := BitVec.ofNat 64 (obj * 2 ^ 48 + off % 2 ^ 48)

/-- Object 0 of a context as a descriptor (R374, R377, R378). -/
def privateObj (c : Context) (col : Nat) : Obj :=
  { ty := .n8, w := c.privW, split := false, tol := false, scale := 0, dup := c.privDup, snap := false, bound := c.privBound, sbase := addrOf 0xFFFF 0,
    rows := 0, pitch := 0, bcol := col, ncol := 1, stride := 0, blk := 0, source := addrOf 0xFFFF 0, code := false, sup := false,
    ftFrom := 0, replicas := [], mate := none }

/-- The object that an identifier names in a context (R367); object 0 as the column sees it. -/
def State.obj? (s : State) (x id col : Nat) : Option Obj :=
  match s.ctx? x with
  | none => none
  | some c => if id = 0 then some (privateObj c col) else if id = 0xFFFF then none else assoc c.objs id

/-- A column belongs to the distribution of an object (R368). -/
def Obj.inDist (o : Obj) (col : Nat) : Bool := (List.range o.ncol).any fun i => (o.bcol + i * o.stride) % 512 == col

/-- The page entry that has been written for a page. -/
def pageFind : List (PageRef × Pte) → PageRef → Option Pte
  | [], _ => none
  | (r, e) :: l, k => if r = k then some e else pageFind l k

/-- Set a page entry. -/
def pageSet : List (PageRef × Pte) → PageRef → Pte → List (PageRef × Pte)
  | [], k, e => [(k, e)]
  | (r, x) :: l, k, e => if r = k then (r, e) :: l else (r, x) :: pageSet l k e

/-- The name of the page of an object that holds an offset; the team counts for object 0 alone (R197, R369). -/
def pageRef (x id u col off : Nat) (lower : Bool) : PageRef :=
  { ctx := x, obj := id, team := if id = 0 then u else 0, col := col, page := off / Config.pageBytes, lower := lower }

/-- The compute die of a logical column (R32, R43). -/
def dieOf (col : Nat) : Nat := col / 64

/-- Partition p of N holds a logical column (R416). -/
def inPartition (n p col : Nat) : Bool := decide (dieOf col * n / 8 = p)

/-- Columns run teams (R426): from stage 2 on. Until then no context exists, and the safe column runs only the Curator's diagnostics. -/
def State.runsTeams (s : State) : Bool := s.stage == .stage2

/-- A column lies in a context's partition (R417). -/
def State.inOwnPart (s : State) (x col : Nat) : Bool := match s.ctx? x with | some c => inPartition s.nPart c.part col | none => false

/-- The page entry of a column (R369, R370): the one written, its W 0 whenever the object's W is 0; else that of a page never written: not present, not
executable, first-touch when the object's pages are and the column is one of the context's partition (R417). Outside the distribution BCOL owns it, and
its W and X are those of BCOL's entry, as CATSET.pg sets both in every column (R377). (log 59: DEDUCED, unsafe.) -/
def State.pte (s : State) (r : PageRef) (o : Obj) : Pte :=
  let find (k : PageRef) : Option Pte := (s.ctx? r.ctx).bind fun c => pageFind c.pages k
  match find r with
  | some e => { e with w := e.w && o.w }
  | none =>
    let own := r.obj == 0 || o.inDist r.col
    let wx : Bool × Bool := match (if own then none else find { r with col := o.bcol }) with
      | some e => (e.w && o.w, e.x)
      | none => (o.w, false)
    { p := false, ft := own && decide (o.ftFrom ≤ r.page) && s.inOwnPart r.ctx r.col, w := wx.1, x := wx.2, tier := if r.lower then 1 else 0, sh := false,
      col := if own then r.col else o.bcol, frame := 0 }

/-- Write a page entry. -/
def State.setPte (s : State) (r : PageRef) (e : Pte) : State := s.modCtx r.ctx fun c => { c with pages := pageSet c.pages r e }

/-- The key of a byte of a column's memory: tier, column, frame, offset in the frame. -/
def physKey (tier col frame off : Nat) : Nat := ((tier * 512 + col) * 2 ^ 38 + frame) * Config.pageBytes + off

/-- The frame offset of an offset within its page. In a split-word object each half of a page holds its elements' 16-bit halves in order
(R213, R369). (log 32: DEDUCED, unsafe.) -/
def frameOff (o : Obj) (off : Nat) : Nat :=
  let q := off % Config.pageBytes
  if o.split then q / 4 * 2 else q

/-- The key of the first byte that an access at an address reaches, if its page is present. (log 32: DEDUCED, unsafe.) -/
def State.physAt (s : State) (sp : Space) (a : Addr) (lower : Bool) : Option Nat :=
  match sp with
  | .slice x col u =>
    match s.obj? x (objId a) col with
    | none => none
    | some o =>
      let e := s.pte (pageRef x (objId a) u col (offOf a) lower) o
      if e.p then some (physKey (if e.tier == 1 then 1 else 0) e.col e.frame (frameOff o (offOf a))) else none
  | .spad _ | .remote _ _ _ | .nowhere _ => none

/-- The tier of an entry's frame as it counts in keys. -/
def Pte.level (e : Pte) : Nat := if e.tier == 1 then 1 else 0

/-- MiB of second-tier memory that a column has: what is fitted, less what has been removed (R5, R422). (log 10: DESIGN CHOICE, safe.) -/
def State.secondMiB (s : State) : Nat := Config.fittedMiB - s.cxlLost

/-- The entry's frame lies beyond the fitted capacity of the second tier (R5). -/
def State.pastFitted (s : State) (e : Pte) : Bool := e.p && e.level == 1 && decide (s.secondMiB * 16 ≤ e.frame)

/-- How a check of R199 ends: the access may go on, gets an error response, or meets a precise fault. -/
inductive Chk where
  | ok
  | err (c : Cause)
  | precise (c : Cause)
deriving DecidableEq, Repr, Inhabited

/-- The first-touch pool of a column for a half of a page (R371). -/
def Column.pool (c : Column) (lower : Bool) : List Nat := if lower then c.poolSec else c.poolHbm

/-- Checks 1 to 6 of R199 with R370 and the fitted capacity of R5, for an access served by column `col` to object and offset `a`. `halves` lists the page entries that
the access uses: the upper one alone, or both of a split-word object; `split` says that LDSP or STSP makes it. An ATOM, CLNV or PREF of a split-word
object fails check 2 as LD and ST do (R199, R224). (log 59: DEDUCED, unsafe.) -/
def State.check (s : State) (x u col : Nat) (a : Addr) (size : Nat) (write split : Bool) (halves : List Bool) (lsize : Nat) : Chk :=
  let id := objId a
  let off := offOf a
  match s.obj? x id col with
  | none => .err .mnul
  | some o =>
    let inB := decide (off < o.bound)
    let es := halves.map fun h => s.pte (pageRef x id u col off h) o
    let bad2 := (write && !o.w) || (o.split != split) || (inB && es.any fun e => e.p && ((write && !e.w) || e.x))
    if bad2 then .err .mprm
    else if a.toNat % size ≠ 0 then .err .maln
    else if off + lsize > o.bound || es.any s.pastFitted then .err .mbnd
    else if es.any fun e => e.col != col then .err .mcol
    else
      let hwm := match s.team? u with | some t => t.hwm | none => 0
      if id = 0 ∧ off + lsize > hwm then .precise .phwm
      else if es.any fun e => !e.p && !e.ft then .precise .pnot
      else if es.any fun e => !e.p then .precise .pftp
      else .ok

/-- The checks of a scratchpad access (R199, R204): alignment, then the declared size. -/
def State.checkSpad (s : State) (w : Nat) (a : Addr) (size : Nat) : Chk :=
  if a.toNat % size ≠ 0 then .err .maln
  else if a.toNat + size > s.spadSize w then .err .mbnd
  else .ok

/-- A word of memory carries poison (R214, R410): keys of poisoned 32-bit words. -/
def State.poisoned (s : State) (key size : Nat) : Bool := s.poison.any fun w => decide (w * 4 < key + size ∧ key < w * 4 + 4)

/-- A scratchpad word carries poison (R214). -/
def Workgroup.poisoned (g : Workgroup) (off size : Nat) : Bool :=
  g.spadPoison.any fun w => decide (w * 4 < off + size ∧ off < w * 4 + 4)

/-! ### Error records -/

/-- An error record (R413). -/
def errRecord (kind src loc col owner trig obj off frame tier ddie stack count : Nat) : List Word :=
  [BitVec.ofNat 64 (kind + 16 * src + 256 * loc + 2 ^ 16 * col + 2 ^ 32 * owner + 2 ^ 48 * trig), BitVec.ofNat 64 (obj + 2 ^ 16 * off),
   BitVec.ofNat 64 (frame % 2 ^ 38 + 2 ^ 40 * tier + 2 ^ 44 * ddie + 2 ^ 48 * stack), BitVec.ofNat 64 (min count (2 ^ 32 - 1))]

/-- A record enters an error queue; one that finds it full is dropped and counted (R419). -/
def Mailbox.push (m : Mailbox) (r : List Word) : Mailbox :=
  let tl := m.tail.toNat % 2040
  if (tl + 1) % 2040 = m.head.toNat % 2040 then { m with dropped := m.dropped + 1 }
  else { m with queue := assocSet m.queue tl r, tail := BitVec.ofNat 64 ((tl + 1) % 2040) }

/-- A record is written to the charged context's queue, if one is charged, and to the device's (R413). -/
def State.logError (s : State) (owner : Option Nat) (r : List Word) : State :=
  let s1 := { s with devMb := s.devMb.push r }
  match owner with
  | some x => s1.modCtx x fun c => { c with mb := c.mb.push r }
  | none => s1

/-- The DRAM die and the stack of a frame (R29, R414): HBM4E dies of 64 MiB of each column. (log 63: DEDUCED, unsafe.) -/
def frameDie (tier col frame : Nat) : Nat × Nat := (if tier = 0 then frame / 1024 % 16 else 0, col / 64)

/-- The object offset of the granule of g bytes that holds byte `q` of the frame of a page; in a split-word object a frame holds halves (R213, R413).
(log 63: DEDUCED, unsafe.) -/
def granuleOff (g : Nat) (split : Bool) (page q : Nat) : Nat := page * Config.pageBytes + (if split then 2 else 1) * (q / g * g)

/-- Poison is consumed at a place by a reader of context x (R412, R413). -/
def State.logPoison (s : State) (x : Nat) (sp : Space) (a : Addr) (lower : Bool) : State :=
  match sp with
  | .spad w => s.logError (some x) (errRecord 2 3 1 (s.colOfWg w) x x 0xFFFF (a.toNat / 4 * 4) 0 0 0 0 1)
  | .slice y col _ =>
    match s.physAt sp a lower with
    | none => s
    | some k =>
      let frame := k / Config.pageBytes % 2 ^ 38
      let tier := k / Config.pageBytes / 2 ^ 38 / 512
      let d := frameDie tier col frame
      s.logError (some y) (errRecord 2 0 (5 + tier) col y x (objId a) (granuleOff 32 (match s.obj? y (objId a) col with | some o => o.split | none => false) (offOf a / Config.pageBytes) (k % Config.pageBytes)) frame tier d.1 d.2 1)
  | .remote _ _ _ | .nowhere _ => s

/-- A fetch has met poison (R103, R412). -/
def State.logFetch (s : State) (x col : Nat) (c : Cause) (a : Addr) : State :=
  if c = .euce then s.logPoison x (.slice x col 0) a false else s

/-- The bytes of memory at a place, as the coherent memory holds them. -/
def State.readMem (s : State) (sp : Space) (a : Addr) (lower : Bool) (n : Nat) : List Byte :=
  match sp with
  | .spad w => match s.wg? w with | some g => Memory.bytes g.spad a.toNat n | none => List.replicate n 0
  | .slice _ _ _ => match s.physAt sp a lower with | some k => Memory.bytes s.mem k n | none => List.replicate n 0
  | .remote _ _ _ | .nowhere _ => List.replicate n 0

/-- Words that a store of `n` bytes at key `k` clears of poison: those it overwrites whole, as every poisoned byte of a word is (R410). (log 33: DEDUCED, unsafe.) -/
def clearPoison (ps : List Nat) (k n : Nat) : List Nat := ps.filter fun w => !decide (k ≤ w * 4 ∧ w * 4 + 4 ≤ k + n)

/-- The words that lie whole in some pieces, each a first byte and a length. -/
def coveredWords (ks : List (Nat × Nat)) : List Nat :=
  ((ks.flatMap fun k => (List.range ((k.1 + k.2 + 3) / 4 - k.1 / 4)).map fun i => k.1 / 4 + i).filter fun w =>
    (List.range 4).all fun i => ks.any fun k => decide (k.1 ≤ 4 * w + i ∧ 4 * w + i < k.1 + k.2)).eraseDups

/-- The pieces that the lanes of one store write in one step clear the poison of the words that they cover together (R205, R410). -/
def State.clearCovered (s : State) (sp : Space) (lower : Bool) (ws : List (Addr × Nat)) : State :=
  match sp with
  | .spad w =>
    let cs := coveredWords (ws.map fun e => (e.1.toNat, e.2))
    s.modWg w fun g => { g with spadPoison := g.spadPoison.filter fun p => !cs.contains p }
  | .slice _ _ _ =>
    let cs := coveredWords (ws.filterMap fun e => (s.physAt sp e.1 lower).map fun k => (k, e.2))
    { s with poison := s.poison.filter fun p => !cs.contains p }
  | .remote _ _ _ | .nowhere _ => s

/-- Write bytes to memory at a place (R314). -/
def State.writeMem (s : State) (sp : Space) (a : Addr) (lower : Bool) (bs : List Byte) : State :=
  match sp with
  | .spad w => s.modWg w fun g =>
    { g with spad := Memory.setBytes g.spad a.toNat bs, spadPoison := clearPoison g.spadPoison a.toNat bs.length }
  | .slice _ _ _ =>
    match s.physAt sp a lower with
    | some k => { s with mem := Memory.setBytes s.mem k bs, poison := clearPoison s.poison k bs.length }
    | none => s
  | .remote _ _ _ | .nowhere _ => s

/-! ### Clauses -/

/-- The word at a code address, or the cause that fetching it for execution raises (R103). -/
def State.fetch (s : State) (x col : Nat) (priv : Bool) (a : Addr) : Except Cause Word :=
  let id := objId a
  let off := offOf a
  match s.obj? x id col with
  | none => .error .mnul
  | some o =>
    let e := s.pte (pageRef x id 0 col off false) o
    if (o.sup && !priv) || (decide (off < o.bound) && !e.x) then .error .mprm
    else if off + 8 > o.bound || s.pastFitted e then .error .mbnd
    else if e.col != col then .error .mcol
    else if !e.p then .error (if e.ft then .pftp else .pnot)
    else
      let k := physKey (if e.tier == 1 then 1 else 0) e.col e.frame (off % Config.pageBytes)
      if s.poisoned k 8 then .error .euce else .ok (BitVec.ofNat 64 (natOfBytes (Memory.bytes s.mem k 8)))

/-- The class of a clause header (R94). -/
def hdrClass (h : Word) : Nat := (h.extractLsb' 60 4).toNat

/-- The number of the last slot of a clause (R93, R94). -/
def hdrCount (h : Word) : Nat := (h.extractLsb' 56 4).toNat

/-- The wait mask (R94). -/
def hdrWait (h : Word) : BitVec 12 := h.extractLsb' 44 12

/-- The flag that flag select chooses, if the header makes it valid (R94, R99). -/
def hdrFlag (h : Word) (fs : Bool) : Option Nat :=
  if fs then (if h.getLsbD 38 then some (h.extractLsb' 34 4).toNat else none)
  else if h.getLsbD 43 then some (h.extractLsb' 39 4).toNat else none

/-- Block entry (R94). -/
def hdrEntry (h : Word) : Bool := h.getLsbD 33

/-- A pad header (R96). -/
def isPad (h : Word) : Bool := h == 0xF000000000000000

/-- The checks of R94 on a header for a stream of class `cls`. -/
def headerOk (cls : Nat) (h : Word) : Bool :=
  let va := h.getLsbD 43
  let a := (h.extractLsb' 39 4).toNat
  let vb := h.getLsbD 38
  let b := (h.extractLsb' 34 4).toNat
  hdrClass h == cls && (if va then decide (a < 12) else a == 0) && (if vb then decide (b < 12) else b == 0) && !(va && vb && a == b) &&
    !(hdrEntry h && cls != 0) && (h.extractLsb' 0 33) == 0

/-- The first byte of the fetch block after the one that holds an address (R96). -/
def nextBlock (a : Addr) : Addr := (a &&& ~~~(63 : Word)) + 64

/-- The address of the first header at or after `a` that is not a pad (R96, R115), looking at no more than `fuel` pads. A word that cannot be
fetched at that moment ends the search: its address is the answer, and becomes the resume address. (log 29: DESIGN CHOICE, unsafe.) -/
def State.skipPads (s : State) (x col : Nat) (priv : Bool) : Nat → Addr → Addr
  | 0, a => a
  | fuel + 1, a =>
    match s.fetch x col priv a with
    | .ok w => if isPad w then State.skipPads s x col priv fuel (nextBlock a) else a
    | .error _ => a

/-- More pads than an object of 2^48 bytes can hold. -/
def padFuel : Nat := 4398046511104

/-- NextClause of R115, for the clause that a team runs. -/
def State.nextClause (s : State) (t : Team) : Addr :=
  s.skipPads (s.ctxOf t) (s.colOf t) t.priv padFuel (t.pc + BitVec.ofNat 64 (8 * (hdrCount t.hdr + 2)))

/-- The resume address of a lane: the program counter while it runs (R114). -/
def Team.raOf (t : Team) (l : Nat) : Addr := if (t.mask 0).getLsbD l then t.pc else Store.get t.ra l

/-- The least of some addresses. -/
def minAddr : List Addr → Option Addr
  | [] => none
  | a :: r => match minAddr r with
    | none => some a
    | some b => some (if a.toNat ≤ b.toNat then a else b)

/-- The team waits before its next clause: its handler's code, if it runs one, else its user code (R57). -/
def Team.waitFor (t : Team) (w : Wait) : Team := if t.priv then { t with hwait := w } else { t with wait := w }

/-- A wait is over; a Stalled team is Active again (R58). -/
def Team.wakeFrom (t : Team) (now : Nat) (w : Wait) : Team :=
  let t1 := { t with hwait := if t.hwait = w then .none else t.hwait }
  if t.wait = w then
    (if t.st = .stalled then { t1 with wait := .none, st := .active, activeSince := now } else { t1 with wait := .none })
  else t1

/-- Leave the datapath that team u holds (R97). -/
def State.freeDp (s : State) (u : Nat) : State :=
  match s.team? u with
  | none => s
  | some t =>
    let c := s.colOf t
    if (s.column c).dp = some u then s.modCol c fun k => { k with dp := none } else s

/-- The team stands at a clause boundary: no clause has started. -/
def Team.atBoundary (t : Team) (now : Nat) : Team := { t with started := false, slot := 0, since := now }

/-- The lanes over which Select and the block-entry merge range (R115, R245, R386): the live lanes, in a generator loop those of the phase's
set, in Handler the live lanes again. -/
def Team.range (t : Team) : Lanes :=
  let lv := t.live &&& t.all
  if t.priv then lv
  else match t.vit.phase with
    | .off => lv
    | .producing => lv &&& t.vit.pset
    | .consuming => lv &&& t.vit.cset

/-- A trap is due at the boundary at which the last lane exits, and is taken before the team enters Retiring: the rows of R58 in their order. -/
def Team.trapsFirst (t : Team) : Bool := !t.priv && (t.pendErr.isSome || t.pendGabs || t.pendFpen || t.pendCopy.isSome || t.pendMtx.isSome)

/-- Select (R115): the lowest resume address of the lanes it ranges over and the lanes that run there; with none the team enters Retiring. -/
def Team.select (t : Team) : Team :=
  let lv := laneList t.range t.lanes
  match minAddr (lv.map fun l => Store.get t.ra l) with
  | none => { t with st := if t.trapsFirst then t.st else .retiring, masks := Store.set t.masks 0 0 }
  | some pc =>
    { t with pc := pc, masks := Store.set t.masks 0 (lanesOf (lv.filter fun l => Store.get t.ra l == pc)) }

/-- The block-entry merge (R116): live lanes that wait at the program counter join m0. -/
def Team.merge (t : Team) : Team :=
  let js := (laneList t.range t.lanes).filter fun l => t.raOf l == t.pc
  { t with masks := Store.set t.masks 0 (t.mask 0 ||| lanesOf js) }

/-- Waiting lanes join if the header at the program counter is a block entry (R116). -/
def Team.enterBlock (t : Team) (h : Word) : Team :=
  if hdrEntry h && hdrClass h == 0 then { t with fell := false }.merge else { t with fell := false }

/-- Fall through to a header: the program counter goes there, and waiting lanes join if the header is a block entry (R116). A header that
cannot be read yet is judged when the clause starts. -/
def State.fallTo (s : State) (t : Team) (pc : Addr) : Team :=
  let t1 := { t with pc := pc }
  match s.fetch (s.ctxOf t) (s.colOf t) t.priv pc with
  | .ok h => t1.enterBlock h
  | .error _ => { t1 with fell := true }

/-- A clause that ends without a transfer (R116). -/
def State.endClause (s : State) (u : Nat) : State :=
  match s.team? u with
  | none => s
  | some t => (s.freeDp u).setTeam u ((s.fallTo t (s.nextClause t)).atBoundary s.now)

/-- The slot has issued: the next slot, or the end of the clause. -/
def State.advance (s : State) (u : Nat) : State :=
  match s.team? u with
  | none => s
  | some t => if hdrCount t.hdr ≤ t.slot then s.endClause u else s.setTeam u { t with slot := t.slot + 1 }

/-- A transfer of control whose new resume addresses stand in the team: Select, and the clause ends (R115). -/
def State.transfer (s : State) (u : Nat) (t : Team) : State := (s.freeDp u).setTeam u ({ t with fell := false }.select.atBoundary s.now)

/-- An instruction of the team whose flags may still be raised is outstanding (R89). -/
def State.raisesOut (s : State) (u : Nat) : Bool :=
  s.ops.any fun o => o.team == u && o.raiser && match o.kind with | .alu => true | _ => false

/-- The last lane of a team has ended while a raise is outstanding: the writes and raises come first, and the team is not yet Retiring (R242). -/
def State.lastExit (s : State) (u : Nat) : State :=
  s.modTeam u fun t => if t.st = .retiring ∧ s.raisesOut u = true then { t with st := .active } else t
/-! ### The matrix unit's holder and engine streams -/

/-- The streams of a team may go on: its workgroup is resident, it does not run its PREE handler (R291, R309), and once restored it has taken its
pending causes (R364). -/
def State.streamsRun (s : State) (t : Team) : Bool :=
  (match s.wg? t.wg with | some g => g.st == .resident | none => false) &&
    !(t.st == .handler && t.trapCause.extractLsb' 0 8 == Cause.pree.code) && !t.resuming

/-- A stream that has just been forked (R22, R130). -/
def Stream.fresh (pc : Addr) (snap : Store 64) : Stream :=
  { pc := pc, started := false, hdr := 0, words := [], slot := 0, snap := snap, cwait := 0, stopped := false, halted := false, ended := false }

/-- A stream that has not ended. -/
def Stream.running (st : Option Stream) : Bool := match st with | some x => !x.ended | none => false

/-- The stream of a class. -/
def Team.stream (t : Team) (mtx : Bool) : Option Stream := if mtx then t.mtx else t.copy

/-- Replace the stream of a class. -/
def Team.setStream (t : Team) (mtx : Bool) (x : Option Stream) : Team := if mtx then { t with mtx := x } else { t with copy := x }

/-- The pending FORK of a class. -/
def Team.pendFork (t : Team) (mtx : Bool) : Option PendFork := t.forks.find? fun f => f.mtx == mtx

/-- Start a team's pending FORK of a class. -/
def Team.startFork (t : Team) (mtx : Bool) : Team :=
  match t.pendFork mtx with
  | none => t
  | some f => { t.setStream mtx (some (Stream.fresh f.target f.snap)) with forks := t.forks.filter fun g => g.mtx != mtx }

/-- The least by a measure. -/
def leastBy {α : Type} (f : α → Nat) : List α → Option α
  | [] => none
  | a :: r => match leastBy f r with
    | none => some a
    | some b => some (if f a ≤ f b then a else b)

/-- The teams whose workgroup is resident in a column. -/
def State.teamsIn (s : State) (c : Nat) : List (Nat × Team) :=
  s.teams.filter fun e => match s.wg? e.2.wg with | some g => g.col == c && g.st == .resident | none => false

/-- The place of a team's workgroup in its column's slot table. -/
def State.slotIndex (s : State) (t : Team) : Nat :=
  (s.column (s.colOf t)).slots.findIdx fun e => e.valid && e.w == t.wg

/-- The order of a time first, then the slot-table index, then ID_TWG (R59, R80, R97). -/
def State.waitRank (s : State) (t : Team) (since : Nat) : Nat := (since * 4096 + min (s.slotIndex t) 4095) * 16 + t.twg % 16

/-- The order in which restored holders take the unit (R80): that of their restoration, ties to the lower slot-table index. -/
def State.restoreRank (s : State) (u : Nat) : Nat :=
  match s.team? u with
  | some t => s.waitRank t (match s.wg? t.wg with | some g => g.restoredAt | none => 0)
  | none => 0

/-- Hand a free matrix unit on (R78, R80): to the restored holder that has waited longest, else to the pending FORK.matrix that issued
first. -/
def State.grantMx (s : State) (c : Nat) : State :=
  let k := s.column c
  if k.mxHolder.isSome then s
  else match leastBy s.restoreRank k.mxWaiters with
    | some u =>
      let w := match s.team? u with | some t => t.wg | none => 0
      let sv := match (s.wg? w).bind (·.savedMx) with | some e => e.2 | none => MxState.initial
      let s1 := s.modCol c fun k => { k with mxHolder := some u, mx := sv, mxWaiters := k.mxWaiters.filter fun v => v != u }
      s1.modWg w fun g => { g with savedMx := none }
    | none =>
      let cand := (s.teamsIn c).filterMap fun e => (e.2.pendFork true).map fun f => (e.1, f.seq)
      match leastBy (fun e : Nat × Nat => e.2) cand with
      | none => s
      | some e =>
        let s1 := s.modCol c fun k => { k with mxHolder := some e.1, mx := MxState.initial }
        s1.modTeam e.1 fun t => if Stream.running t.mtx then t else t.startFork true

/-- Take the matrix unit from team u, if it is the holder, and hand it on (R78); a restored holder that waits for it waits no more. (log 44: DESIGN CHOICE, unsafe.) -/
def State.releaseMx (s : State) (u : Nat) : State :=
  match s.team? u with
  | none => s
  | some t =>
    let c := s.colOf t
    if (s.column c).mxHolder = some u then
      (s.modCol c fun k => { k with mxHolder := none, mx := MxState.initial }).grantMx c
    else
      let s1 := s.modCol c fun k => { k with mxWaiters := k.mxWaiters.filter fun v => v != u }
      s1.modWg t.wg fun g => { g with savedMx := match g.savedMx with | some e => if e.1 = u then none else some e | none => none }

/-- A stream halts at its next clause boundary and counts as ended (R122): at once when no clause of it has started. One that has stopped on a page
fault in a clause goes on to the clause's end, for the fault is discarded (R292). -/
def Stream.kill (x : Stream) : Stream :=
  if x.started then { x with ended := true, stopped := false } else { x with ended := true, halted := true }

/-- The streams of a team stop at their next clause boundary, and the causes that they have posted are discarded (R122, R292, R309). FORKs that
are still pending are discarded with them. -/
def Team.stopStreams (t : Team) : Team :=
  { t with forks := [], copy := t.copy.map Stream.kill, mtx := t.mtx.map Stream.kill, pendCopy := none, pendMtx := none, dying := true }

/-- KILL (R122): every lane ends, a generator loop ends at once (R257), the streams halt, and the team enters Retiring.
What R122 does not name is discarded with the code that waits for it: the FORKs and the GPOSTs still pending. (log 44: DESIGN CHOICE, unsafe.) -/
def Team.kill (t : Team) (now : Nat) : Team :=
  let t1 : Team := { t.stopStreams with live := 0, masks := Store.set t.masks 0 0, st := .retiring, wait := .none, hwait := .none, bank := none,
                                        issueTrap := none, pendErr := none, pendGabs := false, pendFpen := false, fell := false, vit := { t.vit with phase := .off } }
  t1.atBoundary now

/-- The team holds an active slot (R55). -/
def Team.inActiveSet (t : Team) : Bool := t.st == .active || t.st == .stalled || t.st == .handler || t.st == .retiring

/-- Return to the checkpoint of a speculative window (R328): registers, masks, frontier, program counter and slot; the window's operations,
stores, held flags and held error responses are discarded, and its fence is Replaying. A team that
returns into a clause while another team holds the datapath goes on when it is free (R97); one that has left the active set issues nothing before it
is Active again: its clause then starts at that slot (R55, R97). -/
def State.unwind (s : State) (u : Nat) : State :=
  match s.team? u with
  | none => s
  | some t =>
    match t.spec with
    | none => s
    | some sp =>
      let c := s.colOf t
      let goes := sp.started && t.inActiveSet
      let t1 : Team :=
        { t with sregs := sp.sregs, vregs := sp.vregs, masks := sp.masks, live := sp.live, ra := sp.ra, pc := sp.pc, hdr := sp.hdr,
                 slot := if goes then sp.slot else 0, rslot := if sp.started && !goes then sp.slot else 0, started := goes,
                 fell := sp.fell, spec := none }
      let ops := (s.ops.filter fun o => !(o.agent == .team u && decide (sp.seq < o.seq))).map fun o =>
        if o.id = sp.op then { o with kind := match o.kind with
            | .fence p q sc _ => .fence p q sc .replaying
            | k => k }
        else if o.team = u then { o with later := o.later.filter fun w => decide (w.seq ≤ sp.seq) } else o
      let bufs := s.bufs.filter fun b => !(b.agent == .team u && decide (sp.seq < b.seq))
      let s1 := ({ s with ops := ops, bufs := bufs }).setTeam u t1
      let dp := (s.column c).dp
      if goes then (if dp = none then s1.modCol c fun k => { k with dp := some u } else s1)
      else if dp = some u then s1.modCol c fun k => { k with dp := none } else s1

/-- A FIFO of the matrix unit by its code (R279, R300). -/
def MxState.fifo (m : MxState) (k : Nat) : List Byte := if k = 0 then m.qa else if k = 1 then m.qb else m.qs

/-- Replace a FIFO. -/
def MxState.setFifo (m : MxState) (k : Nat) (bs : List Byte) : MxState :=
  if k = 0 then { m with qa := bs } else if k = 1 then { m with qb := bs } else { m with qs := bs }

/-- The FIFO bytes that a matrix command takes for its tile, or for each row (R294, R296, R299): FIFO and count, and the number of times. -/
def mxNeeds : Instr → List (Nat × Nat) × Nat
  | .mldn f | .mldw f => ([(2, Fields.kt f.ty * 64 * f.ty.bytes)], 1)
  | .mma f => ([(f.fa.toNat, Fields.kt f.ty * f.ty.bytes)], f.mc.toNat + 1)
  | .mmas f => ([(f.fa.toNat, Fields.kt f.ty / 2 * f.ty.bytes), (f.fm.toNat, Fields.kt f.ty / 8)], f.mc.toNat + 1)
  | _ => ([], 1)

/-- The values of a row that a command has taken ahead of its metadata (R296). -/
def MCmd.taken (c : MCmd) (fifo : Nat) : Nat :=
  match c.instr, c.vals with
  | .mmas f, some vs => if fifo = f.fa.toNat then vs.length else 0
  | _, _ => 0

/-- A command has all the bytes that it still takes (R296). -/
def MxState.landed (m : MxState) (c : MCmd) : Bool :=
  let n := mxNeeds c.instr
  n.1.all fun e => decide (e.2 * (n.2 - c.row) ≤ (m.fifo e.1).length + c.taken e.1)

/-- An operation that falls when its team's streams are stopped: a FIFO-destined copy command (R284), one that has stopped on a fault (R292),
and a follow-on that does not execute (R292, R309). -/
def Op.fallsWithStream (o : Op) : Bool :=
  match o.kind with
  | .cmx _ _ _ _ => true
  | .copy c => c.dst.kind == 2 || c.stopped.isSome
  | _ => false

/-- An operation that falls when its team is killed: a wait of its code, a GPOST that is still pending, and what falls with its streams.
(log 44: DESIGN CHOICE, unsafe.) -/
def Op.fallsWithTeam (o : Op) : Bool :=
  match o.kind with
  | .cntw _ _ | .xcol _ _ _ _ _ | .gpost _ _ => true
  | _ => o.fallsWithStream

/-- The queued follow-ons of the holder are discarded. -/
def State.dropFollow (s : State) (c : Nat) : State :=
  let m := (s.column c).mx
  { (s.modCol c fun k => { k with mx := { k.mx with follow := [] } }) with ops := s.ops.filter fun o => !(m.follow.any fun f => f.op == o.id) }

/-- The unit's command that executes is dropped. -/
def State.dropMx (s : State) (c : Nat) : State :=
  match (s.column c).mx.busy with
  | some b => (s.modCol c fun k => { k with mx := { k.mx with busy := none } }).delOp b.op
  | none => s

/-- A matrix stream that waits with its command stands at its last boundary (R296, R309). -/
def Team.haltMtx (t : Team) : Team := { t with mtx := t.mtx.map fun x => { x with started := false, halted := true } }

/-- The team's streams have been stopped by KILL or CNCL: follow-ons and FIFO-destined commands are discarded, and a matrix command that has its bytes
finishes. The team stops being the holder at the boundary of its stream, or at once when a command waits for bytes that will not come: that stops as the
unit is released, and the stream, which waits with it, goes no further (R78, R284, R292, R296, R309). -/
def State.settleDying (s : State) (u : Nat) : State :=
  match s.team? u with
  | none => s
  | some t =>
    if !t.dying then s
    else
      let c := s.colOf t
      let holds := (s.column c).mxHolder == some u
      let s1 := if holds then s.dropFollow c else s
      let m := (s1.column c).mx
      let run := if holds then m.busy.map (·.op) else none
      let s2 := { s1 with ops := s1.ops.filter fun o => !(o.team == u && o.fallsWithStream && run != some o.id) }
      if !holds then s2.releaseMx u
      else if m.busy.any fun b => !m.landed b then ((s2.dropMx c).modTeam u Team.haltMtx).releaseMx u
      else if run.isNone && !(match t.mtx with | some x => x.started | none => false) then s2.releaseMx u
      else s2

/-! ### Operations that user code waits for -/

/-- Restore what a trap banked (R350, R356): the user's registers, masks, frontier; user privilege. -/
def Team.unbank (t : Team) : Team :=
  match t.bank with
  | none => t
  | some b =>
    { t with sregs := Store.restore t.sregs b.s fun k => decide (k < 8), vregs := Store.restore t.vregs b.v fun k => decide (k < 4096),
             masks := Store.restore t.masks b.m fun k => decide (k < 4), live := b.live, ra := b.ra, bank := none, hwait := .none,
             st := if b.retiring then .retiring else .active, fell := false }

/-- A write goes to a register that a trap banks (R350). -/
def RegWr.banked (w : RegWr) : Bool := w.dest.banked

/-- Complete an operation that user code waits for: in Handler its writes of banked registers go to the bank (R127, R240, R350). -/
def State.completeUser (s : State) (o : Op) : State :=
  match s.team? o.team with
  | none => s.delOp o.id
  | some t =>
    match t.bank with
    | none => s.completeOp o
    | some b =>
      let c := ({ t with sregs := b.s, vregs := b.v, masks := b.m }).applyAll (o.writes.filter RegWr.banked)
      let s1 := s.setTeam o.team { t with bank := some { b with s := c.sregs, v := c.vregs, m := c.masks } }
      s1.completeOp { o with writes := o.writes.filter fun w => !w.banked }

/-- Complete an operation that a team waits for: in Handler a wait of user code writes the bank, one of the handler its registers. -/
def State.completeWait (s : State) (o : Op) (w : Wait) : State :=
  match s.team? o.team with
  | none => s.delOp o.id
  | some t =>
    let s1 := s.setTeam o.team (t.wakeFrom s.now w)
    if t.hwait = w then s1.completeOp o else s1.completeUser o

/-- A vector register pair, or a register, moved whole (R229). -/
def moveElem (ty : Ty) (d l : Nat) (lo hi : Elem) : List RegWr :=
  if ty.wide then putElem d l lo ++ putElem (d + 1) l hi else putElem d l lo

/-- The team of the same ID_TWG in position c of a team's quad (R238). -/
def State.partner (s : State) (t : Team) (c : Nat) : Option Team :=
  match s.wg? t.wg with
  | none => none
  | some g =>
    match s.wgs.find? fun e => e.2.launch == g.launch && e.2.idx == g.idx / 4 * 4 + c with
    | none => none
    | some e => (e.2.teams[t.twg]?).bind s.team?

/-- A partner has arrived at the k-th XCOL or has retired (R239). -/
def xcolArrived (k : Nat) : Option Team → Bool
  | some t => decide (k < t.xcount) || t.st == .retired
  | none => true

/-- What is posted for lane j at the k-th XCOL, for a receiver whose elements are `wide` (R231, R239): a post of the other width is not
available (R243). -/
def xcolElem (k : Nat) (wide : Bool) (j : Nat) : Option Team → Option (Elem × Elem)
  | some t =>
    match t.xposts.find? fun x => x.k == k with
    | some x =>
      if decide (j < t.lanes) && x.lanes.getLsbD j && x.wide == wide then some (Store.get x.els (2 * j), Store.get x.els (2 * j + 1)) else none
    | none => none
  | none => none

/-- The XCOL of an operation may complete: every partner has arrived at it or retired (R239). -/
def State.xcolDue (s : State) (o : Op) : Bool :=
  match o.kind, s.team? o.team with
  | .xcol k _ _ _ _, some t => (List.range 4).all fun c => xcolArrived k (s.partner t c)
  | _, _ => false

/-- An XCOL completes: its active lanes receive what the partners have posted (R231, R239, R240). -/
def State.endXcol (s : State) (o : Op) : State :=
  match o.kind, s.team? o.team with
  | .xcol k d wide fill sel, some t =>
    let ty : Ty := if wide then .n64 else .n32
    let ws := sel.flatMap fun e =>
      match xcolElem k wide e.2.2 (s.partner t e.2.1) with
      | some x => moveElem ty d e.1 x.1 x.2
      | none =>
        if fill then moveElem ty d e.1 0 0
        else match xcolElem k wide e.1 (some t) with
          | some x => moveElem ty d e.1 x.1 x.2
          | none => []
    s.completeWait { o with writes := ws } (.xcol o.id)
  | _, _ => s

/-- Every integer and exchange instruction that the team has issued performs its write and its raises, but for an XCOL whose partners have not all
arrived (R151, R242). -/
def State.performFirst (s : State) (u : Nat) : State :=
  ((s.opsOf u).map (·.id)).foldl (fun s n => match s.op? n with
    | some o => if o.kind == .alu then s.completeOp o else if s.xcolDue o then s.endXcol o else s
    | none => s) s

/-- KILL for a team of the device (R122, R284, R292, R309): what it has issued performs its writes and raises first (R242), and the causes that are
pending are discarded (R292); a speculative window of it ends in its rollback (R326, R329). (log 44: DESIGN CHOICE, unsafe.) -/
def State.killTeam (s : State) (u : Nat) : State :=
  let s0 := (s.unwind u).performFirst u
  match s0.team? u with
  | none => s
  | some t =>
    if t.st = .retired then s
    else
      let s1 := (s0.freeDp u).setTeam u (t.kill s.now)
      let s2 := s1.settleDying u
      { s2 with ops := s2.ops.filter fun o => !(o.team == u && o.fallsWithTeam && !((s2.column (s.colOf t)).mx.busy.any fun b => b.op == o.id)) }

/-- A team takes a trap at issue in Handler (R353): its workgroup is cancelled with no handler, what it has staged is discarded (R54), its launch's
status becomes cancelled, and the Curator's log keeps both causes. (log 52: DEDUCED, unsafe.) -/
def State.fatal (s : State) (u : Nat) (second : Cause) : State :=
  match s.team? u with
  | none => s
  | some t =>
    let us := match s.wg? t.wg with | some g => g.teams | none => [u]
    let s1 := us.foldl State.killTeam s
    let s2 := s1.modWg t.wg fun g => { g with fatal := true, staged := [], cancelled := true }
    let s3 := s2.modUnit (s.launchKey t.wg) fun c => if c.done then c else { c with cancelled := true }
    s3.modCtx (s.ctxOf t) fun c =>
      { c with log := c.log ++ [[t.trapCause &&& 0xFF, (second.code).setWidth 64, BitVec.ofNat 64 (s.colOf t)]] }

/-! ### Traps -/

/-- An operation that must end before a trap is entered (R350): all that the team itself has issued, apart from the wait form of CNTW, an
XCOL whose partners have not all arrived (R242) and a pending GPOST. -/
def Op.settles (o : Op) : Bool :=
  match o.agent with
  | .team _ => match o.kind with
    | .cntw _ _ | .xcol _ _ _ _ _ | .gpost _ _ | .cancel _ => false
    | _ => true
  | .copy _ | .matrix _ => false

/-- Everything that team u has issued has settled (R350). -/
def State.settled (s : State) (u : Nat) : Bool := !(s.ops.any fun o => o.team == u && (o.settles || s.xcolDue o))

/-- TRAP_CAUSE (R355). -/
def trapCauseWord (c : Cause) (slot rslot eng : Nat) : Word :=
  BitVec.ofNat 64 (c.code.toNat + 256 * (slot % 16) + 4096 * (rslot % 32) + 2 ^ 17 * (eng % 4))

/-- Trap entry (R350), once everything has settled: the bank is taken, the trap registers are written, the handler's lanes run at TVEC at
supervisor privilege. -/
def Team.enterTrap (t : Team) (tvec : Addr) (now : Nat) (c : Cause) (slot rslot eng : Nat) (addr rpc : Addr) (arg : BitVec 32)
    (laddr : Store 64) (lanes : Lanes) : Team :=
  let h : Lanes := if lanes == 0 then 1 else lanes
  let hl := laneList h t.lanes
  let bank : Bank :=
    { retiring := t.st == .retiring, s := Store.keep t.sregs fun k => decide (k < 8), v := Store.keep t.vregs fun k => decide (k < 4096),
      m := Store.keep t.masks fun k => decide (k < 4), live := t.live, ra := t.ra, pc := rpc }
  let masks := Store.set (Store.keep t.masks fun k => decide (4 ≤ k)) 0 h
  let t1 : Team :=
    { t with bank := some bank, trapCause := trapCauseWord c slot rslot eng, trapAddr := addr, trapRpc := rpc, trapArg := arg,
             trapLaddr := laddr, masks := masks, live := h, ra := hl.foldl (fun r l => Store.set r l tvec) t.ra, st := .handler,
             pc := tvec, hwait := .none, rslot := 0, issueTrap := none, fell := false }
  t1.atBoundary now

/-- CNCL or PREE is pending for the team. -/
def Team.called (t : Team) : Bool := t.pendCncl || t.pendPree

/-- A boundary cause that is pending, in the order of R352; a team in Retiring takes CNCL and PREE alone (R58). (log 30: DEDUCED, unsafe.) -/
def Team.boundaryCause (t : Team) : Option Cause :=
  if t.priv then none
  else if t.pendCncl then some .cncl
  else if t.pendPree then some .pree
  else if t.st = .retiring then none
  else match t.pendCopy, t.pendMtx, t.pendErr with
    | some e, _, _ => some e.cause
    | none, some e, _ => some e.cause
    | none, none, some e => some e.cause
    | none, none, none => if t.pendGabs then some .gabs else if t.pendFpen then some .fpen else none

/-- TVEC of a team's context (R354). -/
def State.tvecOf (s : State) (t : Team) : Addr := match s.ctx? (s.ctxOf t) with | some c => c.tvec | none => 0

/-- Enter the trap that was taken at issue, if one waits and everything has settled (R350). -/
def State.enterIssueTrap (s : State) (u : Nat) : State :=
  match s.team? u with
  | none => s
  | some t =>
    match t.issueTrap with
    | none => s
    | some it =>
      if s.settled u then
        s.setTeam u (t.enterTrap (s.tvecOf t) s.now it.cause it.slot it.rslot 0 it.addr t.pc it.arg it.laddr it.lanes)
      else s

/-- A team takes a trap at issue (R101, R350). In a speculative window the handler runs on the rolled-back state and RTE returns to the slot
after the FENCES (R330); in Handler the workgroup is fatal (R353). -/
def State.trap (s : State) (u : Nat) (c : Cause) (rskip : Nat) (arg : BitVec 32) (laddr : Store 64) (lanes : Option Lanes) : State :=
  match s.team? u with
  | none => s
  | some t =>
    if t.priv then s.fatal u c
    else
      let slot := t.slot
      let addr := t.pc
      let s0 := if t.spec.isSome then s.unwind u else s
      match s0.team? u with
      | none => s
      | some t0 =>
        let rslot := if t.spec.isSome then (if t0.started then t0.slot else 0) else slot + rskip
        let it : IssueTrap :=
          { cause := c, slot := slot, rslot := rslot, arg := arg, lanes := (lanes.getD (t0.mask 0)), laddr := laddr, addr := addr }
        ((s0.freeDp u).setTeam u ({ (t0.atBoundary s.now) with issueTrap := some it })).enterIssueTrap u

/-- A trap at issue whose handler runs in the running lanes and resumes at the trapping slot (R349). -/
def State.trapAt (s : State) (u : Nat) (c : Cause) : State := s.trap u c 0 0 [] none

/-- A precise fault (R201): the handler's lanes are those that meet the cause, with their addresses in TRAP_LADDR. (log 17: DEDUCED, safe.) -/
def State.preciseFault (s : State) (u : Nat) (c : Cause) (lanes : Lanes) (laddr : Store 64) : State := s.trap u c 0 0 laddr (some lanes)

/-- Return from a trap other than CNCL (R356): the bank is restored and the team resumes at TRAP_RPC and RSLOT. -/
def Team.leaveTrap (t : Team) (now : Nat) : Team :=
  let t1 := t.unbank
  { (t1.atBoundary now) with activeSince := now, pc := t.trapRpc, rslot := ((t.trapCause >>> 12) &&& 0x1F).toNat }

/-- A pending cause of an engine stream's class that waits at the team (R352). -/
def Team.pendEng (t : Team) (mtx : Bool) : Option EngCause := if mtx then t.pendMtx else t.pendCopy

/-- Post a cause of an engine stream to its team, unless one of the class is pending; a team in Retiring takes none (R58). (log 30: DEDUCED, unsafe.) -/
def Team.postEng (t : Team) (mtx : Bool) (e : EngCause) : Team :=
  if t.st = .retiring ∨ t.dying = true ∨ (t.pendEng mtx).isSome then t else if mtx then { t with pendMtx := some e } else { t with pendCopy := some e }

/-- The cause record of an engine's clause (R101, R355). -/
def engCause (mtx : Bool) (c : Cause) (addr : Addr) (slot : Nat) (laddr : Addr) (op : Nat) : EngCause :=
  { cause := c, addr := addr, slot := slot, eng := if mtx then 2 else 1, laddr := laddr, op := op }

/-- The class's next cause must wait until the team has taken the one that is pending. -/
def State.engBusy (s : State) (u : Nat) (mtx : Bool) : Bool :=
  match s.team? u with | some t => t.st != .retiring && !t.dying && (t.pendEng mtx).isSome | none => false

/-- An engine stream halts on a bad clause, header, word or fetch (R95, R103, R278): it counts as having executed its CEND or MEND, its
untriggered follow-ons are discarded (R292), a matrix stream's queued ones too (R309), and its team will take the cause at a clause boundary. -/
def State.haltStream (s : State) (u : Nat) (mtx : Bool) (c : Cause) (addr : Addr) (slot : Nat) (laddr : Addr) : State :=
  if s.engBusy u mtx then s
  else
    let s1 := s.modTeam u fun t =>
      (t.setStream mtx ((t.stream mtx).map fun x => { x with halted := true, started := false })).postEng mtx (engCause mtx c addr slot laddr 0)
    if mtx then (match s.team? u with
      | some t => if (s.column (s.colOf t)).mxHolder = some u then s1.dropFollow (s.colOf t) else s1
      | none => s1)
    else { s1 with ops := s1.ops.filter fun o => !(o.team == u && match o.kind with | .cmx _ _ _ queued => !queued | _ => false) }

/-- An engine stream stops on a page fault of its fetch, or of the copy command `op` (R103, R282): it goes on when its team returns from the
trap. -/
def State.stopStream (s : State) (u : Nat) (mtx : Bool) (c : Cause) (addr : Addr) (slot : Nat) (laddr : Addr) (op : Nat) : State :=
  if s.engBusy u mtx then s
  else s.modTeam u fun t =>
    (t.setStream mtx ((t.stream mtx).map fun x => { x with stopped := true })).postEng mtx (engCause mtx c addr slot laddr op)

/-- A fence of team u that is incomplete and later path `q` holds what was issued at place `sq` (R325, R329); one that is Speculating
holds nothing (R327). -/
def State.fenceHolds (s : State) (u : Nat) (q : Path) (sq : Nat) : Bool :=
  s.ops.any fun o => o.team == u && decide (o.seq < sq) && match o.kind with
    | .fence _ later _ st => later == q && st != .speculating
    | _ => false

/-! ### Post slots and the arrivals of GBAR -/

/-- The post slot of a column for a group (R262); one that nothing has posted is empty and not withdrawn. -/
def State.postSlot (s : State) (x g col : Nat) : PostSlot :=
  ((s.column col).posts.find? fun p => p.ctx == x && p.g == g).getD { ctx := x, g := g, holder := none, a := 0, withdrawn := false }

/-- Set the post slot of a column for a group. -/
def State.setPost (s : State) (col : Nat) (p : PostSlot) : State :=
  s.modCol col fun k => { k with posts := (k.posts.filter fun q => !(q.ctx == p.ctx && q.g == p.g)) ++ [p] }

/-- The team counts as arrived at every GBAR of its workgroup: it is Retiring or Retired, also while its handler runs (R265). -/
def Team.leaving (t : Team) : Bool := t.st == .retiring || t.st == .retired || (match t.bank with | some b => b.retiring | none => false)

/-- A workgroup whose teams have all arrived at its GBAR arrives: A of its own slot rises by 1, and stays (R265, R273). (log 35: DEDUCED, unsafe.) -/
def State.gbarArrive (s : State) (w : Nat) (g : Workgroup) : State :=
  match g.gbarK with
  | none => s
  | some k =>
    if g.gbarUp || !(g.teams.all fun u => match s.team? u with | some t => t.gbarArr == some k || t.leaving | none => true) then s
    else
      let p := s.postSlot (s.ctxOfWg w) k g.col
      (if p.holder = some w then s.setPost g.col { p with a := p.a + 1 } else s).modWg w fun g => { g with gbarUp := true }

/-! ### The vector port of the scratchpad -/

/-- An access of path T to a scratchpad of a column. -/
def State.portAcc (s : State) (col : Nat) (p : Path) (sp : Space) : Bool :=
  p == .T && match sp with | .spad w => s.colOfWg w == col | .slice _ _ _ | .remote _ _ _ | .nowhere _ => false

/-- An access does not come to the vector port yet (R227): a fence holds it (R325); or it lies in a speculative window, and is a store, which stays in
the buffer, or a load that waits for the window's own store or for room in the read set (R327). (log 81: DEDUCED, unsafe.) -/
def State.offPort (s : State) (o : Op) (a : Access) : Bool :=
  s.fenceHolds o.team .T o.seq || match (s.team? o.team).bind (·.spec) with
    | some sp => decide (sp.seq < o.seq) && (a.act != .read || decide (64 ≤ sp.readSet.length) || s.bufs.any fun b =>
        b.team == o.team && b.spec && b.space == a.space && decide (b.addr.toNat < a.addr.toNat + a.size ∧ a.addr.toNat < b.addr.toNat + b.size))
    | none => false

/-- The passes at a column's vector port that are not yet served whole, each its team and its place in issue order (R227): a load is served as its
accesses are performed, a store as its writes leave the buffer. -/
def State.portPasses (s : State) (col : Nat) : List (Nat × Nat) :=
  (s.ops.filterMap fun o => if o.acc.any fun a => s.portAcc col a.path a.space && !s.offPort o a then some (o.team, o.seq) else none) ++
    (s.bufs.filter fun b => b.stage == 0 && !b.spec && s.portAcc col b.path b.space).map fun b => (b.team, b.seq)

/-- A pass of team u waits at the vector port behind another: the team is held as by an interlock (R97, R227). (log 81: DEDUCED, unsafe.) -/
def State.portHeld (s : State) (u : Nat) : Bool :=
  match s.team? u with
  | some t => let ps := s.portPasses (s.colOf t); ps.any fun p => p.1 == u && ps.any fun q => decide (q.2 < p.2)
  | none => false

/-! ### Issuing an instruction of a team -/

/-- The largest register counts that an instruction may name: the declared counts, in Handler at least 8 scalars and 4 vector registers
(R15, R350). -/
def Team.limits (t : Team) : Nat × Nat := if t.priv then (max t.nv 4, max t.ns 8) else (t.nv, t.ns)

/-- A register lies below the team's counts (R15). -/
def useOk (nv ns : Nat) : Use → Bool
  | .vs n | .vd n => decide (n < nv)
  | .ss n | .sd n => decide (n < ns)
  | .ms n | .md n => decide (n < 16)

/-- The flag that an instruction sets (R99). -/
def selFlag (h : Word) (se fs : Bool) : Option Nat := if se then hdrFlag h fs else none

/-- The slot is held as an interlock (R97); a read of a register with a write pending sets PSTAT.ST_HAZ (R77). -/
def State.hazard (s : State) (u : Nat) : State := s.modTeam u fun t => { t with pstat := t.pstat ||| 1 }

/-- The instructions that run in a speculative window (R327): integer, float, conversion and exchange instructions but XCOL, BRA, BRAC,
BRAV, CALL and RET, the loads LD, LDS, LDC, LDSP and the stores ST, STS, STSP. -/
def windowAllows : Instr → Bool
  | .smov _ | .sadd _ | .ssub _ | .smul _ | .smulh _ | .sdiv _ | .srem _ | .sand _ | .sor _ | .sxor _ | .snot _ | .sshl _ | .sshr _
  | .ssar _ | .srot _ | .scmp _ | .ssel _ | .smin _ | .smax _ | .sclz _ | .spop _ | .slea _ | .smovi _ | .saddImm _ | .ssubImm _
  | .smulImm _ | .sandImm _ | .sorImm _ | .sxorImm _ | .sshlImm _ | .sshrImm _ | .ssarImm _ | .srotImm _ | .sminImm _ | .smaxImm _
  | .sleaImm _ | .vmov _ | .vadd _ | .vsub _ | .vmul _ | .vmulh _ | .vmad _ | .vdiv _ | .vrem _ | .vand _ | .vor _ | .vxor _
  | .vnot _ | .vshl _ | .vshr _ | .vsar _ | .vrot _ | .vcmp _ | .vsel _ | .vmin _ | .vmax _ | .vabs _ | .vneg _ | .vclz _ | .vpop _
  | .vbrev _ | .vbfe _ | .vbfi _ | .vlea _ | .vidx _ | .vsplat _ | .vext _ | .vcvti _ | .spk24 _ | .vmovi _ | .vaddImm _
  | .vsubImm _ | .vmulImm _ | .vandImm _ | .vorImm _ | .vxorImm _ | .vshlImm _ | .vshrImm _ | .vsarImm _ | .vrotImm _ | .vminImm _
  | .vmaxImm _ | .vleaImm _ | .fadd _ | .fsub _ | .fmul _ | .ffma _ | .fmin _ | .fmax _ | .fmaxi _ | .fmini _ | .fabs _ | .fneg _
  | .fcmp _ | .fclass _ | .fdiv _ | .fsqrt _ | .frnd _ | .fscl _ | .fdot2 _ | .fcvt _ | .fcvti _ | .icvtf _ | .faddImm _
  | .fsubImm _ | .fmulImm _ | .fminImm _ | .fmaxImm _ | .ncvt _ | .rnenc _ | .rndec _ | .rnadd _ | .rnmul _ | .ld _ | .st _ | .lds _
  | .sts _ | .ldc _ | .ldsp _ | .stsp _ | .xlane _ | .xshuf _ | .xred _ | .xscan _ | .xvote _ | .bra _ | .brac _ | .brav _ | .call _
  | .callReg _ | .ret _ => true
  | _ => false

/-- The stores whose number a window limits to 16 (R327). -/
def windowStore : Instr → Bool
  | .st _ | .sts _ | .stsp _ => true
  | _ => false

/-- The checks of R113 steps 1 to 3 that depend on the team: class, privilege, last slot, register limits, a selected flag's valid bit. -/
def Team.admits (t : Team) (i : Instr) (se fs : Bool) : Bool :=
  let r := i.rule
  let lim := t.limits
  r.cls == .team && (!r.priv || t.priv) && (!r.last || t.slot == hdrCount t.hdr) && r.ok &&
    (r.uses.all fun x => useOk lim.1 lim.2 x) && (!se || (hdrFlag t.hdr fs).isSome)

/-- An instruction of a team issues (R100, R113): the team runs a started clause and holds the datapath; a failed check traps with IINS
(R101); a register with a write pending, a pass of the team that waits for the vector port (R227), or a speculative window that does not allow the
instruction, holds the slot. The same word in an engine stream halts the stream (R108). (log 24: DEDUCED, safe.) (log 81: DEDUCED, unsafe.) -/
def State.issue (s : State) (i : Instr) (se fs : Bool) (body : State → Nat → Team → State) : Out :=
  match s.cur with
  | .team u =>
    match s.team? u with
    | none => .next s
    | some t =>
      if !t.started then .next s
      else if !t.admits i se fs then .next (s.trapAt u .iins)
      else if (match t.spec with | some sp => sp.conflict || !windowAllows i || (windowStore i && decide (16 ≤ sp.stores)) | none => false) then .next s
      else if s.portHeld u then .next s
      else if i.rule.uses.any fun x => match useSource x with | some d => s.pendingDest u d | none => false then .next (s.hazard u)
      else .next (body s u t)
  | .copy u => .next (match (s.team? u).bind (·.copy) with
    | some x => if x.started then s.haltStream u false .iins x.pc x.slot 0 else s
    | none => s)
  | .matrix u => .next (match (s.team? u).bind (·.mtx) with
    | some x => if x.started then s.haltStream u true .iins x.pc x.slot 0 else s
    | none => s)

/-- An instruction whose writes are known at issue: they stay pending until WRITE_PERFORMED (R150), under the selected flag, and the slot
has issued. -/
def State.emit (s : State) (u : Nat) (t : Team) (se fs : Bool) (dests : List Dest) (ws : List RegWr) (raises : BitVec 5) (raiser : Bool) :
    State :=
  (s.addOp u .alu fun o =>
    { o with flag := selFlag t.hdr se fs, dests := dests, writes := ws, raises := raises, raiser := raiser, slot := t.slot }).advance u

/-- An instruction that completes in the clk it issues: a selected flag is set and clears (R99). -/
def State.done (s : State) (u : Nat) : State := { s.advance u with seq := s.seq + 1 }

end Sys2Proof.Machine
end

