-- ==== Sys2Proof/Machine/MemSys.lean ====
section
/-!
DEFINITION. The abstract memory machine (R313 to R323): places and routes of accesses (R198, R417), the order within a path (R317), reads
(R315), writes and their way to memory (R314, R320, R321), atomics (R219, R316), staging (R333 to R338), and the scopes (R319).
-/

namespace Sys2Proof.Machine

/-! ### Places -/

/-- The slice of a column that an address of team u names; the team counts for object 0 alone (R197). -/
def sliceOf (x col u : Nat) (a : Addr) : Space := .slice x col (if objId a = 0 then u else 0)

/-- Where a far address leads (R198, R370, R384, R417, R424): a context's own device number is this device. (log 22: DEDUCED, unsafe.) -/
def State.farSpace (s : State) (x : Nat) (a : Addr) (route : Word) : Space :=
  let kind := (route.extractLsb' 62 2).toNat
  let col := (route.extractLsb' 0 10).toNat
  let dev := (route.extractLsb' 10 12).toNat
  match s.ctx? x with
  | none => .nowhere .mnul
  | some c =>
    if kind ≠ 1 ∨ route.extractLsb' 22 40 ≠ 0 ∨ 512 ≤ col ∨ objId a = 0 then .nowhere .mnul
    else
      let here (p : Nat) : Space := if inPartition s.nPart p col then .slice x col 0 else .nowhere .mcol
      if dev = c.dev then here c.part
      else match assoc s.install dev with
        | some i =>
          match i.part with
          | some p => here p
          | none => if i.unreachable then .nowhere .mnul else .remote dev col x
        | none => .nowhere .mnul

/-- A far address: the offsets add to OFF only (R222, R279). (log 36: DESIGN CHOICE, unsafe.) -/
def farAddr (base : Addr) (d : Word) : Addr := (base &&& 0xFFFF000000000000) ||| ((base + d) &&& 0x0000FFFFFFFFFFFF)

/-- Two accesses overlap in a byte of one location (R202). -/
def sameBytes (p q : Space) (pl ql : Bool) (a b : Addr) (m n : Nat) : Bool :=
  p == q && pl == ql && decide (a.toNat < b.toNat + n ∧ b.toNat < a.toNat + m)

/-- The first covers every byte of the second. -/
def coversBytes (p q : Space) (pl ql : Bool) (a b : Addr) (m n : Nat) : Bool :=
  p == q && pl == ql && decide (a.toNat ≤ b.toNat ∧ b.toNat + n ≤ a.toNat + m)

/-- Two accesses reach one location. -/
def Access.hits (x y : Access) : Bool := sameBytes x.space y.space x.lower y.lower x.addr y.addr x.size y.size

/-- A write on its way reaches a location of an access. -/
def BufWrite.hits (b : BufWrite) (sp : Space) (lower : Bool) (a : Addr) (n : Nat) : Bool := sameBytes b.space sp b.lower lower b.addr a b.size n

/-- A write on its way covers a whole read (R315). -/
def BufWrite.covers (b : BufWrite) (sp : Space) (lower : Bool) (a : Addr) (n : Nat) : Bool :=
  coversBytes b.space sp b.lower lower b.addr a b.size n

/-- The bytes that a write carries. -/
def Act.bytes : Act → List Byte
  | .write bs => bs
  | .atomic _ _ x _ => x
  | .read | .pref | .clean _ => []

/-- The act is a plain write. -/
def Act.isWrite : Act → Bool
  | .write _ => true
  | .atomic _ _ _ _ | .read | .pref | .clean _ => false

/-- The act is a write or an atomic. -/
def Act.writes : Act → Bool
  | .write _ | .atomic _ _ _ _ => true
  | .read | .pref | .clean _ => false

/-- The place is on another device. -/
def Space.isRemote : Space → Bool
  | .remote _ _ _ => true
  | .slice _ _ _ | .spad _ | .nowhere _ => false

/-- The target's column. -/
def Space.col? (s : State) : Space → Option Nat
  | .slice _ col _ => some col
  | .spad w => some (s.colOfWg w)
  | .remote _ _ _ | .nowhere _ => none

/-- The compute die that an access of team u crosses to, if it crosses (R320). -/
def State.crossing (s : State) (u : Nat) (sp : Space) : Option (Nat × Nat) :=
  match s.team? u, Space.col? s sp with
  | some t, some c => let d := dieOf (s.colOf t); if dieOf c = d then none else some (d, dieOf c)
  | _, _ => none

/-! ### Checks -/

/-- The checks of R199 for an access, made where it is served; a far page fault is no precise fault (R370). (log 17: DEDUCED, safe.) -/
def State.checkAccess (s : State) (u : Nat) (a : Access) : Chk :=
  match a.space with
  | .spad w => s.checkSpad w a.addr a.size
  | .nowhere c => .err c
  | .remote _ _ _ => .ok
  | .slice x col _ =>
    let split := !a.halves.isEmpty
    let hs := if split then a.halves else [false]
    let n := if split then 4 else a.size
    match s.check x u col a.addr n a.act.writes split hs n with
    | .precise .pnot => if a.path == .T then .precise .pnot else .err .pnot
    | k => k

/-- A place carries poison in some byte (R214, R410). (log 33: DEDUCED, unsafe.) -/
def State.poisonedAt (s : State) (sp : Space) (a : Addr) (lower : Bool) (n : Nat) : Bool :=
  match sp with
  | .spad w => match s.wg? w with | some g => g.poisoned a.toNat n | none => false
  | .slice _ _ _ => match s.physAt sp a lower with | some k => s.poisoned k n | none => false
  | .remote _ _ _ | .nowhere _ => false

/-- A write of the place must wait for its page to be copied: the frame is shared with a snapshot (R381). -/
def State.sharedPage (s : State) (sp : Space) (a : Addr) (lower : Bool) : Bool :=
  match sp with
  | .slice x col u =>
    match s.obj? x (objId a) col with
    | some o => (s.pte (pageRef x (objId a) u col (offOf a) lower) o).sh
    | none => false
  | .spad _ | .remote _ _ _ | .nowhere _ => false

/-- A request of another device is checked at its target (R198, R370, R417). -/
def State.checkFar (s : State) (x col : Nat) (a : Addr) (n : Nat) (write : Bool) : Chk :=
  match s.ctx? x with
  | none => .err .mnul
  | some c =>
    if objId a = 0 ∨ 512 ≤ col then .err .mnul
    else if !inPartition s.nPart c.part col then .err .mcol
    else match s.check x 0 col a n write false [false] n with
      | .precise .pnot => .err .pnot
      | k => k

/-! ### Order -/

/-- Bytes a FIFO holds (R79). -/
def fifoSize (k : Nat) : Nat := if k = 2 then 16384 else 32768

/-- A CPYM may send its requests: its bytes have their space in the FIFO, or it goes elsewhere (R312). Space is reserved in stream order.
(log 43: DESIGN CHOICE, safe.) -/
def State.fifoRoom (s : State) (o : Op) (c : CopyCmd) : Bool :=
  let ahead := s.ops.filterMap fun p => if p.by_ o.agent && decide (p.seq < o.seq) then (match p.kind with
    | .copy d => if d.dst.kind == 2 && d.dst.fifo == c.dst.fifo then some d else none
    | _ => none) else none
  let held := (ahead.map fun d => (d.n - d.landed) * d.w).sum
  let now := match s.team? o.team with | some t => ((s.column (s.colOf t)).mx.fifo c.dst.fifo).length | none => 0
  c.cop != .cpym || c.dst.kind != 2 || c.reserved ||
    ((ahead.all fun d => d.cop == .cpym && d.reserved) && decide (now + held + c.n * c.w ≤ fifoSize c.dst.fifo))

/-- A copy command of a team at a boundary where it is due to take a trap cannot go on before the handler runs: it has stopped on a precise fault
(R282), or waits for the matrix unit or for room in a FIFO (R80, R284, R312). No fence waits for it then (R326). (log 82: DEDUCED, unsafe.) -/
def State.cpStuck (s : State) (o : Op) (c : CopyCmd) : Bool :=
  match s.team? o.team with
  | none => false
  | some t => !t.started && (t.issueTrap.isSome || t.boundaryCause.isSome) &&
      (c.stopped.isSome || (c.dst.kind == 2 && ((s.column (s.colOf t)).mxHolder != some o.team || !s.fifoRoom o c)))

/-- The operation has accesses on a path that are not performed (R314, R325): of a copy command the elements that are still to be read, or to be
written to memory. -/
def State.onPath (s : State) (o : Op) (p : Path) : Bool :=
  (o.acc.any fun a => a.path == p) || match o.kind with
    | .copy c => p == .C && (!c.left.isEmpty || (c.dst.kind != 2 && !c.got.isEmpty)) && !s.cpStuck o c
    | _ => false

/-- A request of path F that leaves its die or its device as it is performed; the requests of an LDG leave when its members' presence is sampled
(R274). -/
def State.leavesDie (s : State) (u : Nat) (a : Access) : Bool :=
  a.path == .F && (a.act == .pref || (a.act != .read && match a.space with
    | .remote _ _ _ => true
    | sp => (s.crossing u sp).isSome))

/-- R317 lets an access of paths T and F be performed: no access to the location that comes before it is still queued; on path F, no earlier
request of the team has yet to leave (R274), and no earlier GPOST of it is pending (R318). (log 35: DEDUCED, unsafe.) -/
def State.inOrder (s : State) (o : Op) (a : Access) : Bool :=
  let before (b : Access) : Bool := b.path == a.path && (b.hits a || s.leavesDie o.team b)
  !(s.ops.any fun p => p.team == o.team && decide (p.seq < o.seq) &&
      (p.acc.any before || (a.path == .F && match p.kind with | .gpost _ _ => true | _ => false))) &&
    !((o.acc.takeWhile fun b => b.el != a.el).any before)

/-- The lane groups of LDS and STS by access size (R205). -/
def groupLanes (size : Nat) : Nat := if size ≤ 4 then 32 else if size = 8 then 16 else 8

/-- The accesses of a scratchpad pass that lie in one lane group (R205). -/
def Access.sameGroup (a b : Access) : Bool := a.lane / groupLanes a.size == b.lane / groupLanes b.size

/-- The vector port has served every pass of a column that was issued before place `sq` (R227). -/
def State.portFree (s : State) (col sq : Nat) : Bool := !(s.portPasses col).any fun p => decide (p.2 < sq)

/-- The vector port comes to a load of the scratchpad (R227): the lane groups of its pass are served in ascending order, and after those of every
earlier pass of the column. A store comes to the port as it leaves the buffer. -/
def State.spadTurn (s : State) (o : Op) (a : Access) : Bool :=
  match a.act, a.space with
  | .read, .spad w =>
    a.path != .T || s.offPort o a ||
      (!(o.acc.any fun b => s.portAcc (s.colOfWg w) b.path b.space && decide (b.lane / groupLanes b.size < a.lane / groupLanes a.size)) &&
        s.portFree (s.colOfWg w) o.seq)
  | _, _ => true

/-- The vector port comes to a buffered store of path T to the scratchpad (R227). -/
def State.storeTurn (s : State) (b : BufWrite) : Bool :=
  match b.space with
  | .spad w =>
    let below (lane size : Nat) : Bool := decide (lane / groupLanes size < b.lane / groupLanes b.size)
    b.path != .T ||
      (!(s.bufs.any fun c => c.path == .T && c.op == b.op && c.seq == b.seq && c.stage == 0 && c.space == b.space && below c.lane c.size) &&
        !(s.ops.any fun o => o.id == b.op && o.acc.any fun a => a.path == .T && a.space == b.space && below a.lane a.size) &&
        s.portFree (s.colOfWg w) b.seq)
  | .slice _ _ _ | .remote _ _ _ | .nowhere _ => true

/-- The 32-bit words that some bytes reach, in a scratchpad or in memory. -/
def State.wordsAt (s : State) (sp : Space) (a : Addr) (lower : Bool) (n : Nat) : List Nat :=
  let words (k : Nat) : List Nat := (List.range ((k + n + 3) / 4 - k / 4)).map fun i => k / 4 + i
  match sp with
  | .spad _ => words a.toNat
  | .slice _ _ _ => match s.physAt sp a lower with | some k => words k | none => []
  | .remote _ _ _ | .nowhere _ => []

/-- The elements that are served together with an access: in the scratchpad, the lanes of its group that address a word of it (R205); of LDSP and
STSP, the two halves of its lane, which are checked as one (R213, R377). -/
def Op.slotMates (o : Op) (a : Access) : List Nat :=
  match a.path, a.space with
  | .T, .spad w => (o.acc.filter fun b => b.path == .T && b.space == .spad w && b.sameGroup a &&
      decide (b.addr.toNat / 4 * 4 < a.addr.toNat + a.size ∧ a.addr.toNat / 4 * 4 < b.addr.toNat + b.size)).map (·.el)
  | _, _ => if a.halves.isEmpty then [a.el] else (o.acc.filter fun b => b.lane == a.lane).map (·.el)

/-- A write has been performed at a scope (R319). An atomic or a read that another die or device has yet to answer has no value (R316), and what
another device has yet to check is not performed (R333). -/
def BufWrite.atScope (b : BufWrite) (scope : Nat) (samePath : Bool) : Bool :=
  !b.probe && match b.act with
  | .atomic _ _ _ _ | .read => false
  | .write _ | .pref | .clean _ =>
    if scope = 0 && samePath then true else if scope ≤ 3 then b.stage != 0 else if scope = 4 then b.stage == 3 else false

/-- A drain of team u, a follow-on or a command of its stream, that began before place `sq` has yet to be performed (R308, R325): the one matrix
command that accesses memory. -/
def State.drainsBefore (s : State) (u sq : Nat) : Bool :=
  match s.team? u with
  | some t =>
    let k := s.column (s.colOf t)
    k.mxHolder == some u && (match k.mx.busy with
      | some b => decide (b.seq < sq) && (match b.instr with | .mdrn _ => true | _ => false)
      | none => false)
  | none => false

/-- Every access of a path that the team and its stream of that path issued before place `sq` has been performed at a scope (R325). -/
def State.performedAt (s : State) (u : Nat) (p : Path) (sq scope : Nat) (samePath : Bool) : Bool :=
  !(s.ops.any fun o => o.team == u && decide (o.seq < sq) && s.onPath o p) &&
    !(p == .M && s.drainsBefore u sq) && !(s.bufs.any fun b => b.team == u && b.path == p && decide (b.seq < sq) && !b.atScope scope samePath)

/-! ### Values -/

/-- The issuer of an access on a path of a team (R313). -/
def issuerOf (u : Nat) : Path → Agent
  | .C => .copy u
  | .M => .matrix u
  | .T | .F | .I => .team u

/-- The bytes of a place with the staged writes of a workgroup over them, and which of them are staged (R334). -/
def overlay (st : List Staged) (sp : Space) (lower : Bool) (a : Addr) (bs : List Byte) : List (Byte × Bool) :=
  (bs.zipIdx).map fun bk =>
    st.foldl (fun acc e =>
      match e.act with
      | .write w =>
        if e.space == sp && e.lower == lower && decide (e.addr.toNat ≤ a.toNat + bk.2 ∧ a.toNat + bk.2 < e.addr.toNat + w.length) then
          (w.getD (a.toNat + bk.2 - e.addr.toNat) 0, true)
        else acc
      | _ => acc) (bk.1, false)

/-- The staged writes of the store to which a staged write belongs, in one place: its lanes (R336). -/
def Staged.sameStore (e f : Staged) : Bool :=
  e.twg == f.twg && e.rank == 0 && f.rank == 0 && e.seq == f.seq && e.space == f.space && e.lower == f.lower && e.act.isWrite && f.act.isWrite

/-- The poisoned word of a byte is one that the lanes of a staged store cover whole: the store has cleared it for its own workgroup (R334, R410). -/
def State.stagedClear (s : State) (st : List Staged) (sp : Space) (lower : Bool) (a : Addr) : Bool :=
  let key (b : Addr) : Option Nat := match sp with
    | .spad _ => some b.toNat
    | _ => s.physAt sp b lower
  let piece (e : Staged) : Option (Nat × Nat) := (key e.addr).map fun k => (k, e.act.bytes.length)
  match key a with
  | none => false
  | some k => st.any fun e => e.space == sp && e.lower == lower && e.act.isWrite &&
      (coveredWords ((st.filter fun f => f == e || e.sameStore f).filterMap piece)).contains (k / 4)

/-- What is staged and visible to a read of the workgroup's own slice on path T (R334). -/
def State.stagedOf (s : State) (u : Nat) (p : Path) : List Staged :=
  match s.team? u with
  | some t => if p == .T && s.isDet t.wg then (match s.wg? t.wg with | some g => g.staged | none => []) else []
  | none => []

/-- Some byte of a place carries poison that the workgroup's own staged writes have not cleared (R214, R334). -/
def State.badBytes (s : State) (u : Nat) (p : Path) (sp : Space) (lower : Bool) (a : Addr) (n : Nat) : Bool :=
  (List.range n).any fun k =>
    let b := a + BitVec.ofNat 64 k
    s.poisonedAt sp b lower 1 && !s.stagedClear (s.stagedOf u p) sp lower b

/-- What a read takes (R315): none while it must wait; else its bytes and whether one of them carries poison. The latest buffered write that
meets the read decides: when it covers the read in part alone, the read waits, also where an older one covers it whole (R203). (log 66: DEDUCED, unsafe.) -/
def State.readValue (s : State) (u : Nat) (p : Path) (sp : Space) (lower : Bool) (a : Addr) (n : Nat) : Option (List Byte × Bool) :=
  let own := s.bufs.filter fun b => b.agent == issuerOf u p && b.path == p && b.stage == 0 && b.act.writes && b.hits sp lower a n
  let sent := if p == .C then
      (match s.crossing u sp with
        | some (d, _) => s.bufs.filter fun b => (b.stage == 1 || b.stage == 2) && b.die == d && b.hits sp lower a n
        | none => [])
    else []
  let slice (b : BufWrite) : Option (List Byte × Bool) :=
    match b.act with
    | .write w => if b.covers sp lower a n then some ((w.drop (a.toNat - b.addr.toNat)).take n, false) else none
    | _ => none
  match own.getLast? with
  | some b => slice b
  | none =>
    match leastBy (fun b : BufWrite => 2 ^ 64 - b.num) sent with
    | some b => slice b
    | none =>
      let bs := s.readMem sp a lower n
      some ((overlay (s.stagedOf u p) sp lower a bs).map (·.1), s.badBytes u p sp lower a n)

/-- The new value of an atomic (R219) and the flags that it raises. -/
def atomNew (aop : AOp) (ty : Ty) (old x cmp : List Byte) : List Byte × Sticky :=
  let n := old.length
  let o := BitVec.ofNat 64 (natOfBytes old)
  let v := BitVec.ofNat 64 (natOfBytes x)
  let int (i : Int) : List Byte := bytesOfNat (BitVec.ofInt 64 i).toNat n
  let sv (w : Word) : Int := if ty.isSigned then Int.bmod (w.toNat % 2 ^ ty.width : Nat) (2 ^ ty.width) else (w.toNat % 2 ^ ty.width : Nat)
  let win (isMax : Bool) : List Byte :=
    let r := fmaxiV .f32 isMax (natOfBytes (old.take 4)) (natOfBytes (old.drop 4)) (natOfBytes (x.take 4)) (natOfBytes (x.drop 4))
    bytesOfNat r.1 4 ++ bytesOfNat r.2 4
  match aop with
  | .add => (int (sv o + sv v), 0)
  | .sub => (int (sv o - sv v), 0)
  | .min => (if sv o ≤ sv v then old else x, 0)
  | .max => (if sv o ≥ sv v then old else x, 0)
  | .and => (bytesOfNat (o &&& v).toNat n, 0)
  | .or => (bytesOfNat (o ||| v).toNat n, 0)
  | .xor => (bytesOfNat (o ^^^ v).toNat n, 0)
  | .xchg => (x, 0)
  | .cas => (if old = cmp then x else old, 0)
  | .fadd =>
    let r := faddV (fmtOf ty) .rn false false (decodeF (fmtOf ty) o.toNat) (decodeF (fmtOf ty) v.toNat)
    (bytesOfNat r.pat n, r.flags)
  | .maxi => (win true, 0)
  | .mini => (win false, 0)

/-- The register writes of the bytes that an access returns (R73, R74, R213, R217). -/
def landing (ld : Land) (lane : Nat) (bs : List Byte) : List RegWr :=
  match ld with
  | .none | .data _ => []
  | .vreg n ty k => (List.range k).flatMap fun j =>
      putPat ty (n + j * (if ty.wide then 2 else 1)) lane (BitVec.ofNat 64 (natOfBytes ((bs.drop (j * ty.bytes)).take ty.bytes)))
  | .half n upper =>
    let x : Elem := BitVec.ofNat 32 (natOfBytes bs)
    [if upper then .v n lane 0xFFFF0000 (x <<< 16) else .v n lane 0x0000FFFF x]
  | .upper n => putElem n lane (BitVec.ofNat 32 (natOfBytes bs))
  | .sreg n ty => [.s n (extend64 ty (BitVec.ofNat 64 (natOfBytes bs)))]

/-- Put what a read returned into its operation: register writes, or bytes at a place of its data. -/
def Op.land (o : Op) (ld : Land) (lane : Nat) (bs : List Byte) : Op :=
  match ld with
  | .data k => { o with data := Memory.setBytes o.data k bs }
  | _ => { o with writes := o.writes ++ landing ld lane bs }

/-! ### Memory changes -/

/-- The 128-byte sectors of a place, as numbers that tell slices and scratchpads apart (R327). -/
def State.sectorsOf (s : State) (sp : Space) (a : Addr) (lower : Bool) (n : Nat) : List Nat :=
  let span (lo : Nat) : List Nat := (List.range ((lo + n - 1) / 128 - lo / 128 + 1)).map fun i => lo / 128 + i
  match sp with
  | .slice _ _ _ => match s.physAt sp a lower with | some k => (span k).map fun i => 2 * i | none => []
  | .spad w => (span (a.toNat % 2 ^ 20)).map fun i => 2 * (w * 2 ^ 20 + i) + 1
  | .remote _ _ _ | .nowhere _ => []

/-- The sectors of a window's read set, where its places lie now (R327). -/
def State.readSectors (s : State) (sp : Spec) : List Nat := (sp.readSet.flatMap fun r => s.sectorsOf r.1 r.2.1 r.2.2 1).eraseDups

/-- Mark the windows whose read set holds a sector that a write of another issuer has reached (R328); of one workgroup alone, when only its teams
see the write (R334). -/
def State.noteConflict (s : State) (ag : Agent) (p : Path) (secs : List Nat) (only : Option Nat) : State :=
  { s with teams := s.teams.map fun e =>
      match e.2.spec with
      | some sp =>
        if !(ag == .team e.1 && p == .T) && (match only with | some w => e.2.wg == w | none => true) &&
            secs.any fun k => (s.readSectors sp).contains k then
          (e.1, { e.2 with spec := some { sp with conflict := true } })
        else e
      | none => e }

/-- A write updates memory (R314). -/
def State.update (s : State) (ag : Agent) (p : Path) (sp : Space) (a : Addr) (lower : Bool) (bs : List Byte) : State :=
  (s.noteConflict ag p (s.sectorsOf sp a lower bs.length) none).writeMem sp a lower bs

/-- The lanes of one store that reach a word update it in one step, in ascending order (R202, R205, R314); with what the store has brought to memory
before they clear the poison of the words that it covers (R410). (log 33: DEDUCED, unsafe.) -/
def State.updateAll (s : State) (ag : Agent) (p : Path) (sp : Space) (lower : Bool) (ws : List (Addr × List Byte)) (before : List (Addr × Nat)) :
    State :=
  (ws.foldl (fun s e => s.update ag p sp e.1 lower e.2) s).clearCovered sp lower ((ws.map fun e => (e.1, e.2.length)) ++ before)

/-- Element-wise maximum of clocks (R322). -/
def mergeClock (u t : List Nat) : List Nat := List.zipWith max u t

/-- V(d) takes in a clock (R322). -/
def State.mergeV (s : State) (d : Nat) (t : List Nat) : State :=
  { s with vclk := s.vclk.set d (mergeClock (s.vclk.getD d []) t) }

/-- A read or atomic crosses back to die d from a column of die e: V(d) takes in P(b) (R322). -/
def State.crossBack (s : State) (d e : Nat) : State := s.mergeV d (s.pclk.getD (e / 2) [])

/-- A write or atomic enters S(d): it is numbered and stamped (R320). -/
def State.enterSend (s : State) (b : BufWrite) (d : Nat) : State × BufWrite :=
  let v := s.vclk.getD d []
  let n := v.getD d 0 + 1
  let v1 := v.set d n
  ({ s with vclk := s.vclk.set d v1 }, { b with stage := 1, die := d, num := n, stamp := v1 })

/-- Clear one operation's element: it is performed. -/
def Op.dropEl (o : Op) (el : Nat) : Op := { o with acc := o.acc.filter fun a => a.el != el }

/-- Clear what an operation still holds for a lane that got an error response: its accesses and its register writes (R200). -/
def Op.dropLane (o : Op) (lane : Nat) : Op :=
  { o with acc := o.acc.filter (fun a => a.lane != lane), errLanes := setLane o.errLanes lane true,
           writes := o.writes.filter fun w => match w with | .v _ l _ _ => l != lane | .s _ _ | .m _ _ _ => false }

/-- A team's access has met poison: the record of R413. -/
def State.notePoison (s : State) (u : Nat) (sp : Space) (a : Addr) (lower : Bool) : State :=
  match s.team? u with | some t => s.logPoison (s.ctxOf t) sp a lower | none => s

/-- An access gets an error response (R200, R218). (log 17: DEDUCED, safe.) -/
def State.failAccess (s : State) (o : Op) (a : Access) (c : Cause) : State :=
  if a.act == .pref then s.setOp (o.dropEl a.el)
  else
    let s1 := if c = .euce then s.notePoison o.team a.space a.addr a.lower else s
    (s1.giveErr o.team a.path a.lane c a.addr o.slot o.seq).setOp (o.dropLane a.lane)

/-- The operation of an access with what its performance returned. -/
def State.finishAccess (s : State) (o : Op) (el : Nat) (ld : Land) (lane : Nat) (bs : List Byte) : State :=
  s.setOp ((o.dropEl el).land ld lane bs)

/-- Apply an atomic at memory: its new value, its old value and its flags. -/
def State.atomicAt (s : State) (ag : Agent) (p : Path) (sp : Space) (a : Addr) (aop : AOp) (ty : Ty) (x cmp : List Byte) :
    State × List Byte × Sticky :=
  let old := s.readMem sp a false x.length
  let r := atomNew aop ty old x cmp
  (s.update ag p sp a false r.1, old, r.2)

/-! ### Staging in a deterministic launch -/

/-- The access is staged (R333). -/
def State.stages (s : State) (u : Nat) (sp : Space) (a : Addr) (act : Act) : Bool :=
  match s.team? u, sp with
  | some t, .slice _ _ _ | some t, .remote _ _ _ => s.isDet t.wg && act.writes && objId a != 0
  | _, _ => false

/-- Rank of a path in a ticket (R336). -/
def pathRank : Path → Nat
  | .T => 0
  | .C => 1
  | .M | .F | .I => 2

/-- Staging capacity E of a workgroup (R338). -/
def State.stageCap (s : State) (w : Nat) : Nat := match s.launchOf w with | some l => l.stage / 32 | none => 0

/-- The object of a place is a split-word object. -/
def State.splitAt (s : State) (sp : Space) (a : Addr) : Bool :=
  match sp with
  | .slice x col _ => match s.obj? x (objId a) col with | some o => o.split | none => false
  | .spad _ | .remote _ _ _ | .nowhere _ => false

/-- A write or atomic of team t is staged (R336, R338), or discarded once a CANCEL has reached its workgroup (R54); none when the capacity is
full. The halves of one lane use one entry. Teams of the workgroup see a staged write (R334). (log 23: DEDUCED, safe.) (log 52: DEDUCED, unsafe.) -/
def State.stage1 (s : State) (u : Nat) (t : Team) (p : Path) (e : Staged) : Option State :=
  match s.wg? t.wg with
  | none => some s
  | some g =>
    if g.cancelled then some s
    else
      let second := s.splitAt e.space e.addr &&
        g.staged.any fun f => f.twg == e.twg && f.rank == e.rank && f.seq == e.seq && f.el / 2 == e.el / 2
      let cost := if second then 0 else 1
      if s.stageCap t.wg < g.stageUsed + cost then none
      else
        let s1 := s.modWg t.wg fun g => { g with staged := g.staged ++ [e], stageUsed := g.stageUsed + cost }
        some (if e.act.isWrite then s1.noteConflict (issuerOf u p) p (s.sectorsOf e.space e.addr e.lower e.act.bytes.length) (some t.wg)
          else s1)

/-- The staged form of an access of team t. -/
def Access.toStaged (a : Access) (o : Op) (t : Team) : Staged :=
  { twg := t.twg, rank := pathRank a.path, seq := o.seq, el := a.el, space := a.space, addr := a.addr, lower := a.lower, act := a.act, before := [] }

/-- Stage an access of paths T or F, or give the lane the error response of a full capacity (R336, R338). (log 23: DEDUCED, safe.) -/
def State.stageAccess (s : State) (o : Op) (a : Access) : State :=
  match s.team? o.team with
  | none => s
  | some t => match s.stage1 o.team t a.path (a.toStaged o t) with
    | some s1 => s1.setOp (o.dropEl a.el)
    | none => s.failAccess o a .mbnd

/-- A staged access comes after those of its team and path that are still queued, or that another device has yet to check (R336, R338). (log 23: DEDUCED, safe.) -/
def State.stageOrder (s : State) (o : Op) (a : Access) : Bool :=
  !(s.bufs.any fun b => b.probe && b.num == 0 && b.team == o.team && b.path == a.path) &&
  !(s.ops.any fun p => p.team == o.team && decide (p.seq < o.seq) && p.acc.any fun b => b.path == a.path && b.act.writes) &&
    !((o.acc.takeWhile fun b => b.el != a.el).any fun b => b.path == a.path && b.act.writes)

/-! ### Other devices -/

/-- The port that a hash picks from a list; while it has failed, what it carries is hashed over the ports that remain (R424). (log 12: DESIGN CHOICE, safe.) -/
def pickPort (down : List Nat) (h : Nat) : Nat → List Nat → Option Nat
  | 0, _ => none
  | fuel + 1, ps =>
    match ps[h % ps.length]? with
    | none => none
    | some p => if down.contains p then pickPort down h fuel (ps.filter (· != p)) else some p

/-- The scale-out port of a request (R424): a hash over the partition's ports that reach the device. A port that fails moves the locations that it
carried and no others. (log 12: DESIGN CHOICE, safe.) -/
def State.portFor (s : State) (part dev col : Nat) : Option Nat :=
  pickPort s.portsDown (Config.portHash dev col) 17
    ((List.range 16).filter fun p => decide (p * s.nPart / 16 = part) && Config.portReaches p dev)

/-- The packet of a request that is on its way to another device (R406, R423). -/
def BufWrite.packet (b : BufWrite) : Option FarPacket :=
  match b.space with
  | .remote _ col x =>
    if b.probe then some (.check b.id x col b.addr b.size b.num b.act.writes (match b.act with | .atomic _ _ _ _ => true | _ => false))
    else match b.act with
    | .read => some (.read b.id x col b.addr b.size)
    | .write bs => some (.write b.id x col b.addr bs)
    | .atomic aop ty v cmp => some (.atomic b.id x col b.addr aop ty v cmp)
    | .pref | .clean _ => none
  | .slice _ _ _ | .spad _ | .nowhere _ => none

/-- The MAC address of a device of the installation (R420). -/
def State.macOf (s : State) (dev : Nat) : BitVec 48 := match assoc s.install dev with | some i => i.mac | none => 0

/-- The MAC address of a partition (R420). -/
def State.macOfPart (s : State) (p : Nat) : BitVec 48 := match s.install.find? fun e => e.2.part == some p with | some e => e.2.mac | none => 0

/-- The EtherType of the far packets between devices (R423). -/
def farEther : BitVec 16 := 0x88B5

/-- Send a request to another device in a frame; with no port up it stays undelivered (R423, R424). (log 22: DEDUCED, unsafe.) -/
def State.sendRemote (s : State) (b : BufWrite) : State :=
  let s1 := { s with bufs := s.bufs ++ [{ b with stage := 3 }] }
  match b.space, b.packet with
  | .remote dev col x, some p =>
    let part := match s.ctx? x with | some c => c.part | none => 0
    match s.portFor part dev col with
    | some n => { s1 with egress := s1.egress ++ [(n, { dst := s.macOf dev, src := s.macOfPart part, etherType := farEther, pkt := p })] }
    | none => s1
  | _, _ => s1

/-! ### Performing an access of paths T, F and M -/

/-- The record of an access as it leaves its path queue. -/
def Access.toBuf (a : Access) (o : Op) (id : Nat) (win : Bool) : BufWrite :=
  { id := id, agent := issuerOf o.team a.path, team := o.team, path := a.path, seq := o.seq, op := o.id, el := a.el, lane := a.lane,
    slot := o.slot, space := a.space, addr := a.addr, lower := a.lower, act := a.act, land := a.land, size := a.size, stage := 0, die := 0,
    num := 0, stamp := [], spec := win, probe := false, before := [] }

/-- Take a number for a record. -/
def State.fresh (s : State) : State := { s with nextId := s.nextId + 1 }

/-- A read is performed (R315, R327). -/
def State.performRead (s : State) (o : Op) (a : Access) : State :=
  match a.space with
  | .remote _ _ _ => (s.fresh.sendRemote (a.toBuf o s.nextId false)).setOp (o.dropEl a.el)
  | _ =>
    match s.readValue o.team a.path a.space a.lower a.addr a.size with
    | none => s
    | some (bs, bad) =>
      if bad then s.failAccess o a .euce
      else
        let s1 := match s.crossing o.team a.space with | some (d, e) => s.crossBack d e | none => s
        match s1.team? o.team with
        | none => s
        | some t =>
          match t.spec with
          | some sp =>
            if a.path == .T && decide (sp.seq < o.seq) then
              let old := s.readSectors sp
              let new := (s.sectorsOf a.space a.addr a.lower a.size).filter fun k => !old.contains k
              if new.isEmpty then s1.finishAccess o a.el a.land a.lane bs
              else if 64 < old.length + new.length then s
              else (s1.setTeam o.team { t with spec := some { sp with readSet := sp.readSet ++ [(a.space, a.addr, a.lower)] } }).finishAccess
                o a.el a.land a.lane bs
            else s1.finishAccess o a.el a.land a.lane bs
          | none => s1.finishAccess o a.el a.land a.lane bs

/-- A write is performed: it enters the path buffer, or is staged (R314, R333); a store of a speculative window stays in the buffer till the
window closes (R327). -/
def State.performWrite (s : State) (o : Op) (a : Access) : State :=
  let det := s.stages o.team a.space a.addr a.act
  let win := match s.team? o.team with | some t => t.inWindow o.seq && a.path == .T | none => false
  if det && !s.stageOrder o a then s
  else if det && !win then s.stageAccess o a
  else ({ s.fresh with bufs := s.bufs ++ [a.toBuf o s.nextId win] }).setOp (o.dropEl a.el)

/-- An atomic is performed: at memory in one step on its die, else it enters the send queue; after the issuer's stores to the location
(R221, R316). One that is staged passes the checks of R199 first, and one for another device is checked there (R333). -/
def State.performAtomic (s : State) (o : Op) (a : Access) (aop : AOp) (ty : Ty) (x cmp : List Byte) : State :=
  let det := s.stages o.team a.space a.addr a.act
  if det && !s.stageOrder o a then s
  else if det && !a.space.isRemote then
    (if s.badBytes o.team a.path a.space a.lower a.addr a.size then s.failAccess o a .euce else s.stageAccess o a)
  else if s.bufs.any fun b => b.agent == issuerOf o.team a.path && b.path == a.path && b.stage == 0 && b.hits a.space a.lower a.addr a.size then s
  else match a.space with
    | .remote _ _ _ => (s.fresh.sendRemote { a.toBuf o s.nextId false with probe := det }).setOp (o.dropEl a.el)
    | _ =>
      match s.crossing o.team a.space with
      | some (d, _) =>
        let r := s.fresh.enterSend (a.toBuf o s.nextId false) d
        ({ r.1 with bufs := r.1.bufs ++ [r.2] }).setOp (o.dropEl a.el)
      | none =>
        if s.sharedPage a.space a.addr a.lower then s
        else if s.poisonedAt a.space a.addr a.lower a.size then s.failAccess o a .euce
        else
          let r := s.atomicAt (issuerOf o.team a.path) a.path a.space a.addr aop ty x cmp
          r.1.setOp { ((o.dropEl a.el).land a.land a.lane r.2.1) with raises := o.raises ||| r.2.2 }

/-- A line is cleaned to DRAM: its bytes in memory are what DMA sees (R224, R313, R418). -/
def State.cleanLine (s : State) (key : Nat) : State :=
  let base := key / 1024 * 1024
  let inLine := fun k => decide (base ≤ k ∧ k < base + 1024)
  { s with dram := Store.restore (w := 8) s.dram (Store.keep (w := 8) s.mem inLine) inLine }

/-- An access of an operation is performed if it may be (R199, R314, R317, R325). (log 66: DEDUCED, unsafe.) -/
def State.performAccess (s : State) (o : Op) (a : Access) : State :=
  if !o.queued || !s.inOrder o a || !s.spadTurn o a || s.fenceHolds o.team a.path o.seq then s
  else
    let go : State := match a.act with
      | .read => s.performRead o a
      | .pref => s.setOp (o.dropEl a.el)
      | .clean l3 =>
        let s1 := if l3 then (match s.physAt a.space a.addr a.lower with | some k => s.cleanLine k | none => s) else s
        s1.setOp (o.dropEl a.el)
      | .write _ => s.performWrite o a
      | .atomic aop ty x cmp => s.performAtomic o a aop ty x cmp
    match s.checkAccess o.team a with
    | .ok => go
    | .err c => s.failAccess o a c
    | .precise _ => if (s.physAt a.space a.addr a.lower).isSome then go else if a.act == .pref then s.setOp (o.dropEl a.el) else s

/-! ### Export, transfer and apply -/

/-- The writes of one store of path T that reach a word which a write of it reaches, in ascending lanes: they update the word in one step; in the
scratchpad those of one lane group (R202, R205). -/
def State.storeMates (s : State) (b : BufWrite) : List BufWrite :=
  if b.path == .T then
    let ws := s.wordsAt b.space b.addr b.lower b.size
    s.bufs.filter fun c => c.id == b.id ||
      (c.op == b.op && c.path == .T && c.stage == 0 && c.space == b.space && c.lower == b.lower &&
        (match b.space with | .spad _ => c.lane / groupLanes c.size == b.lane / groupLanes b.size | _ => true) &&
        (s.wordsAt c.space c.addr c.lower c.size).any ws.contains)
  else [b]

/-- A lane of the store to which a buffered write belongs reaches a word of it and is not yet in the buffer (R205). -/
def State.storePart (s : State) (b : BufWrite) : Bool :=
  let ws := s.wordsAt b.space b.addr b.lower b.size
  b.path == .T && s.ops.any fun o => o.id == b.op && o.acc.any fun a =>
    a.path == .T && a.act.isWrite && a.space == b.space && a.lower == b.lower && (s.wordsAt a.space a.addr a.lower a.size).any ws.contains

/-- A write may be exported: no earlier write of its issuer on its path to an overlapping byte is in the buffer (R314), those that are exported
with it apart; the other lanes of its store that reach a word of it are in the buffer with it (R205); it does not lie in an open speculative window
(R327); its page is not shared with a snapshot (R381); and in the scratchpad the vector port has come to it (R227). -/
def State.mayExport (s : State) (b : BufWrite) : Bool :=
  let ms := s.storeMates b
  b.stage == 0 && !b.spec && !s.sharedPage b.space b.addr b.lower && !s.storePart b && s.storeTurn b &&
    ms.all fun m => !((s.bufs.takeWhile fun c => c.id != m.id).any fun c =>
      c.agent == m.agent && c.path == m.path && c.stage == 0 && !(ms.any fun n => n.id == c.id) && c.hits m.space m.lower m.addr m.size)

/-- Remove a write from the buffers and queues. -/
def State.delBuf (s : State) (id : Nat) : State := { s with bufs := s.bufs.filter fun b => b.id != id }

/-- Replace a write of the buffers and queues. -/
def State.setBuf (s : State) (b : BufWrite) : State := { s with bufs := s.bufs.map fun c => if c.id == b.id then b else c }

/-- Remove some writes from the buffers and queues. -/
def State.delBufs (s : State) (ms : List BufWrite) : State := { s with bufs := s.bufs.filter fun c => !(ms.any fun m => m.id == c.id) }

/-- Two writes on their way belong to one store of path T. -/
def BufWrite.sameStore (b c : BufWrite) : Bool :=
  b.path == .T && c.path == .T && b.agent == c.agent && b.team == c.team && b.op == c.op && b.seq == c.seq && b.space == c.space && b.lower == c.lower

/-- The writes of the store of one that are still on their way to a word of it take note of the pieces that have reached memory (R410). -/
def State.noteStored (s : State) (b : BufWrite) (ps : List (Addr × Nat)) : State :=
  let ws := s.wordsAt b.space b.addr b.lower b.size
  { s with bufs := s.bufs.map fun c =>
      if c.sameStore b && (s.wordsAt c.space c.addr c.lower c.size).any ws.contains then { c with before := c.before ++ ps } else c }

/-- Some writes of one store reach memory in one step, in ascending lanes; the store's other writes take note (R205, R314, R410). -/
def State.storeAll (s : State) (b : BufWrite) (ws : List (Addr × List Byte)) : State :=
  (s.updateAll b.agent b.path b.space b.lower ws b.before).noteStored b (ws.map fun e => (e.1, e.2.length))

/-- Export a whole write with those that go with it (R314). (log 20: DEDUCED, safe.) -/
def State.exportBuf (s : State) (b : BufWrite) : State :=
  match b.space with
  | .remote _ _ _ => (s.delBuf b.id).sendRemote b
  | _ =>
    match s.crossing b.team b.space with
    | some (d, _) => let r := s.enterSend b d; r.1.setBuf r.2
    | none =>
      let ms := s.storeMates b
      (s.storeAll b (ms.map fun m => (m.addr, m.act.bytes))).delBufs ms

/-- The part of a write that lies in the aligned word at `w0`: the first byte and the byte after the last. -/
def BufWrite.part (b : BufWrite) (w0 : Nat) : Nat × Nat :=
  let lo := b.addr.toNat
  (max w0 lo - lo, min (w0 + 4) (lo + b.act.bytes.length) - lo)

/-- What is left of a write once its part in a word has been exported, the second piece under a new identifier. -/
def BufWrite.rest (b : BufWrite) (p : Nat × Nat) (id : Nat) : List BufWrite :=
  let bs := b.act.bytes
  let piece (n at_ : Nat) (xs : List Byte) : List BufWrite :=
    if xs.isEmpty then [] else [{ b with id := n, addr := b.addr + BitVec.ofNat 64 at_, act := .write xs, size := xs.length }]
  piece b.id 0 (bs.take p.1) ++ piece id p.2 (bs.drop p.2)

/-- Export the k-th aligned 4-byte word that a write of paths T or M covers, with the other lanes' parts of it; the other words stay in the
buffer (R205, R314). (log 20: DEDUCED, safe.) -/
def State.exportWord (s : State) (b : BufWrite) (k : Nat) : State :=
  let w0 := (b.addr.toNat / 4 + k) * 4
  let p := b.part w0
  if s.splitAt b.space b.addr then s.exportBuf b
  else if (b.path == .T || b.path == .M) && decide (p.1 < p.2) && !b.space.isRemote && (s.crossing b.team b.space).isNone then
    let ms := (s.storeMates b).filter fun m => decide ((m.part w0).1 < (m.part w0).2)
    let s1 := s.storeAll b (ms.map fun m =>
      let q := m.part w0
      (m.addr + BitVec.ofNat 64 q.1, (m.act.bytes.drop q.1).take (q.2 - q.1)))
    { s1 with nextId := s.nextId + s.bufs.length, bufs := s1.bufs.zipIdx.flatMap fun c =>
        if ms.any fun m => m.id == c.1.id then c.1.rest (c.1.part w0) (s.nextId + c.2) else [c.1] }
  else s

/-- Ready of R321. -/
def State.ready (s : State) (b : BufWrite) (base : Nat) : Bool :=
  let p := s.pclk.getD base []
  decide (b.num - 1 ≤ p.getD b.die 0) && (List.range 8).all fun j => j == b.die || decide (b.stamp.getD j 0 ≤ p.getD j 0)

/-- An apply advances every base die's count of die d (R321). (log 21: DEDUCED, unsafe.) -/
def State.advanceP (s : State) (d n : Nat) : State := { s with pclk := s.pclk.map fun p => p.set d (max n (p.getD d 0)) }

/-- Apply a cross-die write or atomic (R316, R321, R322). (log 21: DEDUCED, unsafe.) -/
def State.applyBuf (s : State) (b : BufWrite) : State :=
  match Space.col? s b.space with
  | none => s
  | some c =>
    let e := dieOf c
    if !s.ready b (e / 2) || s.sharedPage b.space b.addr b.lower then s
    else
      let done (s : State) : State := ((s.delBuf b.id).advanceP b.die b.num).mergeV e b.stamp
      match b.act with
      | .write bs => done (s.storeAll b [(b.addr, bs)])
      | .atomic aop ty x cmp =>
        match s.op? b.op with
        | none =>
          if s.poisonedAt b.space b.addr b.lower b.size then done (s.notePoison b.team b.space b.addr b.lower)
          else
            let r := s.atomicAt b.agent b.path b.space b.addr aop ty x cmp
            done (r.1.modUnit (r.1.launchKey (b.team / 8)) fun c =>
              if b.op = 0 then { c with launch := c.launch.map fun l => { l with fl := l.fl ||| r.2.2 } } else c)
        | some o =>
          if s.poisonedAt b.space b.addr b.lower b.size || (s.physAt b.space b.addr b.lower).isNone then
            let c : Cause := if (s.physAt b.space b.addr b.lower).isNone then .pnot else .euce
            let s1 := if c = .euce then s.notePoison b.team b.space b.addr b.lower else s
            (done ((s1.giveErr b.team b.path b.lane c b.addr b.slot b.seq).setOp (o.dropLane b.lane))).crossBack b.die e
          else
            let r := s.atomicAt b.agent b.path b.space b.addr aop ty x cmp
            let s1 := r.1.setOp { (o.land b.land b.lane r.2.1) with raises := o.raises ||| r.2.2 }
            (done s1).crossBack b.die e
      | .read | .pref | .clean _ => done s

end Sys2Proof.Machine
end

