-- ==== Sys2Proof/Machine/Frames.lean ====
section
/-!
DEFINITION. Frames (R369, R371), and the copy of a page whose frame a snapshot shares (R381).
-/

namespace Sys2Proof.Machine

/-! ### Frames -/

/-- The key of a frame's first byte. -/
def frameKey (tier col frame : Nat) : Nat := physKey tier col frame 0

/-- The key of the first byte of an entry's frame. -/
def Pte.key (e : Pte) : Nat := frameKey e.level e.col e.frame

/-- A key lies in the frame that begins at `k`. -/
def inFrame (k b : Nat) : Bool := decide (k ≤ b ∧ b < k + Config.pageBytes)

/-- A memory in which the frame at `dst` holds what the frame at `src` holds. -/
def Memory.copyFrame (m : Memory) (src dst : Nat) : Memory :=
  Store.restore (w := 8) m ((Store.keep (w := 8) m (inFrame src)).map fun e => (e.1 - src + dst, e.2)) (inFrame dst)

/-- Poison marks after the frame at `dst` has taken those of the frame at `src` (R410). -/
def poisonCopy (ps : List Nat) (src dst : Nat) : List Nat :=
  (ps.filter fun w => !inFrame dst (4 * w)) ++ (ps.filter fun w => inFrame src (4 * w)).map fun w => w - src / 4 + dst / 4

/-- A frame takes the contents of another (R371, R382). -/
def State.copyFrame (s : State) (src dst : Nat) : State :=
  { s with mem := Memory.copyFrame s.mem src dst, dram := Memory.copyFrame s.mem src dst |> fun m =>
             Store.restore (w := 8) s.dram (Store.keep (w := 8) m (inFrame dst)) (inFrame dst),
           poison := poisonCopy s.poison src dst }

/-- What the caches hold of a frame and have not written back is discarded: the frame holds what DRAM holds (R377). -/
def State.discardFrame (s : State) (k : Nat) : State :=
  { s with mem := Store.restore (w := 8) s.mem (Store.keep (w := 8) s.dram (inFrame k)) (inFrame k) }

/-- A frame is filled with zeros (R371). -/
def State.zeroFrame (s : State) (k : Nat) : State :=
  { s with mem := Store.keep (w := 8) s.mem fun b => !inFrame k b, dram := Store.keep (w := 8) s.dram fun b => !inFrame k b,
           poison := s.poison.filter fun w => !inFrame k (4 * w) }

/-- The single column of the safe function (R426): logical column 0, which the remap table of reset puts on physical core 0 of die 0 (R33), with
HBM4E pseudo-channel 0 of stack 0. -/
def safeColumn : Nat := 0

/-- A tier of a column is trained: before stage 2 the safe column's HBM4E alone, from the first clk of stage 0 (R426). -/
def State.trained (s : State) (tier col : Nat) : Bool :=
  match s.stage with
  | .reset => false
  | .stage2 | .halted => true
  | .stage0 | .stage1 | .recovery => tier == 0 && col == safeColumn

/-- The frames of a tier that a column has (R5, R29, R414, R426). -/
def State.frameExists (s : State) (tier col frame : Nat) : Bool :=
  decide (col < Config.columns) && s.trained tier col &&
    !s.badFrames.contains (tier, col, frame) &&
    (if tier = 0 then decide (frame < Config.hbmMiB * 16) && !s.removed.contains (dieOf col, frame / 1024)
     else decide (frame < s.secondMiB * 16))

/-- A page entry, a replica or a pool holds a frame. -/
def State.frameHeld (s : State) (tier col frame : Nat) : Bool :=
  (s.contexts.any fun c => (c.2.pages.any fun e => e.2.p && e.2.level == tier && e.2.col == col && e.2.frame == frame) ||
    c.2.objs.any fun o => tier == 0 && o.2.replicas.any fun r => r.2.1 == col && r.2.2.frame == frame) ||
    ((s.column col).pool (tier == 1)).contains frame

/-- A frame is free for the Curator to use. -/
def State.frameFree (s : State) (tier col frame : Nat) : Bool := s.frameExists tier col frame && !s.frameHeld tier col frame

/-- Take the first frame of a column's pool (R371). -/
def State.takeFrame (s : State) (col : Nat) (lower : Bool) : State :=
  s.modCol col fun k => if lower then { k with poolSec := k.poolSec.tail } else { k with poolHbm := k.poolHbm.tail }

/-- An entry gets a frame of the pool, if there is one (R371, R372, R381): filled with zeros for a first touch, with the shared frame's contents
for a copy. -/
def State.mapPage (s : State) (r : PageRef) (o : Obj) (e : Pte) : Option State :=
  match (s.column r.col).pool r.lower with
  | [] => none
  | f :: _ =>
    let e1 : Pte := { e with p := true, ft := false, sh := false, w := o.w, x := false, tier := if r.lower then 1 else 0, col := r.col, frame := f }
    let s1 := s.takeFrame r.col r.lower
    let s2 := if e.p then s1.copyFrame e.key e1.key else s1.zeroFrame e1.key
    some (s2.setPte r e1)

/-- SH is cleared in every entry of a context whose frame no other entry shares (R379). -/
def Context.unshare (c : Context) : Context :=
  { c with pages := c.pages.map fun e =>
      if e.2.sh && !(c.pages.any fun f => f.1 != e.1 && f.2.p && f.2.key == e.2.key) then (e.1, { e.2 with sh := false }) else e }

/-- A page that shares its frame with a snapshot is parted from it (R381): the original's copy gets a frame of the pool, if there is one; the
snapshot keeps the old one. -/
def State.partPage (s : State) (r : PageRef) : State :=
  match s.obj? r.ctx r.obj r.col with
  | none => s
  | some o =>
    let e := s.pte r o
    if e.p && e.sh then
      (match s.mapPage r o e with
      | some s1 => (s1.setPte r { s1.pte r o with w := e.w }).modCtx r.ctx Context.unshare
      | none => s)
    else s

/-- The page that a write reaches, if it must be copied first (R381). -/
def State.partWanted (s : State) (a : Access) : Option PageRef :=
  match a.act.writes, a.space with
  | true, .slice x col u =>
    let r := pageRef x (objId a.addr) u col (offOf a.addr) a.lower
    match s.obj? x (objId a.addr) col with
    | some o => if (s.pte r o).p && (s.pte r o).sh then some r else none
    | none => none
  | _, _ => none

/-- The pages that the writes among some accesses need copied, in order. -/
def State.partsOf (s : State) (acc : List Access) : List PageRef := (acc.filterMap s.partWanted).eraseDups

/-- Of those, the pages for which the pool of their column has no frame left (R381). -/
def State.partsShort (s : State) (acc : List Access) : List PageRef :=
  let ps := s.partsOf acc
  [false, true].flatMap fun h => (ps.filter fun r => r.lower == h).zipIdx.filterMap fun e =>
    if ((s.column e.1.col).pool h).length ≤ e.2 then some e.1 else none

/-- Every page that the writes among some accesses reach is parted from its snapshot. (log 66: DEDUCED, unsafe.) -/
def State.partAll (s : State) (acc : List Access) : State := (s.partsOf acc).foldl State.partPage s

end Sys2Proof.Machine
end

