-- ==== Sys2Proof/Machine/Operands.lean ====
section
/-!
DEFINITION. Operand forms: integers read at a type (R137), immediates (R16), effective addresses (R17), and the frames of scalar and vector
instructions (R138, R173). A pattern of type T stands in the low bits of a 64-bit word.
-/

namespace Sys2Proof.Machine

/-- A w-bit pattern as the integer of its type (R137). -/
def intVal (ty : Ty) (x : Word) : Int :=
  if ty.isSigned then Int.bmod (x.toNat % 2 ^ ty.width : Nat) (2 ^ ty.width) else (x.toNat % 2 ^ ty.width : Nat)

/-- The pattern of an integer (Wrap of R26, by the width at which it is written). -/
def ofInt (x : Int) : Word := BitVec.ofInt 64 x

/-- SatInt (R26). -/
def satInt (x : Int) (ty : Ty) : Int := max (Fields.minInt ty) (min x (Fields.maxInt ty))

/-- SatInt under .sat, Wrap otherwise (R138). -/
def finish (ty : Ty) (sat : Bool) (x : Int) : Word := ofInt (if sat then satInt x ty else x)

/-- The low w bits of a word. -/
def lowBits (w : Nat) (x : Word) : Word := x &&& BitVec.ofNat 64 (2 ^ w - 1)

/-- An integer immediate as a pattern of its type (R16). -/
def immPat (f : IForm) : Word :=
  lowBits f.ty.width (match f.cls.toNat with
    | 0 => f.imm.signExtend 64
    | 1 => f.imm.setWidth 64
    | _ => (f.imm.setWidth 64) <<< 32)

/-- A float immediate as a pattern of its type (R16): class 2 is an FP32 pattern, widened as an operand for f64, rounded with rn for f16 and
bf16; class 3 is the upper half of an f64. It raises nothing. -/
def immFloat (f : IForm) : Nat :=
  if f.cls == 3 then f.imm.toNat * 2 ^ 32
  else match f.ty with
    | .f32 => f.imm.toNat
    | .f64 => widenPat .f32 .f64 f.imm.toNat
    | ty => (roundVal (fmtOf ty) .rn false (decodeF .f32 f.imm.toNat)).pat

/-! ### Integer operations on patterns (R139 to R148) -/

/-- ADD, SUB, MUL with .sat (R139). -/
def opArith (g : Int → Int → Int) (sat : Bool) (ty : Ty) (a b : Word) : Word := finish ty sat (g (intVal ty a) (intVal ty b))

/-- MULH: the upper half of the exact product (R139). -/
def opMulh (ty : Ty) (a b : Word) : Word := ofInt (intVal ty a * intVal ty b / (2 ^ ty.width : Nat))

/-- DIV (R140). -/
def opDiv (sat : Bool) (ty : Ty) (a b : Word) : Word :=
  let x := intVal ty a
  let y := intVal ty b
  if y = 0 then
    (if ty.isSigned then (if sat then ofInt (if 0 ≤ x then Fields.maxInt ty else Fields.minInt ty) else ofInt (-1))
      else ofInt (Fields.maxInt ty))
  else finish ty sat (Int.tdiv x y)

/-- REM (R140). -/
def opRem (ty : Ty) (a b : Word) : Word :=
  let x := intVal ty a
  let y := intVal ty b
  if y = 0 then ofInt x else ofInt (Int.tmod x y)

/-- MIN and MAX (R139). -/
def opMin (ty : Ty) (a b : Word) : Word := if intVal ty a ≤ intVal ty b then a else b

/-- MIN and MAX (R139). -/
def opMax (ty : Ty) (a b : Word) : Word := if intVal ty a ≥ intVal ty b then a else b

/-- SHL (R141). -/
def opShl (ty : Ty) (a b : Word) : Word := if b.toNat < ty.width then a <<< b.toNat else 0

/-- SHR (R141). -/
def opShr (ty : Ty) (a b : Word) : Word := if b.toNat < ty.width then a >>> b.toNat else 0

/-- SAR (R141): copies of bit w − 1 enter. -/
def opSar (ty : Ty) (a b : Word) : Word :=
  let x := Int.bmod (a.toNat : Int) (2 ^ ty.width)
  ofInt (x / (2 ^ min b.toNat (ty.width - 1) : Nat))

/-- ROT: left by n mod w (R141). -/
def opRot (ty : Ty) (a b : Word) : Word :=
  let n := b.toNat % ty.width
  (a <<< n) ||| (a >>> (ty.width - n))

/-- The number of leading zero bits of a w-bit pattern (R142). -/
def opClz (ty : Ty) (a : Word) : Word := BitVec.ofNat 64 (if a = 0 then ty.width else ty.width - 1 - Nat.log2 a.toNat)

/-- The number of one bits (R142). -/
def popCount (n : Nat) (x : Nat) : Nat := (List.range n).foldl (fun k i => if x.testBit i then k + 1 else k) 0

/-- POP (R142). -/
def opPop (ty : Ty) (a : Word) : Word := BitVec.ofNat 64 (popCount ty.width a.toNat)

/-- BREV (R142). -/
def opBrev (ty : Ty) (a : Word) : Word :=
  (List.range ty.width).foldl (fun r i => if a.getLsbD i then r ||| BitVec.twoPow 64 (ty.width - 1 - i) else r) 0

/-- Start and length of a bit field, clamped (R143). -/
def fieldOf (ty : Ty) (ctl : Elem) : Nat × Nat :=
  let st := min (ctl.extractLsb' 0 8).toNat ty.width
  (st, min (ctl.extractLsb' 8 8).toNat (ty.width - st))

/-- VBFE (R143). -/
def opBfe (ty : Ty) (p : Word) (ctl : Elem) : Word :=
  let sn := fieldOf ty ctl
  let f := p.toNat / 2 ^ sn.1 % 2 ^ sn.2
  if ty.isSigned ∧ sn.2 ≠ 0 then ofInt (Int.bmod (f : Int) (2 ^ sn.2)) else BitVec.ofNat 64 f

/-- VBFI (R143). -/
def opBfi (ty : Ty) (p q : Word) (ctl : Elem) : Word :=
  let sn := fieldOf ty ctl
  let mk := BitVec.ofNat 64 ((2 ^ sn.2 - 1) * 2 ^ sn.1)
  (p &&& ~~~mk) ||| ((q <<< sn.1) &&& mk)

/-- A condition of R144. -/
def intCond (cond : Nat) (a b : Int) : Bool :=
  match cond with
  | 0 => decide (a = b)
  | 1 => decide (a ≠ b)
  | 2 => decide (a < b)
  | 3 => decide (a ≤ b)
  | 4 => decide (a > b)
  | _ => decide (a ≥ b)

/-- LEA (R146): n64 keeps the object identifier, n32 wraps. -/
def opLea (sh : Nat) (ty : Ty) (a b : Word) : Word :=
  match ty with
  | .n64 => (a &&& 0xFFFF000000000000) ||| ((a + (b <<< sh)) &&& 0x0000FFFFFFFFFFFF)
  | _ => a + (b <<< sh)

/-! ### Addresses -/

/-- The effective address of a lane (R17), the offset scaled by `w`. (log 36: DESIGN CHOICE, unsafe.) -/
def effAddr (t : Team) (f : MForm) (w l : Nat) : Addr :=
  t.scal f.base.toNat + (if f.vo then (t.elem f.voff.toNat l).setWidth 64 else 0) + BitVec.ofInt 64 (f.off.toInt * (w : Int))

/-! ### Frames of scalar and vector instructions -/

/-- A scalar instruction in format V (R138): one result of the sources. -/
def scalarV (i : Instr) (f : VForm) (op : Team → Word) (s : State) : Out :=
  s.issue i f.se f.fs fun s u t =>
    s.emit u t f.se f.fs [.s f.d.toNat] [.s f.d.toNat (extend64 f.ty (op t))] 0 false

/-- A scalar immediate twin (R111). -/
def scalarI (i : Instr) (f : IForm) (op : Team → Word) (s : State) : Out :=
  s.issue i false false fun s u t =>
    s.emit u t false false [.s f.d.toNat] [.s f.d.toNat (extend64 f.ty (op t))] 0 false

/-- The lanes' results of type `ty` at register n, with the union of the flags they raise (R170). -/
def vecWrites (ty : Ty) (n : Nat) (lanes : List Nat) (op : Nat → Word × Sticky) : List RegWr × Sticky :=
  lanes.foldr (fun l acc => let r := op l; (putPat ty n l r.1 ++ acc.1, r.2 ||| acc.2)) ([], 0)

/-- A vector instruction in format V whose result has type `ty` (R138, R173). -/
def vectorV (i : Instr) (f : VForm) (ty : Ty) (raiser : Bool) (op : Team → Nat → Word × Sticky) (s : State) : Out :=
  s.issue i f.se f.fs fun s u t =>
    let r := vecWrites ty f.d.toNat (t.active f.m) (op t)
    s.emit u t f.se f.fs (destsV ty f.d.toNat) r.1 r.2 raiser

/-- A vector immediate twin (R111): every lane of m0 is active. -/
def vectorI (i : Instr) (f : IForm) (raiser : Bool) (op : Team → Nat → Word × Sticky) (s : State) : Out :=
  s.issue i false false fun s u t =>
    let r := vecWrites f.ty f.d.toNat (t.active 0) (op t)
    s.emit u t false false (destsV f.ty f.d.toNat) r.1 r.2 raiser

/-- An instruction that writes a bit of mask register d for each active lane (R75, R144, R179). -/
def maskV (i : Instr) (f : VForm) (raiser : Bool) (op : Team → Nat → Bool × Sticky) (s : State) : Out :=
  s.issue i f.se f.fs fun s u t =>
    let ls := t.active f.m
    let rs := ls.map fun l => (l, op t l)
    let vals := lanesOf ((rs.filter fun r => r.2.1).map (·.1))
    let fl := rs.foldl (fun a r => a ||| r.2.2) 0
    s.emit u t f.se f.fs [.m f.d.toNat] [.m f.d.toNat (t.activeSet f.m) vals] fl raiser

end Sys2Proof.Machine
end

