-- ==== Sys2Proof/Machine/Memory.lean ====
section
/-!
DEFINITION. The memory instructions of the team path (R196 to R224): loads, stores, prefetch, clean, atomics.
-/

namespace Sys2Proof.Machine

/-- The precise fault that an instruction's accesses meet at issue (R201): that of the lowest faulting lane, with the lanes that meet it and their
addresses. A write to a shared page for whose copy no frame is left meets PFTP (R381). -/
def State.preciseOf (s : State) (u : Nat) (acc : List Access) : Option (Cause × Lanes × Store 64) :=
  let ok := acc.filter fun a => s.checkAccess u a == .ok
  let short := s.partsShort ok
  let fs := acc.filterMap fun a => match s.checkAccess u a with
    | .precise c => some (a.lane, c, a.addr)
    | .ok => (match s.partWanted a with | some r => if short.contains r then some (a.lane, Cause.pftp, a.addr) else none | none => none)
    | .err _ => none
  match leastBy (fun e : Nat × Cause × Addr => e.1) fs with
  | none => none
  | some e =>
    let mine := fs.filter fun x => x.2.1 == e.2.1
    some (e.2.1, lanesOf (mine.map (·.1)), mine.foldl (fun st x => Store.set st x.1 x.2.2) [])

/-- An instruction's accesses are issued: they wait for MM_ISSUE to place them in their path queue (R314). -/
def State.addAccesses (s : State) (u : Nat) (t : Team) (se fs : Bool) (dests : List Dest) (acc : List Access) (raiser : Bool) : State :=
  (s.addOp u .mem fun o => { o with flag := selFlag t.hdr se fs, dests := dests, acc := acc, raiser := raiser, slot := t.slot }).advance u

/-- A memory instruction of path T (R199, R201, R216): a precise fault in any lane stops them all. -/
def memT (i : Instr) (f : MForm) (dests : List Dest) (raiser : State → Team → Bool) (mk : State → Nat → Team → List Access) (s : State) : Out :=
  s.issue i f.se f.fs fun s u t =>
    let acc := mk s u t
    match s.preciseOf u acc with
    | some e => s.preciseFault u e.1 e.2.1 e.2.2
    | none =>
      let s1 := match t.spec with
        | some sp => if windowStore i then s.setTeam u { t with spec := some { sp with stores := sp.stores + 1 } } else s
        | none => s
      (s1.partAll (acc.filter fun a => s.checkAccess u a == .ok)).addAccesses u t f.se f.fs dests acc (raiser s t)

/-- The slice that a lane's address names on path T. -/
def State.here (s : State) (u : Nat) (t : Team) (a : Addr) : Space := sliceOf (s.ctxOf t) (s.colOf t) u a

/-- One access of a lane on path T to the column's own slice. -/
def State.sliceAcc (s : State) (u : Nat) (t : Team) (a : Addr) (l size : Nat) (act : Act) (ld : Land) : Access :=
  { el := l, lane := l, path := .T, space := s.here u t a, addr := a, size := size, act := act, land := ld, lower := false, halves := [] }

/-- The vector destinations of k registers from n on. -/
def destsK (n k : Nat) : List Dest := (List.range k).map fun j => .v (n + j)

/-- The bytes of an element that a store writes (R216). -/
def Team.dataBytes (t : Team) (ty : Ty) (n l : Nat) : List Byte := bytesOfNat (t.pat ty n l).toNat ty.bytes

/-- LD (R216). -/
def execLd (f : MForm) (s : State) : Out :=
  memT (.ld f) f (destsV f.ty f.d.toNat) (fun _ _ => false) (fun s u t => (t.active f.m).map fun l =>
    s.sliceAcc u t (effAddr t f f.ty.bytes l) l f.ty.bytes .read (.vreg f.d.toNat f.ty 1)) s

/-- ST (R216). -/
def execSt (f : MForm) (s : State) : Out :=
  memT (.st f) f [] (fun _ _ => false) (fun s u t => (t.active f.m).map fun l =>
    s.sliceAcc u t (effAddr t f f.ty.bytes l) l f.ty.bytes (.write (t.dataBytes f.ty f.d.toNat l)) .none) s

/-- LDC (R216): one element, whatever m0 holds. -/
def execLdc (f : MForm) (s : State) : Out :=
  memT (.ldc f) f [.s f.d.toNat] (fun _ _ => false) (fun s u t =>
    [s.sliceAcc u t (effAddr t f f.ty.bytes 0) 0 f.ty.bytes .read (.sreg f.d.toNat f.ty)]) s

/-! ### The scratchpad -/

/-- Two of some scratchpad words lie in one bank and differ (R204, R205). -/
def bankClash (ws : List Nat) : Bool := ws.any fun a => ws.any fun b => a != b && a % Config.banks == b % Config.banks

/-- Some lane group of the accesses needs more than one slot (R205). A lane whose check fails makes no access and takes no
slot of its group (R227). (log 73: DEDUCED, unsafe.) -/
def State.replays (s : State) (w size lanes : Nat) (acc : List Access) : Bool :=
  (List.range ((lanes + groupLanes size - 1) / groupLanes size)).any fun g =>
    bankClash ((acc.filter fun a => a.lane / groupLanes size == g && s.checkSpad w a.addr size == .ok).flatMap fun a =>
      (List.range ((size + 3) / 4)).map fun k => a.addr.toNat / 4 + k)

/-- LDS and STS (R204, R205, R217): a replay sets PSTAT.ST_RPL, in the step that issues the instruction (R228). (log 73: DEDUCED, unsafe.) -/
def spadT (i : Instr) (f : MForm) (dests : List Dest) (mk : Team → Nat → Act × Land) (s : State) : Out :=
  let size := Fields.groupG f * f.ty.bytes
  s.issue i f.se f.fs fun s u t =>
    let acc := (t.active f.m).map fun l =>
      let r := mk t l
      ({ el := l, lane := l, path := .T, space := .spad t.wg, addr := effAddr t f f.ty.bytes l, size := size, act := r.1, land := r.2,
         lower := false, halves := [] } : Access)
    let t1 : Team := match t.spec with
      | some sp => if windowStore i then { t with spec := some { sp with stores := sp.stores + 1 } } else t
      | none => t
    let t2 := if s.replays t.wg size t.lanes acc then { t1 with pstat := t1.pstat ||| 2 } else t1
    (s.setTeam u t2).addAccesses u t f.se f.fs dests acc false

/-- LDS (R216, R217). -/
def execLds (f : MForm) (s : State) : Out :=
  spadT (.lds f) f (destsK f.d.toNat (Fields.groupRegs f)) (fun _ _ => (.read, .vreg f.d.toNat f.ty (Fields.groupG f))) s

/-- STS (R216, R217). -/
def execSts (f : MForm) (s : State) : Out :=
  spadT (.sts f) f [] (fun t l =>
    (.write ((List.range (Fields.groupG f)).flatMap fun j => t.dataBytes f.ty (f.d.toNat + j * (if f.ty.wide then 2 else 1)) l), .none)) s

/-! ### Split-word objects -/

/-- One half of a lane's element of a split-word object (R213). -/
def State.halfAcc (s : State) (u : Nat) (t : Team) (a : Addr) (l : Nat) (lower : Bool) (halves : List Bool) (act : Act) (ld : Land) : Access :=
  { el := 2 * l + (if lower then 1 else 0), lane := l, path := .T, space := s.here u t a, addr := a, size := 2, act := act, land := ld,
    lower := lower, halves := halves }

/-- LDSP (R213). -/
def execLdsp (f : MForm) (s : State) : Out :=
  let d := f.d.toNat
  memT (.ldsp f) f [.v d] (fun _ _ => false) (fun s u t => (t.active f.m).flatMap fun l =>
    let a := effAddr t f 4 l
    if f.ty == .bf16 then [s.halfAcc u t a l false [false] .read (.upper d)]
    else [s.halfAcc u t a l false [false, true] .read (.half d true), s.halfAcc u t a l true [false, true] .read (.half d false)]) s

/-- STSP (R213): for bf16 the lower half is zero. -/
def execStsp (f : MForm) (s : State) : Out :=
  memT (.stsp f) f [] (fun _ _ => false) (fun s u t => (t.active f.m).flatMap fun l =>
    let a := effAddr t f 4 l
    let x := t.elem f.d.toNat l
    let hi := if f.ty == .bf16 then x.toNat % 65536 else x.toNat / 65536
    let lo := if f.ty == .bf16 then 0 else x.toNat % 65536
    [s.halfAcc u t a l false [false, true] (.write (bytesOfNat hi 2)) .none,
     s.halfAcc u t a l true [false, true] (.write (bytesOfNat lo 2)) .none]) s

/-! ### Prefetch and clean -/

/-- PREF (R218): lanes that would fail a check are ignored. (log 19: DEDUCED, unsafe.) -/
def execPref (f : MForm) (s : State) : Out :=
  s.issue (.pref f) f.se f.fs fun s u t =>
    let acc := (t.active f.m).map fun l => s.sliceAcc u t (effAddr t f f.ty.bytes l) l f.ty.bytes .pref .none
    s.addAccesses u t f.se f.fs [] (acc.filter fun a => s.checkAccess u a == .ok) false

/-- CLNV (R224): level 2 is `.l3`, which reaches DRAM. -/
def execClnv (f : MForm) (s : State) : Out :=
  memT (.clnv f) f [] (fun _ _ => false) (fun s u t => (t.active f.m).map fun l =>
    s.sliceAcc u t (effAddr t f 1 l) l 1 (.clean (f.d.extractLsb' 2 2 == 2)) .none) s

/-! ### Atomics -/

/-- The bytes of one value of an atomic access at register n (R220). -/
def Team.atomData (t : Team) (aop : AOp) (ty : Ty) (n l : Nat) : List Byte :=
  match aop with
  | .maxi | .mini => bytesOfNat (t.elem n l).toNat 4 ++ bytesOfNat (t.elem (n + 1) l).toNat 4
  | _ => t.dataBytes ty n l

/-- The access size of an atomic (R219). -/
def atomSize (aop : AOp) (ty : Ty) : Nat :=
  match aop with
  | .maxi | .mini => 8
  | _ => ty.bytes

/-- Where the old value lands (R220); in a deterministic launch nothing does (R335). -/
def atomLand (det : Bool) (aop : AOp) (ty : Ty) (d : Nat) : Land :=
  if det then .none
  else match aop with
    | .maxi | .mini => .vreg d .n32 2
    | _ => .vreg d ty 1

/-- The act of a lane's atomic: its operand, and for cas its comparand (R220). -/
def Team.atomAct (t : Team) (aop : AOp) (ty : Ty) (d l : Nat) : Act :=
  .atomic aop ty (t.atomData aop ty d l) (if aop == .cas then t.atomData aop ty (d + Fields.atomR aop ty) l else [])

/-- The registers that an atomic writes. -/
def atomDests (aop : AOp) (ty : Ty) (d : Nat) : List Dest := destsK d (Fields.atomR aop ty)

/-- ATOM (R219 to R221). -/
def atomT (i : Instr) (f : MForm) (aop : AOp) (s : State) : Out :=
  memT i f (atomDests aop f.ty f.d.toNat) (fun s t => aop == .fadd && !s.isDet t.wg) (fun s u t => (t.active f.m).map fun l =>
    let w := atomSize aop f.ty
    s.sliceAcc u t (effAddr t f w l) l w (t.atomAct aop f.ty f.d.toNat l) (atomLand (s.isDet t.wg) aop f.ty f.d.toNat)) s

/-- ATOMF (R222): performed on path F at the target column. -/
def atomF (i : Instr) (f : MForm) (aop : AOp) (s : State) : Out :=
  s.issue i f.se f.fs fun s u t =>
    let w := atomSize aop f.ty
    let base := t.scal f.base.toNat
    let route := t.scal (f.base.toNat + 1)
    let acc := (t.active f.m).map fun l =>
      let d : Word := (if f.vo then (t.elem f.voff.toNat l).setWidth 64 else 0) + BitVec.ofInt 64 (f.off.toInt * (w : Int))
      let a := farAddr base d
      ({ el := l, lane := l, path := .F, space := s.farSpace (s.ctxOf t) a route, addr := a, size := w,
         act := t.atomAct aop f.ty f.d.toNat l, land := atomLand (s.isDet t.wg) aop f.ty f.d.toNat, lower := false, halves := [] } : Access)
    s.addAccesses u t f.se f.fs (atomDests aop f.ty f.d.toNat) acc (aop == .fadd && !s.isDet t.wg)

/-- ATOM.add (R219). -/
def execAtomAdd (f : MForm) (s : State) : Out := atomT (.atomAdd f) f .add s
/-- ATOM.sub (R219). -/
def execAtomSub (f : MForm) (s : State) : Out := atomT (.atomSub f) f .sub s
/-- ATOM.min (R219). -/
def execAtomMin (f : MForm) (s : State) : Out := atomT (.atomMin f) f .min s
/-- ATOM.max (R219). -/
def execAtomMax (f : MForm) (s : State) : Out := atomT (.atomMax f) f .max s
/-- ATOM.and (R219). -/
def execAtomAnd (f : MForm) (s : State) : Out := atomT (.atomAnd f) f .and s
/-- ATOM.or (R219). -/
def execAtomOr (f : MForm) (s : State) : Out := atomT (.atomOr f) f .or s
/-- ATOM.xor (R219). -/
def execAtomXor (f : MForm) (s : State) : Out := atomT (.atomXor f) f .xor s
/-- ATOM.xchg (R219). -/
def execAtomXchg (f : MForm) (s : State) : Out := atomT (.atomXchg f) f .xchg s
/-- ATOM.cas (R219, R220). -/
def execAtomCas (f : MForm) (s : State) : Out := atomT (.atomCas f) f .cas s
/-- ATOM.fadd (R219). -/
def execAtomFadd (f : MForm) (s : State) : Out := atomT (.atomFadd f) f .fadd s
/-- ATOM.maxi (R219). -/
def execAtomMaxi (f : MForm) (s : State) : Out := atomT (.atomMaxi f) f .maxi s
/-- ATOM.mini (R219). -/
def execAtomMini (f : MForm) (s : State) : Out := atomT (.atomMini f) f .mini s
/-- ATOMF.add (R222). -/
def execAtomfAdd (f : MForm) (s : State) : Out := atomF (.atomfAdd f) f .add s
/-- ATOMF.sub (R222). -/
def execAtomfSub (f : MForm) (s : State) : Out := atomF (.atomfSub f) f .sub s
/-- ATOMF.min (R222). -/
def execAtomfMin (f : MForm) (s : State) : Out := atomF (.atomfMin f) f .min s
/-- ATOMF.max (R222). -/
def execAtomfMax (f : MForm) (s : State) : Out := atomF (.atomfMax f) f .max s
/-- ATOMF.and (R222). -/
def execAtomfAnd (f : MForm) (s : State) : Out := atomF (.atomfAnd f) f .and s
/-- ATOMF.or (R222). -/
def execAtomfOr (f : MForm) (s : State) : Out := atomF (.atomfOr f) f .or s
/-- ATOMF.xor (R222). -/
def execAtomfXor (f : MForm) (s : State) : Out := atomF (.atomfXor f) f .xor s
/-- ATOMF.xchg (R222). -/
def execAtomfXchg (f : MForm) (s : State) : Out := atomF (.atomfXchg f) f .xchg s
/-- ATOMF.cas (R220, R222). -/
def execAtomfCas (f : MForm) (s : State) : Out := atomF (.atomfCas f) f .cas s
/-- ATOMF.fadd (R222). -/
def execAtomfFadd (f : MForm) (s : State) : Out := atomF (.atomfFadd f) f .fadd s
/-- ATOMF.maxi (R222, R274). -/
def execAtomfMaxi (f : MForm) (s : State) : Out := atomF (.atomfMaxi f) f .maxi s
/-- ATOMF.mini (R222, R274). -/
def execAtomfMini (f : MForm) (s : State) : Out := atomF (.atomfMini f) f .mini s

/-! ### ATOMR -/

/-- What one lane of ATOMR gets (R223, R341): a value and the team's new counts, or an error. -/
def resvLane (rs : List Resv) (a : Addr) (wide : Bool) (x : Nat) : Except Cause (Word × List Resv) :=
  match (rs.zipIdx).find? fun r => r.1.used && r.1.caddr == a && r.1.wide == wide with
  | none => .error .mprm
  | some r =>
    if r.1.cap < r.1.count + x then .error .mbnd
    else .ok (BitVec.ofInt 64 (r.1.base + (r.1.count : Int)), rs.set r.2 { r.1 with count := r.1.count + x })

/-- ATOMR.add (R223, R341): IINS outside a deterministic launch; lanes in ascending order. -/
def execAtomrAdd (f : MForm) (s : State) : Out :=
  s.issue (.atomrAdd f) f.se f.fs fun s u t =>
    if !s.isDet t.wg then s.trapAt u .iins
    else
      let d := f.d.toNat
      let r := (t.active f.m).foldl (fun (acc : List Resv × List RegWr × List (Nat × Addr × Cause)) l =>
        let a := effAddr t f f.ty.bytes l
        match resvLane acc.1 a f.ty.wide (t.pat f.ty d l).toNat with
        | .ok p => (p.2, acc.2.1 ++ putPat f.ty d l p.1, acc.2.2)
        | .error c => (acc.1, acc.2.1, acc.2.2 ++ [(l, a, c)])) (t.resv, [], [])
      let s1 := s.setTeam u { t with resv := r.1 }
      let s2 := r.2.2.foldl (fun s e => s.giveErr u .T e.1 e.2.2 e.2.1 t.slot s.seq) s1
      s2.emit u t f.se f.fs (destsV f.ty d) r.2.1 0 false

end Sys2Proof.Machine
end

