-- ==== Sys2Proof/WellFormed.lean ====
section
/-!
DEFINITION. A well-formed instruction: one that an instruction word encodes and whose fields pass every check that depends on the word
alone (R14, R16, R17, R106). The limits that depend on the team (R15) are checked when the instruction issues.
-/

namespace Sys2Proof

/-- The sub-operation, condition or register number that tells rows of one opcode apart is that row's (R119, R124, R247, R263, R357,
R376). -/
def Instr.ownRow : Instr → Bool
  | .csrw f => let n := Fields.csrNum f; n != 0x100 && n != 0x101 && n != 0x111 && n != 0x800
  | .csrwFstat f => Fields.csrNum f == 0x100
  | .csrwFctl f => Fields.csrNum f == 0x101
  | .csrwElogInfo f => Fields.csrNum f == 0x111
  | .csrwTrapCause f => Fields.csrNum f == 0x800
  | _ => true

/-- The checks on an instruction word alone. -/
def Instr.wellFormed (i : Instr) : Bool := !i.isStep && i.rule.ok && i.ownRow

end Sys2Proof
end

