-- ==== Sys2Proof/Decode.lean ====
section
/-!
DEFINITION. The decoder and, after it, the encoder. A word's opcode in [63:54] selects the instruction (R108, R109); the fields are pulled
out by the formats of R105, R279, R290 and R300; a word that is unassigned, or whose fields break the checks on the word alone, is
refused (R106, R113). Words lie little-endian in memory (R23).
-/

namespace Sys2Proof

/-- The opcode of an instruction word (R105). -/
def opcodeOf (w : Word) : Nat := (w.extractLsb' 54 10).toNat

/-- One bit of a word. -/
def bitOf (w : Word) (i : Nat) : Bool := w.getLsbD i

/-- The fields of a V-format word (R105). -/
def fieldsV (w : Word) : VForm :=
  { ty := Ty.ofCode (w.extractLsb' 50 4), d := w.extractLsb' 42 8, a := w.extractLsb' 34 8, b := w.extractLsb' 26 8,
    c := w.extractLsb' 18 8, m := w.extractLsb' 14 4, fs := bitOf w 13, se := bitOf w 12, rnd := RMode.ofCode (w.extractLsb' 10 2),
    sat := bitOf w 9, sub := w.extractLsb' 0 9 }

/-- The fields of an I-format word (R105). -/
def fieldsI (w : Word) : IForm :=
  { ty := Ty.ofCode (w.extractLsb' 50 4), d := w.extractLsb' 42 8, a := w.extractLsb' 34 8, cls := w.extractLsb' 32 2,
    imm := w.extractLsb' 0 32 }

/-- The fields of an M-format word (R105). -/
def fieldsM (w : Word) : MForm :=
  { ty := Ty.ofCode (w.extractLsb' 50 4), d := w.extractLsb' 42 8, vo := bitOf w 41, base := w.extractLsb' 34 7,
    voff := w.extractLsb' 26 8, m := w.extractLsb' 22 4, fs := bitOf w 21, se := bitOf w 20, hint := w.extractLsb' 18 2,
    off := w.extractLsb' 0 18 }

/-- The fields of an X-format word (R105). -/
def fieldsX (w : Word) : XForm :=
  { ty := Ty.ofCode (w.extractLsb' 50 4), d := w.extractLsb' 42 8, a := w.extractLsb' 34 8, b := w.extractLsb' 26 8,
    m := w.extractLsb' 22 4, pat := w.extractLsb' 16 6, par := w.extractLsb' 0 16 }

/-- The fields of a B-format word (R105). -/
def fieldsB (w : Word) : BForm :=
  { creg := w.extractLsb' 47 7, cond := w.extractLsb' 43 4, m := w.extractLsb' 39 4, res := w.extractLsb' 32 7,
    imm := w.extractLsb' 0 32 }

/-- The fields of a data command of the copy engine (R279). -/
def fieldsC (w : Word) : CForm :=
  { ty := Ty.ofCode (w.extractLsb' 50 4), se := bitOf w 49, fs := bitOf w 48, dk := w.extractLsb' 46 2, sk := w.extractLsb' 44 2,
    dop := w.extractLsb' 37 7, sop := w.extractLsb' 30 7, cf := bitOf w 29, cnt := w.extractLsb' 16 13, hint := w.extractLsb' 14 2,
    doff := w.extractLsb' 7 7, soff := w.extractLsb' 0 7 }

/-- The fields of the remaining copy commands (R287, R290). -/
def fieldsK (w : Word) : KForm :=
  { top := w.extractLsb' 50 4, se := bitOf w 49, fs := bitOf w 48, low := w.extractLsb' 0 48 }

/-- The fields of a matrix command (R300). -/
def fieldsG (w : Word) : GForm :=
  { ty := Ty.ofCode (w.extractLsb' 50 4), se := bitOf w 49, fs := bitOf w 48, acc := w.extractLsb' 45 3, fa := w.extractLsb' 43 2,
    fm := w.extractLsb' 41 2, clr := bitOf w 40, sm := w.extractLsb' 38 2, b := w.extractLsb' 31 7, c := w.extractLsb' 24 7,
    kc := w.extractLsb' 16 8, mc := w.extractLsb' 10 6, off := w.extractLsb' 0 10 }

/-- GFR's record form, or its `.info` form, by sub-operation [0] (R247). -/
def selectGfr (f : VForm) : Instr := if f.sub.getLsbD 0 then .gfrInfo f else .gfr f

/-- GPOST or GPOST.wd, by sub-operation [6] (R263). -/
def selectGpost (f : VForm) : Instr := if f.sub.getLsbD 6 then .gpostWd f else .gpost f

/-- CALL's relative or register form, by the condition field (R119). -/
def selectCall (f : BForm) : Instr := if f.cond == 8 then .callReg f else .call f

/-- FORK's forms, by the condition field (R119). -/
def selectFork (f : BForm) : Instr := if f.cond == 1 then .forkCopy f else if f.cond == 2 then .forkMatrix f else .forkReg f

/-- CNTW's wait or query form, by the sub-operation (R124). -/
def selectCntw (f : VForm) : Instr := if f.sub == 0 then .cntw f else .cntwQuery f

/-- CSRW, by the register number (R357, R88, R89, R92, R355). -/
def selectCsrw (f : IForm) : Instr :=
  let n := Fields.csrNum f
  if n = 0x100 then .csrwFstat f else if n = 0x101 then .csrwFctl f else if n = 0x111 then .csrwElogInfo f
  else if n = 0x800 then .csrwTrapCause f else .csrw f

/-- CATSET's forms, by the sub-operation (R376, R377). -/
def selectCatset (f : VForm) : Instr :=
  if f.sub == 0 then .catsetAccess f else if f.sub == 1 then .catsetBound f else if f.sub == 8 then .catsetPg f else .catsetHwm f

/-- CATSNAP's take or release form, by sub-operation [0] (R376). -/
def selectCatsnap (f : VForm) : Instr := if f.sub.getLsbD 0 then .catsnapRel f else .catsnap f

/-- A V-format word whose fields are all zero. -/
def VForm.zero : VForm :=
  { ty := .i8, d := 0, a := 0, b := 0, c := 0, m := 0, fs := false, se := false, rnd := .rn, sat := false, sub := 0 }

/-- A B-format word whose fields are all zero. -/
def BForm.zero : BForm := { creg := 0, cond := 0, m := 0, res := 0, imm := 0 }

/-- A copy command whose fields are all zero. -/
def KForm.zero : KForm := { top := 0, se := false, fs := false, low := 0 }

/-- A matrix command whose fields are all zero. -/
def GForm.zero : GForm :=
  { ty := .i8, se := false, fs := false, acc := 0, fa := 0, fm := 0, clr := false, sm := 0, b := 0, c := 0, kc := 0, mc := 0, off := 0 }

/-- An instruction whose word has no field but the opcode: every other bit is reserved and zero (R106). -/
def selectBare (i : Instr) (w : Word) : Option Instr := if (w.extractLsb' 0 54) == 0 then some i else none

/-- NOP's forms, by set enable and flag select (R14, R124): every other field is zero. -/
def selectNop (w : Word) : Option Instr :=
  if (w.extractLsb' 14 40) == 0 && (w.extractLsb' 0 12) == 0 then
    if !bitOf w 12 then (if bitOf w 13 then none else some .nop) else if bitOf w 13 then some .nopSet1 else some .nopSet0
  else none

/-- The instruction that an opcode selects (R109), whatever its fields hold. -/
def selectOpcode (op : Nat) (w : Word) : Option Instr :=
  match op with
  | 0x001 => some (.smov (fieldsV w))
  | 0x002 => some (.sadd (fieldsV w))
  | 0x003 => some (.ssub (fieldsV w))
  | 0x004 => some (.smul (fieldsV w))
  | 0x005 => some (.smulh (fieldsV w))
  | 0x006 => some (.sdiv (fieldsV w))
  | 0x007 => some (.srem (fieldsV w))
  | 0x008 => some (.sand (fieldsV w))
  | 0x009 => some (.sor (fieldsV w))
  | 0x00A => some (.sxor (fieldsV w))
  | 0x00B => some (.snot (fieldsV w))
  | 0x00C => some (.sshl (fieldsV w))
  | 0x00D => some (.sshr (fieldsV w))
  | 0x00E => some (.ssar (fieldsV w))
  | 0x00F => some (.srot (fieldsV w))
  | 0x010 => some (.scmp (fieldsV w))
  | 0x011 => some (.ssel (fieldsV w))
  | 0x012 => some (.smin (fieldsV w))
  | 0x013 => some (.smax (fieldsV w))
  | 0x014 => some (.sclz (fieldsV w))
  | 0x015 => some (.spop (fieldsV w))
  | 0x016 => some (.slea (fieldsV w))
  | 0x041 => some (.smovi (fieldsI w))
  | 0x042 => some (.saddImm (fieldsI w))
  | 0x043 => some (.ssubImm (fieldsI w))
  | 0x044 => some (.smulImm (fieldsI w))
  | 0x048 => some (.sandImm (fieldsI w))
  | 0x049 => some (.sorImm (fieldsI w))
  | 0x04A => some (.sxorImm (fieldsI w))
  | 0x04C => some (.sshlImm (fieldsI w))
  | 0x04D => some (.sshrImm (fieldsI w))
  | 0x04E => some (.ssarImm (fieldsI w))
  | 0x04F => some (.srotImm (fieldsI w))
  | 0x052 => some (.sminImm (fieldsI w))
  | 0x053 => some (.smaxImm (fieldsI w))
  | 0x056 => some (.sleaImm (fieldsI w))
  | 0x080 => some (.vmov (fieldsV w))
  | 0x081 => some (.vadd (fieldsV w))
  | 0x082 => some (.vsub (fieldsV w))
  | 0x083 => some (.vmul (fieldsV w))
  | 0x084 => some (.vmulh (fieldsV w))
  | 0x085 => some (.vmad (fieldsV w))
  | 0x086 => some (.vdiv (fieldsV w))
  | 0x087 => some (.vrem (fieldsV w))
  | 0x088 => some (.vand (fieldsV w))
  | 0x089 => some (.vor (fieldsV w))
  | 0x08A => some (.vxor (fieldsV w))
  | 0x08B => some (.vnot (fieldsV w))
  | 0x08C => some (.vshl (fieldsV w))
  | 0x08D => some (.vshr (fieldsV w))
  | 0x08E => some (.vsar (fieldsV w))
  | 0x08F => some (.vrot (fieldsV w))
  | 0x090 => some (.vcmp (fieldsV w))
  | 0x091 => some (.vsel (fieldsV w))
  | 0x092 => some (.vmin (fieldsV w))
  | 0x093 => some (.vmax (fieldsV w))
  | 0x094 => some (.vabs (fieldsV w))
  | 0x095 => some (.vneg (fieldsV w))
  | 0x096 => some (.vclz (fieldsV w))
  | 0x097 => some (.vpop (fieldsV w))
  | 0x098 => some (.vbrev (fieldsV w))
  | 0x099 => some (.vbfe (fieldsV w))
  | 0x09A => some (.vbfi (fieldsV w))
  | 0x09B => some (.vlea (fieldsV w))
  | 0x09C => some (.vidx (fieldsV w))
  | 0x09D => some (.vsplat (fieldsV w))
  | 0x09E => some (.vext (fieldsV w))
  | 0x09F => some (.vcvti (fieldsV w))
  | 0x0A0 => some (.spk24 (fieldsV w))
  | 0x0C0 => some (.vmovi (fieldsI w))
  | 0x0C1 => some (.vaddImm (fieldsI w))
  | 0x0C2 => some (.vsubImm (fieldsI w))
  | 0x0C3 => some (.vmulImm (fieldsI w))
  | 0x0C8 => some (.vandImm (fieldsI w))
  | 0x0C9 => some (.vorImm (fieldsI w))
  | 0x0CA => some (.vxorImm (fieldsI w))
  | 0x0CC => some (.vshlImm (fieldsI w))
  | 0x0CD => some (.vshrImm (fieldsI w))
  | 0x0CE => some (.vsarImm (fieldsI w))
  | 0x0CF => some (.vrotImm (fieldsI w))
  | 0x0D2 => some (.vminImm (fieldsI w))
  | 0x0D3 => some (.vmaxImm (fieldsI w))
  | 0x0DB => some (.vleaImm (fieldsI w))
  | 0x100 => some (.fadd (fieldsV w))
  | 0x101 => some (.fsub (fieldsV w))
  | 0x102 => some (.fmul (fieldsV w))
  | 0x103 => some (.ffma (fieldsV w))
  | 0x104 => some (.fmin (fieldsV w))
  | 0x105 => some (.fmax (fieldsV w))
  | 0x106 => some (.fmaxi (fieldsV w))
  | 0x107 => some (.fmini (fieldsV w))
  | 0x108 => some (.fabs (fieldsV w))
  | 0x109 => some (.fneg (fieldsV w))
  | 0x10A => some (.fcmp (fieldsV w))
  | 0x10B => some (.fclass (fieldsV w))
  | 0x10C => some (.fdiv (fieldsV w))
  | 0x10D => some (.fsqrt (fieldsV w))
  | 0x10E => some (.frnd (fieldsV w))
  | 0x10F => some (.fscl (fieldsV w))
  | 0x110 => some (.fdot2 (fieldsV w))
  | 0x111 => some (.fcvt (fieldsV w))
  | 0x112 => some (.fcvti (fieldsV w))
  | 0x113 => some (.icvtf (fieldsV w))
  | 0x140 => some (.faddImm (fieldsI w))
  | 0x141 => some (.fsubImm (fieldsI w))
  | 0x142 => some (.fmulImm (fieldsI w))
  | 0x144 => some (.fminImm (fieldsI w))
  | 0x145 => some (.fmaxImm (fieldsI w))
  | 0x180 => some (.qsin (fieldsV w))
  | 0x181 => some (.qcos (fieldsV w))
  | 0x182 => some (.qsc (fieldsV w))
  | 0x183 => some (.qsinp (fieldsV w))
  | 0x184 => some (.qcosp (fieldsV w))
  | 0x185 => some (.qscp (fieldsV w))
  | 0x186 => some (.qex2 (fieldsV w))
  | 0x187 => some (.qlg2 (fieldsV w))
  | 0x188 => some (.qtnh (fieldsV w))
  | 0x189 => some (.qrcp (fieldsV w))
  | 0x18A => some (.qrsq (fieldsV w))
  | 0x190 => some (.ncvt (fieldsV w))
  | 0x191 => some (.rnenc (fieldsV w))
  | 0x192 => some (.rndec (fieldsV w))
  | 0x193 => some (.rnadd (fieldsV w))
  | 0x194 => some (.rnmul (fieldsV w))
  | 0x198 => some (.rng (fieldsV w))
  | 0x1C0 => some (.ld (fieldsM w))
  | 0x1C1 => some (.st (fieldsM w))
  | 0x1C2 => some (.lds (fieldsM w))
  | 0x1C3 => some (.sts (fieldsM w))
  | 0x1C4 => some (.ldc (fieldsM w))
  | 0x1C5 => some (.ldsp (fieldsM w))
  | 0x1C6 => some (.stsp (fieldsM w))
  | 0x1CC => some (.pref (fieldsM w))
  | 0x1CD => some (.clnv (fieldsM w))
  | 0x1D0 => some (.fence (fieldsV w))
  | 0x1D1 => some (.fences (fieldsV w))
  | 0x1D2 => some (.fencex (fieldsV w))
  | 0x1E0 => some (.atomAdd (fieldsM w))
  | 0x1E1 => some (.atomSub (fieldsM w))
  | 0x1E2 => some (.atomMin (fieldsM w))
  | 0x1E3 => some (.atomMax (fieldsM w))
  | 0x1E4 => some (.atomAnd (fieldsM w))
  | 0x1E5 => some (.atomOr (fieldsM w))
  | 0x1E6 => some (.atomXor (fieldsM w))
  | 0x1E7 => some (.atomXchg (fieldsM w))
  | 0x1E8 => some (.atomCas (fieldsM w))
  | 0x1E9 => some (.atomFadd (fieldsM w))
  | 0x1EA => some (.atomMaxi (fieldsM w))
  | 0x1EB => some (.atomMini (fieldsM w))
  | 0x1F0 => some (.atomrAdd (fieldsM w))
  | 0x200 => some (.atomfAdd (fieldsM w))
  | 0x201 => some (.atomfSub (fieldsM w))
  | 0x202 => some (.atomfMin (fieldsM w))
  | 0x203 => some (.atomfMax (fieldsM w))
  | 0x204 => some (.atomfAnd (fieldsM w))
  | 0x205 => some (.atomfOr (fieldsM w))
  | 0x206 => some (.atomfXor (fieldsM w))
  | 0x207 => some (.atomfXchg (fieldsM w))
  | 0x208 => some (.atomfCas (fieldsM w))
  | 0x209 => some (.atomfFadd (fieldsM w))
  | 0x20A => some (.atomfMaxi (fieldsM w))
  | 0x20B => some (.atomfMini (fieldsM w))
  | 0x240 => some (.xlane (fieldsX w))
  | 0x241 => some (.xshuf (fieldsX w))
  | 0x242 => some (.xred (fieldsX w))
  | 0x243 => some (.xscan (fieldsX w))
  | 0x244 => some (.xcol (fieldsX w))
  | 0x245 => some (.xvote (fieldsX w))
  | 0x280 => some (.gen (fieldsB w))
  | 0x281 => some (.yield (fieldsV w))
  | 0x282 => some (.gdone (fieldsV w))
  | 0x283 => some (.gcon (fieldsB w))
  | 0x284 => selectBare .gsw w
  | 0x285 => some (selectGfr (fieldsV w))
  | 0x290 => some (.gbar (fieldsV w))
  | 0x291 => some (selectGpost (fieldsV w))
  | 0x292 => some (.gqry (fieldsV w))
  | 0x2A0 => some (.ldgAdd (fieldsM w))
  | 0x2A1 => some (.ldgMin (fieldsM w))
  | 0x2A2 => some (.ldgMax (fieldsM w))
  | 0x2A3 => some (.ldgAnd (fieldsM w))
  | 0x2A4 => some (.ldgOr (fieldsM w))
  | 0x2A5 => some (.ldgXor (fieldsM w))
  | 0x2A6 => some (.ldgFadd (fieldsM w))
  | 0x2A7 => some (.ldgFmin (fieldsM w))
  | 0x2A8 => some (.ldgFmax (fieldsM w))
  | 0x2A9 => some (.ldgMaxi (fieldsM w))
  | 0x2AA => some (.ldgMini (fieldsM w))
  | 0x2C0 => some (.bra (fieldsB w))
  | 0x2C1 => some (.brac (fieldsB w))
  | 0x2C2 => some (.brav (fieldsB w))
  | 0x2C3 => some (selectCall (fieldsB w))
  | 0x2C4 => some (.ret (fieldsB w))
  | 0x2C5 => some (.exit (fieldsB w))
  | 0x2C6 => selectBare .kill w
  | 0x2C7 => some (selectFork (fieldsB w))
  | 0x2C8 => selectBare .bar w
  | 0x2C9 => some (.waitk (fieldsV w))
  | 0x2CA => some (.setk (fieldsV w))
  | 0x2CB => some (.clrk (fieldsV w))
  | 0x2CC => selectNop w
  | 0x2CD => selectBare .yld w
  | 0x2CE => some (.iter (fieldsV w))
  | 0x2CF => some (.rdv (fieldsV w))
  | 0x2D0 => some (.lnch (fieldsV w))
  | 0x2D1 => some (selectCntw (fieldsV w))
  | 0x2D2 => some (.cancel (fieldsV w))
  | 0x300 => some (.cpy (fieldsC w))
  | 0x301 => some (.cpym (fieldsC w))
  | 0x302 => some (.cpyf (fieldsC w))
  | 0x303 => some (.cpyg (fieldsC w))
  | 0x304 => some (.cpys (fieldsC w))
  | 0x308 => some (.csig (fieldsK w))
  | 0x309 => some (.cwait (fieldsK w))
  | 0x30A => some (.cfence (fieldsK w))
  | 0x30B => some (.cmx (fieldsK w))
  | 0x30F => selectBare .cend w
  | 0x340 => some (.mldn (fieldsG w))
  | 0x341 => some (.mldw (fieldsG w))
  | 0x342 => some (.mma (fieldsG w))
  | 0x343 => some (.mmas (fieldsG w))
  | 0x344 => some (.mclr (fieldsG w))
  | 0x345 => some (.mdrn (fieldsG w))
  | 0x348 => some (.msig (fieldsG w))
  | 0x34F => selectBare .mend w
  | 0x380 => some (.trap (fieldsI w))
  | 0x381 => selectBare .rte w
  | 0x382 => some (.csrr (fieldsI w))
  | 0x383 => some (selectCsrw (fieldsI w))
  | 0x384 => some (.qfeat (fieldsI w))
  | 0x385 => some (.qphys (fieldsI w))
  | 0x388 => some (.mapft (fieldsV w))
  | 0x389 => some (.catld (fieldsV w))
  | 0x38A => some (selectCatset (fieldsV w))
  | 0x38B => some (selectCatsnap (fieldsV w))
  | 0x38C => some (.ctxsv (fieldsV w))
  | 0x38D => some (.ctxld (fieldsV w))
  | 0x38E => selectBare .sfdrn w
  | 0x38F => some (.wfi (fieldsV w))
  | _ => none

/-- The decoder: the well-formed instruction of a word, or none (R109, R113). -/
def decodeWord (w : Word) : Option Instr :=
  match selectOpcode (opcodeOf w) w with
  | some i => if i.wellFormed then some i else none
  | none => none

/-- A 64-bit word of eight bytes, the first at the lowest address (R23). -/
def wordOfBytes (b0 b1 b2 b3 b4 b5 b6 b7 : Byte) : Word := b7 ++ b6 ++ b5 ++ b4 ++ b3 ++ b2 ++ b1 ++ b0

/-- The decoder over bytes in memory order: the instruction and the bytes after it. -/
def decodeBytes : List Byte → Option (Instr × List Byte)
  | b0 :: b1 :: b2 :: b3 :: b4 :: b5 :: b6 :: b7 :: rest =>
    match decodeWord (wordOfBytes b0 b1 b2 b3 b4 b5 b6 b7) with
    | some i => some (i, rest)
    | none => none
  | _ => none

/-- Byte `i` of a word in memory order. -/
def byteOfWord (w : Word) (i : Nat) : Byte := w.extractLsb' (8 * i) 8

/-- The bytes of a word in memory order (R23). -/
def bytesOfWord (w : Word) : List Byte := (List.range 8).map (byteOfWord w)

/-- The instruction the decoder reads from an instruction word given as the opcode table numbers its bits: bit 0 is the least significant
bit. Every word of this machine has 64 bits; the bits above `nbits` are 0. -/
def decodeTableWord (nbits w : Nat) : Option Instr :=
  match decodeBytes (bytesOfWord (BitVec.ofNat 64 (w % 2 ^ nbits))) with
  | some (i, _) => some i
  | none => none

/-- A bit as a field of one bit. -/
def bit1 (b : Bool) : BitVec 1 := BitVec.ofBool b

/-- A V-format word (R105). -/
def packV (op : BitVec 10) (f : VForm) : Word :=
  op ++ f.ty.code ++ f.d ++ f.a ++ f.b ++ f.c ++ f.m ++ bit1 f.fs ++ bit1 f.se ++ f.rnd.code ++ bit1 f.sat ++ f.sub

/-- An I-format word (R105). -/
def packI (op : BitVec 10) (f : IForm) : Word := op ++ f.ty.code ++ f.d ++ f.a ++ f.cls ++ f.imm

/-- An M-format word (R105). -/
def packM (op : BitVec 10) (f : MForm) : Word :=
  op ++ f.ty.code ++ f.d ++ bit1 f.vo ++ f.base ++ f.voff ++ f.m ++ bit1 f.fs ++ bit1 f.se ++ f.hint ++ f.off

/-- An X-format word (R105). -/
def packX (op : BitVec 10) (f : XForm) : Word := op ++ f.ty.code ++ f.d ++ f.a ++ f.b ++ f.m ++ f.pat ++ f.par

/-- A B-format word (R105). -/
def packB (op : BitVec 10) (f : BForm) : Word := op ++ f.creg ++ f.cond ++ f.m ++ f.res ++ f.imm

/-- A data command of the copy engine (R279). -/
def packC (op : BitVec 10) (f : CForm) : Word :=
  op ++ f.ty.code ++ bit1 f.se ++ bit1 f.fs ++ f.dk ++ f.sk ++ f.dop ++ f.sop ++ bit1 f.cf ++ f.cnt ++ f.hint ++ f.doff ++ f.soff

/-- Another copy command (R287, R290). -/
def packK (op : BitVec 10) (f : KForm) : Word := op ++ f.top ++ bit1 f.se ++ bit1 f.fs ++ f.low

/-- A matrix command (R300). -/
def packG (op : BitVec 10) (f : GForm) : Word :=
  op ++ f.ty.code ++ bit1 f.se ++ bit1 f.fs ++ f.acc ++ f.fa ++ f.fm ++ bit1 f.clr ++ f.sm ++ f.b ++ f.c ++ f.kc ++ f.mc ++ f.off

/-- The encoder: the word of an instruction, none for a step of the machine (R105, R109). -/
def encode : Instr → Option Word
  | .smov f => some (packV 0x001 f)
  | .sadd f => some (packV 0x002 f)
  | .ssub f => some (packV 0x003 f)
  | .smul f => some (packV 0x004 f)
  | .smulh f => some (packV 0x005 f)
  | .sdiv f => some (packV 0x006 f)
  | .srem f => some (packV 0x007 f)
  | .sand f => some (packV 0x008 f)
  | .sor f => some (packV 0x009 f)
  | .sxor f => some (packV 0x00A f)
  | .snot f => some (packV 0x00B f)
  | .sshl f => some (packV 0x00C f)
  | .sshr f => some (packV 0x00D f)
  | .ssar f => some (packV 0x00E f)
  | .srot f => some (packV 0x00F f)
  | .scmp f => some (packV 0x010 f)
  | .ssel f => some (packV 0x011 f)
  | .smin f => some (packV 0x012 f)
  | .smax f => some (packV 0x013 f)
  | .sclz f => some (packV 0x014 f)
  | .spop f => some (packV 0x015 f)
  | .slea f => some (packV 0x016 f)
  | .smovi f => some (packI 0x041 f)
  | .saddImm f => some (packI 0x042 f)
  | .ssubImm f => some (packI 0x043 f)
  | .smulImm f => some (packI 0x044 f)
  | .sandImm f => some (packI 0x048 f)
  | .sorImm f => some (packI 0x049 f)
  | .sxorImm f => some (packI 0x04A f)
  | .sshlImm f => some (packI 0x04C f)
  | .sshrImm f => some (packI 0x04D f)
  | .ssarImm f => some (packI 0x04E f)
  | .srotImm f => some (packI 0x04F f)
  | .sminImm f => some (packI 0x052 f)
  | .smaxImm f => some (packI 0x053 f)
  | .sleaImm f => some (packI 0x056 f)
  | .vmov f => some (packV 0x080 f)
  | .vadd f => some (packV 0x081 f)
  | .vsub f => some (packV 0x082 f)
  | .vmul f => some (packV 0x083 f)
  | .vmulh f => some (packV 0x084 f)
  | .vmad f => some (packV 0x085 f)
  | .vdiv f => some (packV 0x086 f)
  | .vrem f => some (packV 0x087 f)
  | .vand f => some (packV 0x088 f)
  | .vor f => some (packV 0x089 f)
  | .vxor f => some (packV 0x08A f)
  | .vnot f => some (packV 0x08B f)
  | .vshl f => some (packV 0x08C f)
  | .vshr f => some (packV 0x08D f)
  | .vsar f => some (packV 0x08E f)
  | .vrot f => some (packV 0x08F f)
  | .vcmp f => some (packV 0x090 f)
  | .vsel f => some (packV 0x091 f)
  | .vmin f => some (packV 0x092 f)
  | .vmax f => some (packV 0x093 f)
  | .vabs f => some (packV 0x094 f)
  | .vneg f => some (packV 0x095 f)
  | .vclz f => some (packV 0x096 f)
  | .vpop f => some (packV 0x097 f)
  | .vbrev f => some (packV 0x098 f)
  | .vbfe f => some (packV 0x099 f)
  | .vbfi f => some (packV 0x09A f)
  | .vlea f => some (packV 0x09B f)
  | .vidx f => some (packV 0x09C f)
  | .vsplat f => some (packV 0x09D f)
  | .vext f => some (packV 0x09E f)
  | .vcvti f => some (packV 0x09F f)
  | .spk24 f => some (packV 0x0A0 f)
  | .vmovi f => some (packI 0x0C0 f)
  | .vaddImm f => some (packI 0x0C1 f)
  | .vsubImm f => some (packI 0x0C2 f)
  | .vmulImm f => some (packI 0x0C3 f)
  | .vandImm f => some (packI 0x0C8 f)
  | .vorImm f => some (packI 0x0C9 f)
  | .vxorImm f => some (packI 0x0CA f)
  | .vshlImm f => some (packI 0x0CC f)
  | .vshrImm f => some (packI 0x0CD f)
  | .vsarImm f => some (packI 0x0CE f)
  | .vrotImm f => some (packI 0x0CF f)
  | .vminImm f => some (packI 0x0D2 f)
  | .vmaxImm f => some (packI 0x0D3 f)
  | .vleaImm f => some (packI 0x0DB f)
  | .fadd f => some (packV 0x100 f)
  | .fsub f => some (packV 0x101 f)
  | .fmul f => some (packV 0x102 f)
  | .ffma f => some (packV 0x103 f)
  | .fmin f => some (packV 0x104 f)
  | .fmax f => some (packV 0x105 f)
  | .fmaxi f => some (packV 0x106 f)
  | .fmini f => some (packV 0x107 f)
  | .fabs f => some (packV 0x108 f)
  | .fneg f => some (packV 0x109 f)
  | .fcmp f => some (packV 0x10A f)
  | .fclass f => some (packV 0x10B f)
  | .fdiv f => some (packV 0x10C f)
  | .fsqrt f => some (packV 0x10D f)
  | .frnd f => some (packV 0x10E f)
  | .fscl f => some (packV 0x10F f)
  | .fdot2 f => some (packV 0x110 f)
  | .fcvt f => some (packV 0x111 f)
  | .fcvti f => some (packV 0x112 f)
  | .icvtf f => some (packV 0x113 f)
  | .faddImm f => some (packI 0x140 f)
  | .fsubImm f => some (packI 0x141 f)
  | .fmulImm f => some (packI 0x142 f)
  | .fminImm f => some (packI 0x144 f)
  | .fmaxImm f => some (packI 0x145 f)
  | .qsin f => some (packV 0x180 f)
  | .qcos f => some (packV 0x181 f)
  | .qsc f => some (packV 0x182 f)
  | .qsinp f => some (packV 0x183 f)
  | .qcosp f => some (packV 0x184 f)
  | .qscp f => some (packV 0x185 f)
  | .qex2 f => some (packV 0x186 f)
  | .qlg2 f => some (packV 0x187 f)
  | .qtnh f => some (packV 0x188 f)
  | .qrcp f => some (packV 0x189 f)
  | .qrsq f => some (packV 0x18A f)
  | .ncvt f => some (packV 0x190 f)
  | .rnenc f => some (packV 0x191 f)
  | .rndec f => some (packV 0x192 f)
  | .rnadd f => some (packV 0x193 f)
  | .rnmul f => some (packV 0x194 f)
  | .rng f => some (packV 0x198 f)
  | .ld f => some (packM 0x1C0 f)
  | .st f => some (packM 0x1C1 f)
  | .lds f => some (packM 0x1C2 f)
  | .sts f => some (packM 0x1C3 f)
  | .ldc f => some (packM 0x1C4 f)
  | .ldsp f => some (packM 0x1C5 f)
  | .stsp f => some (packM 0x1C6 f)
  | .pref f => some (packM 0x1CC f)
  | .clnv f => some (packM 0x1CD f)
  | .atomAdd f => some (packM 0x1E0 f)
  | .atomSub f => some (packM 0x1E1 f)
  | .atomMin f => some (packM 0x1E2 f)
  | .atomMax f => some (packM 0x1E3 f)
  | .atomAnd f => some (packM 0x1E4 f)
  | .atomOr f => some (packM 0x1E5 f)
  | .atomXor f => some (packM 0x1E6 f)
  | .atomXchg f => some (packM 0x1E7 f)
  | .atomCas f => some (packM 0x1E8 f)
  | .atomFadd f => some (packM 0x1E9 f)
  | .atomMaxi f => some (packM 0x1EA f)
  | .atomMini f => some (packM 0x1EB f)
  | .atomrAdd f => some (packM 0x1F0 f)
  | .atomfAdd f => some (packM 0x200 f)
  | .atomfSub f => some (packM 0x201 f)
  | .atomfMin f => some (packM 0x202 f)
  | .atomfMax f => some (packM 0x203 f)
  | .atomfAnd f => some (packM 0x204 f)
  | .atomfOr f => some (packM 0x205 f)
  | .atomfXor f => some (packM 0x206 f)
  | .atomfXchg f => some (packM 0x207 f)
  | .atomfCas f => some (packM 0x208 f)
  | .atomfFadd f => some (packM 0x209 f)
  | .atomfMaxi f => some (packM 0x20A f)
  | .atomfMini f => some (packM 0x20B f)
  | .fence f => some (packV 0x1D0 f)
  | .fences f => some (packV 0x1D1 f)
  | .fencex f => some (packV 0x1D2 f)
  | .xlane f => some (packX 0x240 f)
  | .xshuf f => some (packX 0x241 f)
  | .xred f => some (packX 0x242 f)
  | .xscan f => some (packX 0x243 f)
  | .xcol f => some (packX 0x244 f)
  | .xvote f => some (packX 0x245 f)
  | .gen f => some (packB 0x280 f)
  | .yield f => some (packV 0x281 f)
  | .gdone f => some (packV 0x282 f)
  | .gcon f => some (packB 0x283 f)
  | .gsw => some (packV 0x284 VForm.zero)
  | .gfr f => some (packV 0x285 f)
  | .gfrInfo f => some (packV 0x285 f)
  | .gbar f => some (packV 0x290 f)
  | .gpost f => some (packV 0x291 f)
  | .gpostWd f => some (packV 0x291 f)
  | .gqry f => some (packV 0x292 f)
  | .ldgAdd f => some (packM 0x2A0 f)
  | .ldgMin f => some (packM 0x2A1 f)
  | .ldgMax f => some (packM 0x2A2 f)
  | .ldgAnd f => some (packM 0x2A3 f)
  | .ldgOr f => some (packM 0x2A4 f)
  | .ldgXor f => some (packM 0x2A5 f)
  | .ldgFadd f => some (packM 0x2A6 f)
  | .ldgFmin f => some (packM 0x2A7 f)
  | .ldgFmax f => some (packM 0x2A8 f)
  | .ldgMaxi f => some (packM 0x2A9 f)
  | .ldgMini f => some (packM 0x2AA f)
  | .bra f => some (packB 0x2C0 f)
  | .brac f => some (packB 0x2C1 f)
  | .brav f => some (packB 0x2C2 f)
  | .call f => some (packB 0x2C3 f)
  | .callReg f => some (packB 0x2C3 f)
  | .ret f => some (packB 0x2C4 f)
  | .exit f => some (packB 0x2C5 f)
  | .kill => some (packB 0x2C6 BForm.zero)
  | .forkCopy f => some (packB 0x2C7 f)
  | .forkMatrix f => some (packB 0x2C7 f)
  | .forkReg f => some (packB 0x2C7 f)
  | .bar => some (packV 0x2C8 VForm.zero)
  | .waitk f => some (packV 0x2C9 f)
  | .setk f => some (packV 0x2CA f)
  | .clrk f => some (packV 0x2CB f)
  | .nop => some (packV 0x2CC VForm.zero)
  | .nopSet0 => some (packV 0x2CC { VForm.zero with se := true })
  | .nopSet1 => some (packV 0x2CC { VForm.zero with se := true, fs := true })
  | .yld => some (packV 0x2CD VForm.zero)
  | .iter f => some (packV 0x2CE f)
  | .rdv f => some (packV 0x2CF f)
  | .lnch f => some (packV 0x2D0 f)
  | .cntw f => some (packV 0x2D1 f)
  | .cntwQuery f => some (packV 0x2D1 f)
  | .cancel f => some (packV 0x2D2 f)
  | .cpy f => some (packC 0x300 f)
  | .cpym f => some (packC 0x301 f)
  | .cpyf f => some (packC 0x302 f)
  | .cpyg f => some (packC 0x303 f)
  | .cpys f => some (packC 0x304 f)
  | .csig f => some (packK 0x308 f)
  | .cwait f => some (packK 0x309 f)
  | .cfence f => some (packK 0x30A f)
  | .cmx f => some (packK 0x30B f)
  | .cend => some (packK 0x30F KForm.zero)
  | .mldn f => some (packG 0x340 f)
  | .mldw f => some (packG 0x341 f)
  | .mma f => some (packG 0x342 f)
  | .mmas f => some (packG 0x343 f)
  | .mclr f => some (packG 0x344 f)
  | .mdrn f => some (packG 0x345 f)
  | .msig f => some (packG 0x348 f)
  | .mend => some (packG 0x34F GForm.zero)
  | .trap f => some (packI 0x380 f)
  | .rte => some (packV 0x381 VForm.zero)
  | .csrr f => some (packI 0x382 f)
  | .csrw f => some (packI 0x383 f)
  | .csrwFstat f => some (packI 0x383 f)
  | .csrwFctl f => some (packI 0x383 f)
  | .csrwElogInfo f => some (packI 0x383 f)
  | .csrwTrapCause f => some (packI 0x383 f)
  | .qfeat f => some (packI 0x384 f)
  | .qphys f => some (packI 0x385 f)
  | .mapft f => some (packV 0x388 f)
  | .catld f => some (packV 0x389 f)
  | .catsetAccess f => some (packV 0x38A f)
  | .catsetBound f => some (packV 0x38A f)
  | .catsetHwm f => some (packV 0x38A f)
  | .catsetPg f => some (packV 0x38A f)
  | .catsnap f => some (packV 0x38B f)
  | .catsnapRel f => some (packV 0x38B f)
  | .ctxsv f => some (packV 0x38C f)
  | .ctxld f => some (packV 0x38D f)
  | .sfdrn => some (packV 0x38E VForm.zero)
  | .wfi f => some (packV 0x38F f)
  | .clauseStart => none
  | .writePerformed => none
  | .sfQueueWrite => none
  | .stallThreshold => none
  | .teamExchange => none
  | .timeSliceExpiry => none
  | .teamRetire => none
  | .workgroupRetire => none
  | .counterDecrement => none
  | .unitBegin => none
  | .recordLaunch => none
  | .recordNewGraph => none
  | .recordNewPhase => none
  | .recordQuery => none
  | .cancelRequest => none
  | .cnclDelivery => none
  | .curatorBind => none
  | .dispatch => none
  | .preempt => none
  | .trapEntry => none
  | .contextSave => none
  | .restore => none
  | .barOpen => none
  | .gpostTakesEffect => none
  | .gbarComplete => none
  | .xcolComplete => none
  | .waitkComplete => none
  | .wfiWake => none
  | .rdvComplete => none
  | .pendingForkStart => none
  | .iterAnswer => none
  | .streamEnd => none
  | .fifoBytesLand => none
  | .followOnTrigger => none
  | .followOnExecute => none
  | .cpymRequestArrival => none
  | .cpymSectorRead => none
  | .mmIssue => none
  | .mmPerform => none
  | .mmExport => none
  | .mmTransfer => none
  | .mmApply => none
  | .fenceComplete => none
  | .speculationConflict => none
  | .registrarRelease => none
  | .loanLend => none
  | .loanReclaimComplete => none
  | .farFirstTouchMap => none
  | .copyOnWrite => none
  | .pageMigration => none
  | .pageDuplication => none
  | .liveMigration => none
  | .poolRefill => none
  | .readPacket => none
  | .writePacket => none
  | .atomicPacket => none
  | .scrubGranule => none
  | .errorRecordMergeFlush => none
  | .registerUncorrectable => none
  | .dramDieRemoval => none
  | .coreFailure => none
  | .dmaWrite => none
  | .dmaRead => none
  | .cxlPoisonReport => none
  | .cxlHotRemove => none
  | .scaleoutFrameReceive => none
  | .portFailure => none
  | .deliveryTimeout => none
  | .startJob => none
  | .mbCancel => none
  | .mbStatus => none
  | .createObject => none
  | .deleteObject => none
  | .mailboxOverrun => none
  | .setPartitions => none
  | .setInstallationEntry => none
  | .createContext => none
  | .destroyContext => none
  | .attest => none
  | .stageFirmware => none
  | .setPowerLimit => none
  | .hostRegisterWrite => none
  | .powerGood => none
  | .stage0Complete => none
  | .stage1Complete => none
  | .criticalTemperature => none
  | .deviceReset => none
  | .matrixCommandComplete => none
  | .powerOrThermalLimiting => none

end Sys2Proof
end

