-- ==== Sys2Proof/Machine/Turn.lean ====
section
/-!
DEFINITION. What a step is made of: the turn it takes, the word that an agent's next slot holds (R93, R97, R103), a word that does not
decode (R95, R109), the state in which a team starts (R12), and the smallest state in which an agent is about to issue one word.
-/

namespace Sys2Proof.Machine

/-- How often 2 divides a number, and half of what is left, looking at no more than `fuel` factors. -/
def twos : Nat → Nat → Nat × Nat
  | 0, q => (0, q)
  | fuel + 1, q => if q % 2 = 0 then ((twos fuel (q / 2)).1 + 1, (twos fuel (q / 2)).2) else (0, q / 2)

/-- The steps that the device takes of itself, on things numbered n and k. (log 1: DESIGN CHOICE, safe.) -/
def ownTurns (n k : Nat) : List Turn :=
  [.issue (.team n), .issue (.copy n), .issue (.matrix n), .ev .clauseStart (.agent (.team n)), .ev .clauseStart (.agent (.copy n)),
   .ev .clauseStart (.agent (.matrix n)), .ev .writePerformed (.id n), .ev .sfQueueWrite (.id n), .ev .stallThreshold (.id n),
   .ev .teamExchange (.id n), .ev .timeSliceExpiry (.id n), .ev .teamRetire (.id n), .ev .workgroupRetire (.id n),
   .ev .counterDecrement (.part (.workgroup n)), .ev .counterDecrement (.part (.unit n)), .ev .unitBegin (.id n), .ev .recordLaunch .none,
   .ev .recordNewGraph .none, .ev .recordNewPhase .none, .ev .recordQuery .none, .ev .cancelRequest .none, .ev .cnclDelivery (.id n),
   .ev .curatorBind (.bind n k false), .ev .curatorBind (.bind n k true), .ev .dispatch (.id n), .ev .trapEntry (.id n),
   .ev .contextSave (.id n), .ev .restore (.id n), .ev .barOpen (.id n), .ev .gpostTakesEffect (.id n), .ev .gbarComplete (.id n),
   .ev .xcolComplete (.id n), .ev .waitkComplete (.id n), .ev .wfiWake (.id n), .ev .rdvComplete (.id n), .ev .pendingForkStart (.fork n false),
   .ev .pendingForkStart (.fork n true), .ev .iterAnswer (.id n), .ev .streamEnd (.agent (.copy n)), .ev .streamEnd (.agent (.matrix n)),
   .ev .fifoBytesLand (.id n), .ev .followOnTrigger (.id n), .ev .followOnExecute (.id n), .ev .cpymRequestArrival (.id n),
   .ev .cpymSectorRead (.pair n k), .ev .cpymSectorRead (.id n), .ev .mmIssue (.id n), .ev .mmPerform (.pair n k), .ev .mmExport (.id n),
   .ev .mmTransfer (.id n), .ev .mmApply (.id n), .ev .fenceComplete (.id n), .ev .registrarRelease (.id n),
   .ev .loanReclaimComplete (.pair n k), .ev .matrixCommandComplete (.id n),
   .ev .speculationConflict (.id n), .ev .scrubGranule (.ecc n { flips := [], beyond := .detected }), .ev .copyOnWrite (.id n), .ev .farFirstTouchMap (.id n), .ev .scaleoutFrameReceive (.id n)]

/-- The turns that are owed, in some order in which each of the device's own steps comes again and again (R67, R68). (log 1: DESIGN CHOICE, safe.) -/
def owedTurn (n : Nat) : Turn :=
  let k := (ownTurns 0 0).length
  let a := twos (n / k + 1) (n / k + 1)
  let b := twos (a.2 + 1) (a.2 + 1)
  (ownTurns a.1 b.1).getD (n % k) default

/-- After t turns of the free schedule: how many owed turns have been taken, and how many free turns stand before the next. -/
def owedAt : Nat → Nat × Nat
  | 0 => (0, Config.patience 0)
  | t + 1 => match owedAt t with
    | (n, 0) => (n + 1, Config.patience (n + 1))
    | (n, k + 1) => (n, k)

/-- The schedule when the input names no turn: free turns, among which every owed turn comes in time (R67, R68). Nothing limits the free turns
that come first, so every finite order of steps is a beginning of it. (log 1: DESIGN CHOICE, safe.) -/
def schedule (t : Nat) : Turn :=
  match owedAt t with
  | (n, 0) => owedTurn n
  | (_, _ + 1) => Config.freeTurn t

/-- The turn of the next step: the head of the input schedule, else what the schedule names. (log 1: DESIGN CHOICE, safe.) -/
def State.turn (s : State) : Turn :=
  match s.sched with
  | t :: _ => t
  | [] => schedule s.tick

/-- The state as the turn finds it: the tick is counted, the clk pass, the turn is taken from the input schedule. At an owed turn a clk passes,
so that no wait of the device for a number of clk is for ever. (log 2: DESIGN CHOICE, safe.) -/
def State.tickOver (s : State) : State :=
  { s with sched := s.sched.tail, tick := s.tick + 1, now := s.now + Config.clkStep s.tick + (if (owedAt s.tick).2 = 0 then 1 else 0) }

/-- What the word at an agent's slot is. -/
inductive Fetched where
  | idle
  | fail (s : State)
  | word (w : Word)
deriving DecidableEq, Repr, Inhabited

/-- The address of slot `n` of the clause whose header stands at `pc` (R93). -/
def slotAddr (pc : Addr) (n : Nat) : Addr := pc + BitVec.ofNat 64 (8 * (n + 1))

/-- The word of a team's slot (R103): the team holds the datapath (R97); a fence whose later path is the fetch path holds it (R325). -/
def State.fetchTeam (s : State) (u : Nat) : Fetched :=
  match s.team? u with
  | none => .idle
  | some t =>
    if !t.started || (s.column (s.colOf t)).dp != some u || s.fenceHolds u .I s.seq then .idle
    else match s.fetch (s.ctxOf t) (s.colOf t) t.priv (slotAddr t.pc t.slot) with
      | .ok w => .word w
      | .error c => .fail ((s.logFetch (s.ctxOf t) (s.colOf t) c (slotAddr t.pc t.slot)).trapAt u c)

/-- A stream's fetch has failed (R103): on a page fault the stream stops at the clause, else it halts. -/
def State.streamFetchFail (s : State) (u : Nat) (mtx : Bool) (c : Cause) (pc : Addr) (slot : Nat) (a : Addr) : State :=
  if c = .pnot ∨ c = .pftp then s.stopStream u mtx c pc slot a 0
  else
    let s1 := match s.team? u with | some t => s.logFetch (s.ctxOf t) (s.colOf t) c a | none => s
    if s.engBusy u mtx then s else s1.haltStream u mtx c pc slot 0

/-- The word of a stream's slot, which was fetched when the clause started (R103); CWAIT holds it (R290), and a matrix stream runs while its
team holds the unit (R80). -/
def State.fetchStream (s : State) (u : Nat) (mtx : Bool) : Fetched :=
  match s.team? u with
  | none => .idle
  | some t =>
    match t.stream mtx with
    | none => .idle
    | some x =>
      if !x.started || x.halted || x.stopped || !s.streamsRun t || s.kstat u &&& x.cwait != 0 || (mtx && (s.column (s.colOf t)).mxHolder != some u) then .idle
      else .word (x.words.getD x.slot 0)

/-- The word that an agent's next slot holds; code runs in stage 2 alone (R425). -/
def State.fetchFor (s : State) (a : Agent) : Fetched :=
  if !s.runsTeams then .idle
  else match a with
    | .team u => s.fetchTeam u
    | .copy u => s.fetchStream u false
    | .matrix u => s.fetchStream u true

/-- A word that does not decode to a well-formed instruction raises IINS (R109, R113): at the team's slot, or halting the stream (R95). -/
def State.badWord (s : State) : Agent → State
  | .team u => s.trapAt u .iins
  | .copy u => match (s.team? u).bind (·.copy) with
    | some x => s.haltStream u false .iins x.pc x.slot 0
    | none => s
  | .matrix u => match (s.team? u).bind (·.mtx) with
    | some x => s.haltStream u true .iins x.pc x.slot 0
    | none => s

/-- A team as it starts (R12, R55, R82, R114, R374), with the scalars its parameters give it. (log 4: DESIGN CHOICE, unsafe.) (log 76: DESIGN CHOICE, unsafe.) -/
def Team.start (wg twg : Nat) (sh : Shape) (pc : Addr) (params : List (Nat × Word)) (now hwm : Nat) (resv : List Resv) : Team :=
  { wg := wg, twg := twg, lanes := sh.lanes, nv := sh.nv, ns := sh.ns, st := .pendingReady, since := now, wait := .none, hwait := .none,
    pc := pc, started := false, hdr := 0, slot := 0, rslot := 0,
    sregs := params.foldl (fun r p => Store.set r p.1 p.2) [], vregs := [], masks := Store.set [] 0 (lanesBelow sh.lanes),
    live := lanesBelow sh.lanes, ra := (List.range sh.lanes).foldl (fun r l => Store.set r l pc) [], rngC := [], holds := 0, fstat := 0,
    fctl := 0, pstat := 0, elogAddr := 0, elogInfo := 0, errNow := none, trapCause := 0, trapAddr := 0, trapRpc := 0, trapArg := 0,
    trapLaddr := [], bank := none, issueTrap := none, pendErr := none, pendGabs := false, pendFpen := false, pendCopy := none, pendMtx := none,
    pendPree := false, pendCncl := false, causeSince := 0, clkOff := 0, vit := Vitrine.initial, barArr := false, gbarArr := none,
    xcount := 0, xposts := [], hwm := hwm, resv := resv, forks := [], copy := none, mtx := none, spec := none, wake := false,
    activeSince := now, lastClk := 0, maskAt := none, stallAt := 0, fell := false, dying := false, resuming := false }

/-! ### The smallest state in which an agent is about to issue one word (log 14) -/

/-- A code object of one page of 64 KiB in every column. -/
def placedCode : Obj :=
  { ty := .n8, w := false, split := false, tol := false, scale := 0, dup := false, snap := false, bound := 65536, sbase := addrOf 0xFFFF 0,
    rows := 0, pitch := 0, bcol := 0, ncol := 1, stride := 0, blk := 0, source := addrOf 0xFFFF 0, code := true, sup := false,
    ftFrom := 1, replicas := [], mate := none }

/-- A context with that code object as object 1. (log 14: DESIGN CHOICE, safe.) (log 31: DEDUCED, unsafe.) -/
def placedCtx (c : Context) : Context :=
  { c with objs := assocSet c.objs 1 placedCode,
           pages := pageSet c.pages { ctx := 0, obj := 1, team := 0, col := 0, page := 0, lower := false }
             { p := true, ft := false, w := false, x := true, tier := 0, sh := false, col := 0, frame := 0 } }

/-- A context with nothing in it. (log 31: DEDUCED, unsafe.) -/
def Context.empty : Context :=
  { part := 0, dev := 0, privBound := 65536, privW := true, privDup := false, tvec := addrOf 1 0, objs := [], pages := [], groups := List.replicate 64 { memb := 0, v := false, abs := false },
    reserve := 0, given := [], qfeat0 := 0x1F01, qfeat1 := 0, qfeat2 := 1, mb := Mailbox.initial, log := [], events := 0 }

/-- A launch of one workgroup of one team of 8 lanes, 64 vector and 64 scalar registers, and 4 KiB of scratchpad. -/
def placedLaunch : Launch :=
  { kaddr := addrOf 1 64, shape := { lanes := 8, nv := 64, ns := 64, twg := 1, spad := 4096 }, params := [], g := 1, p := 0, q := 0, priv := 65536,
    seed := 0, stage := 0, det := false, gang := false, group := none, node := 0, pred := 0, creator := none, free := true, resv := [],
    fl := 0 }

/-- Its unit. -/
def placedUnit : Completion :=
  { ident := 1, level := .launch, ctx := 0, counter := 1, cancelled := false, dropped := false, begun := true, done := false, counted := false, want := 1, parts := [],
    parent := none, order := 0, launch := some placedLaunch }

/-- Its workgroup, resident in column 0. -/
def placedWg : Workgroup :=
  { launch := 0, idx := 0, col := 0, st := .resident, teams := [0], spad := [], spadPoison := [], spadBase := 0, iterPos := 0, staged := [],
    stageUsed := 0, savedMx := none, gbarK := none, gbarUp := false, children := [], counted := false, released := false, fatal := false,
    preempted := false, cncl := [], cancelled := false, restoredAt := 0 }

/-- An opcode that runs at supervisor privilege alone (R348), or a CSRR or CSRW of a register numbered 0x800 or above (R354). -/
def privOpcode (w : Word) : Bool :=
  let op := opcodeOf w
  op == 0x381 || op == 0x388 || op == 0x38A || op == 0x38C || op == 0x38D || op == 0x38F ||
    ((op == 0x382 || op == 0x383) && decide (0x800 ≤ (w.extractLsb' 0 12).toNat))

/-- The agent whose clauses hold the opcode (R108). -/
def agentFor (w : Word) : Agent :=
  let op := opcodeOf w
  if 0x300 ≤ op ∧ op < 0x340 then .copy 0 else if 0x340 ≤ op ∧ op < 0x380 then .matrix 0 else .team 0

/-- The header of the placed clause: one instruction, set-A flag k0 and set-B flag k1 valid. -/
def placedHdr (a : Agent) : Word :=
  (match a with
    | .team _ => 0
    | .copy _ => 0x1000000000000000
    | .matrix _ => 0x2000000000000000) ||| 0x0000084400000000

/-- The team: its clause has started, or its stream's clause has; in Handler, with a bank, for a supervisor's opcode. (log 14: DESIGN CHOICE, safe.) -/
def placedTeam (w : Word) : Team :=
  let t := Team.start 0 0 placedLaunch.shape (addrOf 1 64) [] 0 65536 []
  let t1 := { t with st := .active }
  match agentFor w with
  | .team _ =>
    let t2 := if privOpcode w then t1.enterTrap (addrOf 1 64) 0 .brkp 0 0 0 (addrOf 1 64) (addrOf 1 64) 0 [] t1.all else t1
    { t2 with started := true, hdr := placedHdr (.team 0) }
  | .copy _ => { t1 with copy := some { Stream.fresh (addrOf 1 64) [] with started := true, hdr := placedHdr (.copy 0), words := [w] } }
  | .matrix _ => { t1 with mtx := some { Stream.fresh (addrOf 1 64) [] with started := true, hdr := placedHdr (.matrix 0), words := [w] } }

/-- The state with a clause of the one word `w` started by the agent that runs its class, in column 0, and that agent's issue as the next
turn. (log 14: DESIGN CHOICE, safe.) -/
def State.placeWord (s : State) (w : Word) : State :=
  let a := agentFor w
  let c0 := (s.ctx? 0).getD Context.empty
  let code := bytesOfNat (placedHdr a).toNat 8 ++ bytesOfNat w.toNat 8
  let col := s.column 0
  { s with sched := .issue a :: s.sched, stage := .stage2, contexts := assocSet s.contexts 0 (placedCtx c0), units := assocSet s.units 0 placedUnit,
           wgs := assocSet s.wgs 0 placedWg, teams := assocSet s.teams 0 (placedTeam w),
           columns := assocSet s.columns 0 { col with dp := some 0, mxHolder := some 0 },
           mem := Memory.setBytes s.mem (physKey 0 0 0 64) code, nextId := max s.nextId 1 }

end Sys2Proof.Machine
end

