-- ==== Sys2Proof/Machine/Units.lean ====
section
/-!
DEFINITION. Completion units and their handles (R52 to R54, R133, R135), and which workgroups lie beneath a unit (R396).
-/

namespace Sys2Proof.Machine

/-- The code of a level (R133). -/
def Level.code : Level → Nat
  | .launch => 0
  | .graph => 1
  | .phase => 2
  | .job => 3

/-- The handle of a unit (R133). -/
def Completion.handle (c : Completion) : Word := BitVec.ofNat 64 (c.ident.toNat + 2 ^ 60 * c.level.code)

/-- The unit that a handle names in a context (R133). -/
def State.handleUnit (s : State) (x : Nat) (h : Word) : Option Nat :=
  if h.extractLsb' 0 32 = 0 ∨ h.extractLsb' 32 28 ≠ 0 then none
  else (s.units.find? fun e => e.2.ctx == x && e.2.handle == h).map (·.1)

/-- The status word of CNTW (R135); FL at launch level alone. -/
def Completion.status (c : Completion) : Word :=
  let fl := match c.launch with | some l => l.fl.toNat | none => 0
  BitVec.ofNat 64 ((if c.cancelled then 1 else 0) + (if c.done then 4 else 0) + 8 * fl + 2 ^ 32 * min c.counter (2 ^ 32 - 1))

/-- The status word for a handle (R135); ST 2 and DONE for one that names no unit. -/
def State.statusOf (s : State) (x : Nat) (h : Word) : Word :=
  match (s.handleUnit x h).bind s.unit? with
  | some c => c.status
  | none => 6

/-- The unit above a unit: its parent, or for a free launch the launch of the workgroup that created it (R54, R396). -/
def State.above (s : State) (c : Completion) : Option Nat :=
  match c.parent with
  | some p => some p
  | none => match c.launch with
    | some l => l.creator.map s.launchKey
    | none => none

/-- Unit j is unit k or lies beneath it, looking no more than `fuel` levels up. -/
def State.beneath (s : State) (k : Nat) : Nat → Nat → Bool
  | 0, _ => false
  | fuel + 1, j =>
    j == k || match s.unit? j with
      | some c => (match s.above c with | some p => State.beneath s k fuel p | none => false)
      | none => false

/-- A workgroup lies beneath a unit (R54). -/
def State.holdsWg (s : State) (k w : Nat) : Bool := s.beneath k (s.units.length + 1) (s.launchKey w)

/-- The intake FIFO is full (R391). -/
def State.intakeFull (s : State) : Bool := decide (512 ≤ s.intake.length)

/-- A record or request enters the intake FIFO: of those that arrive in one clk, the ascending issuing column is first (R391). -/
def State.enterIntake (s : State) (col : Nat) (e : Intake) : State :=
  let n := s.intake.length - (s.intake.reverse.takeWhile fun a => a.clk == s.now && decide (col < a.col)).length
  { s with intake := s.intake.take n ++ { clk := s.now, col := col, entry := e } :: s.intake.drop n }

/-- A LNCH or CANCEL of the team that issued before place `sq` has not yet entered the intake FIFO (R391). -/
def State.unsent (s : State) (u sq : Nat) : Bool :=
  s.ops.any fun o => o.team == u && decide (o.seq < sq) && match o.kind with
    | .lnch _ sent => !sent
    | .cancel _ => true
    | _ => false

/-- CNCL becomes pending for a team (R54, R402). (log 58: DEDUCED, unsafe.) -/
def Team.postCncl (t : Team) (now : Nat) : Team :=
  if t.pendCncl || t.st == .retired then t
  else { t with pendCncl := true, causeSince := if t.pendPree then t.causeSince else now }

/-- PREE becomes pending for a team (R58, R65). -/
def Team.postPree (t : Team) (now : Nat) : Team :=
  if t.pendPree || t.st == .retired then t
  else { t with pendPree := true, causeSince := if t.pendCncl then t.causeSince else now }

end Sys2Proof.Machine
end

