-- ==== Sys2Proof/Machine/Clauses.lean ====
section
/-!
DEFINITION. Which team's next clause starts (R57, R95 to R97), the exchange of teams (R58 to R61), and trap entry (R349, R350, R352).
-/

namespace Sys2Proof.Machine

/-! ### Whether a team's next clause could start -/

/-- The header address at which a team stands, with pads skipped (R96). (log 29: DESIGN CHOICE, unsafe.) -/
def State.headerAt (s : State) (t : Team) : Addr := s.skipPads (s.ctxOf t) (s.colOf t) t.priv padFuel t.pc

/-- The header of a team's next clause, or the cause of its fetch (R103). -/
def State.nextHeader (s : State) (t : Team) : Except Cause Word := s.fetch (s.ctxOf t) (s.colOf t) t.priv (s.headerAt t)

/-- A flag of a wait mask is set (R97). -/
def State.masked (s : State) (u : Nat) (wait : BitVec 12) : Bool := s.kstat u &&& wait != 0

/-- A long-latency wait other than the clause wait mask (R57, R80, R240, R360): a wait, a pending FORK or GPOST, or a matrix unit that a restored
holder has yet to take again. A handler runs whatever its team's user code waits for (R59); what a handler has left pending holds the user code
after its RTE too (R130). -/
def State.longWait (s : State) (u : Nat) (t : Team) : Bool :=
  (if t.priv then t.hwait else t.wait) != .none || (t.forks.any fun f => f.sup || !t.priv) ||
    (!t.priv && (s.column (s.colOf t)).mxWaiters.contains u) ||
    s.ops.any fun o => o.team == u && (o.sup || !t.priv) && match o.kind with | .gpost _ _ => true | _ => false

/-- The team's clause wait mask holds it (R57). A header that fails R94, a bad pad among them, waits for no flag (R96, R97). -/
def State.maskWait (s : State) (u : Nat) (t : Team) : Bool :=
  match s.nextHeader t with
  | .ok h => headerOk 0 h && s.masked u (hdrWait h)
  | .error _ => false

/-- The team's next clause could start (R57). -/
def State.couldStart (s : State) (u : Nat) (t : Team) : Bool := !s.longWait u t && !s.maskWait u t

/-- The team stands at a clause boundary and no trap of it comes first: a row of R58 below the traps may apply. -/
def Team.free (t : Team) : Bool := !t.started && t.issueTrap.isNone && t.boundaryCause.isNone

/-- The team is Stalled (R56, R57): in the active set, at a boundary, its next clause cannot start. -/
def State.isStalled (s : State) (u : Nat) (t : Team) : Bool := t.st == .stalled && t.free && !s.couldStart u t

/-- An Active team's stall is long-latency (R57): a long-latency wait, or 24 clk on its wait mask. -/
def State.stallDue (s : State) (u : Nat) (t : Team) : Bool :=
  t.st == .active && t.free &&
    (s.longWait u t || (s.maskWait u t && match t.maskAt with | some n => decide (24 ≤ s.elapsed (s.colOf t) n) | none => false))

/-- The team is Pending-ready (R56, R59). (log 42: DEDUCED, safe.) -/
def State.pendingReady (s : State) (u : Nat) (t : Team) : Bool :=
  t.st == .pendingReady || (t.st == .pendingWait && (t.called || s.couldStart u t))

/-- A consumer pass whose first clause has not started, and whose producer's writes to the frame are not all performed (R253): an access of a
YIELD, whose elements are numbered lane × 8 + word, to a word of frame CFR. -/
def State.frameWaits (s : State) (u : Nat) (t : Team) : Bool :=
  !t.priv && t.vit.phase == .consuming && s.ops.any fun o => o.by_ (.team u) && o.isYield && o.acc.any fun a => t.vit.inFrame a.addr.toNat

/-- The team's next clause may start as soon as the datapath is given to it (R97, R352). -/
def State.eligible (s : State) (u : Nat) (t : Team) : Bool :=
  (t.st == .active || t.st == .stalled || t.st == .handler) && !t.started && t.issueTrap.isNone && t.boundaryCause.isNone &&
    (t.priv || t.live &&& t.all != 0) && s.couldStart u t && !s.fenceHolds u .I s.seq && !(match t.spec with | some sp => sp.conflict | none => false) && !s.frameWaits u t

/-! ### The active and pending sets -/

/-- Teams of a column that hold an active slot (R55, R58). -/
def State.activeTeams (s : State) (c : Nat) : List (Nat × Team) :=
  (s.teamsIn c).filter fun e => e.2.inActiveSet

/-- ID_TEAM (R51). (log 41: DEDUCED, safe.) -/
def State.idTeam (s : State) (t : Team) : Nat :=
  match s.wg? t.wg, s.launchOf t.wg with
  | some g, some l => g.idx * l.shape.twg + t.twg
  | _, _ => 0

/-- Another team of the launch holds the matrix unit of team u's column. -/
def State.unitTaken (s : State) (u : Nat) (t : Team) : Bool :=
  match (s.column (s.colOf t)).mxHolder with
  | some v => v != u && (match s.team? v with | some w => s.launchKey w.wg == s.launchKey t.wg | none => false)
  | none => false

/-- Another workgroup of the launch holds the slot that a pending GPOST of team u waits for (R262). -/
def State.postTaken (s : State) (u : Nat) (t : Team) : Bool :=
  s.ops.any fun o => o.team == u && match o.kind with
    | .gpost g _ => (s.column (s.colOf t)).posts.any fun p => p.ctx == s.ctxOf t && p.g == g && match p.holder with
      | some w => w != t.wg && s.launchKey w == s.launchKey t.wg
      | none => false
    | _ => false

/-- A team waits for the matrix unit: with a FORK.matrix, with what a restore has kept for it, or with a FIFO-destined command without which its next
clause cannot start (R78, R80, R284). -/
def State.unitWanted (s : State) (u : Nat) (t : Team) : Bool :=
  (t.pendFork true).isSome || (s.column (s.colOf t)).mxWaiters.contains u ||
    (!s.couldStart u t && s.ops.any fun o => o.team == u && match o.kind with | .copy c => c.dst.kind == 2 | _ => false)

/-- A team is runnable (R68): it is not Retired, and waits on nothing that another team of its launch must satisfy. -/
def State.runnable (s : State) (u : Nat) (t : Team) : Bool :=
  t.st != .retired && t.st != .retiring && (match t.wait with
    | .bar | .gbar _ | .xcol _ => false
    | _ => true) && !(s.unitTaken u t && s.unitWanted u t) && !s.postTaken u t

/-- Another team of the column is of the same launch and has a lower ID_TEAM. -/
def State.lowerIn (s : State) (t v : Team) : Bool := s.launchKey v.wg == s.launchKey t.wg && decide (s.idTeam v < s.idTeam t)

/-- The runnable resident team of lowest ID_TEAM of a `.det` launch in its column (R61). (log 41: DEDUCED, safe.) -/
def State.detFirst (s : State) (c u : Nat) (t : Team) : Bool :=
  s.isDet t.wg && s.runnable u t && !((s.teamsIn c).any fun e => s.runnable e.1 e.2 && s.lowerIn t e.2)

/-- A Pending-ready team that R61 lets enter: of a `.det` launch's teams only the one of lowest ID_TEAM. (log 41: DEDUCED, safe.) -/
def State.mayEnter (s : State) (c : Nat) (t : Team) : Bool :=
  t.called || !s.isDet t.wg || !((s.teamsIn c).any fun e => e.2.st == .pendingReady && s.lowerIn t e.2)

/-- The team that the column brings in next (R59, R61): one for which CNCL or PREE is pending, else the first team of a `.det` launch, else the
one that has been ready longest. -/
def State.incoming (s : State) (c : Nat) : Option Nat :=
  let ready := (s.teamsIn c).filter fun e => e.2.st == .pendingReady
  match leastBy (fun e : Nat × Team => s.waitRank e.2 e.2.causeSince) (ready.filter fun e => e.2.called) with
  | some e => some e.1
  | none => match leastBy (fun e : Nat × Team => s.waitRank e.2 e.2.since) (ready.filter fun e => s.detFirst c e.1 e.2) with
    | some e => some e.1
    | none => (leastBy (fun e : Nat × Team => s.waitRank e.2 e.2.since) (ready.filter fun e => s.mayEnter c e.2)).map (·.1)

/-- The team that leaves the active set in an exchange (R59): the one Stalled longest. (log 41: DEDUCED, safe.) -/
def State.outgoing (s : State) (c : Nat) : Option Nat :=
  (leastBy (fun e : Nat × Team => s.waitRank e.2 e.2.stallAt) ((s.activeTeams c).filter fun e => s.isStalled e.1 e.2)).map (·.1)

/-- The team that a Pending-ready team of a `.det` launch displaces when no active slot is free (R61): only the lowest runnable one of its launch
does, in place of the active team of its launch with the highest ID_TEAM above its own, at that team's clause boundary, when no earlier row of R58
moves it. (log 41: DEDUCED, safe.) -/
def State.displaced (s : State) (c u : Nat) (t : Team) : Option Nat :=
  if t.st != .pendingReady || !s.detFirst c u t || decide ((s.activeTeams c).length < 8) then none
  else
    let cs := (s.activeTeams c).filter fun e => (e.2.st == .active || e.2.st == .stalled) && s.lowerIn e.2 t
    match leastBy (fun e : Nat × Team => 2 ^ 40 - s.idTeam e.2) cs with
    | some e => if e.2.free && !s.stallDue e.1 e.2 then some e.1 else none
    | none => none

/-- An exchange, the filling of a free active slot, or a displacement is due in a column (R59, R61). -/
def State.exchangeDue (s : State) (c : Nat) : Bool :=
  ((s.incoming c).isSome && (decide ((s.activeTeams c).length < 8) || (s.outgoing c).isSome)) ||
    (s.teamsIn c).any fun e => (s.displaced c e.1 e.2).isSome

/-- An Active team of an ordinary launch has come to the end of its time slice, and no earlier row of R58 moves it (R58, R60). -/
def State.sliceDue (s : State) (u : Nat) (t : Team) : Bool :=
  t.st == .active && t.free && !s.stallDue u t && !s.isDet t.wg && decide (4096 ≤ s.elapsed (s.colOf t) t.activeSince) &&
    (s.teamsIn (s.colOf t)).any fun e => s.pendingReady e.1 e.2

/-- A move between the active and pending sets is due in a column; it comes before any clause that starts there (R57 to R61). -/
def State.moveDue (s : State) (c : Nat) : Bool :=
  s.exchangeDue c || (s.teamsIn c).any fun e => s.stallDue e.1 e.2 || s.sliceDue e.1 e.2

/-- Among the eligible teams of a column the one that has waited longest (R97), once no move between the sets is due. -/
def State.nextTeam (s : State) (c : Nat) : Option Nat :=
  if s.moveDue c then none
  else (leastBy (fun e : Nat × Team => s.waitRank e.2 e.2.since) ((s.teamsIn c).filter fun e => s.eligible e.1 e.2)).map (·.1)

/-! ### CLAUSE_START -/

/-- A team's next clause starts at its resume slot (R94 to R97, R356): a fetch that fails or a bad header traps with slot 0. (log 28: DEDUCED, unsafe.) -/
def State.startClause (s : State) (u : Nat) (t : Team) : State :=
  let t0 := { t with pc := s.headerAt t, slot := 0 }
  let s0 := s.setTeam u t0
  match s.nextHeader t with
  | .error c => (s0.logFetch (s.ctxOf t) (s.colOf t) c t0.pc).trapAt u c
  | .ok h =>
    if !headerOk 0 h then s0.trapAt u .icls
    else if hdrCount h < t.rslot then
      let t1 := { t0 with hdr := h, rslot := 0 }
      s0.setTeam u ((s0.fallTo t1 (s0.nextClause t1)).atBoundary s.now)
    else
      let wasStalled := t.st == .stalled
      let t1 := if t.fell then t0.enterBlock h else t0
      let t2 := { t1 with hdr := h, slot := t.rslot, rslot := 0, started := true, st := if wasStalled then .active else t.st,
                          activeSince := if wasStalled then s.now else t.activeSince, maskAt := none }
      (s0.setTeam u t2).modCol (s.colOf t) fun k => { k with dp := some u }

/-- The first word of a stream's clause, header or instruction, whose fetch fails (R103): its slot, address and cause. -/
def State.badFetch (s : State) (x col : Nat) (pc : Addr) (h : Word) : Option (Nat × Addr × Cause) :=
  (List.range (hdrCount h + 1)).findSome? fun n =>
    match s.fetch x col false (slotAddr pc n) with
    | .ok _ => none
    | .error c => some (n, slotAddr pc n, c)

/-- The words of a stream's clause, which are fetched before any slot of it issues (R103). -/
def State.clauseWords (s : State) (x col : Nat) (pc : Addr) (h : Word) : List Word :=
  (List.range (hdrCount h + 1)).map fun n => match s.fetch x col false (slotAddr pc n) with
    | .ok w => w
    | .error _ => 0

/-- A stream's next clause starts (R95, R99, R103, R130). -/
def State.startStream (s : State) (u : Nat) (mtx : Bool) (t : Team) (x : Stream) : State :=
  let ctx := s.ctxOf t
  let col := s.colOf t
  let pc := s.skipPads ctx col false padFuel x.pc
  let put (x : Stream) : State := s.modTeam u fun t => t.setStream mtx (some x)
  let s0 := put { x with pc := pc }
  match s.fetch ctx col false pc with
  | .error c => s0.streamFetchFail u mtx c pc 0 pc
  | .ok h =>
    if !headerOk (if mtx then 2 else 1) h then s0.haltStream u mtx .icls pc 0 0
    else if s.masked u (hdrWait h) then s
    else match s.badFetch ctx col pc h with
      | some e => s0.streamFetchFail u mtx e.2.2 pc e.1 e.2.1
      | none => put { x with pc := pc, hdr := h, words := s.clauseWords ctx col pc h, slot := 0, started := true }

/-- A stream's sequencer may start its next clause: it runs, and its workgroup is resident; a matrix stream's team holds the unit (R80). -/
def State.streamIdle (s : State) (u : Nat) (mtx : Bool) (t : Team) (x : Stream) : Bool :=
  !x.started && !x.halted && !x.ended && !x.stopped && s.kstat u &&& x.cwait == 0 &&
    s.streamsRun t && (!mtx || (s.column (s.colOf t)).mxHolder == some u)

/-- CLAUSE_START (R97), for the agent named. -/
def execClauseStart (s : State) : Out :=
  match s.arg with
  | .agent (.team u) => .next (match s.team? u with
    | some t =>
      if s.runsTeams && (s.column (s.colOf t)).dp.isNone && s.nextTeam (s.colOf t) == some u then s.startClause u t else s
    | none => s)
  | .agent (.copy u) => .next (match s.team? u with
    | some t => (match t.copy with
      | some x => if s.runsTeams && s.streamIdle u false t x then s.startStream u false t x else s
      | none => s)
    | none => s)
  | .agent (.matrix u) => .next (match s.team? u with
    | some t => (match t.mtx with
      | some x => if s.runsTeams && s.streamIdle u true t x then s.startStream u true t x else s
      | none => s)
    | none => s)
  | _ => .next s

/-! ### Trap entry -/

/-- A boundary trap is entered (R350, R352): TRAP_RPC is the next clause's header, RSLOT the slot at which that clause would start (0 but for an
RTE whose clause has not started yet, R356), and the recorded address is the resume address but for an engine's cause. CNCL stops the team's
streams (R292, R309). (log 28: DEDUCED, unsafe.) -/
def State.enterBoundary (s : State) (u : Nat) (t : Team) (c : Cause) : State :=
  let h : Lanes := if t.mask 0 &&& t.all == 0 then 1 else t.mask 0 &&& t.all
  let pc := s.headerAt t
  let everyLane (a : Addr) : Store 64 := (laneList h t.lanes).foldl (fun st l => Store.set st l a) []
  let go (t : Team) (slot eng : Nat) (addr : Addr) (laddr : Store 64) : State :=
    s.setTeam u (t.enterTrap (s.tvecOf t) s.now c slot t.rslot eng addr pc 0 laddr h)
  match c, t.pendCopy, t.pendMtx with
  | .cncl, _, _ => (go { t.stopStreams with pendCncl := false } 0 0 pc []).settleDying u
  | .pree, _, _ => go { t with pendPree := false } 0 0 pc []
  | _, some e, _ => go { t with pendCopy := none } e.slot e.eng e.addr (everyLane e.laddr)
  | _, none, some e => go { t with pendMtx := none } e.slot e.eng e.addr (everyLane e.laddr)
  | _, none, none =>
    if t.pendErr.isSome then go { t with pendErr := none } 0 0 pc []
    else if t.pendGabs then go { t with pendGabs := false } 0 0 pc []
    else go { t with pendFpen := false } 0 0 pc []

/-- A boundary trap ends a speculative window: the team is rolled back, and will resume at the slot after its FENCES (R329, R330). -/
def State.parkWindow (s : State) (u : Nat) : State :=
  let s1 := s.unwind u
  (s1.freeDp u).modTeam u fun t => if t.started then { t.atBoundary s.now with rslot := t.slot } else t

/-- TRAP_ENTRY (R350), for the team named: the trap it has taken at issue, or the first boundary cause that is pending. -/
def execTrapEntry (s : State) : Out :=
  match s.arg with
  | .id u => .next (match s.team? u with
    | none => s
    | some t =>
      if t.issueTrap.isSome then s.enterIssueTrap u
      else match t.boundaryCause with
        | none => s
        | some c =>
          if t.started || !(t.st == .active || t.st == .stalled || t.st == .retiring) then s
          else if t.spec.isSome then s.parkWindow u
          else if s.settled u then s.enterBoundary u t c
          else s)
  | _ => .next s

/-! ### The moves between the sets -/

/-- STALL_THRESHOLD (R57), for the team named: 24 clk on its wait mask, or a wait that is long-latency at once. -/
def execStallThreshold (s : State) : Out :=
  match s.arg with
  | .id u => .next (match s.team? u with
    | some t => if s.stallDue u t then s.setTeam u { t with st := .stalled, stallAt := s.now } else s
    | none => s)
  | _ => .next s

/-- A team enters the active set. (log 42: DEDUCED, safe.) -/
def State.activate (s : State) (u : Nat) : State := s.modTeam u fun t => { t with st := .active, since := s.now, activeSince := s.now, maskAt := none }

/-- A pending team enters the active set in place of a team that leaves it: a Stalled one is then Pending-wait (R58, R59, R61). -/
def State.swap (s : State) (u v : Nat) : State :=
  (s.modTeam v fun w => { w with st := if s.isStalled v w then .pendingWait else .pendingReady, since := s.now }).activate u

/-- TEAM_EXCHANGE (R58, R59, R61), for the pending team named: it becomes Pending-ready when its wait has ended, or enters a free active slot,
or is exchanged for a Stalled team, or displaces one of its `.det` launch. -/
def execTeamExchange (s : State) : Out :=
  match s.arg with
  | .id u => .next (match s.team? u with
    | none => s
    | some t =>
      let c := s.colOf t
      if t.st == .pendingWait then
        (if s.pendingReady u t then s.setTeam u { t with st := .pendingReady, since := s.now } else s)
      else if t.st != .pendingReady || ((s.teamsIn c).any fun e => e.2.st == .pendingWait && s.pendingReady e.1 e.2) then s
      else match s.incoming c == some u, s.outgoing c, s.displaced c u t with
        | true, some v, _ => if (s.activeTeams c).length < 8 then s.activate u else s.swap u v
        | true, none, none => if (s.activeTeams c).length < 8 then s.activate u else s
        | _, _, some v => s.swap u v
        | _, _, none => s)
  | _ => .next s

/-- TIME_SLICE_EXPIRY (R60), for the team named. -/
def execTimeSliceExpiry (s : State) : Out :=
  match s.arg with
  | .id u => .next (match s.team? u with
    | none => s
    | some t =>
      if s.sliceDue u t then s.setTeam u { t with st := .pendingReady, since := s.now } else s)
  | _ => .next s

/-! ### What comes about at once -/

/-- A WAITK whose flags are all clear is over, the user's and the handler's (R128). -/
def State.endWaitks (s : State) (u : Nat) (t : Team) : Team :=
  [t.wait, t.hwait].foldl (fun t w => match w with
    | .waitk fl => if s.masked u fl then t else t.wakeFrom s.now w
    | _ => t) t

/-- A resident team's part in it: how long it has waited on its wait mask (R57); a Stalled team whose wait has ended is Active, a Pending-wait
team whose wait has ended, or which is called, is Pending-ready (R58, R59); a WAITK or a CWAIT whose flags are clear is over (R128, R290); a team whose lanes have all exited is Retiring once its raises are in
and no trap comes first (R58, R242); a restored team that has taken its causes lets its streams run (R364). -/
def State.tidyTeam (s : State) (u : Nat) (t0 : Team) : Team :=
  let t := s.endWaitks u t0
  let waits := !t.started && !s.longWait u t && s.maskWait u t
  let t1 := { t with maskAt := if waits then some (t.maskAt.getD s.now) else none,
                     resuming := t.resuming && (t.priv || t.boundaryCause.isSome),
                     copy := t.copy.map fun x => if s.kstat u &&& x.cwait == 0 then { x with cwait := 0 } else x }
  if (t.st == .active || t.st == .stalled) && t.free && t.live &&& t.all == 0 && !s.raisesOut u then { t1 with st := .retiring }
  else if t.st == .stalled && !t.started && s.couldStart u t then { t1 with st := .active, activeSince := s.now }
  else if t.st == .pendingWait && s.pendingReady u t then { t1 with st := .pendingReady, since := s.now }
  else t1

/-- A free active slot of a column, if there is one, goes to the team that comes in next (R59). -/
def State.fillSlot (s : State) (c : Nat) : State :=
  if (s.activeTeams c).length < 8 then (match s.incoming c with | some u => s.activate u | none => s) else s

/-- Free active slots of a column are filled (R59), and a free datapath goes to a team that was returned into its clause (R97). -/
def State.fillColumn (s : State) (c : Nat) : State :=
  let s1 := (List.range 8).foldl (fun s _ => s.fillSlot c) s
  match (s1.column c).dp, (s1.teamsIn c).find? fun e => e.2.started with
  | none, some e => s1.modCol c fun k => { k with dp := some e.1 }
  | _, _ => s1

/-- What comes about at once, before the next turn. -/
def State.tidy (s : State) : State :=
  if !s.runsTeams then s
  else
    let cs := s.columns.map (·.1)
    let s1 := (cs.flatMap fun c => s.teamsIn c).foldl (fun r e => r.setTeam e.1 (s.tidyTeam e.1 e.2)) s
    let s2 := cs.foldl (fun s c => s.fillColumn c) s1
    let s3 := (cs.flatMap fun c => s2.teamsIn c).foldl (fun s e => s.settleDying e.1) s2
    s3.wgs.foldl (fun s e => s.gbarArrive e.1 e.2) s3

/-! ### Retirement of a team -/

/-- Everything of a Retiring team has drained (R58): no stream runs, no flag's setter is outstanding, no access is outstanding. -/
def State.drained (s : State) (u : Nat) (t : Team) : Bool :=
  let still (st : Option Stream) : Bool := match st with | some x => x.ended && (x.halted || !x.started) | none => true
  still t.copy && still t.mtx && t.forks.isEmpty &&
    s.ops.all fun o => o.team != u || (o.flag.isNone && o.acc.isEmpty && match o.kind with
      | .cancel _ | .lnch _ _ => true
      | _ => false)

/-- TEAM_RETIRE (R58), for the team named. -/
def execTeamRetire (s : State) : Out :=
  match s.arg with
  | .id u => .next (match s.team? u with
    | some t =>
      if t.st == .retiring && !t.called && t.issueTrap.isNone && s.drained u t then
        (s.modTeam u fun t => { t with st := .retired }).releaseMx u
      else s
    | none => s)
  | _ => .next s

end Sys2Proof.Machine
end

