-- ==== Sys2Proof/Machine/Generator.lean ====
section
/-!
DEFINITION. Generator loops and the Vitrine (R244 to R257).
-/

namespace Sys2Proof.Machine

/-- Records that a frame holds. -/
def Vitrine.fill (v : Vitrine) (k : Nat) : Nat := if k = 0 then v.fill0 else v.fill1

/-- Set the number of records of a frame. -/
def Vitrine.setFill (v : Vitrine) (k n : Nat) : Vitrine := if k = 0 then { v with fill0 := n } else { v with fill1 := n }

/-- Scratchpad byte offset of word j of record i of frame f (R246). -/
def Vitrine.wordAt (v : Vitrine) (f i j : Nat) : Nat := v.base + 4 * ((f * v.n + i) * v.d + j)

/-- The first byte of the fetch block that holds an address (R119). -/
def blockBase (a : Addr) : Addr := a &&& ~~~(63 : Word)

/-- The address of the slot that issues. -/
def Team.slotPc (t : Team) : Addr := t.pc + BitVec.ofNat 64 (8 * (t.slot + 1))

/-- A generator instruction outside its phase, or in Handler, raises IINS (R248). -/
def genPhase (ph : Phase) (body : State → Nat → Team → State) (s : State) (u : Nat) (t : Team) : State :=
  if t.priv || t.vit.phase != ph then s.trapAt u .iins else body s u t

/-- The clause ends and the team goes to where the changed team stands. -/
def State.goTo (s : State) (u : Nat) (t : Team) : State := (s.freeDp u).setTeam u ({ t with fell := false }.atBoundary s.now)

/-- Give every lane of a set a resume address (R114). -/
def Team.setRa (t : Team) (m : Lanes) (a : Addr) : Team :=
  { t with ra := (laneList m t.lanes).foldl (fun r l => Store.set r l a) t.ra }

/-- Lanes of lowest number of a set, `n` of them. -/
def lowestLanes (m : Lanes) (n lanes : Nat) : Lanes := lanesOf ((laneList m lanes).take n)

/-- A pass on frame f begins (R253); `next` is NextClause. -/
def Team.beginPass (t : Team) (f : Nat) (drain : Bool) (next : Addr) : Team :=
  let v := t.vit
  let t1 := if v.phase == .producing then t.setRa (t.mask 0 &&& v.pset) next else t
  let pra : Store 64 := if v.phase == .producing then
      (laneList v.pset t.lanes).foldl (fun r l => Store.set r l (Store.get t1.ra l)) [] else v.pra
  let cs := lowestLanes v.gset (v.fill f) t.lanes
  { t1 with vit := { v with cfr := f, phase := .consuming, cset := cs, drain := drain, pra := pra },
            masks := Store.set t1.masks 0 cs, pc := v.cent }

/-- Close the frame that the producer fills, and begin a pass on it (R252). -/
def Team.closeCur (t : Team) (drain : Bool) (next : Addr) : Team :=
  let f := t.vit.cur
  Team.beginPass { t with vit := { t.vit with cur := 1 - f } } f drain next

/-- The loop exits (R245). The Vitrine's other parts keep what the loop left in them, which a context image shows
(R244, R362). (log 74: DESIGN CHOICE, unsafe.) -/
def Team.exitLoop (t : Team) : Team :=
  let t1 := t.setRa t.vit.gset t.vit.xent
  { t1 with vit := { t1.vit with phase := .off } }.select

/-- GEN (R246, R247, R249). (log 80: DESIGN CHOICE, unsafe.) -/
def execGen (f : BForm) (s : State) : Out :=
  s.issue (.gen f) false false fun s u t =>
    genPhase .off (fun s u t =>
      let c := t.scal f.creg.toNat
      let thr := (c.extractLsb' 24 11).toNat
      let base := (c.extractLsb' 0 20).toNat
      let d := (c.extractLsb' 20 3).toNat + 1
      let m := t.mask 0 &&& t.all
      let n := (laneList m t.lanes).length
      if c.getLsbD 23 || c.extractLsb' 35 29 != 0 || thr == 0 || decide (1024 < thr) then s.trapAt u .iins
      else if base % 256 ≠ 0 ∨ s.spadSize t.wg < base + 8 * n * d then
        (s.modTeam u fun t => t.elog s.now .T 0 .mbnd (BitVec.ofNat 64 base) t.slot s.seq).trapAt u .mbnd
      else
        let b := blockBase t.slotPc
        let off (x : BitVec 16) : Addr := b + (x.signExtend 64) * 64
        let v : Vitrine :=
          { phase := .producing, gset := m, pset := m, cset := 0, n := n, t := min thr n, d := d, base := base,
            cent := off (f.imm.extractLsb' 16 16), xent := off (f.imm.extractLsb' 0 16), cur := 0, fill0 := 0, fill1 := 0, cfr := 0,
            drain := false, pass := 0, pra := [] }
        (s.setTeam u { t with vit := v }).done u) s u t

/-- The registers that a record of D words names are below the team's count (R247). -/
def Team.recordOk (t : Team) (n : Nat) : Bool := decide (n + t.vit.d ≤ t.nv)

/-- The switch check at the end of a YIELD or GSW clause (R252): a pass begins when the frame holds at least `least` records. -/
def State.switchCheck (s : State) (u least : Nat) : State :=
  match s.team? u with
  | none => s
  | some t =>
    if least ≤ t.vit.fill t.vit.cur then { (s.goTo u (t.closeCur false (s.nextClause t))) with seq := s.seq + 1 }
    else s.done u

/-- One record appended (R250): the frame and place that it goes to, and the Vitrine afterwards. -/
def Vitrine.append (v : Vitrine) (k : Nat) : Nat × Nat × Vitrine :=
  let k1 := if v.fill k = v.n then 1 - k else k
  (k1, v.fill k1, v.setFill k1 (v.fill k1 + 1))

/-- YIELD (R250, R252): the records are T-path stores; the clause's end makes the switch check. (log 26: DEDUCED, unsafe.) -/
def execYield (f : VForm) (s : State) : Out :=
  s.issue (.yield f) f.se f.fs fun s u t =>
    genPhase .producing (fun s u t =>
      let a := f.a.toNat
      if !t.recordOk a then s.trapAt u .iins
      else if (List.range t.vit.d).any fun j => s.pendingDest u (.v (a + j)) then s.hazard u
      else
        let k := t.vit.cur
        let r := (t.active f.m).foldl (fun (acc : Nat × Vitrine × List Access) l =>
          let p := acc.2.1.append acc.1
          let ws := (List.range t.vit.d).map fun j =>
            ({ el := l * 8 + j, lane := l, path := .T, space := .spad t.wg, addr := BitVec.ofNat 64 (t.vit.wordAt p.1 p.2.1 j), size := 4,
               act := .write (bytesOfNat (t.elem (a + j) l).toNat 4), land := .none, lower := false, halves := [] } : Access)
          (p.1, p.2.2, acc.2.2 ++ ws)) (k, t.vit, [])
        let s1 := (s.setTeam u { t with vit := r.2.1 }).addOp u .yield fun o =>
          { o with flag := selFlag t.hdr f.se f.fs, acc := r.2.2, slot := t.slot }
        s1.switchCheck u t.vit.t) s u t

/-- GSW (R252). -/
def execGsw (s : State) : Out :=
  s.issue .gsw false false fun s u t => genPhase .producing (fun s u _ => s.switchCheck u 1) s u t

/-- GDONE (R251, R252). -/
def execGdone (f : VForm) (s : State) : Out :=
  s.issue (.gdone f) false false fun s u t =>
    genPhase .producing (fun s u t =>
      let next := s.nextClause t
      let act := t.activeSet f.m
      let t1 := t.setRa (t.mask 0 &&& t.all &&& ~~~act) next
      let t2 := { t1 with masks := Store.set t1.masks 0 0, vit := { t1.vit with pset := t1.vit.pset &&& ~~~act } }
      let s1 := { s with seq := s.seq + 1 }
      if t2.vit.pset != 0 then s1.transfer u t2
      else if 1 ≤ t2.vit.fill t2.vit.cur then s1.goTo u (t2.closeCur true next)
      else s1.goTo u t2.exitLoop) s u t

/-- GCON (R252, R255). -/
def execGcon (f : BForm) (s : State) : Out :=
  s.issue (.gcon f) false false fun s u t =>
    genPhase .consuming (fun s u t =>
      let next := s.nextClause t
      let act := t.activeSet f.m
      let t1 := t.setRa (t.mask 0 &&& t.all &&& ~~~act) next
      let v1 : Vitrine := { t1.vit with cset := t1.vit.cset &&& ~~~act }
      let t2 : Team := { t1 with masks := Store.set t1.masks 0 0, vit := v1 }
      let s1 := { s with seq := s.seq + 1 }
      if v1.cset != 0 then s1.transfer u t2
      else
        let v2 : Vitrine := { v1.setFill v1.cfr 0 with pass := v1.pass + 1 }
        let t3 : Team := { t2 with vit := v2 }
        let other := 1 - v2.cfr
        if v2.pset != 0 then
          (if v2.t ≤ v2.fill other then s1.goTo u (t3.beginPass other false next)
          else
            let t4 := (laneList v2.pset t.lanes).foldl (fun (t : Team) l => { t with ra := Store.set t.ra l (Store.get v2.pra l) }) t3
            s1.transfer u { t4 with vit := { v2 with cur := other, phase := .producing } })
        else if 1 ≤ v2.fill other then s1.goTo u (t3.beginPass other true next)
        else s1.goTo u t3.exitLoop) s u t

/-- The rank of a lane in a set (R253). -/
def rankIn (m : Lanes) (l : Nat) : Nat := (laneList m l).length

/-- GFR, the record form (R254). (log 26: DEDUCED, unsafe.) -/
def execGfr (f : VForm) (s : State) : Out :=
  s.issue (.gfr f) f.se f.fs fun s u t =>
    genPhase .consuming (fun s u t =>
      let d := f.d.toNat
      if !t.recordOk d then s.trapAt u .iins
      else
        let acc := (t.active 0).flatMap fun l =>
          (List.range t.vit.d).map fun j =>
            ({ el := l * 8 + j, lane := l, path := .T, space := .spad t.wg,
               addr := BitVec.ofNat 64 (t.vit.wordAt t.vit.cfr (rankIn t.vit.gset l) j), size := 4, act := .read,
               land := .vreg (d + j) .n32 1, lower := false, halves := [] } : Access)
        s.addAccesses u t f.se f.fs (destsK d t.vit.d) acc false) s u t

/-- GFR.info (R254). -/
def execGfrInfo (f : VForm) (s : State) : Out :=
  s.issue (.gfrInfo f) false false fun s u t =>
    genPhase .consuming (fun s u t =>
      let v := t.vit
      let x := v.pass.toNat + 2 ^ 32 * v.fill v.cfr + 2 ^ 48 * (if v.drain then 1 else 0) + 2 ^ 49 * v.cfr
      s.emit u t false false [.s f.d.toNat] [.s f.d.toNat (BitVec.ofNat 64 x)] 0 false) s u t

end Sys2Proof.Machine
end

