-- ==== Sys2Proof/Machine/Control.lean ====
section
/-!
DEFINITION. Control flow and thread frontiers (R114 to R123), and the synchronisation and work instructions (R124 to R136).
-/

namespace Sys2Proof.Machine

/-! ### Branches, calls, exit and kill -/

/-- The target of a relative branch (R102, R120). -/
def relTarget (t : Team) (imm : BitVec 32) : Addr := blockBase t.slotPc + (imm.signExtend 64) * 64

/-- A branch (R120): the taken lanes go to their targets, the other running lanes to NextClause; CALL writes the link pair. -/
def branch (i : Instr) (m : BitVec 4) (taken : Team → Bool) (target : Team → Nat → Addr) (link : Option Nat) (s : State) : Out :=
  s.issue i false false fun s u t =>
    let tk := if taken t then t.activeSet m else 0
    let ls := laneList tk t.lanes
    if ls.any fun l => (target t l).extractLsb' 0 6 != 0 then s.trapAt u .ialn
    else
      let next := s.nextClause t
      let t1 := t.setRa (t.mask 0 &&& t.all &&& ~~~tk) next
      let t2 : Team := { t1 with ra := ls.foldl (fun r l => Store.set r l (target t l)) t1.ra, masks := Store.set t1.masks 0 0 }
      match link with
      | none => ({ s with seq := s.seq + 1 }).transfer u t2
      | some n =>
        (s.addOp u .alu fun o =>
          { o with dests := [.v n, .v (n + 1)], writes := ls.flatMap fun l => putPat .n64 n l next, slot := t.slot }).transfer u t2

/-- The pair of a branch-format word (R119). -/
def branchPair (f : BForm) : Nat := 2 * f.creg.toNat

/-- BRA (R120). -/
def execBra (f : BForm) (s : State) : Out := branch (.bra f) f.m (fun _ => true) (fun t _ => relTarget t f.imm) none s

/-- The conditions of BRAC (R121). -/
def bracCond (cond : Nat) (x : Word) : Bool :=
  match cond with
  | 0 => decide (x.toInt = 0)
  | 1 => decide (x.toInt ≠ 0)
  | 2 => decide (x.toInt < 0)
  | 3 => decide (0 ≤ x.toInt)
  | 4 => decide (0 < x.toInt)
  | _ => decide (x.toInt ≤ 0)

/-- BRAC (R120, R121). -/
def execBrac (f : BForm) (s : State) : Out :=
  branch (.brac f) f.m (fun t => bracCond f.cond.toNat (t.scal f.creg.toNat)) (fun t _ => relTarget t f.imm) none s

/-- BRAV (R120). -/
def execBrav (f : BForm) (s : State) : Out := branch (.brav f) f.m (fun _ => true) (fun t l => t.pat .n64 (branchPair f) l) none s

/-- CALL, relative (R120). -/
def execCall (f : BForm) (s : State) : Out :=
  branch (.call f) f.m (fun _ => true) (fun t _ => relTarget t f.imm) (some (branchPair f)) s

/-- CALL, register (R120). -/
def execCallReg (f : BForm) (s : State) : Out :=
  branch (.callReg f) f.m (fun _ => true) (fun t _ => t.scal (f.imm.extractLsb' 0 7).toNat) (some (branchPair f)) s

/-- RET (R120). -/
def execRet (f : BForm) (s : State) : Out := branch (.ret f) f.m (fun _ => true) (fun t l => t.pat .n64 (branchPair f) l) none s

/-- EXIT (R122): IINS in a generator loop (R248) and in Handler (R353). -/
def execExit (f : BForm) (s : State) : Out :=
  s.issue (.exit f) false false fun s u t =>
    genPhase .off (fun s u t =>
      let act := t.activeSet f.m
      let t1 := t.setRa (t.mask 0 &&& t.all &&& ~~~act) (s.nextClause t)
      (({ s with seq := s.seq + 1 }).transfer u { t1 with live := t1.live &&& ~~~act, masks := Store.set t1.masks 0 0 }).lastExit u) s u t

/-- KILL (R122). -/
def execKill (s : State) : Out := s.issue .kill false false fun s u _ => { s.killTeam u with seq := s.seq + 1 }

/-! ### Flags, NOP, YLD -/

/-- SETK (R128). -/
def execSetk (f : VForm) (s : State) : Out :=
  s.issue (.setk f) false false fun s u _ => (s.modTeam u fun t => { t with holds := t.holds ||| Fields.flagSet f }).done u

/-- CLRK (R128). -/
def execClrk (f : VForm) (s : State) : Out :=
  s.issue (.clrk f) false false fun s u _ => (s.modTeam u fun t => { t with holds := t.holds &&& ~~~Fields.flagSet f }).done u

/-- WAITK (R128): it completes at once when no named flag is set. -/
def execWaitk (f : VForm) (s : State) : Out :=
  s.issue (.waitk f) false false fun s u _ =>
    if s.masked u (Fields.flagSet f) then (s.modTeam u fun t => t.waitFor (.waitk (Fields.flagSet f))).done u else s.done u

/-- A wait of flags whose flags are clear ends (R128). -/
def State.endWaitk (s : State) (u : Nat) (w : Wait) : State :=
  match w with
  | .waitk fl => if s.masked u fl then s else s.modTeam u fun t => t.wakeFrom s.now w
  | _ => s

/-- WAITK_COMPLETE (R128), for the team named. -/
def execWaitkComplete (s : State) : Out :=
  match s.arg with
  | .id u => .next (match s.team? u with
    | some t => s.endWaitk u (if t.priv && t.hwait != .none then t.hwait else t.wait)
    | none => s)
  | _ => .next s

/-- NOP (R129): a selected flag is set and clears in the clk of issue. -/
def nopOf (i : Instr) (se fs : Bool) (s : State) : Out := s.issue i se fs fun s u _ => s.done u

/-- NOP with no flag (R129). -/
def execNop (s : State) : Out := nopOf .nop false false s

/-- NOP with the set-A flag (R129). -/
def execNopSet0 (s : State) : Out := nopOf .nopSet0 true false s

/-- NOP with the set-B flag (R129). -/
def execNopSet1 (s : State) : Out := nopOf .nopSet1 true true s

/-- YLD (R129): the team becomes Pending-ready at the end of its clause when some team of the column is Pending-ready; a team in Handler
stays in its slot, and so does one for which a trap is due, which comes first (R58). (log 39: DEDUCED, unsafe.) -/
def execYld (s : State) : Out :=
  s.issue .yld false false fun s u t =>
    let s1 := s.done u
    if t.st == .active && t.boundaryCause.isNone && (s.teamsIn (s.colOf t)).any fun e => s.pendingReady e.1 e.2 then
      s1.modTeam u fun t => { t with st := .pendingReady, since := s.now }
    else s1

/-! ### BAR -/

/-- The workgroup barrier may open (R126): every team has arrived, and the T-path accesses before it are performed at wg scope. (log 37: DEDUCED, safe.) -/
def State.barReady (s : State) (g : Workgroup) : Bool :=
  g.teams.all fun u => match s.team? u with
    | some t => (t.barArr || t.st == .retiring || t.st == .retired) && s.performedAt u .T s.seq 1 false
    | none => true

/-- The workgroup barrier opens (R126). (log 37: DEDUCED, safe.) -/
def State.openBar (s : State) (g : Workgroup) : State :=
  g.teams.foldl (fun s u => s.modTeam u fun t => if t.barArr then ({ t with barArr := false } : Team).wakeFrom s.now .bar else t) s

/-- BAR (R126): a second arrival before the barrier opens raises IINS. -/
def execBar (s : State) : Out :=
  s.issue .bar false false fun s u t =>
    if t.barArr then s.trapAt u .iins
    else
      let s1 := (s.setTeam u (({ t with barArr := true } : Team).waitFor .bar)).done u
      match s1.wg? t.wg with
      | some g => if g.teams.length = 1 && s1.barReady g then s1.openBar g else s1
      | none => s1

/-- BAR_OPEN (R126), for the workgroup named. -/
def execBarOpen (s : State) : Out :=
  match s.arg with
  | .id w => .next (match s.wg? w with
    | some g => if s.barReady g then s.openBar g else s
    | none => s)
  | _ => .next s

/-! ### FORK -/

/-- A team takes the start of a pending FORK of a class, if its stream may start (R78, R130). -/
def State.tryFork (s : State) (u : Nat) (mtx : Bool) : State :=
  match s.team? u with
  | none => s
  | some t =>
    if (t.pendFork mtx).isNone || Stream.running (t.stream mtx) then s
    else if !mtx then s.setTeam u (t.startFork false)
    else if (s.column (s.colOf t)).mxHolder = some u then s.setTeam u (t.startFork true)
    else s.grantMx (s.colOf t)

/-- FORK (R22, R78, R130): it interlocks on every pending scalar (R151). -/
def fork (i : Instr) (mtx : Bool) (target : Team → Addr) (s : State) : Out :=
  s.issue i false false fun s u t =>
    if s.ops.any fun o => o.team == u && o.dests.any fun d => match d with | .s _ => true | _ => false then s.hazard u
    else if (target t).extractLsb' 0 6 != 0 then s.trapAt u .ialn
    else if (t.pendFork mtx).isSome then s.trapAt u .iins
    else
      let pf : PendFork := { mtx := mtx, target := target t, snap := t.sregs, seq := s.seq, sup := t.priv }
      ((s.setTeam u { t with forks := t.forks ++ [pf] }).tryFork u mtx).done u

/-- FORK.copy (R130). -/
def execForkCopy (f : BForm) (s : State) : Out := fork (.forkCopy f) false (fun t => relTarget t f.imm) s

/-- FORK.matrix (R78, R130). -/
def execForkMatrix (f : BForm) (s : State) : Out := fork (.forkMatrix f) true (fun t => relTarget t f.imm) s

/-- FORK, register form (R119, R130). -/
def execForkReg (f : BForm) (s : State) : Out :=
  fork (.forkReg f) (f.cond == 10) (fun t => t.scal (f.imm.extractLsb' 0 7).toNat) s

/-- PENDING_FORK_START (R78, R130), for the FORK named. -/
def execPendingForkStart (s : State) : Out :=
  match s.arg with
  | .fork u mtx => .next (s.tryFork u mtx)
  | _ => .next s

/-! ### ITER -/

/-- ITER (R132). -/
def execIter (f : VForm) (s : State) : Out :=
  s.issue (.iter f) f.se f.fs fun s u t =>
    let d := f.d.toNat
    (s.addOp u (.iter d) fun o =>
      { o with flag := selFlag t.hdr f.se f.fs, dests := [.s d, .s (d + 1), .s (d + 2), .s (d + 3)], slot := t.slot }).advance u

/-- The iterations of workgroup w of W: the start of its range (R71). -/
def iterStart (w W T : Nat) : Nat := w * T / W

/-- The piece at iteration i of a range that ends at `e` (R71, R72): tile, k-begin, k-count, fix-up code. -/
def iterPiece (q i e : Nat) : Nat × Nat × Nat × Nat :=
  let k := i % q
  let n := min (q - k) (e - i)
  (i / q, k, n, if n = q then 0 else if k = 0 then 2 else 1)

/-- ITER_ANSWER (R71, R72, R401), for the ITER named: those of a workgroup are answered in issue order. The k-begin and the fix-up code of the
exhausted form are free values, on which nothing but the launch and the team has a bearing (R343). (log 38: DESIGN CHOICE, unsafe.) -/
def execIterAnswer (s : State) : Out :=
  match s.arg with
  | .id n => .next (match s.op? n with
    | none => s
    | some o =>
      match o.kind, s.team? o.team with
      | .iter d, some t =>
        let first := !(s.ops.any fun p => decide (p.seq < o.seq) && (match p.kind with | .iter _ => true | _ => false) &&
          match s.team? p.team with | some v => v.wg == t.wg | none => false)
        match first, s.wg? t.wg, s.launchOf t.wg with
        | true, some g, some l =>
          let i := iterStart g.idx l.g (l.p * l.q) + g.iterPos
          let e := iterStart (g.idx + 1) l.g (l.p * l.q)
          if l.p ≠ 0 ∧ i < e then
            let r := iterPiece l.q i e
            (s.modWg t.wg fun g => { g with iterPos := g.iterPos + r.2.2.1 }).completeOp
              { o with writes := [.s d (BitVec.ofNat 64 r.1), .s (d + 1) (BitVec.ofNat 64 r.2.1), .s (d + 2) (BitVec.ofNat 64 r.2.2.1),
                                  .s (d + 3) (BitVec.ofNat 64 r.2.2.2)] }
          else
            s.completeOp
              { o with writes := [.s d 0xFFFFFFFF, .s (d + 1) (Config.freeWord l.seed g.idx t.twg 1), .s (d + 2) 0,
                                  .s (d + 3) (Config.freeWord l.seed g.idx t.twg 3)] }
        | _, _, _ => s
      | _, _ => s)
  | _ => .next s

/-! ### LNCH, CNTW, CANCEL -/

/-- LNCH (R134): the launch record is read on path T as a load. (log 40: DEDUCED, unsafe.) -/
def execLnch (f : VForm) (s : State) : Out :=
  s.issue (.lnch f) f.se f.fs fun s u t =>
    let a := t.scal f.a.toNat
    let acc := [s.sliceAcc u t a 0 64 .read (.data 0)]
    match s.preciseOf u acc with
    | some e => s.preciseFault u e.1 e.2.1 e.2.2
    | none =>
      (s.addOp u (.lnch f.d.toNat false) fun o =>
        { o with flag := selFlag t.hdr f.se f.fs, dests := [.s f.d.toNat], acc := acc, addr := a, slot := t.slot }).advance u

/-- CNTW, wait form (R135). -/
def execCntw (f : VForm) (s : State) : Out :=
  s.issue (.cntw f) false false fun s u t =>
    let d := f.d.toNat
    let h := t.scal f.a.toNat
    let st := s.statusOf (s.ctxOf t) h
    if st.getLsbD 2 then s.emit u t false false [.s d] [.s d st] 0 false
    else ((s.setTeam u (t.waitFor (.cntw s.nextId))).addOp u (.cntw d h) fun o => { o with dests := [.s d], slot := t.slot }).advance u

/-- CNTW.q (R135). -/
def execCntwQuery (f : VForm) (s : State) : Out :=
  s.issue (.cntwQuery f) false false fun s u t =>
    s.emit u t false false [.s f.d.toNat] [.s f.d.toNat (s.statusOf (s.ctxOf t) (t.scal f.a.toNat))] 0 false

/-- CANCEL (R136, R391): the request enters the intake FIFO, or waits in the column; a team whose own workgroup lies beneath the unit takes
CNCL. (log 40: DEDUCED, unsafe.) -/
def execCancel (f : VForm) (s : State) : Out :=
  s.issue (.cancel f) false false fun s u t =>
    let h := t.scal f.a.toNat
    let x := s.ctxOf t
    let own := match s.handleUnit x h with
      | some k => (match s.unit? k with | some c => !c.done && !c.dropped && s.holdsWg k t.wg | none => false)
      | none => false
    let s1 := if own then s.setTeam u (t.postCncl s.now) else s
    if s.intakeFull || s.unsent u s.seq then (s1.addOp u (.cancel h) fun o => { o with slot := t.slot }).advance u
    else (s1.enterIntake (s.colOf t) (.cancel x h)).done u

/-- A LNCH whose record is read, or a CANCEL that found the FIFO full, enters the intake FIFO (R134, R391); a LNCH whose read failed writes the
null handle. -/
def State.sendIntake (s : State) (o : Op) : State :=
  let x := match s.team? o.team with | some t => s.ctxOf t | none => 0
  let col := match s.team? o.team with | some t => s.colOf t | none => 0
  if s.unsent o.team o.seq then s
  else match o.kind with
    | .lnch d false =>
      if o.errLanes != 0 then s.completeOp { o with writes := [.s d 0] }
      else if s.intakeFull then s
      else
        let ws := (List.range 8).map fun k => (BitVec.ofNat 64 (natOfBytes (Memory.bytes o.data (8 * k) 8)) : Word)
        (s.enterIntake col (.record x (some o.id) ws none)).setOp { o with kind := .lnch d true }
    | .cancel h => if s.intakeFull then s else (s.enterIntake col (.cancel x h)).delOp o.id
    | _ => s

/-- The wait form of CNTW completes when its unit is complete (R135). -/
def State.endCntw (s : State) (o : Op) (d : Nat) (h : Word) : State :=
  match s.team? o.team with
  | none => s.delOp o.id
  | some t =>
    let st := s.statusOf (s.ctxOf t) h
    if st.getLsbD 2 then s.completeWait { o with writes := [.s d st] } (.cntw o.id) else s

end Sys2Proof.Machine
end

