-- ==== Sys2Proof/Machine/Engine.lean ====
section
/-!
DEFINITION. The frame in which an engine stream's command issues (R99, R108, R277, R278, R301), the end of a stream (R277, R307), and RDV
(R131, R289).
-/

namespace Sys2Proof.Machine

/-- The checks that a stream makes of a command before it issues (R278, R301). -/
def Stream.admits (x : Stream) (t : Team) (i : Instr) (mtx se fs : Bool) : Bool :=
  let r := i.rule
  r.cls == (if mtx then .matrix else .copy) && r.ok && (!r.last || x.slot == hdrCount x.hdr) &&
    (r.uses.all fun y => useOk t.nv t.ns y) && (!se || (hdrFlag x.hdr fs).isSome)

/-- `k` slots of a stream's clause have issued: the next slot, or the end of the clause, at which a killed stream halts (R122). -/
def State.advanceEng (s : State) (u : Nat) (mtx : Bool) (k : Nat) : State :=
  s.modTeam u fun t =>
    t.setStream mtx ((t.stream mtx).map fun x =>
      if hdrCount x.hdr < x.slot + k then
        { x with pc := x.pc + BitVec.ofNat 64 (8 * (hdrCount x.hdr + 2)), slot := 0, started := false, halted := x.halted || x.ended }
      else { x with slot := x.slot + k })

/-- A command of an engine stream issues. Issued by any other agent, the word raises IINS there (R108). -/
def State.issueEng (s : State) (mtx : Bool) (i : Instr) (se fs : Bool) (body : State → Nat → Team → Stream → State) : Out :=
  let go (u : Nat) : Out :=
    match s.team? u with
    | none => .next s
    | some t =>
      match t.stream mtx with
      | none => .next s
      | some x =>
        if !x.started || x.halted || x.stopped then .next s
        else if !x.admits t i mtx se fs then .next (s.haltStream u mtx .iins x.pc x.slot 0)
        else .next (body s u t x)
  match s.cur, mtx with
  | .copy u, false => go u
  | .matrix u, true => go u
  | _, _ => s.issue i se fs fun s _ _ => s

/-- Add an operation of a stream's command: its flag is the clause's, its address the clause's (R101). -/
def State.addEng (s : State) (u : Nat) (x : Stream) (se fs : Bool) (k : OpKind) : State :=
  s.addOp u k fun o => { o with flag := selFlag x.hdr se fs, addr := x.pc, slot := x.slot }

/-- A stream that issues nothing more has ended once its commands have completed (R277, R307); a matrix stream also waits for the follow-ons
that are queued (R307). -/
def State.endStream (s : State) (u : Nat) (mtx : Bool) : State :=
  match s.team? u with
  | none => s
  | some t =>
    match t.stream mtx with
    | none => s
    | some x =>
      let col := s.column (s.colOf t)
      let busy := s.ops.any (fun o => o.by_ (if mtx then .matrix u else .copy u)) ||
        (mtx && col.mxHolder == some u && (col.mx.busy.isSome || !col.mx.follow.isEmpty))
      if x.halted && !x.ended && !busy then s.setTeam u (t.setStream mtx (some { x with ended := true })) else s

/-- STREAM_END (R277), for the stream named. -/
def execStreamEnd (s : State) : Out :=
  match s.arg with
  | .agent (.copy u) => .next (s.endStream u false)
  | .agent (.matrix u) => .next (s.endStream u true)
  | _ => .next s

/-! ### RDV -/

/-- The streams of a class that the team has forked have ended (R131); for the matrix class R289 adds the follow-ons and the FIFO-destined
commands, and R80 the wait for a restored unit. -/
def State.classEnded (s : State) (u : Nat) (t : Team) (mtx : Bool) : Bool :=
  (t.pendFork mtx).isNone && !Stream.running (t.stream mtx) &&
    (!mtx ||
      (let col := s.column (s.colOf t)
       !col.mxWaiters.contains u && (col.mxHolder != some u || (col.mx.busy.isNone && col.mx.follow.isEmpty)) &&
         !(s.ops.any fun o => o.team == u && match o.kind with
            | .cmx _ _ _ _ => true
            | .copy c => c.dst.kind == 2
            | _ => false)))

/-- RDV of a class set (0 all, 1 copy, 2 matrix) is complete (R131, R289). -/
def State.rdvReady (s : State) (u cls : Nat) : Bool :=
  match s.team? u with
  | some t => (cls == 2 || s.classEnded u t false) && (cls == 1 || s.classEnded u t true)
  | none => false

/-- RDV completes: one that covers the matrix class releases the unit (R78, R131). -/
def State.endRdv (s : State) (u cls : Nat) : State :=
  let s1 := s.modTeam u fun t => t.wakeFrom s.now (.rdv cls)
  if cls = 1 then s1 else s1.releaseMx u

/-- RDV (R131). -/
def execRdv (f : VForm) (s : State) : Out :=
  s.issue (.rdv f) false false fun s u _ =>
    let cls := f.sub.toNat
    if s.rdvReady u cls then (s.endRdv u cls).done u else (s.modTeam u fun t => t.waitFor (.rdv cls)).done u

/-- RDV_COMPLETE (R131, R289), for the team named. -/
def execRdvComplete (s : State) : Out :=
  match s.arg with
  | .id u => .next (match s.team? u with
    | some t => (match (if t.priv && t.hwait != .none then t.hwait else t.wait) with
      | .rdv cls => if s.rdvReady u cls then s.endRdv u cls else s
      | _ => s)
    | none => s)
  | _ => .next s

end Sys2Proof.Machine
end

