-- ==== Sys2Proof/Machine/Copy.lean ====
section
/-!
DEFINITION. The copy engine (R277 to R292): data commands element by element, the FIFOs, merged multicast reads, follow-ons, signals.
-/

namespace Sys2Proof.Machine

/-! ### Operands -/

/-- The operand that a kind, an operand field and a signed offset in elements name, read from a stream's snapshot (R279); its address, or scratchpad
offset, wraps at 64 bits. (log 36: DESIGN CHOICE, unsafe.) -/
def cpOperandOf (snap : Store 64) (kind n : Nat) (off : Int) (w : Nat) : CpOperand :=
  let a := Store.get snap n
  let d : Word := BitVec.ofInt 64 (off * (w : Int))
  match kind with
  | 2 => { kind := 2, base := 0, route := 0, fifo := n }
  | 3 => { kind := 3, base := farAddr a d, route := Store.get snap (n + 1), fifo := 0 }
  | k => { kind := k, base := a + d, route := 0, fifo := 0 }

/-- The address of element i of an operand (R279). -/
def CpOperand.elemAddr (p : CpOperand) (i w : Nat) : Addr :=
  if p.kind = 3 then farAddr p.base (BitVec.ofNat 64 (i * w)) else p.base + BitVec.ofNat 64 (i * w)

/-- Where an operand's accesses go (R197, R198, R204). -/
def State.cpSpace (s : State) (u : Nat) (p : CpOperand) (a : Addr) : Space :=
  match s.team? u with
  | none => .nowhere .mnul
  | some t =>
    if p.kind = 1 then .spad t.wg
    else if p.kind = 3 then s.farSpace (s.ctxOf t) a p.route
    else sliceOf (s.ctxOf t) (s.colOf t) u a

/-- The access of one element on path C. -/
def State.cpAccess (s : State) (u : Nat) (p : CpOperand) (a : Addr) (i w : Nat) (act : Act) : Access :=
  { el := i, lane := 0, path := .C, space := s.cpSpace u p a, addr := a, size := w, act := act, land := .none, lower := false, halves := [] }

/-- The checks of one element's access: a local operand meets precise faults (R282), a far one none (R370). -/
def State.cpCheck (s : State) (u : Nat) (p : CpOperand) (a : Access) : Chk :=
  s.checkAccess u { a with path := if p.kind = 3 then .F else .T }

/-! ### Range checks (R281) -/

/-- The number of a check of R199 by its cause. -/
def checkNo : Cause → Nat
  | .mnul => 1
  | .mprm => 2
  | .maln => 3
  | .mbnd => 4
  | _ => 5

/-- The first failing check of a contiguous range in a slice, n elements of width w at the addresses that `elem` gives, and the address that is
charged (R5, R281). -/
def State.sliceRange (s : State) (x col v : Nat) (elem : Nat → Addr) (n w : Nat) (write : Bool) : Option (Cause × Addr) :=
  let first := elem 0
  match s.obj? x (objId first) col with
  | none => some (.mnul, first)
  | some o =>
    let off := offOf first
    let last := min (off + n * w) o.bound
    let pages := if off < last then (List.range ((last - 1) / Config.pageBytes - off / Config.pageBytes + 1)).map (· + off / Config.pageBytes)
      else []
    let pte (q : Nat) : Pte := s.pte (pageRef x (objId first) v col (q * Config.pageBytes) false) o
    let at_ (q : Nat) : Addr := elem ((q * Config.pageBytes - off) / w)
    if (write && !o.w) || o.split || pages.any fun q => (pte q).p && ((write && !(pte q).w) || (pte q).x) then some (.mprm, first)
    else if first.toNat % w ≠ 0 then some (.maln, first)
    else match pages.find? fun q => s.pastFitted (pte q) with
      | some q => some (.mbnd, at_ q)
      | none =>
        if o.bound < off + n * w then some (.mbnd, elem ((o.bound - off) / w))
        else (pages.find? fun q => (pte q).col != col).map fun q => (.mcol, at_ q)

/-- The first failing check of a contiguous operand, and the address that is charged; on another device the check is made there (R281). -/
def State.rangeFail (s : State) (u : Nat) (p : CpOperand) (n w : Nat) (write : Bool) : Option (Cause × Addr) :=
  let first := p.elemAddr 0 w
  match s.cpSpace u p first with
  | .nowhere c => some (c, first)
  | .remote _ _ _ => none
  | .spad g =>
    if first.toNat % w ≠ 0 then some (.maln, first)
    else if s.spadSize g < first.toNat + n * w then some (.mbnd, p.elemAddr ((s.spadSize g - first.toNat) / w) w)
    else none
  | .slice x col v => s.sliceRange x col v (fun i => p.elemAddr i w) n w write

/-- The index list as an operand (R281). -/
def CopyCmd.indexOp (c : CopyCmd) : CpOperand := { kind := 0, base := c.index, route := 0, fifo := 0 }

/-- The contiguous operands of a command in the order in which they are charged: rank, operand, width of an element, whether it is written (R281). -/
def CopyCmd.operands (c : CopyCmd) : List (Nat × CpOperand × Nat × Bool) :=
  (if c.cop == .cpyg || c.cop == .cpys then [(0, c.indexOp, 4, false)] else []) ++
    (if c.cop == .cpyg then [] else [(1, c.src, c.w, false)]) ++
    if c.cop == .cpys || c.dst.kind == 2 then [] else [(2, c.dst, c.w, true)]

/-- The checks of a command's operands that fail on this device. (log 43: DESIGN CHOICE, safe.) -/
def State.cpRange (s : State) (u : Nat) (c : CopyCmd) : List (Nat × Cause × Addr) :=
  c.operands.filterMap fun e => (s.rangeFail u e.2.1 c.n e.2.2.1 e.2.2.2).map fun r => (e.1, r)

/-- The operands of a command that lie on another device. -/
def State.cpFar (s : State) (u : Nat) (c : CopyCmd) : List (Nat × CpOperand × Nat × Bool) :=
  c.operands.filter fun e => (s.cpSpace u e.2.1 (e.2.1.elemAddr 0 e.2.2.1)).isRemote

/-- The failing check that is charged (R281): the lowest number, then the index list, the source, the destination. -/
def cpVerdict (bad : List (Nat × Cause × Addr)) : Option (Cause × Addr) := (leastBy (fun e => checkNo e.2.1 * 4 + e.1) bad).map (·.2)

/-- A command that has failed a range check moves nothing; a FIFO gets zeros (R281). -/
def CopyCmd.reject (c : CopyCmd) : CopyCmd :=
  { c with left := [], failed := List.range c.n,
           got := if c.dst.kind = 2 then (List.range c.n).map fun i => (i, 0, List.replicate c.w (0 : Byte)) else [] }

/-- The range checks of a command are in, or one more answer is awaited (R281). -/
def State.cpJudge (s : State) (o : Op) (c : CopyCmd) : State :=
  match c.ask, cpVerdict c.bad with
  | 0, some e => (s.giveErr o.team .C 0 e.1 e.2 o.slot o.seq).setOp { o with kind := .copy c.reject }
  | _, _ => s.setOp { o with kind := .copy c }

/-- Another device is asked for the checks of an operand's whole range (R281). -/
def State.askRange (s : State) (o : Op) (c : CopyCmd) (e : Nat × CpOperand × Nat × Bool) : State :=
  let acc := s.cpAccess o.team e.2.1 (e.2.1.elemAddr 0 e.2.2.1) e.1 e.2.2.1 (if e.2.2.2 then .write [] else .read)
  s.fresh.sendRemote { acc.toBuf o s.nextId false with num := c.n, probe := true }

/-! ### Issue -/

/-- The command of a data command's word, with the registers that its stream's snapshot gives it (R278 to R280). -/
def cpCommand (cop : COp) (f : CForm) (snap : Store 64) : CopyCmd :=
  let w := f.ty.bytes
  let n := if f.cf then (Store.get snap f.cnt.toNat).toNat else f.cnt.toNat + 1
  let soff : Int := if cop == .cpyg || cop == .cpym then 0 else f.soff.toInt
  let doff : Int := if cop == .cpys then 0 else f.doff.toInt
  let index := match cop with
    | .cpyg => Store.get snap f.soff.toNat
    | .cpys => Store.get snap f.doff.toNat
    | _ => 0
  { cop := cop, ty := f.ty, hint := f.hint, n := n, w := w, src := cpOperandOf snap f.sk.toNat f.sop.toNat soff w,
    dst := cpOperandOf snap f.dk.toNat f.dop.toNat doff w, index := index, mask := if cop == .cpym then Store.get snap f.soff.toNat else 0,
    left := List.range n, got := [], landed := 0, failed := [], stopped := none, arrived := false, reserved := false, staged := false, ask := 0, bad := [],
    dests := [] }

/-- A command of more than 2^24 elements, or a CPYM whose bytes exceed its FIFO, moves nothing (R281, R312). -/
def CopyCmd.tooMuch (c : CopyCmd) : Bool :=
  decide (2 ^ 24 < c.n) || (c.cop == .cpym && c.dst.kind == 2 && decide (Fields.fifoCap c.dst.fifo < c.n * c.w))

/-- A command must reserve its space in a FIFO before it sends anything (R312). -/
def CopyCmd.reserves (c : CopyCmd) : Bool := c.cop == .cpym && c.dst.kind == 2

/-- A command starts (R281): a check that fails here leaves it nothing to move, and other devices are asked for the checks of their ranges; a command
that must reserve space in a FIFO asks once it has done so (R312). -/
def State.startCopy (s : State) (u : Nat) (x : Stream) (se fs : Bool) (c0 : CopyCmd) : State :=
  let far := if c0.reserves then [] else s.cpFar u c0
  let c := { c0 with ask := far.length, bad := s.cpRange u c0 }
  match (if far.isEmpty then cpVerdict c.bad else none) with
  | some e => (s.addEng u x se fs (.copy c.reject)).giveErr u .C 0 e.1 e.2 x.slot s.seq
  | none =>
    let o : Op := { Op.blank s.nextId s.cur u s.seq (.copy c) with slot := x.slot }
    far.foldl (fun (r : State) e => r.askRange o c e) (s.addEng u x se fs (.copy c))

/-- A data command issues (R278 to R281). -/
def copyData (i : Instr) (cop : COp) (f : CForm) (s : State) : Out :=
  s.issueEng false i f.se f.fs fun s u _ x =>
    let c := cpCommand cop f x.snap
    let s1 : State :=
      if c.n = 0 then { s with seq := s.seq + 1 }
      else if c.tooMuch then ({ s with seq := s.seq + 1 }).giveErr u .C 0 .mbnd (c.src.elemAddr 0 c.w) x.slot s.seq
      else s.startCopy u x f.se f.fs c
    s1.advanceEng u false 1

/-- CPY (R280, R283). -/
def execCpy (f : CForm) (s : State) : Out := copyData (.cpy f) .cpy f s
/-- CPYM (R280, R285). -/
def execCpym (f : CForm) (s : State) : Out := copyData (.cpym f) .cpym f s
/-- CPYF (R280, R283). -/
def execCpyf (f : CForm) (s : State) : Out := copyData (.cpyf f) .cpyf f s
/-- CPYG (R280, R283). -/
def execCpyg (f : CForm) (s : State) : Out := copyData (.cpyg f) .cpyg f s
/-- CPYS (R280, R283). -/
def execCpys (f : CForm) (s : State) : Out := copyData (.cpys f) .cpys f s

/-! ### Elements -/

/-- A fence or CFENCE holds the accesses of a copy command (R290, R325). -/
def State.cpHeld (s : State) (o : Op) : Bool :=
  s.fenceHolds o.team .C o.seq ||
    s.ops.any fun p => p.by_ o.agent && decide (p.seq < o.seq) && match p.kind with | .cfence _ => true | _ => false

/-- Replace the command of a copy operation. -/
def Op.setCopy (o : Op) (c : CopyCmd) : Op := { o with kind := .copy c }

/-- Element i of a command is read: its bytes, with the destination index of CPYS. -/
def CopyCmd.take (c : CopyCmd) (i ix : Nat) (bs : List Byte) : CopyCmd :=
  { c with left := c.left.filter (· != i), got := c.got ++ [(i, ix, bs)] }

/-- Element i got an error response: it writes nothing to memory and lands as zero in a FIFO (R281). -/
def CopyCmd.fail (c : CopyCmd) (i : Nat) : CopyCmd :=
  if c.dst.kind = 2 then { c.take i 0 (List.replicate c.w 0) with failed := c.failed ++ [i] }
  else { c with left := c.left.filter (· != i), got := c.got.filter fun g => g.1 != i }

/-- Give an element's error response on path C. -/
def State.cpFail (s : State) (o : Op) (c : CopyCmd) (i : Nat) (cause : Cause) (a : Addr) : State :=
  (s.giveErr o.team .C 0 cause a o.slot o.seq).setOp (o.setCopy (c.fail i))

/-- A command stops on a precise fault (R282); in a stream that has been killed it counts as complete (R292). -/
def State.cpStop (s : State) (o : Op) (c : CopyCmd) (cause : Cause) (a : Addr) : State :=
  match (s.team? o.team).bind (·.copy) with
  | none => s.delOp o.id
  | some x =>
    if x.ended then s.delOp o.id
    else if s.engBusy o.team false then s
    else (s.stopStream o.team false cause o.addr o.slot a o.id).setOp (o.setCopy { c with stopped := some cause })

/-- A read of path C: the bytes and whether they carry poison, with the clocks merged when it crosses back (R315, R322). (log 43: DESIGN CHOICE, safe.) -/
def State.cpRead (s : State) (u : Nat) (a : Access) : Option (State × List Byte × Bool) :=
  match s.readValue u .C a.space a.lower a.addr a.size with
  | none => none
  | some r => some (match s.crossing u a.space with | some (d, e) => s.crossBack d e | none => s, r.1, r.2)

/-- The index word of element i (R283): none while its read must wait; its value, or the state in which the element has failed or the command
has stopped. -/
def State.cpIndex (s : State) (o : Op) (c : CopyCmd) (i : Nat) : Option (Except State Nat) :=
  if c.cop != .cpyg && c.cop != .cpys then some (.ok i)
  else
    let a := c.index + BitVec.ofNat 64 (4 * i)
    let acc := s.cpAccess o.team c.indexOp a i 4 .read
    match s.cpCheck o.team c.indexOp acc with
    | .err k => some (.error (s.cpFail o c i k a))
    | .precise k => some (.error (s.cpStop o c k a))
    | .ok => match s.cpRead o.team acc with
      | none => none
      | some r => some (if r.2.2 then .error ((s.notePoison o.team acc.space a false).cpFail o c i .euce a) else .ok (natOfBytes r.2.1))

/-- The access that writes element i of CPYS to destination `ix`, before its bytes are known. -/
def State.cpDestAcc (s : State) (o : Op) (c : CopyCmd) (i ix : Nat) : Access := s.cpAccess o.team c.dst (c.dst.elemAddr ix c.w) i c.w (.write [])

/-- The check that the destination of an element of CPYS fails, which comes before the reading of its source (R199, R283); one on another device is
checked there. (log 43: DESIGN CHOICE, safe.) -/
def State.cpDest (s : State) (o : Op) (c : CopyCmd) (i ix : Nat) : Chk :=
  if c.cop == .cpys then s.cpCheck o.team c.dst (s.cpDestAcc o c i ix) else .ok

/-- The destination of an element of CPYS lies on another device, which has not yet said that its checks pass (R283). -/
def State.cpDestOpen (s : State) (o : Op) (c : CopyCmd) (i ix : Nat) : Bool :=
  c.cop == .cpys && (s.cpDestAcc o c i ix).space.isRemote && !c.dests.contains (i, true)

/-- Another device is asked for checks 1 to 5 of the destination of an element of CPYS, once; lane 1 tells the request from that for a range (R283). -/
def State.askDest (s : State) (o : Op) (c : CopyCmd) (i ix : Nat) : State :=
  if c.dests.contains (i, false) then s
  else (s.fresh.sendRemote { (s.cpDestAcc o c i ix).toBuf o s.nextId false with num := 1, probe := true, lane := 1 }).setOp
    (o.setCopy { c with dests := c.dests ++ [(i, false)] })

/-- A command has reserved its space in its FIFO and asks other devices for the checks of its source (R281, R312). -/
def State.askReserved (s : State) (o : Op) (c : CopyCmd) : State :=
  let far := s.cpFar o.team c
  let o1 := o.setCopy { c with ask := far.length }
  far.foldl (fun (r : State) e => r.askRange o1 c e) (s.setOp o1)

/-- Element i of a command's source is read (R283), if it may be: a FIFO-destined command waits until its team holds the matrix unit (R284). -/
def State.cpTake (s : State) (o : Op) (c0 : CopyCmd) (i : Nat) : State :=
  let c := { c0 with reserved := true }
  match s.team? o.team with
  | none => s
  | some t =>
    if s.cpHeld o || c.ask != 0 || !s.fifoRoom o c0 || c.stopped.isSome || (c.dst.kind == 2 && (s.column (s.colOf t)).mxHolder != some o.team) then s
    else if c0.reserves && !c0.reserved && !(s.cpFar o.team c).isEmpty then s.askReserved o c
    else match s.cpIndex o c i with
      | none => s
      | some (.error s1) => s1
      | some (.ok ix) =>
        if s.cpDestOpen o c i ix then s.askDest o c i ix
        else
        let a := c.src.elemAddr (if c.cop == .cpyg then ix else i) c.w
        let acc := s.cpAccess o.team c.src a i c.w .read
        match s.cpDest o c i ix, s.cpCheck o.team c.src acc with
        | .err k, _ => s.cpFail o c i k (c.dst.elemAddr ix c.w)
        | .precise k, _ => if c.dst.kind = 3 then s else s.cpStop o c k (c.dst.elemAddr ix c.w)
        | .ok, .err k => s.cpFail o c i k a
        | .ok, .precise k => if c.src.kind = 3 then s else s.cpStop o c k a
        | .ok, .ok =>
          match acc.space with
          | .remote _ _ _ =>
            (s.fresh.sendRemote (acc.toBuf o s.nextId false)).setOp (o.setCopy { c with left := c.left.filter (· != i) })
          | _ => match s.cpRead o.team acc with
            | none => s
            | some r => if r.2.2 then (s.notePoison o.team acc.space a false).cpFail o c i .euce a else r.1.setOp (o.setCopy (c.take i ix r.2.1))

/-- Staging entries of a command's destination range (R338). -/
def CopyCmd.entries (c : CopyCmd) : Nat := (c.n * c.w + 15) / 16

/-- Element i is neither to be read nor to be written any more. -/
def CopyCmd.drop (c : CopyCmd) (i : Nat) : CopyCmd := { c with left := c.left.filter (· != i), got := c.got.filter fun g => g.1 != i }

/-- An element's write is staged (R333, R336); the command is judged whole first, and one that does not fit gets one error response and stages
nothing (R338). Once a CANCEL has reached the workgroup it is discarded (R54). Teams of the workgroup see it (R334). (log 23: DEDUCED, safe.) -/
def State.cpStage (s : State) (o : Op) (c : CopyCmd) (t : Team) (a : Access) (i : Nat) : State :=
  match s.wg? t.wg with
  | none => s
  | some g =>
    let cost := if c.staged then 0 else c.entries
    if g.cancelled then s.setOp (o.setCopy (c.drop i))
    else if s.stageCap t.wg < g.stageUsed + cost then
      (s.giveErr o.team .C 0 .mbnd (c.dst.elemAddr 0 c.w) o.slot o.seq).setOp
        (o.setCopy { c with left := [], got := [], failed := List.range c.n })
    else
      let e : Staged := { twg := t.twg, rank := 1, seq := o.seq, el := i, space := a.space, addr := a.addr, lower := false, act := a.act, before := [] }
      let s1 := s.modWg t.wg fun g => { g with staged := g.staged ++ [e], stageUsed := g.stageUsed + cost }
      (s1.noteConflict (.copy o.team) .C (s.sectorsOf a.space a.addr false c.w) (some t.wg)).setOp (o.setCopy { c.drop i with staged := true })

/-- The destination index of an element of CPYS that is not yet written, as the index list holds it now. (log 43: DESIGN CHOICE, safe.) -/
def State.cpIndexNow (s : State) (o : Op) (c : CopyCmd) (i : Nat) : Option Nat :=
  match c.got.find? fun g => g.1 == i with
  | some g => some g.2.1
  | none => match s.cpIndex o c i with
    | some (.ok ix) => some ix
    | _ => none

/-- An element that has been read is written to memory (R283): CPYS elements with one destination in ascending order, after a lower one whose
destination is not yet known. A staged write to another device is checked there first (R333), and the commands of a stream are staged in their issue order
(R336, R338). (log 43: DESIGN CHOICE, safe.) (log 23: DEDUCED, safe.) -/
def State.cpPut (s : State) (o : Op) (c : CopyCmd) (i ix : Nat) (bs : List Byte) : State :=
  match s.team? o.team with
  | none => s
  | some t =>
    let unjudged := s.ops.any fun p => p.by_ o.agent && decide (p.seq < o.seq) && match p.kind with
      | .copy d => (d.dst.kind == 0 || d.dst.kind == 3) && !d.staged && !(d.left.isEmpty && d.got.isEmpty)
      | _ => false
    let earlier := c.cop == .cpys && ((c.left ++ c.got.map (·.1)).any fun j => decide (j < i) && match s.cpIndexNow o c j with | some jx => jx == ix | none => true)
    if s.cpHeld o || c.ask != 0 || c.stopped.isSome || earlier then s
    else
      let a := c.dst.elemAddr (if c.cop == .cpys then ix else i) c.w
      let acc := s.cpAccess o.team c.dst a i c.w (.write bs)
      match s.cpCheck o.team c.dst acc with
      | .err k => s.cpFail o c i k a
      | .precise k => if c.dst.kind = 3 then s else s.cpStop o c k a
      | .ok =>
        if s.stages o.team acc.space acc.addr acc.act then
          (if unjudged then s
          else if acc.space.isRemote then
            (s.fresh.sendRemote { acc.toBuf o s.nextId false with probe := true }).setOp (o.setCopy (c.drop i))
          else s.cpStage o c t acc i)
        else
          let b := acc.toBuf o s.nextId false
          ({ s.fresh with bufs := s.bufs ++ [b] }).setOp (o.setCopy (c.drop i))

/-- MM_PERFORM of element i of a copy command: its read, or the write of what was read. -/
def State.performCopy (s : State) (o : Op) (c : CopyCmd) (i : Nat) : State :=
  if !o.queued || !(match s.team? o.team with | some t => s.streamsRun t | none => false) then s
  else if c.left.contains i then (if c.cop == .cpym && (match s.cpSpace o.team c.src c.src.base with | .slice _ _ _ => true | _ => false) then s
    else s.cpTake o c i)
  else match c.got.find? fun g => g.1 == i with
    | some g => if c.dst.kind = 2 then s else s.cpPut o c i g.2.1 g.2.2
    | none => s

/-- A copy command has nothing left to do (R277, R284). -/
def State.cpDone (s : State) (o : Op) (c : CopyCmd) : Bool :=
  c.left.isEmpty && c.got.isEmpty && c.stopped.isNone && s.bufs.all fun b => b.op != o.id || (b.act != .read && !b.probe)

/-! ### FIFOs -/

/-- FIFO_BYTES_LAND (R284), for the command named: the next element in order lands, once its team holds the unit, the earlier commands of its
FIFO have landed, and there is space. -/
def execFifoBytesLand (s : State) : Out :=
  match s.arg with
  | .id n => .next (match s.op? n with
    | none => s
    | some o =>
      match o.kind, s.team? o.team with
      | .copy c, some t =>
        let col := s.colOf t
        let m := (s.column col).mx
        let k := c.dst.fifo
        let earlier := s.ops.any fun p => p.by_ o.agent && decide (p.seq < o.seq) && match p.kind with
          | .copy d => d.dst.kind == 2 && d.dst.fifo == k
          | _ => false
        match c.got.find? fun g => g.1 == c.landed with
        | some g =>
          if c.dst.kind ≠ 2 ∨ (s.column col).mxHolder ≠ some o.team ∨ earlier ∨ fifoSize k < (m.fifo k).length + c.w then s
          else
            let s1 := s.modCol col fun q => { q with mx := q.mx.setFifo k (q.mx.fifo k ++ g.2.2) }
            s1.setOp (o.setCopy { c with got := c.got.filter fun e => e.1 != c.landed, landed := c.landed + 1 })
        | none => s
      | _, _ => s)
  | _ => .next s

/-! ### Merged multicast reads -/

/-- The 128-byte sector of a command's source that holds element i, counted from the first (R285). -/
def CopyCmd.sectorOf (c : CopyCmd) (i : Nat) : Nat := (offOf (c.src.elemAddr i c.w)) / 128 - (offOf (c.src.elemAddr 0 c.w)) / 128

/-- The sectors of a command's source. -/
def CopyCmd.sectorCount (c : CopyCmd) : Nat := c.sectorOf (c.n - 1) + 1

/-- The merge key of a request (R285). -/
def State.mergeKey (s : State) (t : Team) (c : CopyCmd) : List Nat :=
  [s.ctxOf t, c.src.base.toNat, c.n * c.w, c.ty.code.toNat, (c.mask.extractLsb' 16 8).toNat, (c.mask.extractLsb' 0 16).toNat, dieOf (s.colOf t)]

/-- Every core that a request's mask names has a joined request (R285). -/
def State.allJoined (s : State) (mask : Nat) (ops : List Nat) : Bool :=
  let cores := ops.filterMap fun n => ((s.op? n).bind fun o => s.team? o.team).map fun t => s.colOf t / 4 % 16
  (List.range 16).all fun i => !mask.testBit i || cores.contains i

/-- CPYM_REQUEST_ARRIVAL (R285, R312), for the command named, once it has reserved its space: it joins an open entry with its key, opens one, or is served alone. -/
def execCpymRequestArrival (s : State) : Out :=
  match s.arg with
  | .id n => .next (match s.op? n with
    | none => s
    | some o =>
      match o.kind, s.team? o.team with
      | .copy c, some t =>
        match s.cpSpace o.team c.src c.src.base with
        | .slice _ col _ =>
          if c.cop != .cpym || !s.streamsRun t || c.arrived || c.left.isEmpty || !o.queued || s.cpHeld o || c.ask != 0 || !s.fifoRoom o c ||
              (c.dst.kind == 2 && (s.column (s.colOf t)).mxHolder != some o.team) then s
          else
            let key := s.mergeKey t c
            let mask := (c.mask.extractLsb' 0 16).toNat
            let s1 := s.setOp (o.setCopy { c with arrived := true, reserved := true })
            let ms := (s.column col).merges
            if ms.any fun m => m.key == key && m.openJoin then
              s1.modCol col fun k => { k with merges := ms.map fun m =>
                if m.key == key && m.openJoin then
                  let js := m.joined ++ [n]
                  { m with joined := js, openJoin := !s.allJoined mask js }
                else m }
            else if ms.length < 16 then
              s1.modCol col fun k =>
                { k with merges := ms ++ [{ key := key, joined := [n], next := 0, total := c.sectorCount, openJoin := !s.allJoined mask [n] }] }
            else s1
        | _ => s
      | _, _ => s)
  | _ => .next s

/-- A sector of its source is read for a command: the elements of it that it still lacks (R285, R286). (log 43: DESIGN CHOICE, safe.) -/
def State.cpymTake (s : State) (n sector : Nat) : State :=
  match s.op? n with
  | none => s
  | some o =>
    match o.kind with
    | .copy c => (c.left.filter fun i => c.sectorOf i == sector).foldl (fun s i =>
        match s.op? n with
        | some o => (match o.kind with | .copy c => s.cpTake o c i | _ => s)
        | none => s) s
    | _ => s

/-- A command can take a sector now: the read of none of its elements must wait. -/
def State.cpymReady (s : State) (n sector : Nat) : Bool :=
  match s.op? n with
  | none => true
  | some o =>
    match o.kind with
    | .copy c => c.stopped.isNone && !s.cpHeld o && (match s.team? o.team with | some t => s.streamsRun t | none => false) && (c.left.filter fun i => c.sectorOf i == sector).all fun i =>
        let acc := s.cpAccess o.team c.src (c.src.elemAddr i c.w) i c.w .read
        match s.cpCheck o.team c.src acc with
        | .ok => (s.readValue o.team .C acc.space acc.lower acc.addr acc.size).isSome
        | .err _ => true
        | .precise _ => false
    | _ => true

/-- CPYM_SECTOR_READ (R285, R312): the next sector of a column's merge entry, for every request joined that can take it; no receiver holds it back.
Or, for the command named, a sector that it lacks once its shared read has ended or when it is served alone. -/
def execCpymSectorRead (s : State) : Out :=
  match s.arg with
  | .pair col k => .next (match (s.column col).merges[k]? with
    | none => s
    | some m =>
      let s1 := (m.joined.filter fun n => s.cpymReady n m.next).foldl (fun s n => s.cpymTake n m.next) s
      s1.modCol col fun q =>
        if m.next + 1 < m.total then { q with merges := q.merges.set k { m with next := m.next + 1 } }
        else { q with merges := q.merges.eraseIdx k })
  | .id n => .next (match s.op? n with
    | none => s
    | some o =>
      match o.kind with
      | .copy c =>
        match c.left.head? with
        | some i =>
          let joined := s.columns.any fun e => e.2.merges.any fun m => m.joined.contains n
          if c.cop == .cpym && c.arrived && !joined && s.cpymReady n (c.sectorOf i) then s.cpymTake n (c.sectorOf i) else s
        | none => s
      | _ => s)
  | _ => .next s

/-! ### Follow-ons, signals, waits, fences, the end -/

/-- The payload word of a CMX may be a follow-on (R287): its opcode, and bits [49:48] zero. -/
def payloadOk (w : Word) : Bool :=
  decide (0x340 ≤ (opcodeOf w)) && decide ((opcodeOf w) ≤ 0x345) && w.extractLsb' 48 2 == 0

/-- CMX (R287): the next slot's word is its payload. -/
def execCmx (f : KForm) (s : State) : Out :=
  s.issueEng false (.cmx f) f.se f.fs fun s u _ x =>
    let w := x.words.getD (x.slot + 1) 0
    if x.slot = hdrCount x.hdr then s.haltStream u false .iins x.pc x.slot 0
    else if !payloadOk w then s.haltStream u false .iins x.pc (x.slot + 1) 0
    else (s.addEng u x f.se f.fs (.cmx w (x.slot + 1) x.pc false)).advanceEng u false 2

/-- FOLLOW_ON_TRIGGER (R288), for the CMX named. -/
def execFollowOnTrigger (s : State) : Out :=
  match s.arg with
  | .id n => .next (match s.op? n with
    | none => s
    | some o =>
      match o.kind, s.team? o.team with
      | .cmx w slot hdr false, some t =>
        let col := s.colOf t
        let earlier := s.ops.any fun p => p.by_ o.agent && decide (p.seq < o.seq) && match p.kind with
          | .copy c => c.dst.kind == 2
          | .cmx _ _ _ q => !q
          | _ => false
        let snap := match t.copy with | some x => x.snap | none => []
        if earlier || (s.column col).mxHolder != some o.team || decide (8 ≤ (s.column col).mx.follow.length) then s
        else
          let c : MCmd := { op := n, instr := (decodeWord w).getD .nop, snap := snap, follow := true, row := 0, seq := 0, vals := none }
          (s.modCol col fun k => { k with mx := { k.mx with follow := k.mx.follow ++ [c] } }).setOp { o with kind := .cmx w slot hdr true }
      | _, _ => s)
  | _ => .next s

/-- CSIG (R290). -/
def execCsig (f : KForm) (s : State) : Out :=
  s.issueEng false (.csig f) f.se f.fs fun s u _ x =>
    (s.addEng u x f.se f.fs (.csig (f.low.extractLsb' 0 3).toNat)).advanceEng u false 1

/-- CWAIT (R290). -/
def execCwait (f : KForm) (s : State) : Out :=
  s.issueEng false (.cwait f) false false fun s u _ _ =>
    let s1 := s.advanceEng u false 1
    s1.modTeam u fun t => { t with copy := t.copy.map fun x => { x with cwait := f.low.extractLsb' 0 12 } }

/-- CFENCE (R290). -/
def execCfence (f : KForm) (s : State) : Out :=
  s.issueEng false (.cfence f) false false fun s u _ x =>
    (s.addEng u x false false (.cfence (f.low.extractLsb' 0 3).toNat)).advanceEng u false 1

/-- CEND (R277, R290). -/
def execCend (s : State) : Out :=
  s.issueEng false .cend false false fun s u _ _ =>
    (s.advanceEng u false 1).modTeam u fun t => { t with copy := t.copy.map fun x => { x with halted := true } }

/-- The commands that a copy stream issued before place `sq` have completed, earlier signals and fences among them; with `accesses` only the commands
that make accesses count, follow-ons excepted (R290). -/
def State.cpBefore (s : State) (o : Op) (accesses : Bool) : Bool :=
  !(s.ops.any fun p => p.by_ o.agent && decide (p.seq < o.seq) && match p.kind with
    | .cmx _ _ _ _ => !accesses
    | .csig _ | .cfence _ => !accesses
    | _ => true)

/-- The writes of a stream issued before place `sq` have reached a scope. With `fence` a fence within that path asks, for which alone a write in
the buffer counts at team scope (R319). -/
def State.wroteBefore (s : State) (u : Nat) (p : Path) (sq scope : Nat) (fence : Bool) : Bool :=
  !(s.bufs.any fun b => b.team == u && b.path == p && decide (b.seq < sq) && !b.atScope scope fence)

/-- A copy command, CSIG or CFENCE completes (R277, R290). -/
def State.finishCopy (s : State) (o : Op) : State :=
  match o.kind with
  | .copy c => if s.cpDone o c then s.delOp o.id else s
  | .csig scope => if s.cpBefore o false && s.wroteBefore o.team .C o.seq scope false then s.delOp o.id else s
  | .cfence scope => if s.cpBefore o true && s.wroteBefore o.team .C o.seq scope true then s.delOp o.id else s
  | _ => s

end Sys2Proof.Machine
end

