-- ==== Sys2Proof/Machine/Float.lean ====
section
/-!
DEFINITION. The float, conversion, narrow and residue instructions, their immediate twins, and RNG (R171 to R189).
-/

namespace Sys2Proof.Machine

/-- A float source of a lane, decoded (R153). -/
def Team.fval (t : Team) (ty : Ty) (n : BitVec 8) (l : Nat) : Val := decodeF (fmtOf ty) (t.pat ty n.toNat l).toNat

/-- A rounded result as a lane's result. -/
def Rounded.lane (r : Rounded) : Word × Sticky := (BitVec.ofNat 64 r.pat, r.flags)

/-- A float instruction of two sources (R174). -/
def float2 (i : Instr) (f : VForm) (op : Fmt → RMode → Bool → Val → Val → Rounded) (s : State) : Out :=
  vectorV i f f.ty true (fun t l => (op (fmtOf f.ty) f.rnd f.sat (t.fval f.ty f.a l) (t.fval f.ty f.b l)).lane) s

/-- The immediate twin of a float instruction of two sources: rn, no saturation (R111). -/
def float2I (i : Instr) (f : IForm) (op : Fmt → RMode → Bool → Val → Val → Rounded) (s : State) : Out :=
  vectorI i f true (fun t l =>
    (op (fmtOf f.ty) .rn false (t.fval f.ty f.a l) (decodeF (fmtOf f.ty) (immFloat f))).lane) s

/-- FADD (R174). -/
def execFadd (f : VForm) (s : State) : Out := float2 (.fadd f) f (fun F m sat a b => faddV F m sat false a b) s

/-- FADD's immediate twin (R111, R174). -/
def execFaddImm (f : IForm) (s : State) : Out := float2I (.faddImm f) f (fun F m sat a b => faddV F m sat false a b) s

/-- FSUB (R174). -/
def execFsub (f : VForm) (s : State) : Out := float2 (.fsub f) f (fun F m sat a b => faddV F m sat true a b) s

/-- FSUB's immediate twin (R111, R174). -/
def execFsubImm (f : IForm) (s : State) : Out := float2I (.fsubImm f) f (fun F m sat a b => faddV F m sat true a b) s

/-- FMUL (R174). -/
def execFmul (f : VForm) (s : State) : Out := float2 (.fmul f) f fmulV s

/-- FMUL's immediate twin (R111, R174). -/
def execFmulImm (f : IForm) (s : State) : Out := float2I (.fmulImm f) f fmulV s

/-- FDIV (R174). -/
def execFdiv (f : VForm) (s : State) : Out := float2 (.fdiv f) f fdivV s

/-- FFMA (R174). -/
def execFfma (f : VForm) (s : State) : Out :=
  vectorV (.ffma f) f f.ty true (fun t l =>
    (ffmaV (fmtOf f.ty) f.rnd f.sat (t.fval f.ty f.a l) (t.fval f.ty f.b l) (t.fval f.ty f.c l)).lane) s

/-- FSQRT (R174). -/
def execFsqrt (f : VForm) (s : State) : Out :=
  vectorV (.fsqrt f) f f.ty true (fun t l => (fsqrtV (fmtOf f.ty) f.rnd (t.fval f.ty f.a l)).lane) s

/-- FRND and FRND.x (R174, R176). -/
def execFrnd (f : VForm) (s : State) : Out :=
  vectorV (.frnd f) f f.ty true (fun t l => (frndV (fmtOf f.ty) f.rnd (f.sub.getLsbD 0) (t.fval f.ty f.a l)).lane) s

/-- FSCL (R174, R175): the count is an i32. -/
def execFscl (f : VForm) (s : State) : Out :=
  vectorV (.fscl f) f f.ty true (fun t l =>
    (fsclV (fmtOf f.ty) f.rnd f.sat (t.fval f.ty f.a l) (t.elem f.b.toNat l).toInt).lane) s

/-- A 16-bit element of a packed pair (R175). -/
def packed16 (ty : Ty) (x : Elem) (k : Nat) : Val := decodeF (fmtOf ty) (x.extractLsb' (16 * k) 16).toNat

/-- FDOT2 (R175): the result is FP32. -/
def execFdot2 (f : VForm) (s : State) : Out :=
  vectorV (.fdot2 f) f .f32 true (fun t l =>
    let a := t.elem f.a.toNat l
    let b := t.elem f.b.toNat l
    (fdot2V f.rnd f.sat (packed16 f.ty a 0) (packed16 f.ty b 0) (packed16 f.ty a 1) (packed16 f.ty b 1)
      (decodeF .f32 (t.elem f.c.toNat l).toNat)).lane) s

/-- FMIN and FMAX (R177). -/
def fminmax (i : Instr) (f : VForm) (isMax : Bool) (s : State) : Out :=
  vectorV i f f.ty true (fun t l =>
    (fminmaxV (fmtOf f.ty) isMax (t.pat f.ty f.a.toNat l).toNat (t.pat f.ty f.b.toNat l).toNat).lane) s

/-- The immediate twins of FMIN and FMAX (R111, R177). -/
def fminmaxI (i : Instr) (f : IForm) (isMax : Bool) (s : State) : Out :=
  vectorI i f true (fun t l => (fminmaxV (fmtOf f.ty) isMax (t.pat f.ty f.a.toNat l).toNat (immFloat f)).lane) s

/-- FMIN (R177). -/
def execFmin (f : VForm) (s : State) : Out := fminmax (.fmin f) f false s

/-- FMIN's immediate twin (R111, R177). -/
def execFminImm (f : IForm) (s : State) : Out := fminmaxI (.fminImm f) f false s

/-- FMAX (R177). -/
def execFmax (f : VForm) (s : State) : Out := fminmax (.fmax f) f true s

/-- FMAX's immediate twin (R111, R177). -/
def execFmaxImm (f : IForm) (s : State) : Out := fminmaxI (.fmaxImm f) f true s

/-- FMAXI and FMINI (R180): a value and its index, in a pair of registers. -/
def fmaxi (i : Instr) (f : VForm) (isMax : Bool) (s : State) : Out :=
  s.issue i f.se f.fs fun s u t =>
    let a := f.a.toNat
    let b := f.b.toNat
    let d := f.d.toNat
    let ws := (t.active f.m).flatMap fun l =>
      let r := fmaxiV (fmtOf f.ty) isMax (t.pat f.ty a l).toNat (t.elem (a + 1) l).toNat (t.pat f.ty b l).toNat (t.elem (b + 1) l).toNat
      putPat f.ty d l (BitVec.ofNat 64 r.1) ++ putElem (d + 1) l (BitVec.ofNat 32 r.2)
    s.emit u t f.se f.fs [.v d, .v (d + 1)] ws 0 false

/-- FMAXI (R180). -/
def execFmaxi (f : VForm) (s : State) : Out := fmaxi (.fmaxi f) f true s

/-- FMINI (R180). -/
def execFmini (f : VForm) (s : State) : Out := fmaxi (.fmini f) f false s

/-- FABS (R178). -/
def execFabs (f : VForm) (s : State) : Out :=
  vectorV (.fabs f) f f.ty false (fun t l => (t.pat f.ty f.a.toNat l &&& ~~~(BitVec.twoPow 64 (f.ty.width - 1)), 0)) s

/-- FNEG (R178). -/
def execFneg (f : VForm) (s : State) : Out :=
  vectorV (.fneg f) f f.ty false (fun t l => (t.pat f.ty f.a.toNat l ^^^ BitVec.twoPow 64 (f.ty.width - 1), 0)) s

/-- FCMP (R179). -/
def execFcmp (f : VForm) (s : State) : Out :=
  maskV (.fcmp f) f true (fun t l =>
    fcmpV (fmtOf f.ty) f.sub.toNat (t.pat f.ty f.a.toNat l).toNat (t.pat f.ty f.b.toNat l).toNat) s

/-- FCLASS (R181). -/
def execFclass (f : VForm) (s : State) : Out :=
  vectorV (.fclass f) f .n32 false (fun t l => (BitVec.ofNat 64 (fclassV (fmtOf f.ty) (t.pat f.ty f.a.toNat l).toNat), 0)) s

/-! ### Conversions -/

/-- Every value of the first format is a value of the second, and they differ (R182). -/
def widens (src dst : Fmt) : Bool := (dst == .f64 && src != .f64) || (dst == .f32 && (src == .f16 || src == .bf16))

/-- FCVT of a pattern (R182): a widening or a copy leaves every number as it is, a narrowing rounds. (log 25: DEDUCED, unsafe.) -/
def fcvtV (src dst : Fmt) (mode : RMode) (sat : Bool) (a : Nat) : Rounded :=
  roundVal dst mode (sat && !widens src dst && src != dst) (decodeF src a)

/-- FCVT (R182). (log 25: DEDUCED, unsafe.) -/
def execFcvt (f : VForm) (s : State) : Out :=
  let src := Ty.ofCode (f.sub.setWidth 4)
  vectorV (.fcvt f) f f.ty true (fun t l => (fcvtV (fmtOf src) (fmtOf f.ty) f.rnd f.sat (t.pat src f.a.toNat l).toNat).lane) s

/-- FCVTI of a value to an integer type (R183). -/
def fcvtiV (dst : Ty) (mode : RMode) : Val → Word × Sticky
  | .nan _ _ _ _ => (0, fNV)
  | .inf n => (ofInt (if n then Fields.minInt dst else Fields.maxInt dst), fNV)
  | .fin n m e =>
    let r := intRound mode n m e
    let y := sgn n r.1
    if satInt y dst = y then (ofInt y, flagIf r.2 fNX) else (ofInt (satInt y dst), fNV)

/-- FCVTI (R183). -/
def execFcvti (f : VForm) (s : State) : Out :=
  let src := Ty.ofCode (f.sub.setWidth 4)
  vectorV (.fcvti f) f f.ty true (fun t l => fcvtiV f.ty f.rnd (t.fval src f.a l)) s

/-- ICVTF (R184). -/
def execIcvtf (f : VForm) (s : State) : Out :=
  let src := Ty.ofCode (f.sub.setWidth 4)
  vectorV (.icvtf f) f f.ty true (fun t l =>
    (roundEx (fmtOf f.ty) f.rnd f.sat (exOfInt (intVal src (t.pat src f.a.toNat l)) 0 false)).lane) s

/-! ### NCVT -/

/-- The narrow format of FMT (R185); rq8 has none. -/
def ncvtFmt (k : Nat) : Fmt :=
  match k with
  | 0 => .e4m3
  | 1 => .e5m2
  | _ => .e2m1

/-- Width of the field that FMT names (R186). -/
def ncvtWidth (k : Nat) : Nat := if k = 3 then 4 else 8

/-- An encode to a float format (R186): the quotient, rounded once. A NaN taken to E2M1 raises NV (R155), and so does an infinite quotient
taken to a format without infinities (R159). The quotient by a zero scale is the infinity of R174's DivZero also under .sat. (log 72: DEDUCED, unsafe.) -/
def ncvtEnc (n : Fmt) (mode : RMode) (sat : Bool) (x sc : Val) : Rounded :=
  let r := fdivV n mode sat x sc
  let anyNaN := x.isNaN || sc.isNaN
  let dz := !anyNaN && sc.isZero && !x.isZero && !x.isInf
  { r with flags := r.flags ||| flagIf (n == .e2m1 && anyNaN) fNV ||| flagIf (dz && !n.hasInf) fNV }

/-- An encode to rq8 (R165, R186). -/
def ncvtEncQ (mode : RMode) (x sc : Val) : Rounded :=
  let n := x.neg != sc.neg
  let q127 : Nat := if n then 0x81 else 0x7F
  if x.isNaN || sc.isNaN || (x.isZero && sc.isZero) || (x.isInf && sc.isInf) then { pat := 0, flags := fNV }
  else if x.isInf then { pat := q127, flags := fNV }
  else if sc.isInf then { pat := 0, flags := 0 }
  else if sc.isZero then { pat := q127, flags := fNV ||| fDZ }
  else
    let q := divEx x.neg x.mag.1 x.mag.2 sc.neg sc.mag.1 sc.mag.2
    let r : Nat × Bool := if 0 ≤ q.e then (q.m * 2 ^ q.e.toNat, q.sticky) else shiftRound mode q.neg q.m q.sticky (-q.e).toNat
    if 127 < r.1 then { pat := q127, flags := fNX }
    else { pat := (BitVec.ofInt 8 (sgn n r.1)).toNat, flags := flagIf r.2 fNX }

/-- A decode (R186): the product, rounded once to the wide type. -/
def ncvtDec (w : Fmt) (k : Nat) (mode : RMode) (sat : Bool) (e : Nat) (sc : Val) : Rounded :=
  if k = 2 then
    let q := rq8Val e
    let r := fmulV w mode sat (.fin (decide (q.1 < 0)) q.1.natAbs 0) sc
    { r with flags := r.flags ||| q.2 }
  else fmulV w mode sat (decodeF (ncvtFmt k) e) sc

/-- NCVT (R185, R186). -/
def execNcvt (f : VForm) (s : State) : Out :=
  let k := (f.sub.extractLsb' 0 3).toNat
  let w := ncvtWidth k
  let at0 := w * (f.sub.extractLsb' 4 3).toNat
  let dec := f.sub.getLsbD 3
  vectorV (.ncvt f) f (if dec then f.ty else .n32) true (fun t l =>
    let sc := decodeF .f32 (t.elem f.b.toNat l).toNat
    if dec then (ncvtDec (fmtOf f.ty) k f.rnd f.sat ((t.elem f.a.toNat l).toNat / 2 ^ at0 % 2 ^ w) sc).lane
    else
      let x := t.fval f.ty f.a l
      let e := if k = 2 then ncvtEncQ f.rnd x sc else ncvtEnc (ncvtFmt k) f.rnd f.sat x sc
      let old := (t.elem f.d.toNat l).toNat
      (BitVec.ofNat 64 (old - old / 2 ^ at0 % 2 ^ w * 2 ^ at0 + e.pat * 2 ^ at0), e.flags)) s

/-! ### Residues -/

/-- RNENC (R187): OF outside the canonical range. -/
def execRnenc (f : VForm) (s : State) : Out :=
  vectorV (.rnenc f) f .rn24 true (fun t l =>
    let x := intVal f.ty (t.pat f.ty f.a.toNat l)
    let lo : Int := -8257920
    let hi : Int := 8257919
    (BitVec.ofNat 64 (resEnc (if f.sat then max lo (min x hi) else x)), flagIf (decide (x < lo ∨ hi < x)) fOF)) s

/-- RNDEC (R187). -/
def execRndec (f : VForm) (s : State) : Out :=
  vectorV (.rndec f) f f.ty false (fun t l => (finish f.ty f.sat (resVal (t.elem f.a.toNat l).toNat), 0)) s

/-- The residue integer of a lane's element (R166). -/
def Team.res (t : Team) (n : BitVec 8) (l : Nat) : Int := resVal (t.elem n.toNat l).toNat

/-- RNADD and RNADD.sub (R188). -/
def execRnadd (f : VForm) (s : State) : Out :=
  vectorV (.rnadd f) f .rn24 false (fun t l =>
    let b := t.res f.b l
    (BitVec.ofNat 64 (resEnc (t.res f.a l + if f.sub == 1 then -b else b)), 0)) s

/-- RNMUL and RNMUL.acc (R188). -/
def execRnmul (f : VForm) (s : State) : Out :=
  vectorV (.rnmul f) f .rn24 false (fun t l =>
    (BitVec.ofNat 64 (resEnc (t.res f.a l * t.res f.b l + if f.sub == 1 then t.res f.c l else 0)), 0)) s

/-! ### Random numbers -/

/-- Mix of R189. -/
def rngMix (x : Word) : Word :=
  let x1 := (x ^^^ (x >>> 30)) * 0xBF58476D1CE4E5B9
  let x2 := (x1 ^^^ (x1 >>> 27)) * 0x94D049BB133111EB
  x2 ^^^ (x2 >>> 31)

/-- The number h of a lane (R189). -/
def rngWord (k c g : Word) : Word := rngMix (rngMix (k + c * 0x9E3779B97F4A7C15) ^^^ g)

/-- ID_TEAM × L, the global identifier of a team's lane 0 (R45, R51). -/
def State.laneBase (s : State) (t : Team) : Nat :=
  match s.wg? t.wg, s.launchOf t.wg with
  | some g, some k => (g.idx * k.shape.twg + t.twg) * t.lanes
  | _, _ => t.twg * t.lanes

/-- What RNG writes of h (R189): an f32 is h[63:40] × 2^-24, exact. -/
def rngPat (ty : Ty) (h : Word) : Word :=
  match ty with
  | .f32 => BitVec.ofNat 64 (roundEx .f32 .rn false { neg := false, m := (h >>> 40).toNat, e := -24, sticky := false }).pat
  | .n32 => h &&& 0xFFFFFFFF
  | _ => h

/-- RNG (R189): the counters of the active lanes advance as the instruction issues. -/
def execRng (f : VForm) (s : State) : Out :=
  s.issue (.rng f) f.se f.fs fun s u t =>
    let ls := t.active f.m
    let k := match s.launchOf t.wg with | some x => x.seed | none => 0
    let g := s.laneBase t
    let r := vecWrites f.ty f.d.toNat ls fun l => (rngPat f.ty (rngWord k (Store.get t.rngC l) (BitVec.ofNat 64 (g + l))), 0)
    let s1 := s.setTeam u { t with rngC := ls.foldl (fun c l => Store.set c l (Store.get c l + 1)) t.rngC }
    s1.emit u t f.se f.fs (destsV f.ty f.d.toNat) r.1 0 false

end Sys2Proof.Machine
end

