-- ==== Sys2Proof/Machine/Exchange.lean ====
section
/-!
DEFINITION. The exchange instructions (R229 to R240) and the combining operations that they share with LDG (R234, R267).
-/

namespace Sys2Proof.Machine

/-! ### Combining -/

/-- An element of a reduction: a pattern of its type, and the index of a (value, index) pair. -/
structure CElem where
  val : Word
  idx : Word
deriving DecidableEq, Repr, Inhabited

/-- Comb of R234 by operation code: integers wrap, floats round with rn. -/
def combine (code : Nat) (ty : Ty) (x y : CElem) : CElem × Sticky :=
  let w (v : Word) : CElem × Sticky := ({ val := lowBits ty.width v, idx := 0 }, 0)
  let r (z : Rounded) : CElem × Sticky := ({ val := BitVec.ofNat 64 z.pat, idx := 0 }, z.flags)
  let F := fmtOf ty
  let pair (isMax : Bool) : CElem × Sticky :=
    let z := fmaxiV F isMax x.val.toNat x.idx.toNat y.val.toNat y.idx.toNat
    ({ val := BitVec.ofNat 64 z.1, idx := BitVec.ofNat 64 z.2 }, 0)
  match code with
  | 0 => w (ofInt (intVal ty x.val + intVal ty y.val))
  | 1 => w (opMin ty x.val y.val)
  | 2 => w (opMax ty x.val y.val)
  | 3 => w (x.val &&& y.val)
  | 4 => w (x.val ||| y.val)
  | 5 => w (x.val ^^^ y.val)
  | 6 => r (faddV F .rn false false (decodeF F x.val.toNat) (decodeF F y.val.toNat))
  | 7 => r (fminmaxV F false x.val.toNat y.val.toNat)
  | 8 => r (fminmaxV F true x.val.toNat y.val.toNat)
  | 9 => pair true
  | _ => pair false

/-- Comb with the absent element, which lets the other pass (R234). -/
def combineOpt (code : Nat) (ty : Ty) : Option CElem → Option CElem → Option CElem × Sticky
  | none, y => (y, 0)
  | x, none => (x, 0)
  | some x, some y => let r := combine code ty x y; (some r.1, r.2)

/-- One step of the log-step tree: neighbours combine, the lower on the left (R235). -/
def pairUp (code : Nat) (ty : Ty) : List (Option CElem) → List (Option CElem) × Sticky
  | x :: y :: r =>
    let c := combineOpt code ty x y
    let p := pairUp code ty r
    (c.1 :: p.1, c.2 ||| p.2)
  | r => (r, 0)

/-- The log-step tree of `n` steps (R235, R269). -/
def treeReduce (code : Nat) (ty : Ty) : Nat → List (Option CElem) → Option CElem × Sticky
  | 0, xs => (xs.headD none, 0)
  | n + 1, xs =>
    let p := pairUp code ty xs
    let r := treeReduce code ty n p.1
    (r.1, p.2 ||| r.2)

/-- A Comb of two elements, each with the flags of the combinations that its value went through (R234). -/
def combineFlagged (code : Nat) (ty : Ty) (x y : Option CElem × Sticky) : Option CElem × Sticky :=
  let r := combineOpt code ty x.1 y.1
  (r.1, x.2 ||| y.2 ||| r.2)

/-- The log-step prefixes of R236, from step `s`, `n` steps, each with the flags of its combinations: those that an active lane takes are raised
(R169, R170). (log 71: DEDUCED, unsafe.) -/
def scanSteps (code : Nat) (ty : Ty) : Nat → Nat → List (Option CElem × Sticky) → List (Option CElem × Sticky)
  | 0, _, ys => ys
  | n + 1, s, ys => scanSteps code ty n (s + 1) (List.zipWith (combineFlagged code ty) (List.replicate (2 ^ s) (none, 0) ++ ys) ys)

/-! ### Permutations -/

/-- What a lane receives by R231 from lane j of register n; register a of its own when the source is not available. -/
def Team.permute (t : Team) (ty : Ty) (d l a n : Nat) (j : Int) (fill : Bool) : List RegWr :=
  if 0 ≤ j ∧ j.toNat < t.lanes ∧ t.live.getLsbD j.toNat then moveElem ty d l (t.elem n j.toNat) (t.elem (n + 1) j.toNat)
  else if fill then moveElem ty d l 0 0
  else moveElem ty d l (t.elem a l) (t.elem (a + 1) l)

/-- A permutation of format X. -/
def permX (f : XForm) (src : Team → Nat → Nat × Int) (s : State) (u : Nat) (t : Team) : State :=
  let d := f.d.toNat
  let ws := (t.active f.m).flatMap fun l => let p := src t l; t.permute f.ty d l f.a.toNat p.1 p.2 (f.pat.getLsbD 5)
  s.emit u t false false (destsV f.ty d) ws 0 false

/-- XLANE (R230, R232): a count outside its limits raises IINS. -/
def execXlane (f : XForm) (s : State) : Out :=
  s.issue (.xlane f) false false fun s u t =>
    let code := (f.pat.extractLsb' 0 5).toNat
    let a := f.a.toNat
    if code = 0 then permX f (fun t l => (a, ((t.elem f.b.toNat l).toNat : Int))) s u t
    else match Fields.param Config.colw t.lanes f.par with
      | none => s.trapAt u .iins
      | some p =>
        if 1024 ≤ p ∨ (code ≠ 1 ∧ p = 0) then s.trapAt u .iins
        else permX f (fun t l => (a, match code with
          | 1 => (p : Int)
          | 2 => (l : Int) - p
          | 3 => (l : Int) + p
          | 4 => (((l + p) % t.lanes : Nat) : Int)
          | _ => ((l ^^^ p : Nat) : Int))) s u t

/-- The byte pattern of XSHUF (R233). -/
def shufBytes (a b : Elem) (sel : BitVec 16) : Elem :=
  let q : Word := b ++ a
  (List.range 4).foldl (fun r k =>
    r ||| ((q >>> (8 * (sel.extractLsb' (3 * k) 3).toNat)).setWidth 8).setWidth 32 <<< (8 * k)) 0

/-- XSHUF (R233). -/
def execXshuf (f : XForm) (s : State) : Out :=
  s.issue (.xshuf f) false false fun s u t =>
    let code := (f.pat.extractLsb' 0 5).toNat
    let a := f.a.toNat
    let b := f.b.toNat
    if code = 4 then
      s.emit u t false false [.v f.d.toNat]
        ((t.active f.m).flatMap fun l => putElem f.d.toNat l (shufBytes (t.elem a l) (t.elem b l) f.par)) 0 false
    else permX f (fun t l =>
      let side (j : Nat) : Nat × Int := if j < t.lanes then (a, (j : Int)) else (b, (j : Int) - t.lanes)
      match code with
      | 0 => (if l % 2 = 0 then a else b, ((l / 2 : Nat) : Int))
      | 1 => (if l % 2 = 0 then a else b, ((t.lanes / 2 + l / 2 : Nat) : Int))
      | 2 => side (2 * l)
      | _ => side (2 * l + 1)) s u t

/-! ### Reductions and scans -/

/-- The element of a lane for a reduction: a pair for `.maxi` and `.mini` (R234). -/
def Team.cElem (t : Team) (code : Nat) (ty : Ty) (a l : Nat) : CElem :=
  { val := t.pat ty a l, idx := if 9 ≤ code then (t.elem (a + 1) l).setWidth 64 else 0 }

/-- The register writes of a result of a reduction (R73, R234). -/
def cWrite (code : Nat) (ty : Ty) (d l : Nat) (x : CElem) : List RegWr :=
  if 9 ≤ code then putPat ty d l x.val ++ putElem (d + 1) l (x.idx.setWidth 32) else putPat ty d l x.val

/-- The destinations of a reduction. -/
def cDests (code : Nat) (ty : Ty) (d : Nat) : List Dest := if 9 ≤ code then [.v d, .v (d + 1)] else destsV ty d

/-- The segment size is a power of two from 2 to 1024 (R234). -/
def segOk (p : Nat) : Bool := (List.range 10).any fun k => p == 2 ^ (k + 1)

/-- XRED and XSCAN (R234 to R236): the result of a lane, with its flags, from its segment's elements and its position. Active lanes alone write and
raise (R169). -/
def segX (i : Instr) (f : XForm) (res : Nat → List (Option CElem) → List (Option CElem × Sticky)) (s : State) : Out :=
  s.issue i false false fun s u t =>
    match Fields.param Config.colw t.lanes f.par with
    | none => s.trapAt u .iins
    | some p =>
      if !segOk p then s.trapAt u .iins
      else
        let code := (f.pat.extractLsb' 0 4).toNat
        let act := t.activeSet f.m
        let rs := (List.range ((t.lanes + p - 1) / p)).map fun g =>
          let xs := (List.range p).map fun k =>
            if act.getLsbD (g * p + k) && decide (g * p + k < t.lanes) then some (t.cElem code f.ty f.a.toNat (g * p + k)) else none
          let zs := (res p xs).zipIdx.filter fun zk => act.getLsbD (g * p + zk.2) && decide (g * p + zk.2 < t.lanes)
          (zs.flatMap fun zk => cWrite code f.ty f.d.toNat (g * p + zk.2) (zk.1.1.getD { val := 0, idx := 0 }),
           zs.foldl (fun a zk => a ||| zk.1.2) 0)
        s.emit u t false false (cDests code f.ty f.d.toNat) (rs.flatMap (·.1)) (rs.foldl (fun a r => a ||| r.2) 0) (decide (6 ≤ code))

/-- XRED (R235). -/
def execXred (f : XForm) (s : State) : Out :=
  segX (.xred f) f (fun p xs =>
    let r := treeReduce (f.pat.extractLsb' 0 4).toNat f.ty (Nat.log2 p) xs
    List.replicate p r) s

/-- XSCAN (R236). -/
def execXscan (f : XForm) (s : State) : Out :=
  segX (.xscan f) f (fun p xs =>
    let r := scanSteps (f.pat.extractLsb' 0 4).toNat f.ty (Nat.log2 p) 0 (xs.map fun x => (x, 0))
    if f.pat.getLsbD 4 then (none, 0) :: r.take (p - 1) else r) s

/-! ### XVOTE -/

/-- The lowest lane of a set below a bound, if there is one. -/
def firstLane (m : Lanes) (n : Nat) : Option Nat := (laneList m n).head?

/-- XVOTE (R237): once per issue. Ballot words beyond the team's last mask word read as zero; the last itself gives its bits of E. (log 79: DEDUCED, unsafe.) -/
def execXvote (f : XForm) (s : State) : Out :=
  s.issue (.xvote f) false false fun s u t =>
    let act := t.activeSet f.m
    let e := t.mask f.a.toNat &&& act
    let x : Word := match (f.pat.extractLsb' 0 5).toNat with
      | 0 => if e != 0 then 1 else 0
      | 1 => if e == act then 1 else 0
      | 2 => BitVec.ofNat 64 (laneList e t.lanes).length
      | 3 => match firstLane e t.lanes with | some l => BitVec.ofNat 64 l | none => 0xFFFFFFFF
      | _ => (e.extractLsb' (32 * f.par.toNat) 32).setWidth 64
    s.emit u t false false [.s f.d.toNat] [.s f.d.toNat x] 0 false

/-! ### XCOL -/

/-- The launch of a team declares gang=core (R238). -/
def State.ganged (s : State) (t : Team) : Bool := match s.launchOf t.wg with | some l => l.gang | none => false

/-- The position of a team's column in its core (R238). -/
def State.position (s : State) (t : Team) : Nat := match s.wg? t.wg with | some g => g.idx % 4 | none => 0

/-- Column and lane from which lane l receives (R239). -/
def xcolSource (code par p l sel : Nat) : Nat × Nat :=
  match code with
  | 0 => (p ^^^ par, l)
  | 1 => ((p + 4 - par) % 4, l)
  | 2 => (par, l)
  | 3 => (sel % 4, l)
  | _ => (l % 4, 4 * (l / 4) + p)

/-- What a team posts (R239): the elements of source a of its live lanes. -/
def Team.posted (t : Team) (k : Nat) (wide : Bool) (a : Nat) : XPost :=
  let lv := t.live &&& t.all
  { k := k, wide := wide, lanes := lv,
    els := (laneList lv t.lanes).foldl (fun st l =>
      let st1 := Store.set st (2 * l) (t.elem a l)
      if wide then Store.set st1 (2 * l + 1) (t.elem (a + 1) l) else st1) [] }

/-- XCOL (R239, R240): the team arrives, posts, and waits. -/
def execXcol (f : XForm) (s : State) : Out :=
  s.issue (.xcol f) false false fun s u t =>
    if !s.ganged t then s.trapAt u .iins
    else
      let code := (f.pat.extractLsb' 0 5).toNat
      let wide := f.ty.wide
      let p := s.position t
      let sel := (t.active f.m).map fun l =>
        (l, xcolSource code f.par.toNat p l (if code = 3 then (t.elem f.b.toNat l).toNat else 0))
      let t1 := ({ t with xcount := t.xcount + 1, xposts := t.xposts ++ [t.posted t.xcount wide f.a.toNat] } : Team).waitFor (.xcol s.nextId)
      ((s.setTeam u t1).addOp u (.xcol t.xcount f.d.toNat wide (f.pat.getLsbD 5) sel) fun o =>
        { o with dests := destsV f.ty f.d.toNat, slot := t.slot }).advance u

/-- XCOL_COMPLETE (R239), for the operation named: every partner has arrived or retired. -/
def execXcolComplete (s : State) : Out :=
  match s.arg with
  | .id n => .next (match s.op? n with
    | some o => if s.xcolDue o then s.endXcol o else s
    | none => s)
  | _ => .next s

end Sys2Proof.Machine
end

