-- ==== Sys2Proof/Machine/GroupOps.lean ====
section
/-!
DEFINITION. Groups: posts and the group barrier (R259 to R266), reduction loads (R267 to R274).
-/

namespace Sys2Proof.Machine

/-! ### The group table and the post slots -/

/-- Entry g of a context's group table. -/
def State.group (s : State) (x g : Nat) : Group :=
  match s.ctx? x with
  | some c => c.groups.getD g { memb := 0, v := false, abs := false }
  | none => { memb := 0, v := false, abs := false }

/-- Core i of the device is a member of a valid group (R259). -/
def Group.has (e : Group) (i : Nat) : Bool := e.v && e.memb.getLsbD i

/-- The column at position p of core i (R260). -/
def columnAt (i p : Nat) : Nat := 4 * i + p

/-- A core is available (R35). -/
def State.coreUp (s : State) (i : Nat) : Bool := !s.unavail.contains i

/-- The member cores of a group, ascending. -/
def Group.members (e : Group) : List Nat := (List.range 128).filter e.has

/-- What a workgroup issued before its open arrival at group g is done: its teams' T-path accesses are performed at dev scope and their LDGs are
complete (R265). -/
def State.gbarSettled (s : State) (w g : Nat) : Bool :=
  match s.wg? w with
  | none => true
  | some wg => wg.gbarK != some g || wg.teams.all fun u => s.performedAt u .T s.seq 4 false &&
      !(s.ops.any fun o => o.team == u && match o.kind with | .ldg _ _ _ _ _ => true | _ => false)

/-- A member column counts as arrived at k (R265); a GBAR at k waits for what the workgroups that arrived at k issued before it.
(log 35: DEDUCED, unsafe.) -/
def State.arrivedAt (s : State) (x g i pos k : Nat) : Bool :=
  let p := s.postSlot x g (columnAt i pos)
  (match p.holder with | some w => decide (k < p.a) || (decide (k = p.a) && s.gbarSettled w g) | none => false) || p.withdrawn || !s.coreUp i

/-- A team's slot is withdrawn while it waits in GBAR (R265): the wait ends, and GABS follows at the next clause boundary, after a trap for an error
response that is pending already. -/
def Team.gbarDrop (t : Team) (now g : Nat) : Team :=
  if t.gbarArr = some g then
    let t1 := ({ t with gbarArr := none } : Team).wakeFrom now (.gbar g)
    if t.st = .retiring ∨ t.st = .retired then t1 else { t1 with pendGabs := true }
  else t

/-- The slot of a column becomes empty and withdrawn (R262); the holder's open arrival is discarded. (log 48: DEDUCED, unsafe.) -/
def State.withdrawPost (s : State) (x g col w : Nat) : State :=
  let s1 := s.setPost col { ctx := x, g := g, holder := none, a := 0, withdrawn := true }
  match s.wg? w with
  | none => s1
  | some wg =>
    if wg.gbarK = some g then
      (wg.teams.foldl (fun s u => s.modTeam u fun t => t.gbarDrop s.now g) s1).modWg w fun wg => { wg with gbarK := none, gbarUp := false }
    else s1

/-- The group that GPOST, GBAR and GQRY name. -/
def groupNo (f : VForm) : Nat := (f.sub.extractLsb' 0 6).toNat

/-- The checks of R263 on GPOST and GBAR: the entry is valid and the issuing core a member. -/
def State.posts (s : State) (t : Team) (g : Nat) : Bool := (s.group (s.ctxOf t) g).has (s.colOf t / 4)

/-- A post or its withdrawal issues (R262 to R264): it is pending until GPOST_TAKES_EFFECT. (log 35: DEDUCED, unsafe.) -/
def gpost (i : Instr) (f : VForm) (wd : Bool) (s : State) : Out :=
  s.issue i false false fun s u t =>
    if !s.posts t (groupNo f) then s.trapAt u .mnul
    else (s.addOp u (.gpost (groupNo f) wd) fun o => { o with slot := t.slot }).advance u

/-- GPOST (R262 to R264). -/
def execGpost (f : VForm) (s : State) : Out := gpost (.gpost f) f false s

/-- GPOST.wd (R262). -/
def execGpostWd (f : VForm) (s : State) : Out := gpost (.gpostWd f) f true s

/-- A pending post or withdrawal takes effect, if it may: a fence whose later path is F holds it (R262, R264, R325). (log 35: DEDUCED, unsafe.) -/
def State.takeEffect (s : State) (o : Op) (g : Nat) (wd : Bool) : State :=
  match s.team? o.team with
  | none => s.delOp o.id
  | some t =>
    let x := s.ctxOf t
    let col := s.colOf t
    let p := s.postSlot x g col
    let earlier := s.ops.any fun q => q.team == o.team && decide (q.seq < o.seq) && match q.kind with | .gpost _ _ => true | _ => false
    if earlier || !s.performedAt o.team .T o.seq 4 false || s.fenceHolds o.team .F o.seq then s
    else if wd then (if p.holder = some t.wg then (s.withdrawPost x g col t.wg).delOp o.id else s.delOp o.id)
    else match p.holder with
      | none => (s.setPost col { p with holder := some t.wg, a := 0, withdrawn := false }).delOp o.id
      | some w => if w = t.wg then s.delOp o.id else s

/-- GPOST_TAKES_EFFECT (R264), for the post named. -/
def execGpostTakesEffect (s : State) : Out :=
  match s.arg with
  | .id n => .next (match s.op? n with
    | some o => match o.kind with
      | .gpost g wd => s.takeEffect o g wd
      | _ => s
    | none => s)
  | _ => .next s

/-- GBAR (R263 to R265): held while an earlier GPOST of its team is pending. -/
def execGbar (f : VForm) (s : State) : Out :=
  s.issue (.gbar f) false false fun s u t =>
    let g := groupNo f
    let col := s.colOf t
    if !s.posts t g then s.trapAt u .mnul
    else if s.ops.any (fun q => q.team == u && match q.kind with | .gpost _ _ => true | _ => false) then s
    else if (s.postSlot (s.ctxOf t) g col).holder != some t.wg then s.trapAt u .gabs
    else if t.gbarArr.isSome || (match (s.wg? t.wg).bind (·.gbarK) with | some k => k != g | none => false) then s.trapAt u .iins
    else
      let t1 := ({ t with gbarArr := some g } : Team).waitFor (.gbar g)
      ((s.setTeam u t1).modWg t.wg fun w => { w with gbarK := some g }).done u

/-- GBAR_COMPLETE (R265), for the workgroup named, once it has arrived: every member column counts as arrived at its count. -/
def execGbarComplete (s : State) : Out :=
  match s.arg with
  | .id w => .next (match s.wg? w with
    | none => s
    | some wg =>
      match wg.gbarK with
      | none => s
      | some g =>
        let x := s.ctxOfWg w
        let p := s.postSlot x g wg.col
        if p.holder = some w ∧ wg.gbarUp = true ∧ (s.group x g).members.all (fun i => s.arrivedAt x g i (wg.col % 4) p.a) then
          let s1 := wg.teams.foldl (fun s u => s.modTeam u fun t =>
            if t.gbarArr = some g then ({ t with gbarArr := none } : Team).wakeFrom s.now (.gbar g) else t) s
          s1.modWg w fun wg => { wg with gbarK := none, gbarUp := false }
        else s)
  | _ => .next s

/-- The word that GQRY returns (R266). -/
def State.gqryWord (s : State) (t : Team) (g : Nat) : Word :=
  let x := s.ctxOf t
  let e := s.group x g
  let col := s.colOf t
  let held (i : Nat) : Bool := (s.postSlot x g (columnAt i (col % 4))).holder.isSome
  let bit (b : Bool) (k : Nat) : Nat := if b then 2 ^ k else 0
  if !e.v then 0
  else BitVec.ofNat 64 (e.members.length + 256 * (e.members.filter s.coreUp).length + 65536 * (e.members.filter held).length +
    bit (e.has (col / 4)) 24 + bit ((s.postSlot x g col).holder == some t.wg) 25 + bit e.abs 26 + bit e.v 27)

/-- GQRY (R266). -/
def execGqry (f : VForm) (s : State) : Out :=
  s.issue (.gqry f) false false fun s u t =>
    s.emit u t false false [.s f.d.toNat] [.s f.d.toNat (s.gqryWord t (groupNo f))] 0 false

/-! ### LDG -/

/-- The group that a group-address pair names, if it has the form of R261. -/
def State.groupOf (s : State) (x : Nat) (a route : Word) : Option Nat :=
  match s.ctx? x with
  | none => none
  | some c =>
    if a.extractLsb' 20 44 = 0 ∧ route.extractLsb' 62 2 = 2 ∧ route.extractLsb' 22 40 = 0 ∧ (route.extractLsb' 10 12).toNat = c.dev ∧
        route.extractLsb' 6 4 = 0 then some (route.extractLsb' 0 6).toNat
    else none

/-- Bytes of a leaf (R267). -/
def leafBytes (code : Nat) (ty : Ty) : Nat := if 9 ≤ code then 8 else ty.bytes

/-- The access that stands for an LDG until its members' presence is sampled (R268). -/
def ldgProbe : Access :=
  { el := 0, lane := 0, path := .F, space := .nowhere .gabs, addr := 0, size := 1, act := .pref, land := .none, lower := false, halves := [] }

/-- LDG issues (R267, R269). -/
def ldg (i : Instr) (f : MForm) (code : Nat) (s : State) : Out :=
  s.issue i f.se f.fs fun s u t =>
    let w := leafBytes code f.ty
    let grp := s.groupOf (s.ctxOf t) (t.scal f.base.toNat) (t.scal (f.base.toNat + 1))
    let ls := (t.active f.m).map fun l => (l, effAddr t f w l)
    (s.addOp u (.ldg grp code f.ty f.d.toNat ls) fun o =>
      { o with flag := selFlag t.hdr f.se f.fs, dests := cDests code f.ty f.d.toNat, acc := [ldgProbe], raiser := decide (6 ≤ code),
               slot := t.slot }).advance u

/-- The place in an LDG's data of the bytes of a leaf. -/
def leafKey (lane core : Nat) : Nat := (lane * 128 + core) * 8

/-- The place in an LDG's data of a leaf's failure: the code of its cause. -/
def leafFail (lane core : Nat) : Nat := 2 ^ 40 + lane * 128 + core

/-- The place in an LDG's data that tells whether a core is a present member. -/
def leafHere (core : Nat) : Nat := 2 ^ 41 + core

/-- The reads of one leaf, one for each 4-byte word (R270, R272); a leaf past its member's allocation fails at once. (log 36: DESIGN CHOICE, unsafe.) -/
def State.leafReads (s : State) (w lane core holder : Nat) (a : Addr) : List Access :=
  if s.checkSpad holder a w != .ok then []
  else (List.range ((w + 3) / 4)).map fun k =>
    { el := (lane * 128 + core) * 2 + k + 1, lane := lane, path := .F, space := .spad holder, addr := a + BitVec.ofNat 64 (4 * k),
      size := min w 4, act := .read, land := .data (leafKey lane core + 4 * k), lower := false, halves := [] }

/-- The presence of the members is sampled once, and every lane gets its error response or its leaves' reads (R268, R269). -/
def State.sampleLdg (s : State) (o : Op) (t : Team) (grp : Option Nat) (w : Nat) (ls : List (Nat × Addr)) : State :=
  let x := s.ctxOf t
  let e := match grp with | some g => s.group x g | none => { memb := 0, v := false, abs := false }
  let holders := (e.members.filter s.coreUp).filterMap fun i =>
    ((s.postSlot x (grp.getD 0) (columnAt i (s.colOf t % 4))).holder).map fun h => (i, h)
  let absent := !e.abs && decide (holders.length < e.members.length)
  let data0 := holders.foldl (fun d h => Store.set (w := 8) d (leafHere h.1) 1) o.data
  let o0 := { o with acc := [], data := data0 }
  let r := ls.foldl (fun (acc : State × Op) la =>
    let fail (c : Cause) : State × Op := (acc.1.giveErr o.team .F la.1 c la.2 o.slot o.seq, acc.2.dropLane la.1)
    if !e.v then fail .mnul
    else if la.2.toNat % w ≠ 0 then fail .maln
    else if absent then fail .gabs
    else
      let past := holders.filter fun h => (s.leafReads w la.1 h.1 h.2 la.2).isEmpty
      (acc.1, { acc.2 with acc := acc.2.acc ++ holders.flatMap fun h => s.leafReads w la.1 h.1 h.2 la.2,
                           data := past.foldl (fun d h => Store.set (w := 8) d (leafFail la.1 h.1) Cause.mbnd.code) acc.2.data })) (s, o0)
  r.1.setOp r.2

/-- MM_PERFORM of an LDG's access: the sample, or one word of a leaf; requests of the team to one location in issue order (R317). -/
def State.performLdg (s : State) (o : Op) (a : Access) (grp : Option Nat) (code : Nat) (ty : Ty) (ls : List (Nat × Addr)) : State :=
  if !o.queued || !s.inOrder o a || s.fenceHolds o.team .F o.seq then s
  else match s.team? o.team with
    | none => s
    | some t =>
      if a.act == .pref then s.sampleLdg o t grp (leafBytes code ty) ls
      else if s.poisonedAt a.space a.addr a.lower a.size then
        let core := (a.el - 1) / 2 % 128
        (s.notePoison o.team a.space a.addr a.lower).setOp { (o.dropEl a.el) with data := Store.set (w := 8) o.data (leafFail a.lane core) Cause.euce.code }
      else s.performRead o a

/-- Ident(op, T) of R269. -/
def identOf (code : Nat) (ty : Ty) : CElem :=
  let inf : Nat := match ty with | .f16 => 0x7C00 | .bf16 => 0x7F80 | .f32 => 0x7F800000 | _ => 0x7FF0000000000000
  let neg : Nat := 2 ^ (ty.width - 1)
  let v (n : Nat) : CElem := { val := BitVec.ofNat 64 n, idx := 0 }
  match code with
  | 0 | 4 | 5 => v 0
  | 1 => { val := lowBits ty.width (ofInt (Fields.maxInt ty)), idx := 0 }
  | 2 => { val := lowBits ty.width (ofInt (Fields.minInt ty)), idx := 0 }
  | 3 => v (2 ^ ty.width - 1)
  | 6 => v neg
  | 7 => v inf
  | 8 => v (neg + inf)
  | 9 => { val := 0xFF800000, idx := 0xFFFFFFFF }
  | _ => { val := 0x7F800000, idx := 0xFFFFFFFF }

/-- The leaf that core i contributes for a lane: ⊥ when it is absent. -/
def Op.leaf (o : Op) (code : Nat) (ty : Ty) (lane core : Nat) : Option CElem :=
  if Store.get (w := 8) o.data (leafHere core) == 0 then none
  else
    let n := if 9 ≤ code then 4 else ty.bytes
    let at_ (k : Nat) (n : Nat) : Word := BitVec.ofNat 64 (natOfBytes (Memory.bytes o.data (leafKey lane core + k) n))
    some { val := at_ 0 n, idx := if 9 ≤ code then at_ 4 4 else 0 }

/-- The cause of the lowest-numbered member whose leaf fails for a lane (R270). -/
def Op.leafCause (o : Op) (lane : Nat) : Option Cause :=
  ((List.range 128).map fun i => Store.get (w := 8) o.data (leafFail lane i)).findSome? fun c =>
    if c = 0 then none else some (if c = Cause.mbnd.code then .mbnd else .euce)

/-- An LDG whose leaves are read combines them, writes its lanes and completes (R269 to R271). -/
def State.finishLdg (s : State) (o : Op) (code : Nat) (ty : Ty) (d : Nat) (ls : List (Nat × Addr)) : State :=
  let r := ls.foldl (fun (acc : State × List RegWr × Sticky) la =>
    if o.errLanes.getLsbD la.1 then acc
    else match o.leafCause la.1 with
      | some c => (acc.1.giveErr o.team .F la.1 c la.2 o.slot o.seq, acc.2.1, acc.2.2)
      | none =>
        let y := treeReduce code ty 7 ((List.range 128).map fun i => o.leaf code ty la.1 i)
        (acc.1, acc.2.1 ++ cWrite code ty d la.1 (y.1.getD (identOf code ty)), acc.2.2 ||| y.2)) (s, [], 0)
  r.1.completeOp { o with writes := r.2.1, raises := r.2.2 }

/-- LDG.add (R267, R269). (log 36: DESIGN CHOICE, unsafe.) -/
def execLdgAdd (f : MForm) (s : State) : Out := ldg (.ldgAdd f) f 0 s
/-- LDG.min (R267, R269). -/
def execLdgMin (f : MForm) (s : State) : Out := ldg (.ldgMin f) f 1 s
/-- LDG.max (R267, R269). -/
def execLdgMax (f : MForm) (s : State) : Out := ldg (.ldgMax f) f 2 s
/-- LDG.and (R267, R269). -/
def execLdgAnd (f : MForm) (s : State) : Out := ldg (.ldgAnd f) f 3 s
/-- LDG.or (R267, R269). -/
def execLdgOr (f : MForm) (s : State) : Out := ldg (.ldgOr f) f 4 s
/-- LDG.xor (R267, R269). -/
def execLdgXor (f : MForm) (s : State) : Out := ldg (.ldgXor f) f 5 s
/-- LDG.fadd (R267, R269). -/
def execLdgFadd (f : MForm) (s : State) : Out := ldg (.ldgFadd f) f 6 s
/-- LDG.fmin (R267, R269). -/
def execLdgFmin (f : MForm) (s : State) : Out := ldg (.ldgFmin f) f 7 s
/-- LDG.fmax (R267, R269). -/
def execLdgFmax (f : MForm) (s : State) : Out := ldg (.ldgFmax f) f 8 s
/-- LDG.maxi (R267, R269). -/
def execLdgMaxi (f : MForm) (s : State) : Out := ldg (.ldgMaxi f) f 9 s
/-- LDG.mini (R267, R269). -/
def execLdgMini (f : MForm) (s : State) : Out := ldg (.ldgMini f) f 10 s

end Sys2Proof.Machine
end

