-- ==== Sys2Proof/Machine/Curator.lean ====
section
/-!
DEFINITION. The Curator's counters, cancellation and launch records (R52 to R54, R66, R391 to R398, R402).
-/

namespace Sys2Proof.Machine

/-! ### Counters -/

/-- A begun unit whose counter is zero is complete; a phase that completes with no next phase completes the phases still missing (R53,
R398). (log 50: DEDUCED, safe.) -/
def State.settleUnit (s : State) (k : Nat) : State :=
  match s.unit? k with
  | none => s
  | some c =>
    if !c.begun || c.done || c.counter ≠ 0 then s
    else
      let s1 := s.modUnit k fun c => { c with done := true }
      match c.level, c.parent with
      | .phase, some j => s1.modUnit j fun q =>
          if q.parts.length = c.order + 1 then { q with counter := q.counter - (q.want - q.parts.length), want := q.parts.length } else q
      | _, _ => s1

/-- A counter falls by n (R402). -/
def State.decrement (s : State) (k n : Nat) : State := (s.modUnit k fun c => { c with counter := c.counter - n }).settleUnit k

/-- Every store and atomic of a workgroup has been performed at dev scope (R53, R66). -/
def State.wgPerformed (s : State) (g : Workgroup) : Bool :=
  g.teams.all fun u => [Path.T, Path.C, Path.M, Path.F].all fun p => s.performedAt u p s.seq 4 false

/-- A LNCH of a workgroup has not been answered. -/
def State.wgLnch (s : State) (g : Workgroup) : Bool :=
  s.ops.any fun o => g.teams.contains o.team && match o.kind with | .lnch _ _ => true | _ => false

/-- The launch counter may count a workgroup (R66, R396). -/
def State.wgCounts (s : State) (w : Nat) (g : Workgroup) : Bool :=
  (g.st == .retired || g.st == .dropped) && !g.counted && s.wgPerformed g && (!s.isDet w || g.released) && !s.wgLnch g &&
    g.children.all fun k => match s.unit? k with | some c => c.done | none => true

/-- COUNTER_DECREMENT (R66, R402), for the workgroup or unit named. -/
def execCounterDecrement (s : State) : Out :=
  match s.arg with
  | .part (.workgroup w) => .next (match s.wg? w with
    | some g => if s.wgCounts w g then (s.modWg w fun g => { g with counted := true }).decrement g.launch 1 else s
    | none => s)
  | .part (.unit k) => .next (match s.unit? k with
    | some c => (match c.parent with
      | some p => (match s.unit? p with
        | some q => if c.done && !c.counted && q.begun then (s.modUnit k fun c => { c with counted := true }).decrement p 1 else s
        | none => s)
      | none => s)
    | none => s)
  | _ => .next s

/-! ### Beginning -/

/-- The node of a graph with index i is complete. -/
def State.nodeDone (s : State) (q : Completion) (i : Nat) : Bool :=
  q.parts.any fun k => match s.unit? k with
    | some c => c.done && (match c.launch with | some l => l.node == i | none => false)
    | none => false

/-- The workgroup that issued the LNCH of a launch lets it start: one of a `.det` launch has been released (R339). -/
def State.creatorLets (s : State) (l : Launch) : Bool :=
  match l.creator with
  | some w => !s.isDet w || (match s.wg? w with | some g => g.released | none => true)
  | none => true

/-- A unit may begin (R395). -/
def State.mayBegin (s : State) (c : Completion) : Bool :=
  let up := match c.parent with | some p => (match s.unit? p with | some q => q.begun | none => false) | none => true
  !c.begun && up &&
    match c.level, c.launch with
    | .launch, some l => s.creatorLets l && (match c.parent.bind s.unit? with
        | some q => (List.range 32).all fun i => !l.pred.getLsbD i || s.nodeDone q i
        | none => true)
    | .graph, _ => c.parts.length == c.want
    | .phase, _ => c.parts.length == c.want && (c.order == 0 || (match c.parent.bind s.unit? with
        | some q => q.parts.any fun k => match s.unit? k with | some d => d.order + 1 == c.order && d.done | none => false
        | none => false))
    | _, _ => false

/-- A unit begins: its counter is set (R395). -/
def Completion.begin (c : Completion) : Completion :=
  { c with begun := true, counter := match c.launch with | some l => l.g | none => c.want }

/-- UNIT_BEGIN (R395), for the unit named. -/
def execUnitBegin (s : State) : Out :=
  match s.arg with
  | .id k => .next (match s.unit? k with
    | some c => if s.mayBegin c then s.modUnit k Completion.begin else s
    | none => s)
  | _ => .next s

/-! ### Cancellation -/

/-- Clear the slot-table entry of a workgroup (R66). -/
def State.clearSlot (s : State) (col w : Nat) : State :=
  s.modCol col fun k => { k with slots := k.slots.map fun e => if e.valid && e.w == w then { e with valid := false, rst := false } else e }

/-- Every held post slot of a column that a workgroup holds is withdrawn (R262). (log 48: DEDUCED, unsafe.) -/
def State.withdrawAll (s : State) (col w : Nat) : State :=
  ((s.column col).posts.filter fun p => p.holder == some w).foldl (fun s p => s.withdrawPost p.ctx p.g col w) s

/-- A CANCEL reaches one workgroup (R54): what it has staged, and what it stages afterwards, is discarded. A team that has CNCL pending, or has taken
it, is not called again; one that has started no clause yet takes CNCL at its first boundary (R402). -/
def State.cancelWg (s : State) (w : Nat) (g : Workgroup) : State :=
  let s1 := s.modWg w fun g => { g with staged := [], cancelled := true }
  match g.st with
  | .bound => (s1.clearSlot g.col w).modWg w fun g => { g with st := .dropped, counted := true, released := true }
  | .saved =>
    let s2 := ((s1.clearSlot g.col w).withdrawAll g.col w).modWg w fun g => { g with st := .dropped, savedMx := none }
    let s3 := g.teams.foldl (fun s u => s.modTeam u fun t => { t with st := .retired, bank := none }) s2
    { s3 with ops := s3.ops.filter fun o => !(g.teams.contains o.team && match o.kind with | .lnch _ _ | .cancel _ => false | _ => true) }
  | .resident =>
    let called := g.teams.filter fun u => match s.team? u with
      | some t => t.st != .retired && !t.pendCncl && t.trapCause.extractLsb' 0 8 != Cause.cncl.code
      | none => false
    let new := called.filter fun u => match s.team? u with | some t => !t.started && t.hdr == 0 | none => false
    new.foldl (fun s u => s.modTeam u fun t => t.postCncl s.now) (s1.modWg w fun g => { g with cncl := called.filter fun u => !new.contains u })
  | .unbound | .retired | .dropped => s1

/-- A CANCEL reaches a launch (R54, R402): its workgroups that are not resident never run, and count as retired. (log 51: DEDUCED, unsafe.) -/
def State.cancelLaunch (s : State) (k : Nat) (c : Completion) : State :=
  let mine := s.wgs.filter fun e => e.2.launch == k
  let bound := (mine.filter fun e => e.2.st == .bound).length
  let total := match c.launch with | some l => l.g | none => 0
  let s1 := mine.foldl (fun s e => s.cancelWg e.1 e.2) s
  (s1.modUnit k fun c =>
    { c with cancelled := true, dropped := true, begun := true,
             counter := if c.begun then c.counter - bound - (total - mine.length) else 0 }).settleUnit k

/-- The units above a unit, looking no more than `fuel` levels up. (log 51: DEDUCED, unsafe.) -/
def State.ancestors (s : State) : Nat → Nat → List Nat
  | 0, _ => []
  | fuel + 1, k =>
    match (s.unit? k).bind s.above with
    | some p => p :: State.ancestors s fuel p
    | none => []

/-- CANCEL of a unit (R53, R54): no effect on a complete unit or a second time. (log 51: DEDUCED, unsafe.) -/
def State.cancelUnit (s : State) (k : Nat) : State :=
  match s.unit? k with
  | none => s
  | some c =>
    if c.done || c.dropped then s
    else
      let fuel := s.units.length + 1
      let under := s.units.filter fun e => !e.2.done && !e.2.dropped && s.beneath k fuel e.1
      let s1 := under.foldl (fun s e =>
        if e.2.level == .launch then s.cancelLaunch e.1 e.2 else s.modUnit e.1 fun c => { c with cancelled := true, dropped := true }) s
      (s.ancestors fuel k).foldl (fun s p => s.modUnit p fun c => if c.done then c else { c with cancelled := true }) s1

/-- The head of the intake FIFO, once the clk in which it entered is over: nothing that arrives later comes before it (R391). -/
def State.intakeHead (s : State) : Option (Arrival × List Arrival) :=
  match s.intake with
  | a :: rest => if a.clk < s.now then some (a, rest) else none
  | [] => none

/-- CANCEL_REQUEST (R402): the head of the intake FIFO, if it is a cancel request. -/
def execCancelRequest (s : State) : Out :=
  .next (match s.intakeHead with
    | some (a, rest) => (match a.entry with
      | .cancel x h =>
        let s1 := { s with intake := rest }
        (match s1.handleUnit x h with
        | some k => s1.cancelUnit k
        | none => s1)
      | .record _ _ _ _ => s)
    | none => s)

/-- CNCL_DELIVERY (R402), for the team named. -/
def execCnclDelivery (s : State) : Out :=
  match s.arg with
  | .id u => .next (match s.team? u with
    | some t => (match s.wg? t.wg with
      | some g =>
        if g.st == .resident && g.cncl.contains u then
          (s.modWg t.wg fun g => { g with cncl := g.cncl.filter (· != u) }).modTeam u fun t => t.postCncl s.now
        else s
      | none => s)
    | none => s)
  | _ => .next s

/-! ### Launch records -/

/-- A field of a launch record (R392): bits hi to lo of word k. -/
def recField (ws : List Word) (k hi lo : Nat) : Nat := ((ws.getD k 0).toNat / 2 ^ lo) % 2 ^ (hi + 1 - lo)

/-- The least identifier that no unit has; the Curator's choice otherwise (log 9). (log 9: DESIGN CHOICE, safe.) -/
def State.freshIdent (s : State) : BitVec 32 :=
  let used (x : BitVec 32) : Bool := x == 0 || s.units.any fun e => e.2.ident == x
  let c := Config.unitId s.free
  if used c then ((((List.range (s.units.length + 2)).map fun i => BitVec.ofNat 32 i).find? fun x => !used x).getD 0) else c

/-- Add a unit; its key is the number that was next. -/
def State.addUnit (s : State) (c : Completion) : State :=
  { s with units := s.units ++ [(s.nextId, { c with ident := s.freshIdent })], nextId := s.nextId + 1, free := s.free + 1 }

/-- A unit with nothing in it. -/
def Completion.blank (lv : Level) (x : Nat) : Completion :=
  { ident := 0, level := lv, ctx := x, counter := 0, cancelled := false, dropped := false, begun := false, done := false, counted := false,
    want := 0, parts := [], parent := none, order := 0, launch := none }

/-- The unit at a level that holds a launch (R392), looking no more than `fuel` levels up. -/
def State.ownAt (s : State) (lv : Level) : Nat → Nat → Option Nat
  | 0, _ => none
  | fuel + 1, k =>
    match s.unit? k with
    | none => none
    | some c =>
      if c.level == lv then some k
      else match c.parent with
        | some p => State.ownAt s lv fuel p
        | none => if lv == .graph then none else (match c.launch.bind (·.creator) with
          | some w => State.ownAt s lv fuel (s.launchKey w)
          | none => none)

/-- The launch whose team issued a record. -/
def State.issuerLaunch (s : State) (op : Option Nat) : Option Nat :=
  ((op.bind s.op?).bind fun o => s.team? o.team).map fun t => s.launchKey t.wg

/-- The handle of a unit; the null handle without one. -/
def State.handleOf (s : State) (k : Option Nat) : Word := match k.bind s.unit? with | some c => c.handle | none => 0

/-- The LNCH of a record receives a handle (R134, R391). -/
def State.answerLnch (s : State) (op : Option Nat) (h : Word) : State :=
  match op.bind s.op? with
  | some o => (match o.kind with
    | .lnch d _ => s.completeOp { o with writes := [.s d h] }
    | _ => s)
  | none => s

/-- A record is rejected (R134, R397): its handle's counter reads zero with status cancelled. A root launch is a complete node of its graph. (log 53: DESIGN CHOICE, unsafe.) -/
def State.rejectRecord (s : State) (lv : Level) (x : Nat) (op : Option Nat) (parent : Option Nat) : State :=
  let k := s.nextId
  let s1 := s.addUnit { Completion.blank lv x with cancelled := true, begun := true, done := true, parent := parent }
  let s2 := match parent with | some p => s1.modUnit p fun c => { c with parts := c.parts ++ [k] } | none => s1
  s2.answerLnch op (s2.handleOf (some k))

/-- The stores that the issuing team made before its LNCH are performed at dev scope (R134, R393). (log 40: DEDUCED, unsafe.) -/
def State.recordReady (s : State) (op : Option Nat) : Bool :=
  match op.bind s.op? with
  | some o => s.performedAt o.team .T o.seq 4 false
  | none => true

/-- How the processing of the head of the intake ends: it is done, or stays at the head with what has been done for it so far. -/
inductive Processed where
  | done (s : State)
  | later (s : State)
deriving DecidableEq, Repr, Inhabited

/-- The head of the intake FIFO is processed, if it is a record of a kind (R391, R392). -/
def State.processRecord (s : State) (kind : Nat)
    (body : State → Nat → Option Nat → List Word → Option JobDesc → Processed) : Out :=
  .next (match s.intakeHead with
    | some (a, rest) => (match a.entry with
      | .record x op ws desc =>
        if recField ws 5 33 32 ≠ kind ∨ !s.recordReady op then s
        else (match body { s with intake := rest } x op ws desc with
          | .done s1 => s1
          | .later s1 => { s1 with intake := s.intake })
      | .cancel _ _ => s)
    | none => s)

/-- Every field but those of G, KIND, QLVL and PARENT is zero. (log 15: DEDUCED, unsafe.) -/
def recSpare (ws : List Word) : Bool :=
  ws.getD 0 0 == 0 && ws.getD 1 0 == 0 && recField ws 2 63 32 == 0 && ws.getD 3 0 == 0 && ws.getD 4 0 == 0 && recField ws 5 31 0 == 0 &&
    recField ws 5 63 36 == 0 && ws.getD 7 0 == 0

/-- The parent unit that a KIND 1 or KIND 2 record names (R392): the issuing launch's own phase or job when it is null. -/
def State.recParent (s : State) (lv : Level) (x : Nat) (op : Option Nat) (h : Word) : Option Nat :=
  if h = 0 then (s.issuerLaunch op).bind fun k => s.ownAt lv (s.units.length + 1) k
  else (s.handleUnit x h).bind fun k => match s.unit? k with | some c => if c.level == lv then some k else none | none => none

/-- A new graph or phase is attached to its parent (R395); one whose parent a CANCEL has reached is reached too (R54). -/
def State.attach (s : State) (lv : Level) (x : Nat) (op : Option Nat) (p : Nat) (c : Completion) (want : Nat) : State :=
  let k := s.nextId
  let s1 := s.addUnit { Completion.blank lv x with want := want, counter := want, parent := some p, order := c.parts.length, dropped := c.dropped,
                                                   cancelled := c.dropped }
  let s2 := s1.modUnit p fun c => { c with parts := c.parts ++ [k] }
  s2.answerLnch op (s2.handleOf (some k))

/-- RECORD_NEW_GRAPH (R392, R397). -/
def execRecordNewGraph (s : State) : Out :=
  s.processRecord 1 fun s x op ws _ => .done
    (let g := recField ws 2 31 0
     match (s.recParent .phase x op (ws.getD 6 0)).bind fun p => (s.unit? p).map fun c => (p, c) with
     | some (p, c) =>
       if recSpare ws && recField ws 5 35 34 == 0 && decide (1 ≤ g) && decide (g ≤ 32) && !c.begun && decide (c.parts.length < c.want) then
         s.attach .graph x op p c g
       else s.rejectRecord .graph x op none
     | none => s.rejectRecord .graph x op none)

/-- RECORD_NEW_PHASE (R392, R395, R397, R398): a job that has all its phases takes no more. -/
def execRecordNewPhase (s : State) : Out :=
  s.processRecord 2 fun s x op ws _ => .done
    (let g := recField ws 2 31 0
     match (s.recParent .job x op (ws.getD 6 0)).bind fun p => (s.unit? p).map fun c => (p, c) with
     | some (p, c) =>
       if recSpare ws && recField ws 5 35 34 == 0 && decide (1 ≤ g) && !c.done && decide (c.parts.length < c.want) then
         s.attach .phase x op p c g
       else s.rejectRecord .phase x op none
     | none => s.rejectRecord .phase x op none)

/-- The level of a code (R133). -/
def levelOf : Nat → Level
  | 0 => .launch
  | 1 => .graph
  | 2 => .phase
  | _ => .job

/-- RECORD_QUERY (R392): the handle of the issuing launch's own unit at a level. -/
def execRecordQuery (s : State) : Out :=
  s.processRecord 3 fun s x op ws _ => .done
    (if recSpare ws && recField ws 2 31 0 == 0 && ws.getD 6 0 == 0 then
      s.answerLnch op (s.handleOf ((s.issuerLaunch op).bind fun k => s.ownAt (levelOf (recField ws 5 35 34)) (s.units.length + 1) k))
    else s.rejectRecord .launch x op none)

/-! ### Launches -/

/-- The field rules of a KIND 0 record (R392). (log 15: DEDUCED, unsafe.) (log 54: DEDUCED, unsafe.) -/
def launchFieldsOk (ws : List Word) : Bool :=
  decide (recField ws 2 31 0 ≠ 0) && decide (recField ws 2 63 32 ≤ 0xFFFFFFFE) &&
    (decide (recField ws 2 63 32 = 0) == decide (recField ws 3 31 0 = 0)) && (recField ws 5 41 41 == 1 || recField ws 5 31 0 == 0) &&
    recField ws 5 35 34 == 0 && decide (recField ws 5 44 42 ≤ 4) && recField ws 5 63 45 == 0 && recField ws 7 63 32 % 32 == 0 &&
    (ws.getD 6 0 != 0 || (recField ws 5 40 36 == 0 && recField ws 7 31 0 == 0))

/-- A byte of an object lies in a page of it that is executable and present in a column, within the fitted capacity (R5, R397). -/
def State.inCode (s : State) (x col : Nat) (a : Addr) : Bool :=
  match s.obj? x (objId a) col with
  | none => false
  | some o =>
    let e := s.pte (pageRef x (objId a) 0 col (offOf a) false) o
    decide (offOf a / Config.pageBytes * Config.pageBytes < o.bound) && e.x && e.p && !s.pastFitted e && e.col == col

/-- The kernel descriptor of a kernel entry (R394), if KADDR - 64 to KADDR + 63 lie in executable pages of one code object (R397); none too when
the descriptor carries poison. (log 55: DESIGN CHOICE, unsafe.) -/
def State.kernelDesc (s : State) (x col : Nat) (k : Addr) : Option (List Word) :=
  match s.obj? x (objId k) col with
  | none => none
  | some o =>
    let d := k - 64
    if objId k = 0 ∨ !o.code ∨ k.toNat % 64 ≠ 0 ∨ offOf k < 64 ∨ !s.inCode x col d ∨ !s.inCode x col k then none
    else match s.physAt (.slice x col 0) d false with
      | none => none
      | some key => if s.poisoned key 64 then none else some ((List.range 8).map fun i => BitVec.ofNat 64 (natOfBytes (Memory.bytes s.mem (key + 8 * i) 8)))

/-- The shape of a descriptor (R85, R394). -/
def descShape (d : List Word) : Shape :=
  { lanes := recField d 0 10 0, nv := recField d 0 24 16, ns := recField d 0 39 32, twg := recField d 0 43 40, spad := recField d 0 63 44 }

/-- A shape keeps the limits of R10. -/
def Shape.ok (h : Shape) : Bool :=
  decide (8 ≤ h.lanes) && decide (h.lanes ≤ 1024) && h.lanes % 8 == 0 && decide (1 ≤ h.twg) && decide (h.twg ≤ 8) &&
    decide (h.spad ≤ Config.spadBytes) && h.spad % 256 == 0 && decide (8 ≤ h.nv) && decide (h.nv ≤ 256) && h.nv % 8 == 0 &&
    decide (1 ≤ h.ns) && decide (h.ns ≤ 128) && decide (h.twg * h.nv * h.lanes ≤ Config.columnVregs)

/-- Byte j of PMAP (R394). -/
def pmapByte (d : List Word) (j : Nat) : Nat := recField d (2 + j / 8) (8 * (j % 8) + 7) (8 * (j % 8))

/-- A descriptor keeps R394, R10 and R276. -/
def descOk (d : List Word) : Bool :=
  let h := descShape d
  let n := recField d 1 22 17
  h.ok && recField d 0 15 11 == 0 && recField d 0 31 25 == 0 && recField d 1 63 23 == 0 && (recField d 1 7 0 == 0 || recField d 1 7 0 == Config.colw) &&
    !(recField d 1 9 9 == 1 && recField d 1 10 10 == 1) && decide (n ≤ 48) && (List.range n).all fun j => decide (pmapByte d j < h.ns)

/-- Workgroups of a shape that one column holds at once (R55). -/
def Shape.perColumn (h : Shape) : Nat :=
  min (32 / h.twg) (min (Config.columnVregs / (h.twg * h.nv * h.lanes)) (if h.spad = 0 then 32 else Config.spadBytes / h.spad))

/-- The logical cores that a context may use: those of its partition that are available (R35, R417). -/
def State.usableCores (s : State) (x : Nat) : List Nat :=
  match s.ctx? x with
  | none => []
  | some c => (List.range 128).filter fun i => inPartition s.nPart c.part (4 * i) && s.coreUp i

/-- A launch can be bound (R70, R238, R276, R417). -/
def State.bindable (s : State) (x : Nat) (h : Shape) (g p : Nat) (gang : Bool) (grp : Option Nat) : Bool :=
  let cores := s.usableCores x
  match grp with
  | some k =>
    let e := s.group x k
    e.v && decide (g ≤ e.members.length) && (e.members.take g).all cores.contains
  | none =>
    if gang then g % 4 == 0 && !cores.isEmpty && (p == 0 || decide (g / 4 ≤ cores.length * h.perColumn))
    else !cores.isEmpty && (p == 0 || decide (g ≤ 4 * cores.length * h.perColumn))

/-- How a read of the Curator ends: it must wait, fails, or takes a word. -/
inductive CRead where
  | wait
  | fail
  | word (w : Word)
deriving DecidableEq, Repr, Inhabited

/-- Word at byte `off` of the argument block (R393): read on path T for the issuing team; for a root record, which no team issues, in the home
column of the block's object. (log 55: DESIGN CHOICE, unsafe.) -/
def State.readArg (s : State) (x : Nat) (op : Option Nat) (base : Addr) (off : Nat) : CRead :=
  let a := base + BitVec.ofNat 64 off
  match op with
  | none =>
    let col := match s.obj? x (objId a) 0 with | some o => o.bcol | none => 0
    let sp : Space := .slice x col 0
    if objId a = 0 ∨ s.check x 0 col a 8 false false [false] 8 ≠ .ok ∨ s.poisonedAt sp a false 8 = true then .fail
    else .word (BitVec.ofNat 64 (natOfBytes (s.readMem sp a false 8)))
  | some n =>
    match s.op? n with
    | none => .fail
    | some o => match s.team? o.team with
      | none => .fail
      | some t =>
        let acc := s.sliceAcc o.team t a 0 8 .read .none
        match s.checkAccess o.team acc with
        | .ok => (match s.readValue o.team .T acc.space false a 8 with
          | none => .wait
          | some r => if r.2 then .fail else .word (BitVec.ofNat 64 (natOfBytes r.1)))
        | .err _ | .precise _ => .fail

/-- The words at some offsets: all of them, or how the first that is not read ends. -/
def readArgs (rd : Nat → CRead) : List Nat → Except CRead (List Word)
  | [] => .ok []
  | k :: ks => match rd k with
    | .word w => (match readArgs rd ks with | .ok r => .ok (w :: r) | .error e => .error e)
    | e => .error e

/-! ### Reservations -/

/-- A reservation entry of R340 as the launch keeps it: in use, counter, width 64 bits, old value, counts (one for all when uniform). -/
abbrev ResvEntry := Bool × Addr × Bool × Nat × List Nat

/-- The count table of an entry whose counter is on this device (R341): none when a read fails its checks. -/
def State.resvCounts (s : State) (x col g : Nat) (e : List Word) : Option (List Nat) :=
  let ta := e.getD 2 0
  if objId ta = 0xFFFF then some [recField e 3 31 0]
  else if objId ta = 0 then none
  else
    let at_ (i : Nat) : Addr := ta + BitVec.ofNat 64 (4 * i)
    if (List.range g).all fun i => s.check x 0 col (at_ i) 4 false false [false] 4 == .ok && !s.poisonedAt (.slice x col 0) (at_ i) false 4 then
      some ((List.range g).map fun i => natOfBytes (s.readMem (.slice x col 0) (at_ i) false 4))
    else none

/-- The counter's page must first be mapped, or, where the add passes its checks, copied: the Curator's add waits as a far access does (R370, R381). -/
def State.resvWaits (s : State) (x : Nat) (e : List Word) : Bool :=
  let ca := e.getD 0 0
  let n := if recField e 3 32 32 = 1 then 8 else 4
  recField e 3 33 33 == 1 && match s.farSpace x ca (e.getD 1 0) with
    | .slice _ col _ =>
      let k := s.check x 0 col ca n true false [false] n
      k == .precise .pftp || (k == .ok && s.sharedPage (.slice x col 0) ca false)
    | _ => false

/-- The page of an entry's counter on this device. -/
def State.resvPage (s : State) (x : Nat) (e : List Word) : Option PageRef :=
  match s.farSpace x (e.getD 0 0) (e.getD 1 0) with
  | .slice _ col _ => some (pageRef x (objId (e.getD 0 0)) 0 col (offOf (e.getD 0 0)) false)
  | _ => none

/-- How the Curator's reservation for one entry ends: it waits for another device, the launch must be rejected, or the entry as the launch keeps
it. -/
inductive ResvStep where
  | wait (s : State)
  | no (s : State)
  | ok (s : State) (r : ResvEntry)
deriving DecidableEq, Repr, Inhabited

/-- The sum of the counts of G workgroups (R341). -/
def resvTotal (g : Nat) (cs : List Nat) : Nat := if cs.length = 1 then g * cs.getD 0 0 else cs.sum

/-- The bytes of a reservation's counter. -/
def resvBytes (e : List Word) : Nat := if recField e 3 32 32 = 1 then 8 else 4

/-- The type of a reservation's counter. -/
def resvTy (e : List Word) : Ty := if recField e 3 32 32 = 1 then .n64 else .n32

/-- The entry as the launch keeps it, unless the old value and the sum exceed the width (R341). -/
def State.resvDone1 (s : State) (e : List Word) (old total : Nat) (cs : List Nat) : ResvStep :=
  if 2 ^ (8 * resvBytes e) ≤ old + total then .no s else .ok s (true, e.getD 0 0, recField e 3 32 32 == 1, old, cs)

/-- A request of the Curator to another device (R341). (log 13: DESIGN CHOICE, safe.) -/
def State.askRemote (s : State) (sp : Space) (a : Addr) (n : Nat) (act : Act) : State :=
  let b : BufWrite :=
    { id := s.nextId, agent := .team 0, team := 0, path := .F, seq := s.seq, op := 0, el := 0, lane := 0, slot := 0, space := sp, addr := a,
      lower := false, act := act, land := .none, size := n, stage := 3, die := 0, num := 0, stamp := [], spec := false, probe := false, before := [] }
  { s.fresh.sendRemote b with resvAsk := s.resvAsk ++ [(s.nextId, none)] }

/-- The reservation of an entry whose counter is on another device (R341): the table is read there, then the sum is added, and each answer is
awaited. (log 13: DESIGN CHOICE, safe.) -/
def State.reserveFar (s : State) (g : Nat) (e : List Word) (sp : Space) : ResvStep :=
  let ta := e.getD 2 0
  let reads := if objId ta = 0xFFFF then 0 else g
  if s.resvAsk.length < reads then
    .wait ((List.range reads).foldl (fun s i => s.askRemote sp (ta + BitVec.ofNat 64 (4 * i)) 4 .read) s)
  else if s.resvAsk.any fun q => q.2.isNone then .wait s
  else if s.resvAsk.any fun q => q.2 == some none then .no s
  else
    let val (q : Nat × Option (Option (List Byte))) : Nat := match q.2 with | some (some bs) => natOfBytes bs | _ => 0
    let cs := if objId ta = 0xFFFF then [recField e 3 31 0] else (s.resvAsk.take reads).map val
    let total := resvTotal g cs
    if 2 ^ (8 * resvBytes e) ≤ total then .no s
    else match s.resvAsk.drop reads with
      | [] => .wait (s.askRemote sp (e.getD 0 0) (resvBytes e) (.atomic .add (resvTy e) (bytesOfNat total (resvBytes e)) []))
      | q :: _ => s.resvDone1 e (val q) total cs

/-- The Curator reserves for one entry (R341). (log 54: DEDUCED, unsafe.) -/
def State.reserve (s : State) (x g : Nat) (e : List Word) : ResvStep :=
  let ca := e.getD 0 0
  let n := resvBytes e
  if recField e 3 63 34 ≠ 0 then .no s
  else if recField e 3 33 33 = 0 then .ok s (false, 0, false, 0, [])
  else match s.farSpace x ca (e.getD 1 0) with
    | .slice y col v =>
      match s.resvCounts x col g e with
      | none => .no s
      | some cs =>
        let total := resvTotal g cs
        if 2 ^ (8 * n) ≤ total ∨ s.check x 0 col ca n true false [false] n ≠ .ok ∨ s.poisonedAt (.slice y col v) ca false n = true then .no s
        else
          let r := s.atomicAt (.team 0) .F (.slice y col v) ca .add (resvTy e) (bytesOfNat total n) []
          r.1.resvDone1 e (natOfBytes r.2.1) total cs
    | .remote dev col y => s.reserveFar g e (.remote dev col y)
    | .spad _ | .nowhere _ => .no s

/-- What the Curator has done for the reservations of the record at the head is forgotten. -/
def State.resvClear (s : State) : State := { s with resvDone := [], resvAsk := [], resvWant := [] }

/-- The entries not yet reserved, in turn (R341); those already reserved stay in `resvDone`. (log 54: DEDUCED, unsafe.) -/
def State.reserveAll (s : State) (x g : Nat) : List (List Word) → ResvStep
  | [] => .ok s (false, 0, false, 0, [])
  | e :: es =>
    match s.reserve x g e with
    | .ok s1 r => State.reserveAll { s1 with resvDone := s1.resvDone ++ [r], resvAsk := [] } x g es
    | z => z

/-! ### Acceptance -/

/-- The graph that a KIND 0 record names, if the record may be attached to it (R397). -/
def State.recGraph (s : State) (x : Nat) (ws : List Word) : Option (Nat × Completion) :=
  match (s.handleUnit x (ws.getD 6 0)).bind fun k => (s.unit? k).map fun c => (k, c) with
  | none => none
  | some (k, c) =>
    let node := recField ws 5 40 36
    let taken := c.parts.any fun j => match (s.unit? j).bind (·.launch) with | some l => l.node == node | none => false
    let pred := recField ws 7 31 0
    if c.level == .graph && !c.begun && decide (node < c.want) && !taken && decide (c.parts.length < c.want) && decide (pred < 2 ^ c.want) &&
        !pred.testBit node then some (k, c) else none

/-- The column in which a record's kernel is looked up: that of the issuing team, or the home column of the code object. (log 55: DESIGN CHOICE, unsafe.) -/
def State.recColumn (s : State) (x : Nat) (op : Option Nat) (k : Addr) : Nat :=
  match (op.bind s.op?).bind fun o => s.team? o.team with
  | some t => s.colOf t
  | none => match s.obj? x (objId k) 0 with | some o => o.bcol | none => 0

/-- A launch as its record and kernel descriptor fix it (R392, R394). -/
def launchOfRec (ws d : List Word) (params : List (Nat × Word)) (creator : Option Nat) (free : Bool) (rs : List ResvEntry) : Launch :=
  { kaddr := ws.getD 0 0, shape := descShape d, params := params, g := recField ws 2 31 0, p := recField ws 2 63 32, q := recField ws 3 31 0,
    priv := recField ws 3 63 32, seed := ws.getD 4 0, stage := recField ws 5 31 0, det := recField ws 5 41 41 == 1, gang := recField d 1 9 9 == 1,
    group := if recField d 1 10 10 = 1 then some (recField d 1 16 11) else none, node := recField ws 5 40 36,
    pred := BitVec.ofNat 32 (recField ws 7 31 0), creator := creator, free := free, resv := rs, fl := 0 }

/-- A CANCEL has reached what a new launch is part of (R54, R396). -/
def State.bornDropped (s : State) (graph : Option Nat) (creator : Option Nat) : Bool :=
  match graph with
  | some g => (match s.unit? g with | some c => c.dropped | none => false)
  | none => match creator with
    | some w => (match s.unit? (s.launchKey w) with | some c => c.dropped | none => false)
    | none => false

/-- A launch is accepted (R134, R396): it joins its graph, or is a free launch of the workgroup that issued it. -/
def State.acceptLaunch (s : State) (x : Nat) (op : Option Nat) (graph : Option Nat) (l : Launch) (dropped : Bool) : State :=
  let k := s.nextId
  let order := match graph.bind s.unit? with | some c => c.parts.length | none => 0
  let s1 := s.addUnit { Completion.blank .launch x with parent := graph, order := order, launch := some l, counter := if dropped then 0 else l.g, cancelled := dropped, dropped := dropped,
                                                        begun := dropped, done := dropped }
  let s2 := match graph with
    | some g => s1.modUnit g fun c => { c with parts := c.parts ++ [k] }
    | none => match l.creator with
      | some w => s1.modWg w fun g => { g with children := g.children ++ [k] }
      | none => s1
  s2.answerLnch op (s2.handleOf (some k))

/-- A KIND 0 record that passes the checks of its own fields and its parent (R397): its kernel, arguments and, for a `.det` launch, reservations
(R332, R340). ARGS is null for a kernel without parameters (R392). It stays at the head while a read or an answer must be awaited. -/
def State.launchRecord (s : State) (x : Nat) (op : Option Nat) (ws : List Word) (desc : Option JobDesc) (graph : Option Nat) : Processed :=
  let root := if desc.isSome then graph else none
  let no (s : State) : Processed := .done (s.resvClear.rejectRecord .launch x op root)
  match s.kernelDesc x (s.recColumn x op (ws.getD 0 0)) (ws.getD 0 0) with
  | none => no s
  | some d =>
    let g := recField ws 2 31 0
    let grp := if recField d 1 10 10 = 1 then some (recField d 1 16 11) else none
    if !descOk d || (recField d 1 22 17 == 0 && objId (ws.getD 1 0) != 0xFFFF) || recField d 1 8 8 != recField ws 5 41 41 || !s.bindable x (descShape d) g (recField ws 2 63 32) (recField d 1 9 9 == 1) grp then no s
    else
      let rd := s.readArg x op (ws.getD 1 0)
      let np := recField d 1 22 17
      let nr := if recField ws 5 41 41 = 1 then recField ws 5 44 42 else 0
      let ro (j : Nat) : List Nat := (List.range 4).map fun k => recField ws 7 63 32 + 32 * j + 8 * k
      match readArgs rd ((List.range np).map fun j => 8 * j),
            readArgs rd ((List.range nr).flatMap ro) with
      | .error .wait, _ | .ok _, .error .wait => .later s
      | .error _, _ | .ok _, .error _ => no s
      | .ok ps, .ok rw =>
        let creator := ((op.bind s.op?).bind fun o => s.team? o.team).map (·.wg)
        let params := (ps.zipIdx).map fun p => (pmapByte d p.2, p.1)
        let entries := (List.range nr).map fun j => (rw.drop (4 * j)).take 4
        if s.bornDropped graph creator then
          .done (s.resvClear.acceptLaunch x op graph (launchOfRec ws d params creator graph.isNone []) true)
        else if (entries.drop s.resvDone.length).any (s.resvWaits x) then
          .later { s with resvWant := ((entries.drop s.resvDone.length).filter (s.resvWaits x)).filterMap (s.resvPage x) }
        else match s.reserveAll x g (entries.drop s.resvDone.length) with
          | .wait s1 => .later s1
          | .no s1 => no s1
          | .ok s1 _ => .done (s1.resvClear.acceptLaunch x op graph (launchOfRec ws d params creator graph.isNone s1.resvDone) false)

/-- RECORD_LAUNCH (R392 to R397). -/
def execRecordLaunch (s : State) : Out :=
  s.processRecord 0 fun s x op ws desc =>
    let h := ws.getD 6 0
    if h = 0 ∧ op.isSome then
      (if launchFieldsOk ws then s.launchRecord x op ws desc none else .done (s.rejectRecord .launch x op none))
    else match s.recGraph x ws with
      | some g =>
        if launchFieldsOk ws then s.launchRecord x op ws desc (some g.1)
        else .done (s.rejectRecord .launch x op (if desc.isSome then some g.1 else none))
      | none => .done (s.rejectRecord .launch x op none)

end Sys2Proof.Machine
end

