-- ==== Sys2Proof/Machine/System.lean ====
section
/-!
DEFINITION. The system instructions (R81 to R92, R347 to R362, R365).
-/

namespace Sys2Proof.Machine

/-! ### TRAP and RTE -/

/-- TRAP (R358): BRKP, resuming after the slot; in Handler IINS (R353). -/
def execTrap (f : IForm) (s : State) : Out :=
  s.issue (.trap f) false false fun s u t => if t.priv then s.trapAt u .iins else s.trap u .brkp 1 f.imm [] none

/-- The stream that stopped on the page fault whose handler returns goes on, and so does the command that stopped (R103, R282); while the fault of
another command is pending, the stream issues nothing and that command stays stopped. -/
def State.resumeStream (s : State) (u eng : Nat) : State :=
  match s.team? u with
  | none => s
  | some t =>
    let mtx := eng == 2
    let pend := t.pendEng mtx
    let s1 := if pend.isSome then s else s.setTeam u (t.setStream mtx ((t.stream mtx).map fun x => { x with stopped := false }))
    if eng = 1 then
      { s1 with ops := s1.ops.map fun o =>
        if o.team = u && !(pend.any fun e => e.op == o.id) then
          (match o.kind with | .copy c => { o with kind := .copy { c with stopped := none } } | _ => o)
        else o }
    else if eng = 2 then s1
    else s

/-- RTE (R356), held while the handler has a write pending to a register that it restores, or an image on its way into the bank (R361). (log 28: DEDUCED, unsafe.) -/
def execRte (s : State) : Out :=
  s.issue .rte false false fun s u t =>
    if t.trapRpc.extractLsb' 0 3 != 0 then s.trapAt u .ialn
    else if s.ops.any fun o => o.team == u && (o.kind == .image true || (o.settles && o.dests.any Dest.banked)) then s
    else
      let s1 := { s with seq := s.seq + 1 }
      let code := (t.trapCause.extractLsb' 0 8)
      if code = Cause.cncl.code then s1.killTeam u
      else if code = Cause.pree.code then s1.goTo u { t with hwait := .rte }
      else (s1.goTo u (t.leaveTrap s.now)).resumeStream u (t.trapCause.extractLsb' 17 2).toNat

/-! ### Control and status registers -/

/-- What CLKC of a team reads (R86). (log 2: DESIGN CHOICE, safe.) -/
def State.clkc (s : State) (t : Team) : Word := Config.clkBase (s.colOf t) + BitVec.ofNat 64 (colClk (s.colOf t) s.now) + t.clkOff

/-- CFG_TEAM of a shape (R85). -/
def Shape.word (h : Shape) : Word := BitVec.ofNat 64 (h.lanes + 2 ^ 16 * h.nv + 2 ^ 32 * h.ns + 2 ^ 40 * h.twg + 2 ^ 44 * h.spad)

/-- CFG_LNCH of a launch (R85). -/
def Launch.word (l : Launch) : Word := BitVec.ofNat 64 (l.g + (if l.det then 2 ^ 32 else 0))

/-- CFG_GEOM (R84). -/
def cfgGeom : Word :=
  BitVec.ofNat 64 (Config.dies + 2 ^ 8 * Config.coresPerDie + 2 ^ 16 * Config.columnsPerCore + 2 ^ 24 * Config.banks + 2 ^ 32 * Config.lineLog +
    2 ^ 36 * Config.sectorLog)

/-- The value of a scalar control register (R82 to R91, R354), if its number is assigned and the team's privilege lets it read (R81). -/
def State.csr (s : State) (u : Nat) (t : Team) (n : Nat) : Option Word :=
  let nat (k : Nat) : Option Word := some (BitVec.ofNat 64 k)
  let l := s.launchOf t.wg
  let sup (w : Word) : Option Word := if t.priv then some w else none
  match n with
  | 0x001 => nat t.twg
  | 0x002 => nat (match s.wg? t.wg with | some g => g.idx | none => 0)
  | 0x003 => nat (s.idTeam t)
  | 0x004 => nat (s.colOf t)
  | 0x005 => nat (s.colOf t / 4)
  | 0x006 => nat (match s.ctx? (s.ctxOf t) with | some c => c.dev | none => 0)
  | 0x010 => nat Config.colw
  | 0x011 => some cfgGeom
  | 0x012 => some (match l with | some l => l.shape.word | none => 0)
  | 0x013 => some (match l with | some l => l.word | none => 0)
  | 0x020 => some (s.clkc t)
  | 0x021 => some ((s.kstat u).setWidth 64)
  | 0x100 => some (t.fstat.setWidth 64)
  | 0x101 => some (t.fctl.setWidth 64)
  | 0x102 => some (t.pstat.setWidth 64)
  | 0x110 => some t.elogAddr
  | 0x111 => some t.elogInfo
  | 0x800 => sup t.trapCause
  | 0x801 => sup t.trapAddr
  | 0x802 => sup t.trapRpc
  | 0x803 => sup (t.trapArg.setWidth 64)
  | 0x810 => sup (s.tvecOf t)
  | _ => none

/-- An earlier instruction of the team that can raise a flag has not completed (R89). (log 24: DEDUCED, safe.) -/
def State.raisers (s : State) (u : Nat) : Bool := s.ops.any fun o => o.team == u && o.raiser && o.agent == .team u

/-- CSRR (R81, R89, R357). (log 46: DEDUCED, unsafe.) -/
def execCsrr (f : IForm) (s : State) : Out :=
  s.issue (.csrr f) false false fun s u t =>
    let n := Fields.csrNum f
    let d := f.d.toNat
    if n = 0 then
      s.emit u t false false [.v d] ((t.active 0).flatMap fun l => putElem d l (BitVec.ofNat 32 l)) 0 false
    else if n = 0x804 then
      (if t.priv then
        s.emit u t false false [.v d, .v (d + 1)] ((t.active 0).flatMap fun l => putPat .n64 d l (Store.get t.trapLaddr l)) 0 false
      else s.trapAt u .iins)
    else match s.csr u t n with
      | none => s.trapAt u .iins
      | some x => if (n = 0x100 ∨ n = 0x101) ∧ s.raisers u then s else s.emit u t false false [.s d] [.s d x] 0 false

/-- CSRW (R81, R90, R354, R357) of every register but those of the four definitions below: PSTAT, and in Handler TRAP_RPC; any other number
raises IINS. (log 46: DEDUCED, unsafe.) -/
def execCsrw (f : IForm) (s : State) : Out :=
  s.issue (.csrw f) false false fun s u t =>
    let x := t.scal f.a.toNat
    match Fields.csrNum f, t.priv with
    | 0x102, _ => (s.setTeam u { t with pstat := x.extractLsb' 0 2 }).done u
    | 0x802, true => (s.setTeam u { t with trapRpc := x }).done u
    | _, _ => s.trapAt u .iins

/-- CSRW of FSTAT (R88, R89). -/
def execCsrwFstat (f : IForm) (s : State) : Out :=
  s.issue (.csrwFstat f) false false fun s u t =>
    if s.raisers u then s else (s.setTeam u { t with fstat := (t.scal f.a.toNat).extractLsb' 0 5 }).done u

/-- CSRW of FCTL (R88, R89). -/
def execCsrwFctl (f : IForm) (s : State) : Out :=
  s.issue (.csrwFctl f) false false fun s u t =>
    if s.raisers u then s else (s.setTeam u { t with fctl := (t.scal f.a.toNat).extractLsb' 0 5 }).done u

/-- CSRW of ELOG_INFO (R92): bit [0] = 0 clears the record. -/
def execCsrwElogInfo (f : IForm) (s : State) : Out :=
  s.issue (.csrwElogInfo f) false false fun s u t =>
    (if (t.scal f.a.toNat).getLsbD 0 then s else s.setTeam u (t.elogClear s.now)).done u

/-- CSRW of TRAP_CAUSE (R354, R355): RSLOT alone, and in Handler alone. -/
def execCsrwTrapCause (f : IForm) (s : State) : Out :=
  s.issue (.csrwTrapCause f) false false fun s u t =>
    if !t.priv then s.trapAt u .iins
    else
      let m : Word := 0x1F000
      (s.setTeam u { t with trapCause := (t.trapCause &&& ~~~m) ||| (t.scal f.a.toNat &&& m) }).done u

/-! ### Feature and physical queries -/

/-- QFEAT (R365, R366). (log 8: DESIGN CHOICE, safe.) (log 31: DEDUCED, unsafe.) -/
def execQfeat (f : IForm) (s : State) : Out :=
  s.issue (.qfeat f) false false fun s u t =>
    let x : Word := match s.ctx? (s.ctxOf t), f.imm.toNat with
      | some c, 0 => c.qfeat0
      | some c, 1 => c.qfeat1
      | some c, 2 => c.qfeat2
      | _, _ => 0
    s.emit u t false false [.s f.d.toNat] [.s f.d.toNat x] 0 false

/-- DRAM dies removed from the stack of a compute die (R414). -/
def State.removedDies (s : State) (die : Nat) : Nat := (s.removed.filter fun e => e.1 == die).length

/-- The answer of QPHYS (R365). -/
def State.qphys (s : State) (col sel : Nat) : Word :=
  let die := dieOf col
  let n : Nat := match sel with
    | 0 =>
      let pc := (assoc s.remap (col / 4)).getD 0
      (die * 68 + pc * 4 + col % 4) + 2 ^ 16 * pc + 2 ^ 24 * die
    | 1 => (if !Config.moduleM && Config.secondTierCxl then 2 else 1) + 2 ^ 16 * s.secondMiB
    | 2 => (Config.hbmMiB - 64 * s.removedDies die) + 2 ^ 16 * s.removedDies die
    | 3 => 64 + 64 * ((s.column col).loan.filter fun e => e.1 == .lent).length
    | _ =>
      if 4 ≤ sel ∧ sel ≤ 11 then
        (List.range 64).foldl (fun a i => if s.unavail.contains ((64 * (sel - 4) + i) / 4) then a + 2 ^ i else a) 0
      else 0
  BitVec.ofNat 64 n

/-- QPHYS (R365, R366). -/
def execQphys (f : IForm) (s : State) : Out :=
  s.issue (.qphys f) false false fun s u t =>
    s.emit u t false false [.s f.d.toNat] [.s f.d.toNat (s.qphys (s.colOf t) f.imm.toNat)] 0 false

/-! ### SFDRN and WFI -/

/-- SFDRN (R359): held until the team's special-function instructions have performed. (log 49: DEDUCED, unsafe.) -/
def execSfdrn (s : State) : Out :=
  s.issue .sfdrn false false fun s u _ => if s.ops.any fun o => o.team == u && o.kind == .sf then s else s.done u

/-- WFI may complete (R360): a named flag is clear, a wake has been posted, or PREE or CNCL is pending. (log 49: DEDUCED, unsafe.) -/
def State.wfiReady (s : State) (u : Nat) (t : Team) (fl : BitVec 12) : Bool := (~~~s.kstat u &&& fl) != 0 || t.wake || t.called

/-- WFI (R360). (log 49: DEDUCED, unsafe.) -/
def execWfi (f : VForm) (s : State) : Out :=
  s.issue (.wfi f) false false fun s u t =>
    let fl := Fields.flagSet f
    let t1 := { t with wake := false }
    if s.wfiReady u t1 fl then (s.setTeam u t1).done u else (s.setTeam u (t1.waitFor (.wfi fl))).done u

/-- WFI_WAKE (R360), for the team named. -/
def execWfiWake (s : State) : Out :=
  match s.arg with
  | .id u => .next (match s.team? u with
    | some t => (match t.hwait with
      | .wfi fl => if s.wfiReady u t fl then s.setTeam u ({ t with wake := false }.wakeFrom s.now t.hwait) else s
      | _ => s)
    | none => s)
  | _ => .next s

/-! ### Context images -/

/-- The bytes of a lane set, bit l at bit l mod 8 of byte l / 8 (R362). -/
def laneBytes (m : Lanes) : List Byte := (List.range 128).map fun k => m.extractLsb' (8 * k) 8

/-- The interrupted team as it stood: the banked registers in place of the handler's (R350, R361). -/
def Team.interrupted (t : Team) : Team := match t.bank with | some _ => { t.unbank with trapRpc := t.trapRpc } | none => t

/-- The header words 0 to 16 of a context image (R362). -/
def Team.imageHeader (t : Team) : List Nat :=
  let v := t.vit
  let code (c : Option Cause) : Nat := match c with | some c => c.code.toNat | none => 0
  let bit (b : Bool) (k : Nat) : Nat := if b then 2 ^ k else 0
  let ph : Nat := match v.phase with | .off => 0 | .producing => 1 | .consuming => 2
  [1 + 2 ^ 8 * t.lanes + 2 ^ 19 * t.nv + 2 ^ 28 * t.ns, t.trapRpc.toNat, t.trapCause.toNat, t.trapAddr.toNat, t.fstat.toNat, t.fctl.toNat,
   t.pstat.toNat, t.elogAddr.toNat, t.elogInfo.toNat, t.holds.toNat,
   code (if t.pendErr.isNone && t.pendGabs then some .gabs else t.pendErr.map (·.cause)) + bit t.pendFpen 8 + 2 ^ 16 * code (t.pendCopy.map (·.cause)) + 2 ^ 24 * code (t.pendMtx.map (·.cause)),
   bit t.barArr 0 + bit t.gbarArr.isSome 1 + 4 * t.gbarArr.getD 0 + 2 ^ 8 * (t.xcount % 2 ^ 32),
   ph + 4 * v.cur + 8 * v.cfr + bit v.drain 4 + 32 * (v.d - 1) + 2 ^ 8 * v.n + 2 ^ 19 * v.t,
   v.fill0 + 2 ^ 16 * v.fill1 + 2 ^ 32 * v.pass.toNat, v.base, v.cent.toNat, v.xent.toNat]

/-- The context image of the interrupted team (R362). -/
def Team.image (t : Team) : List Byte :=
  let w := t.interrupted
  let u64 (x : Nat) : List Byte := bytesOfNat x 8
  let u32 (x : Nat) : List Byte := bytesOfNat x 4
  let pc := match t.bank with | some b => b.pc | none => t.pc
  let lanes := List.range t.lanes
  (t.imageHeader ++ List.replicate 15 0).flatMap u64 ++
    laneBytes w.live ++ laneBytes w.vit.gset ++ laneBytes w.vit.pset ++ laneBytes w.vit.cset ++
    ((List.range 128).flatMap fun n => u64 (if n < t.ns then (w.scal n).toNat else 0)) ++
    ((List.range 16).flatMap fun n => ((List.range 32).flatMap fun k => u32 ((w.mask n).extractLsb' (32 * k) 32).toNat) ++ u32 (summaryOf (w.mask n)).toNat) ++
    List.replicate 192 0 ++
    ((List.range t.nv).flatMap fun n => lanes.flatMap fun l => u32 (w.elem n l).toNat) ++
    (lanes.flatMap fun l => u64 (if (w.mask 0).getLsbD l then pc else Store.get w.ra l).toNat) ++
    (lanes.flatMap fun l => u64 (Store.get w.vit.pra l).toNat) ++ (lanes.flatMap fun l => u64 (Store.get w.rngC l).toNat)

/-- Bytes of a context image (R362). -/
def Team.imageSize (t : Team) : Nat := 4096 + 4 * t.nv * t.lanes + 24 * t.lanes

/-- Rank of a check of R199 by its cause. -/
def causeRank : Cause → Nat
  | .mnul => 1
  | .mprm => 2
  | .maln => 3
  | .mbnd => 4
  | .mcol => 5
  | _ => 6

/-- The check of R199 that an image's range fails (R361). (log 45: DEDUCED, unsafe.) -/
def State.imageFail (s : State) (u : Nat) (t : Team) (a : Addr) (write : Bool) : Option Cause :=
  let x := s.ctxOf t
  let col := s.colOf t
  let n := t.imageSize
  match s.obj? x (objId a) col with
  | none => some .mnul
  | some o =>
    let last := min (offOf a + n) o.bound
    let pages := if offOf a < last then (List.range ((last - 1) / Config.pageBytes - offOf a / Config.pageBytes + 1)).map fun k =>
      addrOf (objId a) (max (offOf a) ((offOf a / Config.pageBytes + k) * Config.pageBytes)) else [a]
    let each := pages.filterMap fun p => match s.check x u col p 1 write false [false] 1 with
      | .ok => none
      | .err c | .precise c => some c
    let whole := (if a.toNat % 256 ≠ 0 then [Cause.maln] else []) ++ (if o.bound < offOf a + n then [Cause.mbnd] else []) ++
      (if objId a = 0 ∧ t.hwm < offOf a + n then [Cause.phwm] else [])
    leastBy causeRank (each ++ whole)

/-- CTXSV and CTXLD (R361): the whole range is checked, then its bytes move on path T, 8 at a time. CTXSV reads the registers that no trap banks,
and interlocks on the handler's pending writes of them (R77). (log 45: DEDUCED, unsafe.) -/
def ctxImage (i : Instr) (f : VForm) (load : Bool) (s : State) : Out :=
  s.issue i f.se f.fs fun s u t =>
    let a := t.scal f.a.toNat
    if !load && s.ops.any fun o => o.team == u && o.sup && o.dests.any fun d => !d.banked then s.hazard u
    else match s.imageFail u t a (!load) with
    | some c => (s.giveErr u .T 0 c a t.slot s.seq).done u
    | none =>
      let img := if load then [] else t.image
      let acc := (List.range (t.imageSize / 8)).map fun k =>
        { s.sliceAcc u t (a + BitVec.ofNat 64 (8 * k)) 0 8 (if load then .read else .write ((img.drop (8 * k)).take 8))
            (if load then .data (8 * k) else .none) with el := k }
      let dests := if load then ((List.range t.nv).filter (4 ≤ ·)).map Dest.v ++ ((List.range t.ns).filter (8 ≤ ·)).map Dest.s ++
        ((List.range 16).filter (4 ≤ ·)).map Dest.m else []
      (s.addOp u (.image load) fun o =>
        { o with flag := selFlag t.hdr f.se f.fs, dests := dests, acc := acc, addr := a, slot := t.slot }).advance u

/-- CTXSV (R361). -/
def execCtxsv (f : VForm) (s : State) : Out := ctxImage (.ctxsv f) f false s

/-- CTXLD (R361). -/
def execCtxld (f : VForm) (s : State) : Out := ctxImage (.ctxld f) f true s

/-- The register writes of a loaded image (R362). -/
def Team.imageWrites (t : Team) (d : Memory) : List RegWr :=
  let u64 (k : Nat) : Word := BitVec.ofNat 64 (natOfBytes (Memory.bytes d k 8))
  let u32 (k : Nat) : BitVec 32 := BitVec.ofNat 32 (natOfBytes (Memory.bytes d k 4))
  ((List.range t.ns).map fun n => RegWr.s n (u64 (768 + 8 * n))) ++
    ((List.range 15).map fun n =>
      RegWr.m (n + 1) t.all ((List.range 32).foldl (fun m k => m ||| ((u32 (1792 + 132 * (n + 1) + 4 * k)).setWidth 1024 <<< (32 * k))) 0)) ++
    ((List.range t.nv).flatMap fun n => (List.range t.lanes).flatMap fun l => putElem n l (u32 (4096 + 4 * (n * t.lanes + l))))

/-- The last byte of an image has moved (R361): CTXLD loads what R362 says, unless a byte failed or the image's shape differs. -/
def State.finishImage (s : State) (o : Op) (load : Bool) : State :=
  match s.team? o.team with
  | none => s.delOp o.id
  | some t =>
    if !load || o.errLanes != 0 then s.delOp o.id
    else
      let w (k : Nat) : Word := BitVec.ofNat 64 (natOfBytes (Memory.bytes o.data (8 * k) 8))
      let shape : Word := BitVec.ofNat 64 (2 ^ 8 * t.lanes + 2 ^ 19 * t.nv + 2 ^ 28 * t.ns)
      if (w 0).extractLsb' 8 28 ≠ shape.extractLsb' 8 28 then (s.giveErr o.team .T 0 .mprm o.addr o.slot o.seq).delOp o.id
      else
        let m : Word := 0x1F000
        let t1 := { t with trapRpc := w 1, trapCause := (t.trapCause &&& ~~~m) ||| (w 2 &&& m), fstat := (w 4).extractLsb' 0 5,
                           fctl := (w 5).extractLsb' 0 5, pstat := (w 6).extractLsb' 0 2 }
        (s.setTeam o.team t1).completeUser { o with writes := t.imageWrites o.data }

end Sys2Proof.Machine
end

