-- ==== Sys2Proof/Machine/Residency.lean ====
section
/-!
DEFINITION. Binding, dispatch, Loan, retirement, pre-emption and restore of workgroups (R61 to R66, R70, R207, R238, R276, R363, R364, R399,
R400), and the Registrar's release (R336, R337).
-/

namespace Sys2Proof.Machine

/-! ### Scratchpad space and Loan -/

/-- The scratchpad allocations of a column: base and size (R55). -/
def State.spadUsed (s : State) (c : Nat) : List (Nat × Nat) :=
  (s.wgs.filter fun e => e.2.col == c && e.2.st == .resident && s.spadSize e.1 != 0).map fun e => (e.2.spadBase, s.spadSize e.1)

/-- An allocation fits at a base. -/
def spadFits (used : List (Nat × Nat)) (size base : Nat) : Bool :=
  decide (base + size ≤ Config.spadBytes) && used.all fun e => decide (e.1 + e.2 ≤ base ∨ base + size ≤ e.1)

/-- The lowest base at which an allocation fits. (log 57: DESIGN CHOICE, unsafe.) -/
def placeSpad (used : List (Nat × Nat)) (size : Nat) : Option Nat :=
  if size = 0 then some 0 else leastBy id ((0 :: used.map fun e => e.1 + e.2).filter (spadFits used size))

/-- The Loan units that an allocation holds part of (R207). -/
def loanUnits (base size : Nat) : List Nat :=
  if size = 0 then [] else (List.range ((base + size - 1) / 65536 - base / 65536 + 1)).map (· + base / 65536)

/-- The Loan units that a resident workgroup holds part of. -/
def State.unitsOf (s : State) (w : Nat) : List Nat :=
  match s.wg? w with | some g => loanUnits g.spadBase (s.spadSize w) | none => []

/-- The state of a Loan unit. -/
def State.loanState (s : State) (c i : Nat) : LoanState := ((s.column c).loan.getD i (.free, 0)).1

/-- Set a Loan unit. -/
def State.setLoan (s : State) (c i : Nat) (st : LoanState) : State :=
  s.modCol c fun k => { k with loan := k.loan.set i (st, s.now) }

/-- Allocated units that no workgroup holds part of any longer are Free (R207). -/
def State.freeLoan (s : State) (c : Nat) : State :=
  let used := s.spadUsed c
  s.modCol c fun k => { k with loan := (k.loan.zipIdx).map fun e =>
    if e.1.1 == .allocated && !(used.any fun u => (loanUnits u.1 u.2).contains e.2) then (.free, s.now) else e.1 }

/-- A slot-table entry of a column waits for scratchpad (R207). -/
def State.spadWanted (s : State) (c : Nat) : Bool :=
  (s.column c).slots.any fun e => e.valid && s.spadSize e.w != 0 && match s.wg? e.w with | some g => g.st != .resident | none => false

/-- LOAN_LEND (R207), for the column and unit named. -/
def execLoanLend (s : State) : Out :=
  match s.arg with
  | .pair c i => .next (match (s.column c).loan[i]? with
    | some (.free, since) => if i ≠ 0 ∧ 256 ≤ s.elapsed c since ∧ !s.spadWanted c then s.setLoan c i .lent else s
    | _ => s)
  | _ => .next s

/-- LOAN_RECLAIM_COMPLETE (R207), for the column and unit named. -/
def execLoanReclaimComplete (s : State) : Out :=
  match s.arg with
  | .pair c i => .next (if s.loanState c i == .reclaiming then s.setLoan c i .allocated else s)
  | _ => .next s

/-! ### Binding -/

/-- The key of workgroup i of a launch. -/
def wgKey (k i : Nat) : Nat := k * 2 ^ 32 + i

/-- The launch and index that a workgroup's key names. -/
def wgOf (w : Nat) : Nat × Nat := (w / 2 ^ 32, w % 2 ^ 32)

/-- The keys of the workgroups of a quad (R238). -/
def quadOf (w : Nat) : List Nat := (List.range 4).map fun i => w / 4 * 4 + i

/-- The workgroups that become resident with one (R70, R238, R276). (log 56: DEDUCED, safe.) -/
def gangIn (l : Option Launch) (w : Nat) : List Nat :=
  match l with
  | none => [w]
  | some l =>
    if l.p ≠ 0 ∨ l.group.isSome then (List.range l.g).map fun i => wgKey (wgOf w).1 i
    else if l.gang then quadOf w
    else [w]

/-- The workgroups that become resident with a workgroup. -/
def State.gangOf (s : State) (w : Nat) : List Nat := gangIn (s.launchOf w) w

/-- The workgroups that are pre-empted, saved and restored with one (R238). (log 56: DEDUCED, safe.) -/
def State.preemptSet (s : State) (w : Nat) : List Nat :=
  match s.launchOf w with | some l => if l.gang then quadOf w else [w] | none => [w]

/-- A workgroup has an entry in its column's slot table. -/
def State.hasEntry (s : State) (w : Nat) : Bool :=
  match s.wg? w with | some g => (s.column g.col).slots.any fun e => e.valid && e.w == w | none => false

/-- A workgroup has its place: it is resident or over, or an entry waits for it. -/
def State.placed (s : State) (w : Nat) : Bool :=
  s.hasEntry w || match s.wg? w with | some g => g.st == .resident || g.st == .retired || g.st == .dropped | none => false

/-- Of the workgroups that become resident together with w, some have an entry and others have not (R70, R238). -/
def State.halfPlaced (s : State) (w : Nat) : Bool :=
  match s.wg? w with
  | some g =>
    let ws := if g.st == .saved then s.preemptSet w else s.gangOf w
    s.hasEntry w && g.st != .resident && ws.any fun v => !s.placed v
  | none => false

/-- The Curator binds the workgroups of one gang before it begins with the next, so that no two gangs wait for each other (R70). (log 56: DEDUCED, safe.) -/
def State.gangTurn (s : State) (ws : List Nat) : Bool := ws.length ≤ 1 || !(s.wgs.any fun e => s.halfPlaced e.1 && !ws.contains e.1)

/-- Every unretired workgroup of a `.det` launch below workgroup i has its place, so that the lowest is resident, or bound ahead of every other
(R61). (log 57: DESIGN CHOICE, unsafe.) -/
def State.lowerPlaced (s : State) (k i : Nat) : Bool :=
  s.wgs.all fun e => !(e.2.launch == k && decide (e.2.idx < i)) || s.placed e.1

/-- An entry may be written in a column: places stay free for the Saved workgroups of `.det` launches, which may be bound at any moment (R61).
(log 57: DESIGN CHOICE, unsafe.) -/
def State.entryFree (s : State) (col : Nat) : Bool :=
  decide ((s.wgs.filter fun e => e.2.col == col && e.2.st == .saved && s.isDet e.1 && !s.hasEntry e.1).length <
    ((s.column col).slots.filter fun q => !q.valid).length)

/-- The column is one to which the Curator may bind workgroup i of a launch (R61, R238, R276, R417). (log 56: DEDUCED, safe.) (log 57: DESIGN CHOICE, unsafe.) -/
def State.mayBind (s : State) (x : Nat) (l : Launch) (k i col : Nat) : Bool :=
  let usable := decide (col < Config.columns) && (s.usableCores x).contains (col / 4)
  let mates := (quadOf (wgKey k i)).filterMap s.wg?
  let placed := match l.group with
    | some g => col == columnAt ((s.group x g).members.getD i 1024) 0
    | none => !l.gang || (col % 4 == i % 4 && mates.all fun m => m.col / 4 == col / 4)
  let gang := gangIn (some l) (wgKey k i)
  let fits := gang.length ≤ 1 ||
    decide ((s.wgs.filter fun e => e.2.launch == k && e.2.col == col && gang.contains e.1).length < l.shape.perColumn)
  usable && placed && fits && s.gangTurn gang && s.entryFree col &&
    (!l.det || (decide ((s.wgs.filter fun e => e.2.launch == k && decide (e.2.idx < i)).length = i) && s.lowerPlaced k i))

/-- The order of writing of an entry, which SEQ keeps modulo 2^32: how long before the next entry to be written it was written, the oldest first
(R399). -/
def Column.order (k : Column) (e : SlotEntry) : Nat := (e.seqNo - k.seqNo).toNat

/-- An entry is written in the first empty place of a column's slot table, if there is one (R399). -/
def State.writeSlot (s : State) (col : Nat) (e : SlotEntry) : Option State :=
  let k := s.column col
  let i := k.slots.findIdx fun q => !q.valid
  if i < k.slots.length then
    some (s.modCol col fun k => { k with slots := k.slots.set i { e with seqNo := k.seqNo }, seqNo := k.seqNo + 1 })
  else none

/-- A workgroup that has been bound (R50). -/
def Workgroup.fresh (k i col t : Nat) : Workgroup :=
  { launch := k, idx := i, col := col, st := .bound, teams := (List.range t).map fun j => wgKey k i * 8 + j, spad := [], spadPoison := [],
    spadBase := 0, iterPos := 0, staged := [], stageUsed := 0, savedMx := none, gbarK := none, gbarUp := false, children := [], counted := false, released := false,
    fatal := false, preempted := false, cncl := [], cancelled := false, restoredAt := 0 }

/-- The restore entry of a Saved workgroup is written, if a place is free and its core is available (R35, R364, R399). -/
def State.writeRestore (s : State) (w : Nat) (g : Workgroup) : State :=
  let lid := match s.unit? g.launch with | some c => c.ident | none => 0
  if !s.coreUp (g.col / 4) then s
  else (s.writeSlot g.col { valid := true, rst := true, lid := lid, wgIdx := BitVec.ofNat 32 g.idx, seqNo := 0, w := w }).getD s

/-- CURATOR_BIND (R62, R364, R399), for the column and workgroup named: a bind record, or a restore record. (log 57: DESIGN CHOICE, unsafe.) -/
def execCuratorBind (s : State) : Out :=
  match s.arg with
  | .bind col w false => .next
      (let k := (wgOf w).1
       let i := (wgOf w).2
       match s.unit? k with
       | some c => (match c.launch with
         | some l =>
           if c.begun && !c.done && !c.dropped && decide (i < l.g) && (s.wg? w).isNone && s.mayBind c.ctx l k i col then
             (match s.writeSlot col { valid := true, rst := false, lid := c.ident, wgIdx := BitVec.ofNat 32 i, seqNo := 0, w := w } with
             | some s1 => { s1 with wgs := assocSet s1.wgs w (Workgroup.fresh k i col l.shape.twg) }
             | none => s)
           else s
         | none => s)
       | none => s)
  | .bind _ w true => .next (match s.wg? w with
    | some g =>
      if g.st == .saved && !s.hasEntry w && s.gangTurn (s.preemptSet w) && (if s.isDet w then s.lowerPlaced g.launch g.idx else s.entryFree g.col) then
        s.writeRestore w g
      else s
    | none => s)
  | _ => .next s

/-! ### Dispatch -/

/-- The valid entry of a column that dispatch considers next (R400). -/
def State.nextEntry (s : State) (c : Nat) : Option SlotEntry :=
  leastBy (s.column c).order ((s.column c).slots.filter fun e => e.valid && match s.wg? e.w with | some g => g.st != .resident | none => false)

/-- The registers that the resident workgroups of a column hold (R55). -/
def State.vregsUsed (s : State) (c : Nat) : Nat :=
  ((s.wgs.filter fun e => e.2.col == c && e.2.st == .resident).map fun e =>
    match s.launchOf e.1 with | some l => l.shape.twg * l.shape.nv * l.shape.lanes | none => 0).sum

/-- The team slots that a workgroup takes: one for each of its teams that is not Retired, whether it has started or is about to (R55, R62). -/
def State.teamsOf (s : State) (g : Workgroup) : Nat :=
  (g.teams.filter fun u => match s.team? u with | some t => t.st != .retired | none => true).length

/-- The team slots that the resident workgroups of a column hold (R55). -/
def State.teamsUsed (s : State) (c : Nat) : Nat := ((s.wgs.filter fun e => e.2.col == c && e.2.st == .resident).map fun e => s.teamsOf e.2).sum

/-- A workgroup takes its team slots, registers and scratchpad, if it is the next of its column and all can be granted (R62, R400); Loan is
judged apart. -/
def State.takeRoom (s : State) (w : Nat) (rst : Bool) : Option State :=
  match s.wg? w, s.launchOf w with
  | some g, some l =>
    match s.nextEntry g.col, placeSpad (s.spadUsed g.col) l.shape.spad with
    | some e, some base =>
      if e.w = w ∧ e.rst = rst ∧ s.coreUp (g.col / 4) ∧ s.teamsUsed g.col + s.teamsOf g ≤ 32 ∧
          s.vregsUsed g.col + l.shape.twg * l.shape.nv * l.shape.lanes ≤ Config.columnVregs then
        some (s.modWg w fun g => { g with st := .resident, spadBase := base })
      else none
    | _, _ => none
  | _, _ => none

/-- Several workgroups take their room in turn. -/
def State.takeRooms (s : State) (rst : Bool) : List Nat → Option State
  | [] => some s
  | w :: ws => match s.takeRoom w rst with
    | some s1 => State.takeRooms s1 rst ws
    | none => none

/-- The place of a workgroup's entry in the order of writing of its column. -/
def State.entrySeq (s : State) (w : Nat) : Nat :=
  match s.wg? w with
  | some g => (((s.column g.col).slots.find? fun e => e.valid && e.w == w).map (s.column g.col).order).getD 0
  | none => 0

/-- Put in the order of writing. -/
def State.bySeq (s : State) (ws : List Nat) : List Nat := ws.foldr (fun w r =>
  (r.takeWhile fun v => decide (s.entrySeq v < s.entrySeq w)) ++ w :: (r.dropWhile fun v => decide (s.entrySeq v < s.entrySeq w))) []

/-- Workgroups become resident together, if all their resources can be granted; units of Loan that they need are first reclaimed (R62, R207);
free active slots are filled at once (R55, R59). -/
def State.makeResident (s : State) (ws : List Nat) (rst : Bool) (go : State → Nat → State) : State :=
  match s.takeRooms rst (s.bySeq ws) with
  | none => s
  | some s1 =>
    let need := ws.flatMap fun w => (s1.unitsOf w).map fun i => (s1.colOfWg w, i)
    if need.any fun e => s.loanState e.1 e.2 == .lent then
      need.foldl (fun s e => if s.loanState e.1 e.2 == .lent then s.setLoan e.1 e.2 .reclaiming else s) s
    else if need.any fun e => s.loanState e.1 e.2 == .reclaiming then s
    else
      let s2 := ws.foldl go (need.foldl (fun s e => s.setLoan e.1 e.2 .allocated) s1)
      ws.foldl (fun s w => s.fillColumn (s.colOfWg w)) s2

/-- What a team of a workgroup has of its launch's reservations (R341). -/
def resvOf (e : ResvEntry) (w t i : Nat) : Resv :=
  let cs := e.2.2.2.2
  let c := if cs.length = 1 then cs.getD 0 0 else cs.getD w 0
  let p := if cs.length = 1 then w * cs.getD 0 0 else (cs.take w).sum
  { used := e.1, caddr := e.2.1, wide := e.2.2.1, base := (e.2.2.2.1 + p + c * i / t : Nat), cap := c * (i + 1) / t - c * i / t, count := 0 }

/-- The high-water mark of a new team (R374). -/
def firstHwm (priv bound : Nat) : Nat := min ((priv + 65535) / 65536 * 65536) bound

/-- The teams of a workgroup that has become resident start (R12, R63). -/
def State.startWg (s : State) (w : Nat) : State :=
  match s.wg? w, s.launchOf w with
  | some g, some l =>
    let bound := match s.ctx? (s.ctxOfWg w) with | some c => c.privBound | none => 0
    let s1 := s.modWg w fun g => { g with spad := [], spadPoison := [] }
    (g.teams.zipIdx).foldl (fun s e =>
      s.setTeam e.1 (Team.start w e.2 l.shape l.kaddr l.params s.now (firstHwm l.priv bound)
        (l.resv.map fun r => resvOf r g.idx l.shape.twg e.2))) s1
  | _, _ => s

/-- DISPATCH (R62, R63, R400), for the column named. -/
def execDispatch (s : State) : Out :=
  match s.arg with
  | .id c => .next (match s.nextEntry c with
    | some e =>
      if e.rst then s
      else
        let ws := s.gangOf e.w
        if ws.all fun w => match s.wg? w with | some g => g.st == .bound | none => false then s.makeResident ws false State.startWg else s
    | none => s)
  | _ => .next s

/-! ### Retirement -/

/-- The lowest unretired workgroup of a `.det` launch, if it is Saved, is bound ahead of every other (R61). -/
def State.bindLowest (s : State) (k : Nat) : State :=
  let left := s.wgs.filter fun e => e.2.launch == k && e.2.st != .retired && e.2.st != .dropped
  match leastBy (fun e : Nat × Workgroup => e.2.idx) left with
  | some e => if s.isDet e.1 && e.2.st == .saved && !s.hasEntry e.1 then s.writeRestore e.1 e.2 else s
  | none => s

/-- WORKGROUP_RETIRE (R66), for the workgroup named. Its scratchpad is given back as zeros: an LDG leaf that a holder
sampled as present had there reads zeros when the holder retires first (R268). (log 75: DESIGN CHOICE, unsafe.) -/
def execWorkgroupRetire (s : State) : Out :=
  match s.arg with
  | .id w => .next (match s.wg? w with
    | some g =>
      if g.st == .resident && g.teams.all fun u => match s.team? u with | some t => t.st == .retired | none => false then
        let s1 := ((s.withdrawAll g.col w).clearSlot g.col w).modWg w fun g =>
          { g with st := .retired, spad := [], spadPoison := [], cncl := [] }
        let s2 := g.teams.foldl (fun s u => s.modTeam u fun t => { t with vregs := [], sregs := [] }) s1
        (s2.freeLoan g.col).bindLowest g.launch
      else s
    | none => s)
  | _ => .next s

/-! ### Pre-emption -/

/-- The Curator may pre-empt a workgroup: of a `.det` launch it pre-empts the highest first and never the lowest that is not retired (R61). (log 57: DESIGN CHOICE, unsafe.) -/
def State.mayPreempt (s : State) (w : Nat) : Bool :=
  let ws := s.preemptSet w
  match s.wg? w with
  | some g =>
    let mates := s.wgs.filter fun e => e.2.launch == g.launch && !ws.contains e.1
    !s.isDet w || (mates.any (fun e => decide (e.1 < w) && e.2.st == .resident) &&
      !(mates.any fun e => decide (w < e.1) && (e.2.st == .bound || e.2.st == .resident && !e.2.preempted)))
  | none => false

/-- PREEMPT (R58, R61, R65), for the workgroup named. -/
def execPreempt (s : State) : Out :=
  match s.arg with
  | .id w => .next
      (if !s.mayPreempt w then s
      else (s.preemptSet w).foldl (fun s v => match s.wg? v with
        | some g =>
          if g.st == .resident && !g.preempted then
            g.teams.foldl (fun s u => s.modTeam u fun t => t.postPree s.now) (s.modWg v fun g => { g with preempted := true })
          else s
        | none => s) s)
  | _ => .next s

/-- A team has reached the RTE of its PREE handler, and everything it issued has settled (R356, R363). -/
def State.atRte (s : State) (u : Nat) : Bool :=
  match s.team? u with
  | some t => t.st == .retired || (t.st == .handler && t.hwait == .rte && s.settled u)
  | none => true

/-- A workgroup's context may be saved. -/
def State.maySave (s : State) (w : Nat) : Bool :=
  match s.wg? w with
  | some g => g.st == .resident && g.preempted && g.teams.all s.atRte
  | none => false

/-- A copy command stops at an element boundary: what it has read and not written it reads again, but for what landed as zero (R281, R291). -/
def State.rewindCopy (s : State) (o : Op) (c : CopyCmd) : Op :=
  let flying (i : Nat) : Bool := s.bufs.any fun b => b.op == o.id && b.act == .read && !b.probe && b.el == i
  let redo (i : Nat) : Bool := c.left.contains i || flying i || (c.got.any fun g => g.1 == i) && !c.failed.contains i
  o.setCopy { c with left := (List.range c.n).filter redo, got := c.got.filter fun g => c.failed.contains g.1, arrived := false }

/-- A team's context is saved (R291, R309, R363): its copy commands are rewound, its reads in flight are discarded, it leaves the merge entries. -/
def State.saveTeam (s : State) (u : Nat) : State :=
  match s.team? u with
  | none => s
  | some t =>
    if t.st = .retired then s
    else
      let mine := (s.ops.filter fun o => o.by_ (.copy u)).map (·.id)
      let ops := s.ops.map fun o => if o.team = u then (match o.kind with | .copy c => s.rewindCopy o c | _ => o) else o
      let s1 : State := { s with ops := ops, bufs := s.bufs.filter fun b => !(b.agent == .copy u && b.act == .read && !b.probe) }
      let s2 : State := { s1 with columns := s1.columns.map fun e =>
        (e.1, { e.2 with merges := (e.2.merges.map fun m => { m with joined := m.joined.filter fun n => !mine.contains n }).filter fun m =>
          !m.joined.isEmpty }) }
      (s2.freeDp u).setTeam u { t with st := .saved, lastClk := s.clkc t }

/-- The matrix unit of a saved holder is saved and released (R80); a holder that waits for it keeps what was saved. -/
def State.saveMx (s : State) (u : Nat) : State :=
  match s.team? u with
  | none => s
  | some t =>
    let k := s.column (s.colOf t)
    if k.mxHolder = some u then (s.modWg t.wg fun g => { g with savedMx := some (u, k.mx) }).releaseMx u
    else s.modCol (s.colOf t) fun k => { k with mxWaiters := k.mxWaiters.filter fun v => v != u }

/-- A workgroup enters Saved (R363). (log 58: DEDUCED, unsafe.) -/
def State.saveWg (s : State) (w : Nat) : State :=
  match s.wg? w with
  | none => s
  | some g =>
    let s1 := g.teams.foldl State.saveTeam s
    let s2 := (s1.clearSlot g.col w).modWg w fun g => { g with st := .saved }
    (g.teams.foldl State.saveMx s2).freeLoan g.col

/-- A workgroup is over: retired or dropped. -/
def State.wgOver (s : State) (w : Nat) : Bool := match s.wg? w with | some g => g.st == .retired || g.st == .dropped | none => false

/-- CONTEXT_SAVE (R363), for the workgroup named, with what is left of its quad (R240). -/
def execContextSave (s : State) : Out :=
  match s.arg with
  | .id w => .next
      (let ws := s.preemptSet w
       let live (v : Nat) : Bool := match s.wg? v with
         | some g => g.teams.any fun u => match s.team? u with | some t => t.st != .retired | none => false
         | none => false
       if ws.all (fun v => s.maySave v || s.wgOver v) && ws.any live then (ws.filter s.maySave).foldl State.saveWg s else s)
  | _ => .next s

/-- A restored team completes its PREE RTE and is Pending-ready (R58, R356, R364); its streams run once it has taken its pending causes. -/
def Team.restored (t : Team) (now : Nat) : Team :=
  if t.st = .retired then t else { t.leaveTrap now with st := .pendingReady, resuming := true }

/-- A workgroup is restored (R80, R364): its holder takes the matrix unit back, or waits for it. (log 58: DEDUCED, unsafe.) -/
def State.restoreWg (s : State) (w : Nat) : State :=
  match s.wg? w with
  | none => s
  | some g =>
    let s1 := g.teams.foldl (fun s u => s.modTeam u fun t => t.restored s.now) (s.modWg w fun g => { g with preempted := false, restoredAt := s.now })
    match g.savedMx with
    | none => s1
    | some e => (s1.modCol g.col fun k => { k with mxWaiters := k.mxWaiters ++ [e.1] }).grantMx g.col

/-- A workgroup is saved. -/
def State.wgSaved (s : State) (w : Nat) : Bool := match s.wg? w with | some g => g.st == .saved | none => false

/-- RESTORE (R364), for the workgroup named, with what is left of its quad (R238). -/
def execRestore (s : State) : Out :=
  match s.arg with
  | .id w => .next
      (let ws := s.preemptSet w
       if ws.all fun v => s.wgSaved v || s.wgOver v then s.makeResident (ws.filter s.wgSaved) true State.restoreWg else s)
  | _ => .next s

/-! ### The Registrar -/

/-- Every workgroup of the launch below one has been released or dropped (R336). -/
def State.chainDone (s : State) (g : Workgroup) : Bool :=
  let below := s.wgs.filter fun e => e.2.launch == g.launch && decide (e.2.idx < g.idx)
  let dropped := match s.unit? g.launch with | some c => c.dropped | none => false
  below.all (fun e => e.2.released) && (dropped || decide (below.length = g.idx))

/-- The path of a ticket's rank (R336). -/
def rankPath : Nat → Path
  | 0 => .T
  | 1 => .C
  | _ => .F

/-- The order of tickets within a workgroup (R336). -/
def Staged.ticket (e : Staged) : Nat := ((e.twg * 4 + e.rank) * 2 ^ 64 + e.seq) * 2 ^ 26 + e.el

/-- A staged write of the same store that reaches a word of one takes note that it has been released (R410). -/
def State.noteReleased (s : State) (e f : Staged) : Staged :=
  let ws := s.wordsAt e.space e.addr e.lower e.act.bytes.length
  if e.sameStore f && (s.wordsAt f.space f.addr f.lower f.act.bytes.length).any ws.contains then
    { f with before := f.before ++ [(e.addr, e.act.bytes.length)] }
  else f

/-- A staged access on its way to another die or device. -/
def Staged.toBuf (e : Staged) (w id stage : Nat) : BufWrite :=
  let p := rankPath e.rank
  let u := w * 8 + e.twg
  { id := id, agent := issuerOf u p, team := u, path := p, seq := e.seq, op := 0, el := e.el, lane := 0, slot := 0, space := e.space, addr := e.addr,
    lower := e.lower, act := e.act, land := .none, size := e.act.bytes.length, stage := stage, die := 0, num := 0, stamp := [], spec := false, probe := false,
    before := e.before }

/-- The flags of a released `.fadd` go to the launch of a workgroup (R335). -/
def State.gatherFl (s : State) (w : Nat) (f : Sticky) : State :=
  s.modUnit (s.launchKey w) fun c => { c with launch := c.launch.map fun l => { l with fl := l.fl ||| f } }

/-- One staged access is performed at memory (R335 to R337); to another die it goes through the send queue (R320), to another device as a request.
(log 52: DEDUCED, unsafe.) -/
def State.releaseOne (s : State) (w : Nat) (e : Staged) : State :=
  let u := w * 8 + e.twg
  let p := rankPath e.rank
  let gone (s : State) : State := s.modWg w fun g => { g with staged := (g.staged.filter fun f => f != e).map (s.noteReleased e) }
  match e.space with
  | .remote _ _ _ => ((gone s).fresh).sendRemote (e.toBuf w s.nextId 3)
  | .slice _ _ _ =>
    if s.sharedPage e.space e.addr e.lower then s
    else match s.crossing u e.space with
      | some (d, _) =>
        let r := (gone s).fresh.enterSend (e.toBuf w s.nextId 0) d
        { r.1 with bufs := r.1.bufs ++ [r.2] }
      | none => match e.act with
        | .write _ =>
          (gone s).updateAll (issuerOf u p) p e.space e.lower [(e.addr, e.act.bytes)] e.before
        | .atomic aop ty x cmp =>
          if s.poisonedAt e.space e.addr e.lower x.length then (gone s).logPoison (s.ctxOfWg w) e.space e.addr e.lower
          else
            let r := (gone s).atomicAt (issuerOf u p) p e.space e.addr aop ty x cmp
            r.1.gatherFl w r.2.2
        | .read | .pref | .clean _ => gone s
  | .spad _ | .nowhere _ => gone s

/-- REGISTRAR_RELEASE (R336), for the workgroup named: its next staged access in ticket order, or with none left it is released. -/
def execRegistrarRelease (s : State) : Out :=
  match s.arg with
  | .id w => .next (match s.wg? w with
    | some g =>
      if (g.st == .retired || g.st == .dropped) && s.isDet w && !g.released && s.chainDone g &&
          !(s.bufs.any fun b => b.op == 0 && b.team / 8 == w) then
        match leastBy Staged.ticket g.staged with
        | some e => s.releaseOne w e
        | none => s.modWg w fun g => { g with released := true }
      else s
    | none => s)
  | _ => .next s

end Sys2Proof.Machine
end

