-- ==== Sys2Proof/Machine/Catalogue.lean ====
section
/-!
DEFINITION. Objects and pages (R367 to R384): MAPFT, CATLD, CATSET, CATSNAP, and the steps that map, copy, move and duplicate pages or move a
whole context.
-/

namespace Sys2Proof.Machine

/-! ### Descriptors -/

/-- The columns of an object's distribution (R368). -/
def Obj.columns (o : Obj) : List Nat := (List.range o.ncol).map fun i => (o.bcol + i * o.stride) % 512

/-- The halves of a page for which an object has entries (R369). -/
def Obj.halves (o : Obj) : List Bool := if o.split then [false, true] else [false]

/-- Pages of an object (R369). -/
def pageCount (bound : Nat) : Nat := (bound + Config.pageBytes - 1) / Config.pageBytes

/-- Bytes of an object that are mapped in a column (R368); for object 0 those of the team. -/
def State.mappedBytes (s : State) (x id u col : Nat) (o : Obj) : Nat :=
  match s.ctx? x with
  | none => 0
  | some c =>
    let ps := (c.pages.filter fun e => e.1.obj == id && e.1.team == (if id = 0 then u else 0) && e.1.col == col && !e.1.lower && e.2.p).map
      fun e => e.1.page
    ((ps.filter fun q => !o.split || (s.pte { ctx := x, obj := id, team := 0, col := col, page := q, lower := true } o).p).map fun q =>
      min Config.pageBytes (o.bound - q * Config.pageBytes)).sum

/-- Word w of the descriptor that an identifier names (R368, R378). -/
def State.descWord (s : State) (x id u col w : Nat) : Word :=
  match s.obj? x id col with
  | none => 0
  | some o =>
    let bit (b : Bool) (k : Nat) : Nat := if b then 2 ^ k else 0
    match w with
    | 0 => BitVec.ofNat 64 (1 + 2 * o.ty.code.toNat + bit o.w 5 + bit o.split 6 + bit o.tol 7 + 256 * o.scale.toNat + bit o.dup 10 + bit o.snap 11 +
        2 ^ 16 * id)
    | 1 => BitVec.ofNat 64 o.bound
    | 2 => o.sbase
    | 3 => BitVec.ofNat 64 (o.rows.toNat + 2 ^ 32 * o.pitch.toNat)
    | 4 => BitVec.ofNat 64 (o.bcol + 2 ^ 10 * o.ncol + 2 ^ 20 * o.stride + 2 ^ 32 * o.blk.toNat)
    | 5 => BitVec.ofNat 64 (s.mappedBytes x id u col o)
    | 6 => o.source
    | _ => if id = 0 then BitVec.ofNat 64 (match s.team? u with | some t => t.hwm | none => 0) else 0

/-- Replace an object of a context; object 0's descriptor is the context's (R374). -/
def Context.setObj (c : Context) (id : Nat) (o : Obj) : Context :=
  if id = 0 then { c with privBound := o.bound, privW := o.w, privDup := o.dup } else { c with objs := assocSet c.objs id o }

/-- Change an object of a context. -/
def State.modObj (s : State) (x id : Nat) (f : Obj → Obj) : State :=
  match s.obj? x id 0 with
  | some o => s.modCtx x fun c => c.setObj id (f o)
  | none => s

/-! ### Issue -/

/-- An instruction of the Catalogue issues (R376): its effect waits until its operation completes. -/
def catIssue (i : Instr) (f : VForm) (dests : List Dest) (lanes : Team → List (Nat × Addr)) (s : State) : Out :=
  s.issue i f.se f.fs fun s u t =>
    (s.addOp u (.cat i (t.scal f.a.toNat) (t.scal f.b.toNat) (lanes t)) fun o =>
      { o with flag := selFlag t.hdr f.se f.fs, dests := dests, slot := t.slot }).advance u

/-- MAPFT (R372, R373). -/
def execMapft (f : VForm) (s : State) : Out :=
  catIssue (.mapft f) f [.v f.d.toNat] (fun t => (t.active f.m).map fun l => (l, t.pat .n64 f.a.toNat l)) s

/-- CATLD (R378). -/
def execCatld (f : VForm) (s : State) : Out := catIssue (.catld f) f [.s f.d.toNat] (fun _ => []) s

/-- CATSET#0 (R377). -/
def execCatsetAccess (f : VForm) (s : State) : Out := catIssue (.catsetAccess f) f [] (fun _ => []) s

/-- CATSET#1 (R377). -/
def execCatsetBound (f : VForm) (s : State) : Out := catIssue (.catsetBound f) f [] (fun _ => []) s

/-- CATSET#7 (R377): on any object but 0 it raises IINS at issue. -/
def execCatsetHwm (f : VForm) (s : State) : Out :=
  s.issue (.catsetHwm f) f.se f.fs fun s u t =>
    if objId (t.scal f.a.toNat) ≠ 0 then s.trapAt u .iins
    else
      (s.addOp u (.cat (.catsetHwm f) (t.scal f.a.toNat) (t.scal f.b.toNat) []) fun o =>
        { o with flag := selFlag t.hdr f.se f.fs, slot := t.slot }).advance u

/-- CATSET.pg (R375, R377). -/
def execCatsetPg (f : VForm) (s : State) : Out := catIssue (.catsetPg f) f [] (fun _ => []) s

/-- CATSNAP (R379). -/
def execCatsnap (f : VForm) (s : State) : Out := catIssue (.catsnap f) f [.s f.d.toNat] (fun _ => []) s

/-- CATSNAP.rel (R379). -/
def execCatsnapRel (f : VForm) (s : State) : Out := catIssue (.catsnapRel f) f [] (fun _ => []) s

/-! ### Effects -/

/-- One lane of MAPFT (R372): the state after it, and its status. -/
def State.mapftLane (s : State) (x u col : Nat) (a : Addr) : State × Nat :=
  let id := objId a
  match s.obj? x id col with
  | none => (s, 3)
  | some o =>
    if o.bound ≤ offOf a then (s, 3)
    else
      let es := o.halves.map fun h => let r := pageRef x id u col (offOf a) h; (r, s.pte r o)
      if es.any fun e => e.2.col != col then (s, 3)
      else if es.any fun e => !e.2.p && !e.2.ft then (s, 3)
      else
        let todo := es.filter fun e => !e.2.p || e.2.sh
        if todo.isEmpty then (s, 1)
        else
          let r := todo.foldl (fun (acc : Option State) e => acc.bind fun s => s.mapPage e.1 o e.2) (some s)
          match r with
          | some s1 => (s1, 0)
          | none => (s, 2)

/-- MAPFT takes effect: its lanes in ascending order. -/
def State.doMapft (s : State) (o : Op) (d x col : Nat) (lanes : List (Nat × Addr)) : State :=
  let r := lanes.foldl (fun (acc : State × List RegWr) la =>
    let m := acc.1.mapftLane x o.team col la.2
    (m.1, acc.2 ++ putElem d la.1 (BitVec.ofNat 32 m.2))) (s, [])
  r.1.completeOp { o with writes := r.2 }

/-- CATSET#0 on an object (R377). -/
def Obj.setAccess (o : Obj) (v : Word) : Obj :=
  let dup := v.getLsbD 10
  let w := v.getLsbD 5
  if dup && w then o
  else
    let o1 := { o with dup := dup, replicas := if dup then o.replicas else [] }
    if w && o.snap then o1 else { o1 with w := w }

/-- The entries of an object's pages from number n on. -/
def Context.pagesFrom (c : Context) (id n : Nat) : List (PageRef × Pte) := c.pages.filter fun e => e.1.obj == id && decide (n ≤ e.1.page)

/-- CATSET#1 on an object (R377): pages above the old bound become first-touch, pages above the new bound are released, and what the caches alone
hold of their frames is discarded. -/
def State.setBound (s : State) (x id b : Nat) : State :=
  match s.ctx? x, s.obj? x id 0 with
  | some c, some o =>
    let n := pageCount b
    let s1 := s.modCtx x fun c =>
      ({ c.setObj id { o with bound := b, ftFrom := min o.ftFrom (min n (pageCount o.bound)) } with
          pages := c.pages.filter fun e => !(e.1.obj == id && decide (n ≤ e.1.page)) } : Context).unshare
    (c.pagesFrom id n).foldl (fun (s : State) (e : PageRef × Pte) =>
      if e.2.p && !s.frameHeld e.2.level e.2.col e.2.frame then s.discardFrame e.2.key else s) s1
  | _, _ => s

/-- CATSET.pg (R377): W and X of every entry of a page in every column of the distribution; the others take them from BCOL's entry (`State.pte`). -/
def State.setPage (s : State) (x u col : Nat) (a : Addr) (v : Word) (o : Obj) : State :=
  let w := v.getLsbD 2
  let xx := v.getLsbD 3
  if (w && xx) || (w && !o.w) then s
  else (o.columns.flatMap fun c => o.halves.map fun h => pageRef x (objId a) u (if objId a = 0 then col else c) (offOf a) h).foldl
    (fun s r => s.setPte r { s.pte r o with w := w, x := xx }) s

/-- A CATSET takes effect (R377): one that names no byte of an object changes nothing. (log 59: DEDUCED, unsafe.) -/
def State.doCatset (s : State) (o : Op) (i : Instr) (x col : Nat) (a b : Word) : State :=
  let id := objId a
  let v := offOf b
  match s.obj? x id col with
  | none => s
  | some ob =>
    if ob.bound ≤ offOf a then s
    else match i with
      | .catsetAccess _ => s.modObj x id fun q => q.setAccess b
      | .catsetBound _ => s.setBound x id v
      | .catsetHwm _ =>
        if ob.bound < v ∨ v % Config.pageBytes ≠ 0 then s
        else
          let old := match s.team? o.team with | some t => t.hwm | none => 0
          let s1 := s.modTeam o.team fun t => { t with hwm := v }
          if old < v then s1.modCtx x fun c => { c with log := c.log ++ [[BitVec.ofNat 64 o.team, BitVec.ofNat 64 v]] } else s1
      | .catsetPg _ => s.setPage x o.team col a b ob
      | _ => s

/-- The Catalogue's next identifiers: the n-th choice if it is free, else the least that are (log 9). (log 9: DESIGN CHOICE, safe.) -/
def State.freeIds (s : State) (x n : Nat) : Option (List Nat) :=
  let used (i : Nat) : Bool := i == 0 || i == 0xFFFF || match s.ctx? x with | some c => (assoc c.objs i).isSome | none => true
  let c := (Config.objId s.free).toNat
  let l := (if used c then [] else [c]) ++ (List.range 0xFFFF).filter fun i => !used i && i != c
  if n ≤ l.length then some (l.take n) else none

/-- A snapshot of one object (R379): its descriptor, with the scale snapshot taken in the same step, and read-only entries that share the original's
frames. -/
def Context.snapshot (c : Context) (id new : Nat) (sbase : Addr) (mate : Option Nat) : Context :=
  match assoc c.objs id with
  | none => c
  | some o =>
    let shared := c.pages.map fun e => if e.1.obj == id && e.2.p then (e.1, { e.2 with sh := true }) else e
    let copies := (shared.filter fun e => e.1.obj == id).map fun e => ({ e.1 with obj := new }, { e.2 with w := false })
    { c with objs := assocSet c.objs new { o with w := false, snap := true, source := addrOf id 0, sbase := sbase, replicas := [], mate := mate },
             pages := shared ++ copies }

/-- CATSNAP takes effect (R379): the handle that it returns. (log 59: DEDUCED, unsafe.) -/
def State.doSnap (s : State) (x : Nat) (a : Word) : State × Word :=
  let id := objId a
  let null := addrOf 0xFFFF 0
  match (s.ctx? x).bind fun c => if id = 0 then none else assoc c.objs id with
  | none => (s, null)
  | some o =>
    if o.snap then (s, null)
    else
      let sid := objId o.sbase
      let scale := sid != id && sid != 0 && match s.ctx? x with | some c => (assoc c.objs sid).isSome | none => false
      match s.freeIds x (if scale then 2 else 1) with
      | some [n] => ({ s.modCtx x fun c => c.snapshot id n o.sbase none with free := s.free + 1 }, addrOf n 0)
      | some [n, m] =>
        let so := (s.obj? x sid 0).map (·.sbase)
        ({ s.modCtx x fun c => (c.snapshot id n (addrOf m (offOf o.sbase)) (some m)).snapshot sid m (so.getD null) none with free := s.free + 2 }, addrOf n 0)
      | _ => (s, null)

/-- An object goes: its descriptor and its entries; no snapshot has it as its scale snapshot any longer. -/
def Context.dropObj (c : Context) (id : Nat) : Context :=
  { c with objs := (assocDel c.objs id).map fun e => (e.1, { e.2 with mate := if e.2.mate = some id then none else e.2.mate }),
           pages := c.pages.filter fun e => e.1.obj != id }

/-- CATSNAP.rel takes effect (R379): the snapshot goes, and its scale snapshot with it. -/
def Context.release (c : Context) (id : Nat) : Context :=
  match assoc c.objs id with
  | none => c
  | some o =>
    if !o.snap then c
    else match o.mate with
      | some m => ((c.dropObj m).dropObj id).unshare
      | none => (c.dropObj id).unshare

/-- An instruction of the Catalogue takes effect and completes (R372, R377 to R379): CATSET and the taking of a snapshot after the T-path accesses
that the team issued earlier are performed at dev scope. -/
def State.finishCat (s : State) (o : Op) (i : Instr) (a b : Word) (lanes : List (Nat × Addr)) : State :=
  match s.team? o.team with
  | none => s.delOp o.id
  | some t =>
    let x := s.ctxOf t
    let col := s.colOf t
    let after (go : State) : State := if s.performedAt o.team .T o.seq 4 false then go else s
    match i with
    | .mapft f => s.doMapft o f.d.toNat x col lanes
    | .catld f => s.completeOp { o with writes := [.s f.d.toNat (s.descWord x (objId a) o.team col (f.sub.extractLsb' 0 3).toNat)] }
    | .catsnap f => after (let r := s.doSnap x a; r.1.completeOp { o with writes := [.s f.d.toNat r.2] })
    | .catsnapRel _ => (s.modCtx x fun c => c.release (objId a)).completeOp o
    | _ => after ((s.doCatset o i x col a b).completeOp o)

/-! ### Steps on pages -/

/-- The page of a slice that an address reaches. -/
def pageAt (sp : Space) (a : Addr) (lower : Bool) : Option PageRef :=
  match sp with
  | .slice x col u => some (pageRef x (objId a) u col (offOf a) lower)
  | .spad _ | .remote _ _ _ | .nowhere _ => none

/-- The page that a request of another device reaches, and whether it writes (R406). -/
def farPage : FarPacket → Option (PageRef × Bool)
  | .read _ x col a _ => some (pageRef x (objId a) 0 col (offOf a) false, false)
  | .write _ x col a _ => some (pageRef x (objId a) 0 col (offOf a) false, true)
  | .atomic _ x col a _ _ _ _ => some (pageRef x (objId a) 0 col (offOf a) false, true)
  | .check _ x col a _ _ _ _ => some (pageRef x (objId a) 0 col (offOf a) false, false)
  | .answer _ _ | .answerErr _ _ _ => none

/-- The pages that the far elements of a copy command meet not mapped. -/
def State.cpTouches (s : State) (o : Op) (c : CopyCmd) : List PageRef :=
  let at_ (p : CpOperand) (i k : Nat) : Option PageRef :=
    let acc := s.cpAccess o.team p (p.elemAddr k c.w) i c.w .read
    if s.cpCheck o.team p acc == .precise .pftp then pageAt acc.space acc.addr false else none
  (if c.src.kind = 3 then c.left.filterMap fun i => (if c.cop == .cpyg then s.cpIndexNow o c i else some i).bind fun k => at_ c.src i k else []) ++
    if c.dst.kind = 3 then c.got.filterMap fun g => at_ c.dst g.1 (if c.cop == .cpys then g.2.1 else g.1) else []

/-- The first-touch pages of objects at which a far access waits (R370): an access of path F, an element of a copy command, a request of another
device, or the Curator's add. (log 60: DEDUCED, safe.) -/
def State.farPages (s : State) : List PageRef :=
  let ops := s.ops.flatMap fun o => (o.acc.filterMap fun a =>
      if a.path == .F && s.checkAccess o.team a == .precise .pftp then pageAt a.space a.addr a.lower else none) ++
    match o.kind with | .copy c => s.cpTouches o c | _ => []
  (ops ++ (s.inbox.filterMap fun e => (farPage e.2.pkt).map (·.1)) ++ s.resvWant).eraseDups

/-- A first-touch page of an object is mapped at its column, one of the context's partition, from its pool (R370, R372, R417). -/
def State.touchMap (s : State) (r : PageRef) : State :=
  match s.obj? r.ctx r.obj r.col with
  | some o =>
    let e := s.pte r o
    if r.obj ≠ 0 && r.team == 0 && !e.p && e.ft && e.col == r.col && s.inOwnPart r.ctx r.col && decide (r.page < pageCount o.bound) && (!r.lower || o.split) then
      (s.mapPage r o e).getD s
    else s
  | none => s

/-- FAR_FIRST_TOUCH_MAP (R370, R372), for the page named, or the n-th, if a far access waits at it. (log 60: DEDUCED, safe.) -/
def execFarFirstTouchMap (s : State) : Out :=
  match s.arg with
  | .page r _ _ => .next (if s.farPages.contains r then s.touchMap r else s)
  | .id n => .next (match s.farPages[n]? with | some r => s.touchMap r | none => s)
  | _ => .next s

/-- The page that a write of another device reaches, if it passes its checks (R370, R381). -/
def State.farWrite (s : State) (p : FarPacket) : Option PageRef :=
  let page (x col : Nat) (a : Addr) (n : Nat) : Option PageRef :=
    if s.checkFar x col a n true == .ok then some (pageRef x (objId a) 0 col (offOf a) false) else none
  match p with
  | .write _ x col a bs => page x col a bs.length
  | .atomic _ x col a _ _ v _ => page x col a v.length
  | .read _ _ _ _ _ | .check _ _ _ _ _ _ _ _ | .answer _ _ | .answerErr _ _ _ => none

/-- The shared pages whose copy a write waits for (R381): one that has been performed, one that passes its checks and has yet to be, one that is
staged, one of another device that passes its checks, or the Curator's add. -/
def State.copyPages (s : State) : List PageRef :=
  let bufs := s.bufs.filterMap fun b => if b.act.writes && !b.probe then pageAt b.space b.addr b.lower else none
  let ops := s.ops.flatMap fun o => o.acc.filterMap fun a =>
    if a.act.writes && s.checkAccess o.team a == .ok then pageAt a.space a.addr a.lower else none
  let st := s.wgs.flatMap fun e => e.2.staged.filterMap fun g => pageAt g.space g.addr g.lower
  let far := s.inbox.filterMap fun e => s.farWrite e.2.pkt
  (bufs ++ ops ++ st ++ far ++ s.resvWant).eraseDups

/-- A write waits for the copy of a page (R381). -/
def State.copyWanted (s : State) (r : PageRef) : Bool := s.copyPages.contains r

/-- The original's page is copied (R381); a snapshot is never written. -/
def State.copyPage (s : State) (r : PageRef) : State :=
  match s.obj? r.ctx r.obj r.col with
  | some o => if !o.snap then s.partPage r else s
  | none => s

/-- COPY_ON_WRITE (R381), for the page named, or the n-th, which a write waits to have copied. -/
def execCopyOnWrite (s : State) : Out :=
  match s.arg with
  | .page r _ _ => .next (if s.copyWanted r then s.copyPage r else s)
  | .id n => .next (match s.copyPages[n]? with | some r => s.copyPage r | none => s)
  | _ => .next s

/-- PAGE_MIGRATION (R382), for the page, tier and frame named: every entry that shares the frame moves with it. What
lies beyond the fitted capacity has nothing left to move (R5). -/
def State.movePage (s : State) (r : PageRef) (tier : BitVec 2) (frame : Nat) : State :=
  match (s.ctx? r.ctx).bind fun c => pageFind c.pages r with
  | none => s
  | some e =>
    let t := if tier == 1 then 1 else 0
    if !e.p || s.pastFitted e || decide (1 < tier.toNat) || !s.frameFree t e.col frame then s
    else
      let k := frameKey t e.col frame
      (s.copyFrame e.key k).modCtx r.ctx fun c =>
        { c with pages := c.pages.map fun q => if q.2.p && q.2.key == e.key then (q.1, { q.2 with tier := tier, frame := frame }) else q }

/-- PAGE_MIGRATION (R382). -/
def execPageMigration (s : State) : Out :=
  match s.arg with
  | .page r tier frame => .next (s.movePage r tier frame)
  | _ => .next s

/-- The entry of a replica (R369, R382): TIER 2, read-only, owned by the page's column. -/
def Pte.replica (e : Pte) (frame : Nat) : Pte :=
  { p := true, ft := false, w := false, x := e.x, tier := 2, sh := false, col := e.col, frame := frame }

/-- PAGE_DUPLICATION (R382), for the page, column and frame named: a replica of a page of a DUP object in another column, of its
own or of another local partition. (log 60: DEDUCED, safe.) -/
def execPageDuplication (s : State) : Out :=
  match s.arg with
  | .dup r col frame => .next (match s.obj? r.ctx r.obj r.col with
    | some o =>
      let e := s.pte r o
      if o.dup && !o.w && e.p && !s.pastFitted e && r.obj ≠ 0 && col != e.col && s.frameFree 0 col frame then
        (s.copyFrame e.key (frameKey 0 col frame)).modObj r.ctx r.obj fun q => { q with replicas := q.replicas ++ [(r, col, e.replica frame)] }
      else s
    | none => s)
  | _ => .next s

/-- Frames of a context's reserve that a column's pool may still get: the reserve in MiB per column, less what it has given (R404, R405). (log 60: DEDUCED, safe.) -/
def Context.left (c : Context) (col : Nat) : Nat := c.reserve * 16 - (assoc c.given col).getD 0

/-- POOL_REFILL (R371, R405), for the context, column, part and frames named: frames of the context's reserve enter the pool, and every team of the
column that waits in WFI is woken. (log 60: DEDUCED, safe.) -/
def execPoolRefill (s : State) : Out :=
  match s.arg with
  | .refill x col second frames => .next (match s.ctx? x with
      | none => s
      | some c =>
        if frames.dedup.length = frames.length && frames.all (s.frameFree (if second then 1 else 0) col) && !frames.isEmpty &&
            s.inOwnPart x col && decide (frames.length ≤ c.left col) then
          let s0 := s.modCtx x fun c => { c with given := assocSet c.given col ((assoc c.given col).getD 0 + frames.length) }
          let s1 := s0.modCol col fun k => if second then { k with poolSec := k.poolSec ++ frames } else { k with poolHbm := k.poolHbm ++ frames }
          (s.teamsIn col).foldl (fun s e => s.modTeam e.1 fun t => match t.hwait with
            | .wfi _ => { t with wake := true }
            | _ => t) s1
        else s)
  | _ => .next s

/-! ### Live migration -/

/-- The teams of a context. -/
def State.teamsOfCtx (s : State) (x : Nat) : List (Nat × Team) := s.teams.filter fun e => s.ctxOf e.2 == x

/-- A context may leave (R384): every workgroup is saved, retired or not yet resident, and nothing that it issued is on its way. -/
def State.mayLeave (s : State) (x : Nat) : Bool :=
  let mine := fun u => (s.teamsOfCtx x).any fun e => e.1 == u
  (s.wgs.all fun e => s.ctxOfWg e.1 != x || (e.2.st != .resident && e.2.st != .bound)) && !(s.bufs.any fun b => mine b.team) &&
    s.intake.all fun i => match i.entry with | .record y _ _ _ => y != x | .cancel y _ => y != x

/-- The frames that a context's entries name. -/
def Context.frames (c : Context) : List Nat := (c.pages.filterMap fun e => if e.2.p then some e.2.key else none).dedup

/-- The installation once the device of a number has its place elsewhere (R384): at the MAC address named. -/
def State.placeAt (s : State) (dev : Nat) (e : Install) : State := { s with install := assocSet s.install dev e }

/-- LIVE_MIGRATION, the leaving half (R384): the context, its saved work and the contents of its frames go to the device with a MAC address. Requests
for it are sent on; when the last context of its partition leaves, the partition's device number is found there too. (log 61: DESIGN CHOICE, safe.) -/
def State.leave (s : State) (x : Nat) (mac : BitVec 48) : State :=
  match s.ctx? x with
  | none => s
  | some c =>
    if !s.mayLeave x then s
    else
      let ts := s.teamsOfCtx x
      let mine := fun u => ts.any fun e => e.1 == u
      let inF := fun b => c.frames.any fun k => inFrame k b
      let m : Migrated :=
        { ctx := x, body := c, wgs := s.wgs.filter fun e => s.ctxOfWg e.1 == x, teams := ts, units := s.units.filter fun e => e.2.ctx == x,
          ops := s.ops.filter fun o => mine o.team,
          posts := s.columns.flatMap fun k => (k.2.posts.filter fun p => p.ctx == x).map fun p => (k.1, p),
          mem := Store.keep (w := 8) s.mem inF, poison := s.poison.filter fun w => inF (4 * w) }
      let s1 : State :=
        { s with contexts := assocDel s.contexts x, moved := assocSet s.moved x mac, wgs := s.wgs.filter fun e => s.ctxOfWg e.1 != x,
                 teams := s.teams.filter fun e => !mine e.1, units := s.units.filter fun e => e.2.ctx != x,
                 ops := s.ops.filter fun o => !mine o.team,
                 columns := s.columns.map fun k => (k.1, { k.2 with posts := k.2.posts.filter fun p => p.ctx != x }),
                 mem := Store.keep (w := 8) s.mem fun b => !inF b, dram := Store.keep (w := 8) s.dram fun b => !inF b,
                 poison := s.poison.filter fun w => !inF (4 * w), elsewhere := s.elsewhere ++ [m] }
      if s1.contexts.any fun e => e.2.part == c.part then s1 else s1.placeAt c.dev { part := none, mac := mac, unreachable := false }

/-- The offset that keeps a team's CLKC from falling (R86). -/
def State.clkOffset (s : State) (t : Team) : Word :=
  let here := s.clkc { t with clkOff := 0 }
  if t.lastClk.toNat ≤ here.toNat then 0 else t.lastClk - here

/-- Nothing of an arriving context has the number of something here; numbers are given out once, so this holds in every run. (log 61: DESIGN CHOICE, safe.) -/
def State.roomFor (s : State) (m : Migrated) : Bool :=
  m.teams.all (fun e => (s.team? e.1).isNone) && m.wgs.all (fun e => (s.wg? e.1).isNone) && m.units.all fun e => (s.unit? e.1).isNone

/-- LIVE_MIGRATION, the arriving half (R86, R384): the device is in stage 2 (R426), and the context's frames must be free here, in its partition. A device number that other contexts hold
for it is found here from now on. (log 61: DESIGN CHOICE, safe.) -/
def State.arrive (s : State) (x : Nat) : State :=
  match s.elsewhere.find? fun m => m.ctx == x with
  | none => s
  | some m =>
    let inF := fun b => m.body.frames.any fun k => inFrame k b
    if s.stage != .stage2 || (s.ctx? x).isSome || !s.roomFor m || !(m.body.pages.all fun e => !e.2.p || (inPartition s.nPart m.body.part e.2.col && s.frameFree e.2.level e.2.col e.2.frame)) then s
    else
      let s1 : State :=
        { s with contexts := s.contexts ++ [(x, m.body)], wgs := s.wgs ++ m.wgs, units := s.units ++ m.units, ops := s.ops ++ m.ops,
                 mem := Store.restore (w := 8) s.mem m.mem inF, dram := Store.restore (w := 8) s.dram m.mem inF, poison := s.poison ++ m.poison,
                 elsewhere := s.elsewhere.filter fun e => e.ctx != x, moved := assocDel s.moved x }
      let s1 := match assoc s.install m.body.dev with
        | some e => if e.part.isNone then s1.placeAt m.body.dev { part := some m.body.part, mac := s.macOfPart m.body.part, unreachable := false } else s1
        | none => s1
      let s2 := m.posts.foldl (fun s e => s.setPost e.1 e.2) s1
      { s2 with teams := s2.teams ++ m.teams.map fun e => (e.1, { e.2 with clkOff := s2.clkOffset e.2 }) }

/-- LIVE_MIGRATION (R384), for the context named. -/
def execLiveMigration (s : State) : Out :=
  match s.arg with
  | .migrate x false mac => .next (s.leave x mac)
  | .migrate x true _ => .next (s.arrive x)
  | _ => .next s

end Sys2Proof.Machine
end

