-- ==== Sys2Proof/Machine/Fences.lean ====
section
/-!
DEFINITION. Fences (R324 to R330) and the steps of the abstract memory machine that act on queues and buffers (R314, R321, R325, R328).
-/

namespace Sys2Proof.Machine

/-- The path of a code (R324). -/
def pathOf (n : Nat) : Path :=
  match n with
  | 0 => .T
  | 1 => .C
  | 2 => .M
  | 3 => .F
  | _ => .I

/-- A fence issues (R325): it does not hold the team. -/
def fence (i : Instr) (f : VForm) (p q : Path) (s : State) : Out :=
  s.issue i f.se f.fs fun s u t =>
    (s.addOp u (.fence p q (f.sub.extractLsb' 0 3).toNat .pending) fun o =>
      { o with flag := selFlag t.hdr f.se f.fs, slot := t.slot }).advance u

/-- FENCE (R324, R325): FENCEX from path T to path T. -/
def execFence (f : VForm) (s : State) : Out := fence (.fence f) f .T .T s

/-- FENCEX (R324, R325). -/
def execFencex (f : VForm) (s : State) : Out :=
  fence (.fencex f) f (pathOf (f.sub.extractLsb' 3 3).toNat) (pathOf (f.sub.extractLsb' 6 3).toNat) s

/-- Take the checkpoint of a speculative window: the team as it stands once its FENCES has issued (R327). -/
def State.checkpoint (s : State) (u op sq : Nat) : State :=
  s.modTeam u fun t =>
    { t with spec := some { op := op, seq := sq, sregs := t.sregs, vregs := t.vregs, masks := t.masks, live := t.live, ra := t.ra, pc := t.pc,
                            started := t.started, hdr := t.hdr, slot := t.slot, fell := t.fell, readSet := [], stores := 0, raises := 0, errs := [],
                            conflict := false } }

/-- FENCES (R327, R329). -/
def execFences (f : VForm) (s : State) : Out :=
  s.issue (.fences f) f.se f.fs fun s u t =>
    ((s.addOp u (.fence (pathOf (f.sub.extractLsb' 3 3).toNat) .T (f.sub.extractLsb' 0 3).toNat .speculating) fun o =>
      { o with flag := selFlag t.hdr f.se f.fs, slot := t.slot }).advance u).checkpoint u s.nextId s.seq

/-- A store of a window that has closed is released for export, or is staged (R329, R333). -/
def State.releaseStore (s : State) (u : Nat) (t : Team) (b : BufWrite) : State :=
  if s.stages u b.space b.addr b.act then
    let e : Staged := { twg := t.twg, rank := pathRank b.path, seq := b.seq, el := b.el, space := b.space, addr := b.addr, lower := b.lower, act := b.act,
                        before := b.before }
    match s.stage1 u t b.path e with
    | some s1 => s1.delBuf b.id
    | none =>
      { s.giveErr u b.path b.lane .mbnd b.addr b.slot b.seq with bufs := s.bufs.filter fun c => !(c.op == b.op && c.lane == b.lane) }
  else { s with bufs := s.bufs.map fun c => if c == b then { b with spec := false } else c }

/-- The window of a team closes without a conflict: its stores are released, its held flags and error responses land (R329). -/
def State.closeWindow (s : State) (u : Nat) : State :=
  match s.team? u with
  | none => s
  | some t =>
    match t.spec with
    | none => s
    | some sp =>
      let t1 := ({ t with spec := none }).raise sp.raises
      let t2 := sp.errs.foldl (fun t e => t.errResp s.now e.path e.lane e.cause e.addr e.slot e.seq) t1
      (s.bufs.filter fun b => b.team == u && b.spec).foldl (fun s b => if s.bufs.contains b then s.releaseStore u t b else s) (s.setTeam u t2)

/-- A fence completes when its earlier set has been performed at its scope (R325, R329). -/
def State.fenceDone (s : State) (o : Op) : State :=
  match o.kind with
  | .fence p q scope st =>
    if !s.performedAt o.team p o.seq scope (p == q) then s
    else if st == .speculating then
      match (s.team? o.team).bind (·.spec) with
      | some sp => if sp.conflict then s else (s.closeWindow o.team).completeOp o
      | none => s.completeOp o
    else s.completeOp o
  | _ => s

/-- FENCE_COMPLETE (R325, R329), for the fence named. -/
def execFenceComplete (s : State) : Out :=
  match s.arg with
  | .id n => .next (match s.op? n with | some o => s.fenceDone o | none => s)
  | _ => .next s

/-- SPECULATION_CONFLICT (R328), for the team named. -/
def execSpeculationConflict (s : State) : Out :=
  match s.arg with
  | .id u => .next (match (s.team? u).bind (·.spec) with | some sp => if sp.conflict then s.unwind u else s | none => s)
  | _ => .next s

/-! ### Steps of the queues and buffers -/

/-- MM_ISSUE (R314): the accesses of an issued instruction enter their path queue. -/
def execMmIssue (s : State) : Out :=
  match s.arg with
  | .id n => .next (match s.op? n with | some o => s.setOp { o with queued := true } | none => s)
  | _ => .next s

/-- The write with an identifier. -/
def State.buf? (s : State) (n : Nat) : Option BufWrite := s.bufs.find? fun b => b.id == n

/-- MM_EXPORT (R314): a whole write, or one of the words that it covers. -/
def execMmExport (s : State) : Out :=
  match s.arg with
  | .id n => .next (match s.buf? n with | some b => if s.mayExport b then s.exportBuf b else s | none => s)
  | .pair n k => .next (match s.buf? n with | some b => if s.mayExport b then s.exportWord b k else s | none => s)
  | _ => .next s

/-- MM_TRANSFER (R314): a write in S(d) enters the apply queue of its target's base die. -/
def execMmTransfer (s : State) : Out :=
  match s.arg with
  | .id n => .next (match s.buf? n with | some b => if b.stage = 1 then s.setBuf { b with stage := 2 } else s | none => s)
  | _ => .next s

/-- MM_APPLY (R321, R322). -/
def execMmApply (s : State) : Out :=
  match s.arg with
  | .id n => .next (match s.buf? n with | some b => if b.stage = 2 then s.applyBuf b else s | none => s)
  | _ => .next s

/-- An operation has nothing left to perform: its accesses are performed, and its requests to other dies and devices are answered. -/
def State.opDrained (s : State) (o : Op) : Bool :=
  o.acc.isEmpty && !(s.bufs.any fun b => b.op == o.id && b.stage != 0 && match b.act with
    | .atomic _ _ _ _ | .read => true
    | .write _ => b.stage == 3
    | .pref | .clean _ => false)

/-- SF_QUEUE_WRITE (R193): the first instruction of a column's special-function service order performs its write and its raises. -/
def execSfQueueWrite (s : State) : Out :=
  match s.arg with
  | .id c =>
    .next (match (s.column c).sfq with
      | n :: rest =>
        let s1 := s.modCol c fun k => { k with sfq := rest }
        match s1.op? n with
        | some o => s1.completeOp o
        | none => s1
      | [] => s)
  | _ => .next s

end Sys2Proof.Machine
end

