-- ==== Sys2Proof/Machine/Keccak.lean ====
section
/-!
DEFINITION. SHAKE256 (FIPS 202), by which the measurement registers are extended (R428). The rotation offsets and
the round constants are computed by the standard's own recurrences and not held as tables.
-/

namespace Sys2Proof.Machine

/-- Lane n of a sponge state of 25 words; the lane of column x and plane y is number x + 5y. -/
def kLane (a : List Word) (n : Nat) : Word := a.getD n 0

/-- The walk of FIPS 202's rho: its t-th stop rotates one lane by (t + 1)(t + 2)/2; answers the offset of the lane
at column x and plane y, 0 for the lane at the origin, which the walk never meets. -/
def kSpin (x y : Nat) : Nat :=
  let rec walk : Nat → Nat → Nat → Nat → Nat
    | 0, _, _, _ => 0
    | fuel + 1, t, u, v =>
      if (x, y) = (u, v) then (t + 1) * (t + 2) / 2 % 64 else walk fuel (t + 1) v ((2 * u + 3 * v) % 5)
  walk 24 0 1 0

/-- The byte register whose low bit is FIPS 202's rc(t): it steps t times from 1. -/
def kLfsr : Nat → BitVec 8
  | 0 => 1
  | t + 1 => let r := kLfsr t; (r <<< 1) ^^^ (if r.msb then 0x71 else 0)

/-- What round i adds to the lane at the origin: bit 2^j - 1 is rc(j + 7i), for j up to 6. -/
def kIota (i : Nat) : Word :=
  (List.range 7).foldl (fun w j => w ||| ((kLfsr (j + 7 * i) &&& 1).setWidth 64 <<< (2 ^ j - 1))) 0

/-- The parity of column x. -/
def kParity (a : List Word) (x : Nat) : Word :=
  kLane a x ^^^ kLane a (x + 5) ^^^ kLane a (x + 10) ^^^ kLane a (x + 15) ^^^ kLane a (x + 20)

/-- The state after theta, rho and pi, as a function of the place a lane comes to: place (x, y) takes the lane of
column x + 3y and plane x, to which the parities of its two neighbour columns are added, rotated. -/
def kMix (a : List Word) (x y : Nat) : Word :=
  let u := (x + 3 * y) % 5
  (kLane a (u + 5 * x) ^^^ kParity a ((u + 4) % 5) ^^^ (kParity a ((u + 1) % 5)).rotateLeft 1).rotateLeft (kSpin u x)

/-- Round i: every lane of chi, the round's constant at the origin. -/
def kRound (a : List Word) (i : Nat) : List Word :=
  let m := (List.range 25).map fun n => kMix a (n % 5) (n / 5)
  (List.range 25).map fun n =>
    let at_ (d : Nat) : Word := kLane m ((n + d) % 5 + n / 5 * 5)
    (if n = 0 then kIota i else 0) ^^^ at_ 0 ^^^ (~~~at_ 1 &&& at_ 2)

/-- The permutation of 24 rounds. (log 67: PRESUMED, unsafe.) -/
def kPermute (a : List Word) : List Word := (List.range 24).foldl kRound a

/-- Lane n of a block of 136 bytes, least significant byte first; the eight lanes of the capacity are zero. -/
def kBlockLane (bs : List Byte) (n : Nat) : Word :=
  if n < 17 then
    ((bs.drop (8 * n)).take 8).foldr (fun (b : Byte) (w : Word) => (w <<< 8) ||| b.setWidth 64) 0
  else 0

/-- A message of n bytes absorbs n / 136 + 1 blocks: byte k of the padded message is the message's, 0x1F in the
byte after it, 0x80 added to the last byte of the last block, and zero elsewhere. -/
def kPadded (bs : List Byte) (k : Nat) : Byte :=
  bs.getD k (if k = bs.length then 0x1F else 0) ^^^ (if k + 1 = (bs.length / 136 + 1) * 136 then 0x80 else 0)

/-- Add block b of the padded message to the state and permute it. -/
def kAbsorb (bs : List Byte) (a : List Word) (b : Nat) : List Word :=
  let block := (List.range 136).map fun k => kPadded bs (136 * b + k)
  kPermute ((List.range 25).map fun n => kLane a n ^^^ kBlockLane block n)

/-- The first 64 bytes of SHAKE256 of a message (R428). (log 67: PRESUMED, unsafe.) -/
def shake256 (bs : List Byte) : List Byte :=
  let a := (List.range (bs.length / 136 + 1)).foldl (kAbsorb bs) []
  (List.range 64).map fun k => (kLane a (k / 8)).extractLsb' (8 * (k % 8)) 8

end Sys2Proof.Machine
end

