-- ==== Sys2Proof/Machine/Reliability.lean ====
section
/-!
DEFINITION. The base-die controller, errors and their records, the Conservator, failing DRAM dies and cores, DMA, CXL and the scale-out ports
(R406 to R415, R418, R422 to R424).
-/

namespace Sys2Proof.Machine

/-! ### Charging errors -/

/-- The tier, column, frame and offset that a key names. -/
def keyParts (k : Nat) : Nat × Nat × Nat × Nat :=
  let f := k / Config.pageBytes
  (f / 2 ^ 38 / 512, f / 2 ^ 38 % 512, f % 2 ^ 38, k % Config.pageBytes)

/-- The second tier is CXL-attached (R5, R6). (log 10: DESIGN CHOICE, safe.) -/
def cxlTier : Bool := !Config.moduleM && Config.secondTierCxl

/-- The pages of a context that map a frame, in an entry or as a replica (R382, R412), each with whether it does so as a replica. -/
def Context.pagesOn (c : Context) (fk : Nat) : List (PageRef × Bool) :=
  ((c.pages.filter fun e => e.2.p && e.2.key == fk).map fun e => (e.1, false)) ++
    c.objs.flatMap fun o => (o.2.replicas.filter fun q => frameKey 0 q.2.1 q.2.2.frame == fk).map fun q => (q.1, true)

/-- The pages that map the frame of a key. -/
def State.pagesOn (s : State) (k : Nat) : List (PageRef × Bool) :=
  s.contexts.flatMap fun c => c.2.pagesOn (k / Config.pageBytes * Config.pageBytes)

/-- The context and page that map the frame of a key (R412). -/
def State.ownerOf (s : State) (k : Nat) : Option (Nat × PageRef) := (s.pagesOn k).head?.map fun e => (e.1.ctx, e.1)

/-- How an error was met (R412, R413): source and location code, the context that triggered it where the record names one besides the owner, and for a
demand read the context and object that were read. -/
structure ErrSite where
  src : Nat
  loc : Nat
  trig : Option Nat
  via : Option (Nat × Nat)
deriving DecidableEq, Repr, Inhabited

/-- The object that maps the frame of a key, with the page. -/
def State.objOn (s : State) (k : Nat) : Option (PageRef × Obj) :=
  (s.ownerOf k).bind fun e => (s.obj? e.1 e.2.obj e.2.col).map fun o => (e.2, o)

/-- Bytes of the granule in which storage at a location code is protected (R408, R413): DRAM's 32, else the 32-bit word. -/
def granuleAt (loc : Nat) : Nat := if 5 ≤ loc then 32 else 4

/-- Whom an error at a key is charged to (R412): the object read, where its page maps the frame, else the first whose page does. The frame of a replica
is of TIER 2 (R369, R413). (log 63: DEDUCED, unsafe.) -/
def State.chargeAt (s : State) (e : ErrSite) (k : Nat) : Charge :=
  let p := keyParts k
  let ps := s.pagesOn k
  match (e.via.bind fun v => ps.find? fun q => q.1.ctx == v.1 && q.1.obj == v.2).or ps.head? with
  | none => { owner := none, obj := 0xFFFF, off := granuleOff (granuleAt e.loc) false 0 p.2.2.2, tier := p.1 }
  | some (r, rep) =>
    let split := match s.obj? r.ctx r.obj r.col with | some o => o.split | none => false
    { owner := some r.ctx, obj := r.obj, off := granuleOff (granuleAt e.loc) split r.page p.2.2.2, tier := if rep then 2 else p.1 }

/-- The record of an error at a key under a charge (R413): its kind, and its count. -/
def State.recordCharged (s : State) (kind : Nat) (e : ErrSite) (k count : Nat) (c : Charge) : State :=
  let p := keyParts k
  let owner := c.owner.getD 0xFFFF
  let d := frameDie p.1 p.2.1 p.2.2.1
  s.logError c.owner (errRecord kind e.src e.loc p.2.1 owner (e.trig.getD owner) c.obj c.off p.2.2.1 c.tier d.1 d.2 count)

/-- The record of an error at a key (R413). (log 63: DEDUCED, unsafe.) -/
def State.recordAt (s : State) (kind : Nat) (e : ErrSite) (k count : Nat) : State := s.recordCharged kind e k count (s.chargeAt e k)

/-- The location code of DRAM at a key (R413). -/
def dramLoc (k : Nat) : Nat := 5 + (keyParts k).1

/-- A byte of memory is what DRAM holds: no cache holds a newer value of it. -/
def State.clean (s : State) (k : Nat) : Bool := Store.get (w := 8) s.mem k == Store.get (w := 8) s.dram k

/-- The words of a granule at a key are marked poisoned, but for those of which a cache holds a newer value (R410). (log 33: DEDUCED, unsafe.) -/
def State.poisonGranule (s : State) (k : Nat) : State :=
  { s with poison := (s.poison ++ ((List.range 8).map fun i => k / 4 + i).filter fun w => (List.range 4).all fun i => s.clean (4 * w + i)).dedup }

/-- The word at a key is marked poisoned (R410). -/
def State.poisonWord (s : State) (k : Nat) : State := { s with poison := (s.poison ++ [k / 4]).dedup }

/-- A corrected error is merged with those of its frame until the next flush (R413). (log 63: DEDUCED, unsafe.) -/
def mergeCorrected (c : Corrected) : List Corrected → List Corrected
  | [] => [c]
  | e :: l =>
    if e.key / Config.pageBytes = c.key / Config.pageBytes then { e with count := e.count + 1 } :: l else e :: mergeCorrected c l

/-- A corrected error is noted, with its charge as it stands now (R412, R413). -/
def State.noteCorrected (s : State) (e : ErrSite) (k : Nat) : State :=
  { s with corrected := mergeCorrected { key := k, src := e.src, loc := e.loc, trig := e.trig, count := 1, charge := s.chargeAt e k } s.corrected }

/-! ### The schemes of R408 and R409 -/

/-- What a scheme makes of an error: nothing wrong, corrected, detected, or not seen for what it is: the bits that end up turned over, and whether
the scheme has taken it for one that it corrected. -/
inductive EccResult where
  | clean
  | corrected
  | detected
  | wrong (bits : List Nat) (seen : Bool)
deriving DecidableEq, Repr, Inhabited

/-- The result for some bits in error, when the scheme corrects (`cor`) or detects (`det`) such errors for certain; else it is what the errors beyond
the scheme become: a miscorrection turns over bits that the scheme protects (`mine`) and no others. (log 63: DEDUCED, unsafe.) -/
def judgeError (b : EccBeyond) (mine : Nat → Bool) (bits : List Nat) (cor det : Bool) : EccResult :=
  if bits.isEmpty then .clean
  else if cor then .corrected
  else if det then .detected
  else match b with
    | .detected => .detected
    | .missed => .wrong bits false
    | .miscorrected more => .wrong (bits ++ (more.dedup.filter fun x => mine x && !bits.contains x)) true

/-- The scheme of a 32-bit word of SRAM (R408): one bit is corrected, two are detected. -/
def wordScheme (bits : List Nat) (b : EccBeyond) : EccResult :=
  judgeError b (fun x => decide (x < 32)) bits (decide (bits.length ≤ 1)) (decide (bits.length ≤ 2))

/-- The scheme of a DRAM granule (R408): errors in one symbol are corrected, in up to three detected; a symbol is an aligned byte. -/
def granuleScheme (bits : List Nat) (b : EccBeyond) : EccResult :=
  let n := (bits.map (· / 8)).dedup.length
  judgeError b (fun x => decide (x < 256)) bits (decide (n ≤ 1)) (decide (n ≤ 3))

/-- The scheme of the protected bits of a tolerant granule, those of `mine` (R409): up to four are corrected. -/
def tolScheme (mine : Nat → Bool) (bits : List Nat) (b : EccBeyond) : EccResult :=
  judgeError b (fun x => decide (x < 256) && mine x) bits (decide (bits.length ≤ 4)) false

/-- Width of an element and the lowest of its protected bits, by type (R409); the highest is its top bit. -/
def tolBits : Ty → Option (Nat × Nat)
  | .f64 => some (64, 52)
  | .f32 => some (32, 23)
  | .f16 => some (16, 10)
  | .bf16 => some (16, 7)
  | .e5m2 => some (8, 2)
  | .e4m3 => some (8, 3)
  | .i8 | .i16 | .i32 | .i64 | .n8 | .n16 | .n32 | .n64 | .rq8 | .rn24 => none

/-- A byte offset of an object lies in the scale table of a tolerant object of its context (R164, R409). -/
def Context.scaleAt (c : Context) (id off : Nat) : Bool :=
  c.objs.any fun q => q.2.tol && objId q.2.sbase == id && q.2.scale != 0 && q.2.scale != 3 &&
    decide (offOf q.2.sbase < off + 32 ∧ off < offOf q.2.sbase + 4 * (if q.2.scale == 1 then 1 else q.2.rows.toNat))

/-- How the 32 check bits of a granule at a key are spent (R408, R409): on all of it, or on the bits of its elements from `lo` up; in the
second-tier half of a split-word object on none. -/
inductive EccScheme where
  | whole
  | bits (w lo : Nat)
  | bare
deriving DecidableEq, Repr, Inhabited

/-- The scheme of the DRAM granule at a key (R409). (log 63: DEDUCED, unsafe.) -/
def State.schemeAt (s : State) (k : Nat) : EccScheme :=
  match s.objOn k with
  | none => .whole
  | some (r, o) =>
    let table := match s.ctx? r.ctx with
      | some c => c.scaleAt r.obj (granuleOff 32 o.split r.page (k % Config.pageBytes))
      | none => false
    if !o.tol || ((keyParts k).1 == 1 && cxlTier) || table then .whole
    else if o.split then (if o.ty == .f32 then (if r.lower then .bare else .bits 16 7) else .whole)
    else match tolBits o.ty with
      | some b => .bits b.1 b.2
      | none => .whole

/-- A bit of a granule is one that the scheme protects. -/
def EccScheme.covers : EccScheme → Nat → Bool
  | .whole, _ => true
  | .bits w lo, b => decide (lo ≤ b % w)
  | .bare, _ => false

/-- What the scheme makes of the protected bits in error. -/
def EccScheme.judge (e : EccScheme) (bits : List Nat) (b : EccBeyond) : EccResult :=
  match e with
  | .whole => granuleScheme bits b
  | .bits _ _ => tolScheme e.covers bits b
  | .bare => .clean

/-- Turn over a bit of the bytes from an address on. -/
def Memory.flip (m : Memory) (a : Nat) (b : Nat) : Memory :=
  Memory.setBytes m (a + b / 8) [Store.get (w := 8) m (a + b / 8) ^^^ BitVec.twoPow 8 (b % 8)]

/-- Turn over some bits. -/
def Memory.flips (m : Memory) (a : Nat) (bits : List Nat) : Memory := bits.foldl (fun m b => m.flip a b) m

/-- Bits of DRAM from a key on turn over, and every path reads them so, but for bytes of which a cache holds a newer value (R408, R409, R411). -/
def State.flipDram (s : State) (k : Nat) (bits : List Nat) : State :=
  { s with mem := Memory.flips s.mem k (bits.filter fun b => s.clean (k + b / 8)), dram := Memory.flips s.dram k bits }

/-- Bits of a cached word turn over. -/
def State.flipMem (s : State) (k : Nat) (bits : List Nat) : State := { s with mem := Memory.flips s.mem k bits }

/-- Bits in error that lie in part i of parts of n bits, counted from its first. -/
def bitsIn (n i : Nat) (bits : List Nat) : List Nat := ((bits.dedup.filter fun b => b / n == i).map (· % n))

/-- What the check bits of a DRAM granule at a key show when it is read (R408 to R410, R412): an error that is corrected is noted, one that is
detected poisons the granule and is logged; an unprotected bit is delivered as it stands. (log 63: DEDUCED, unsafe.) -/
def State.observeGranule (s : State) (k : Nat) (at_ : ErrSite) (bits : List Nat) (b : EccBeyond) : State :=
  let e := s.schemeAt k
  let s1 := s.flipDram k (bits.filter fun x => !e.covers x)
  match e.judge (bits.filter e.covers) b with
  | .clean => s1
  | .corrected => s1.noteCorrected at_ k
  | .detected => (s1.poisonGranule k).recordAt 1 at_ k 1
  | .wrong w seen => let s2 := s1.flipDram k w; if seen then s2.noteCorrected at_ k else s2

/-- The four granules of a DRAM sector at a key are read for an object, if one is named; CXL-attached memory shows what its device reports alone
(R408, R422). -/
def State.observe (s : State) (k : Nat) (via : Option (Nat × Nat)) (obs : EccObs) : State :=
  if (keyParts k).1 == 1 && cxlTier then s
  else (List.range 4).foldl (fun s i =>
    s.observeGranule (k + 32 * i) { src := 0, loc := dramLoc k, trig := none, via := via } (bitsIn 256 i obs.flips) obs.beyond) s

/-- What the check bits of a cached word at a key show (R408, R410, R412): an error found there poisons that word alone. -/
def State.observeWord (s : State) (k : Nat) (at_ : ErrSite) (bits : List Nat) (b : EccBeyond) : State :=
  match wordScheme bits b with
  | .clean => s
  | .corrected => s.noteCorrected at_ k
  | .detected => (s.poisonWord k).recordAt 1 at_ k 1
  | .wrong w seen => let s2 := s.flipMem k w; if seen then s2.noteCorrected at_ k else s2

/-- The record of an error in a scratchpad, which lies in no frame (R413). -/
def State.recordSpad (s : State) (w kind off : Nat) : State :=
  let x := s.ctxOfWg w
  s.logError (some x) (errRecord kind 3 1 (s.colOfWg w) x x 0xFFFF off 0 0 0 0 1)

/-- What the check bits of a scratchpad word show when it is read (R408, R410, R413). -/
def State.observeSpad (s : State) (w word : Nat) (bits : List Nat) (b : EccBeyond) : State :=
  let turn (bs : List Nat) : State := s.modWg w fun g => { g with spad := Memory.flips g.spad (4 * word) bs }
  match wordScheme bits b with
  | .clean => s
  | .corrected => s.recordSpad w 0 (4 * word)
  | .detected => (s.modWg w fun g => { g with spadPoison := (g.spadPoison ++ [word]).dedup }).recordSpad w 1 (4 * word)
  | .wrong bs seen => if seen then (turn bs).recordSpad w 0 (4 * word) else turn bs

/-- A demand read finds errors in a word that its access reaches: in the scratchpad, or at location 2 to 4 in L1, L2 or L3 (R408, R412). -/
def State.observeAccess (s : State) (a : Access) (w loc : Nat) (obs : EccObs) : State :=
  match a.space with
  | .spad g => if loc = 1 then s.observeSpad g w (bitsIn 32 0 obs.flips) obs.beyond else s
  | .slice x _ _ =>
    if 2 ≤ loc ∧ loc ≤ 4 then
      s.observeWord (4 * w) { src := 0, loc := loc, trig := none, via := some (x, objId a.addr) } (bitsIn 32 0 obs.flips) obs.beyond
    else s
  | .remote _ _ _ | .nowhere _ => s

/-- The words of a dirty sector at a key are read as it is evicted from location 2 to 4 (R412). -/
def State.observeEvicted (s : State) (k trig loc : Nat) (obs : EccObs) : State :=
  if loc < 2 ∨ 4 < loc then s
  else (List.range 32).foldl (fun s i => 
    s.observeWord (k + 4 * i) { src := 1, loc := loc, trig := some trig, via := none } (bitsIn 32 i obs.flips) obs.beyond) s

/-! ### Packets -/

/-- The poison bits of a sector's words (R406, R410). -/
def State.sectorPoison (s : State) (k : Nat) : BitVec 32 :=
  BitVec.ofNat 32 (((List.range 32).map fun i => if s.poison.contains (k / 4 + i) then 2 ^ i else 0).sum)

/-- The controller replies to a packet (R406). -/
def State.replyTo (s : State) (tag : Nat) (bs : List Byte) (poison : BitVec 32) : State :=
  { s with reply := some { tag := tag, bytes := bs, poison := poison } }

/-- The controller reads a sector for a tag, and for an object if one is named (R406, R408). -/
def State.readPacket (s : State) (tag n : Nat) (via : Option (Nat × Nat)) (obs : EccObs) : State :=
  let s1 := s.observe (n * 128) via obs
  s1.replyTo tag (Memory.bytes s1.mem (n * 128) 128) (s1.sectorPoison (n * 128))

/-- READ_PACKET (R406, R408, R412), for the tag and sector named, and the object that is read where that is named: its check bits show what they show,
and the reply carries the sector, as the coherent memory has it, and its poison bits. (log 62: DEDUCED, safe.) -/
def execReadPacket (s : State) : Out :=
  match s.arg with
  | .readPkt tag n obs => .next (s.readPacket tag n none obs)
  | .readBy tag n x id obs => .next (s.readPacket tag n (some (x, id)) obs)
  | _ => .next s

/-- DRAM takes the bytes of the sector at a key that a mask names, as the coherent memory holds them. (log 62: DEDUCED, safe.) -/
def State.writeBack (s : State) (k : Nat) (mask : BitVec 128) : State :=
  let inS := fun b => decide (k ≤ b ∧ b < k + 128) && mask.getLsbD (b - k)
  { s with dram := Store.restore (w := 8) s.dram (Store.keep (w := 8) s.mem inS) inS }

/-- WRITE_PACKET (R406, R412), for the tag, sector and byte mask named: the bytes are written, and the reply acknowledges them. An error found while the
sector is evicted is charged to its owner, and the record names the context whose access caused the eviction. (log 62: DEDUCED, safe.) -/
def execWritePacket (s : State) : Out :=
  match s.arg with
  | .writePkt tag n mask => .next ((s.writeBack (n * 128) mask).replyTo tag [] 0)
  | .evict tag n mask trig loc obs => .next (((s.observeEvicted (n * 128) trig loc obs).writeBack (n * 128) mask).replyTo tag [] 0)
  | _ => .next s

/-- The controller has performed an atomic at a place: DRAM holds the new value, and the reply carries the old one. -/
def State.atomReply (s s1 : State) (tag : Nat) (sp : Space) (a : Addr) (lower : Bool) (n : Nat) : State :=
  let s2 := match s1.physAt sp a lower with | some k => s1.writeBack (k / 128 * 128) (BitVec.allOnes 128) | none => s1
  s2.replyTo tag (s.readMem sp a lower n) 0

/-- ATOMIC_PACKET (R406), for the tag and the atomic named: an access of an operation that is performed at memory on its own die and is not staged, or a
record of an apply queue. It is performed if it may be (R219, R316), DRAM holds the new value, and the reply carries the old one.
(log 62: DEDUCED, safe.) -/
def execAtomicPacket (s : State) : Out :=
  match s.arg with
  | .atomPkt tag n (some el) => .next (match s.op? n with
    | none => s
    | some o => match o.acc.find? fun a => a.el == el with
      | none => s
      | some a => match a.act, a.space with
        | .atomic _ _ _ _, .slice _ _ _ =>
          if s.stages o.team a.space a.addr a.act || (s.crossing o.team a.space).isSome then s
          else
          let s1 := s.performAccess o a
          (match s1.op? n with
          | some p => if (p.acc.any fun b => b.el == el) || p.errLanes.getLsbD a.lane then s1 else s.atomReply s1 tag a.space a.addr a.lower a.size
          | none => s1)
        | _, _ => s)
  | .atomPkt tag n none => .next (match s.bufs.find? fun b => b.id == n with
    | none => s
    | some b => match b.act with
      | .atomic _ _ _ _ =>
        if b.stage = 2 then
          let s1 := s.applyBuf b
          if (s1.bufs.any fun c => c.id == n) || s.poisonedAt b.space b.addr b.lower b.size then s1
          else s.atomReply s1 tag b.space b.addr b.lower b.size
        else s
      | _ => s)
  | _ => .next s

/-! ### The Conservator -/

/-- A frame is taken out of use (R411). -/
def State.retireFrame (s : State) (tier col frame : Nat) : State :=
  let s1 := s.modCol col fun k =>
    if tier = 1 then { k with poolSec := k.poolSec.filter (· != frame) } else { k with poolHbm := k.poolHbm.filter (· != frame) }
  { s1 with badFrames := s1.badFrames ++ [(tier, col, frame)] }

/-- SCRUB_GRANULE (R411, R412), for the granule named: it keeps the value held; one that is poisoned, or in CXL-attached memory, is skipped. In a
frame that no entry maps an uncorrectable error takes the frame out of use. -/
def execScrubGranule (s : State) : Out :=
  match s.arg with
  | .ecc n obs => .next
      (let k := n * 32
       let p := keyParts k
       let bits := bitsIn 256 0 obs.flips
       if s.poisoned k 32 || (p.1 == 1 && cxlTier) || !s.frameExists p.1 p.2.1 p.2.2.1 then s
       else if (s.ownerOf k).isNone && granuleScheme bits obs.beyond == .detected then
         (s.recordAt 1 { src := 2, loc := dramLoc k, trig := some 0xFFFF, via := none } k 1).retireFrame p.1 p.2.1 p.2.2.1
       else s.observeGranule k { src := 2, loc := dramLoc k, trig := some 0xFFFF, via := none } bits obs.beyond)
  | _ => .next s

/-- ERROR_RECORD_MERGE_FLUSH (R413), for the frame of the key named: its merged record is written. -/
def execErrorRecordMergeFlush (s : State) : Out :=
  match s.arg with
  | .id k => .next (match s.corrected.find? fun e => e.key / Config.pageBytes == k / Config.pageBytes with
    | some e => ({ s with corrected := s.corrected.filter fun q => q != e } : State).recordCharged 0
        { src := e.src, loc := e.loc, trig := e.trig, via := none } e.key e.count e.charge
    | none => s)
  | _ => .next s

/-! ### Fatal errors -/

/-- Every resident workgroup of some columns becomes fatal (R353, R415, R425). -/
def State.fatalWhere (s : State) (cause : Cause) (cols : Nat → Bool) : State :=
  (s.wgs.filter fun e => e.2.st == .resident && cols e.2.col).foldl (fun s e =>
    match e.2.teams with
    | u :: _ => s.fatal u cause
    | [] => s) s

/-- The record of an error in a register of a team (R413). -/
def State.recordReg (s : State) (t : Team) (kind : Nat) : State :=
  let x := s.ctxOf t
  s.logError (some x) (errRecord kind 3 0 (s.colOf t) x x 0xFFFF 0 0 0 0 0 1)

/-- A register of a team has an uncorrectable error: its workgroup is fatal with cause EUCE (R353, R410). -/
def State.regFatal (s : State) (u : Nat) (t : Team) : State :=
  match s.wg? t.wg with
  | some g => if g.st == .resident then (s.recordReg t 1).fatal u .euce else s
  | none => s

/-- Bits of 32-bit word k of a register turn over. -/
def Team.flipReg (t : Team) (n lane : Nat) (scalar : Bool) (k : Nat) (bits : List Nat) : Team :=
  let x : Nat := bits.foldl (fun x b => x ^^^ 2 ^ b) 0
  if scalar then { t with sregs := Store.set t.sregs n (Store.get t.sregs n ^^^ BitVec.ofNat 64 (x * 2 ^ (32 * k))) }
  else { t with vregs := Store.set t.vregs (n * 1024 + lane) (Store.get t.vregs (n * 1024 + lane) ^^^ BitVec.ofNat 32 x) }

/-- What the check bits of a word of a register show when it is read (R408, R410, R412). -/
def State.observeReg (s : State) (u n lane : Nat) (scalar : Bool) (k : Nat) (obs : EccObs) : State :=
  match s.team? u with
  | none => s
  | some t => match wordScheme (bitsIn 32 k obs.flips) obs.beyond with
    | .clean => s
    | .corrected => s.recordReg t 0
    | .detected => s.regFatal u t
    | .wrong w seen => let s1 := s.setTeam u (t.flipReg n lane scalar k w); if seen then s1.recordReg t 0 else s1

/-- REGISTER_UNCORRECTABLE (R408, R410): an uncorrectable error in a register of the team named makes its workgroup fatal with cause EUCE; or what the
check bits of the register named show. -/
def execRegisterUncorrectable (s : State) : Out :=
  match s.arg with
  | .id u => .next (match s.team? u with | some t => s.regFatal u t | none => s)
  | .reg u n lane scalar obs => .next ((List.range (if scalar then 2 else 1)).foldl (fun s k => s.observeReg u n lane scalar k obs) s)
  | _ => .next s

/-! ### Removal -/

/-- The first frame free in a column outside its pools, HBM4E before the second tier. -/
def State.freeFrame (s : State) (col : Nat) : Option (BitVec 2 × Nat) :=
  match (List.range (Config.hbmMiB * 16)).find? fun f => s.frameFree 0 col f with
  | some f => some (0, f)
  | none => ((List.range (s.secondMiB * 16)).find? fun f => s.frameFree 1 col f).map fun f => (1, f)

/-- A frame of a column is free, in its pool or outside (R371). -/
def State.frameSpare (s : State) (tier col frame : Nat) : Bool :=
  s.frameFree tier col frame || (s.frameExists tier col frame && ((s.column col).pool (tier == 1)).contains frame)

/-- The first free frame of a column, HBM4E before the second tier (R414). -/
def State.spareFrame (s : State) (col : Nat) : Option (BitVec 2 × Nat) :=
  match (List.range (Config.hbmMiB * 16)).find? fun f => s.frameSpare 0 col f with
  | some f => some (0, f)
  | none => ((List.range (s.secondMiB * 16)).find? fun f => s.frameSpare 1 col f).map fun f => (1, f)

/-- A frame leaves its column's pool. -/
def State.leavePool (s : State) (col : Nat) (f : BitVec 2 × Nat) : State :=
  s.modCol col fun k =>
    if f.1 == 1 then { k with poolSec := k.poolSec.filter (· != f.2) } else { k with poolHbm := k.poolHbm.filter (· != f.2) }

/-- An entry's frame lies on a DRAM die. -/
def Pte.onDie (e : Pte) (stack ddie : Nat) : Bool := e.p && e.level == 0 && dieOf e.col == stack && e.frame / 1024 == ddie

/-- One page leaves a failing DRAM die: it moves, or is lost with a record (R414). (log 63: DEDUCED, unsafe.) -/
def State.evacuate (s : State) (stack ddie x : Nat) (r : PageRef) : State :=
  match (s.ctx? x).bind fun c => pageFind c.pages r with
  | none => s
  | some e =>
    if !e.onDie stack ddie then s
    else match s.spareFrame e.col with
      | some f => (s.leavePool e.col f).movePage r f.1 f.2
      | none => (s.recordAt 3 { src := 4, loc := 5, trig := some x, via := some (x, r.obj) } e.key 1).setPte r { e with p := false, ft := false }

/-- The event that tells a context of removed memory. -/
def State.announce (s : State) (who : Nat → Context → Bool) : State :=
  { s with contexts := s.contexts.map fun c => if who c.1 c.2 then (c.1, { c.2 with events := c.2.events + 1 }) else c }

/-- DRAM_DIE_REMOVAL (R414), for the stack and DRAM die named; the package records it. -/
def execDramDieRemoval (s : State) : Out :=
  match s.arg with
  | .die stack ddie => .next
      (if 8 ≤ stack ∨ 12 ≤ ddie ∨ s.removed.contains (stack, ddie) then s
       else
         let onDie (f : Nat) : Bool := f / 1024 == ddie
         let s1 := { s with removed := s.removed ++ [(stack, ddie)], recorded := (s.recorded ++ [(stack, ddie)]).dedup }
         let s2 := s1.columns.foldl (fun s e =>
           if dieOf e.1 = stack then s.modCol e.1 fun k => { k with poolHbm := k.poolHbm.filter fun f => !onDie f } else s) s1
         let s3 : State := { s2 with contexts := s2.contexts.map fun c =>
           (c.1, { c.2 with objs := c.2.objs.map fun o =>
             (o.1, { o.2 with replicas := o.2.replicas.filter fun q => !(dieOf q.2.1 == stack && onDie q.2.2.frame) }) }) }
         let pages := s3.contexts.flatMap fun c => c.2.pages.map fun e => (c.1, e.1)
         let s4 := pages.foldl (fun s e => s.evacuate stack ddie e.1 e.2) s3
         s4.announce fun _ c => inPartition s.nPart c.part (64 * stack))
  | _ => .next s

/-- CORE_FAILURE (R415), for the die and physical core named: if the core serves a logical core, that becomes unavailable. -/
def execCoreFailure (s : State) : Out :=
  match s.arg with
  | .pair die phys => .next (match s.remap.find? fun e => e.1 / 16 == die && e.2 == phys with
    | some e =>
      let i := e.1
      if !s.coreUp i then s
      else
        let s1 := s.fatalWhere .euce fun c => c / 4 == i
        let s2 := (s1.wgs.filter fun w => (w.2.st == .bound || w.2.st == .saved) && w.2.col / 4 == i).foldl (fun s w =>
          let s1 := s.clearSlot w.2.col w.1
          if w.2.st == .saved then s1 else { s1 with wgs := assocDel s1.wgs w.1 }) s1
        ({ s2 with unavail := s2.unavail ++ [i], crem := s2.crem + 1 }).logError none
          (errRecord 4 4 0 (4 * i) 0xFFFF 0xFFFF 0xFFFF 0 0 0 0 (dieOf (4 * i)) 1)
    | none => s)
  | _ => .next s

/-! ### DMA and CXL -/

/-- Every byte of a range lies in frames that the column has and that the Curator has exposed (R5, R418). (log 16: DESIGN CHOICE, safe.) -/
def State.exposedRange (s : State) (a n : Nat) : Bool :=
  (List.range n).all fun i => let p := keyParts (a + i); Config.exposed p.1 p.2.1 p.2.2.1 && s.frameExists p.1 p.2.1 p.2.2.1

/-- The sectors of a range take what DRAM holds: the caches' copies are invalidated (R418). (log 62: DEDUCED, safe.) -/
def State.invalidate (s : State) (a n : Nat) : State :=
  let inS := fun b => decide (a / 128 * 128 ≤ b ∧ b < (a + n + 127) / 128 * 128)
  { s with mem := Store.restore (w := 8) s.mem (Store.keep (w := 8) s.dram inS) inS }

/-- DMA_WRITE (R418, R323): bytes from outside the device, at the key of the first. (log 62: DEDUCED, safe.) -/
def execDmaWrite (s : State) : Out :=
  match s.arg with
  | .bytes a data => .next
      (if data.isEmpty || !s.exposedRange a data.length then s
       else
         let secs := (List.range ((a + data.length - 1) / 128 - a / 128 + 1)).map fun i => 2 * (a / 128 + i)
         let s1 := s.noteConflict (.copy 0) .F secs none
         { (({ s1 with dram := Memory.setBytes s1.dram a data } : State).invalidate a data.length) with
             poison := clearPoison s.poison a data.length })
  | _ => .next s

/-- DMA_READ (R418, R383): bytes of DRAM from the key named. -/
def execDmaRead (s : State) : Out :=
  match s.arg with
  | .pair a n => .next (if s.exposedRange a n then { s with dmaOut := Memory.bytes s.dram a n } else s)
  | _ => .next s

/-- CXL_POISON_REPORT (R422, R410), for the sector and granules named: each is taken as uncorrectable. -/
def execCxlPoisonReport (s : State) : Out :=
  match s.arg with
  | .cxl n g => .next
      (if cxlTier && (keyParts (n * 128)).1 == 1 then
        ((List.range 4).filter fun i => g.getLsbD i).foldl (fun s i =>
          (s.poisonGranule (n * 128 + 32 * i)).recordAt 1 { src := 0, loc := 6, trig := none, via := none } (n * 128 + 32 * i) 1) s
      else s)
  | _ => .next s

/-- CXL_HOT_REMOVE (R5, R43, R422), for the number of 64 MiB units named that each column loses: its fitted capacity shrinks, its pool keeps no frame
beyond it, and every context is told. -/
def execCxlHotRemove (s : State) : Out :=
  match s.arg with
  | .id n => .next
      (if cxlTier then
        let s1 : State := { s with cxlLost := min Config.fittedMiB (s.cxlLost + 64 * n) }
        (({ s1 with columns := s1.columns.map fun k =>
          (k.1, { k.2 with poolSec := k.2.poolSec.filter fun f => decide (f < s1.secondMiB * 16) }) } : State)).announce fun _ _ => true
      else s)
  | _ => .next s

/-! ### Scale-out -/

/-- A packet answers the frame of a request by the port on which it came (R406, R423). -/
def State.send (s : State) (port : Nat) (f : EtherFrame) (p : FarPacket) : State :=
  { s with egress := s.egress ++ [(port, { dst := f.src, src := f.dst, etherType := farEther, pkt := p })] }

/-- The counters at the fabric ports count an access of another device, by page and source (R382). -/
def State.countFar (s : State) (r : PageRef) (src : BitVec 48) : State :=
  let n := match s.farCounts.find? fun e => e.1 == (r, src) with | some e => e.2 | none => 0
  { s with farCounts := (s.farCounts.filter fun e => e.1 != (r, src)) ++ [((r, src), n + 1)] }

/-- A request of another device is served (R370, R381, R406): none while it waits for a first-touch or shared page; each is counted as it is served,
whatever its checks give (R382). Poison at a reader gives EUCE. -/
def State.serveFar (s : State) (port : Nat) (f : EtherFrame) (tag x col : Nat) (a : Addr) (n : Nat) (write reads : Bool)
    (go : State → State × List Byte) : Option State :=
  let sp : Space := .slice x col 0
  let s1 := s.countFar (pageRef x (objId a) 0 col (offOf a) false) f.src
  match s.checkFar x col a n write with
  | .err c => some (s1.send port f (.answerErr tag c.code a))
  | .precise _ => none
  | .ok =>
    if write && s.sharedPage sp a false then none
    else
      if reads && s1.poisonedAt sp a false n then some ((s1.logPoison x sp a false).send port f (.answerErr tag Cause.euce.code a))
      else let r := go s1; some (r.1.send port f (.answer tag r.2))

/-- The checks of `num` elements, or of one access that is to be staged, for another device (R281, R333); an atomic meets poison too. -/
def State.serveCheck (s : State) (port : Nat) (f : EtherFrame) (tag x col : Nat) (a : Addr) (n num : Nat) (write atomic : Bool) : Option State :=
  if num = 0 then
    (match s.checkFar x col a n write with
    | .err c => some (s.send port f (.answerErr tag c.code a))
    | .precise _ => none
    | .ok =>
      if atomic && s.poisonedAt (.slice x col 0) a false n then
        some ((s.logPoison x (.slice x col 0) a false).send port f (.answerErr tag Cause.euce.code a))
      else some (s.send port f (.answer tag [])))
  else match s.ctx? x with
    | none => some (s.send port f (.answerErr tag Cause.mnul.code a))
    | some c =>
      if objId a = 0 ∨ 512 ≤ col then some (s.send port f (.answerErr tag Cause.mnul.code a))
      else if !inPartition s.nPart c.part col then some (s.send port f (.answerErr tag Cause.mcol.code a))
      else match s.sliceRange x col 0 (fun i => farAddr a (BitVec.ofNat 64 (i * n))) num n write with
        | some e => some (s.send port f (.answerErr tag e.1.code e.2))
        | none => some (s.send port f (.answer tag []))

/-- The context that a request names. -/
def farCtx : FarPacket → Option Nat
  | .read _ x _ _ _ | .write _ x _ _ _ | .atomic _ x _ _ _ _ _ _ | .check _ x _ _ _ _ _ _ => some x
  | .answer _ _ | .answerErr _ _ _ => none

/-- A request in a frame is served, or sent on when its context has moved to another device (R384); none while it waits. (log 61: DESIGN CHOICE, safe.) -/
def State.serveFrame (s : State) (port : Nat) (f : EtherFrame) : Option State :=
  match (farCtx f.pkt).bind fun x => if (s.ctx? x).isNone then assoc s.moved x else none with
  | some mac => some { s with egress := s.egress ++ [(port, { f with dst := mac })] }
  | none => match f.pkt with
    | .read tag x col a n => s.serveFar port f tag x col a n false true fun s => (s, s.readMem (.slice x col 0) a false n)
    | .write tag x col a bs =>
      s.serveFar port f tag x col a bs.length true false fun s => (s.update (.copy 0) .F (.slice x col 0) a false bs, [])
    | .atomic tag x col a aop ty v cmp =>
      s.serveFar port f tag x col a v.length true true fun s =>
        let r := s.atomicAt (.copy 0) .F (.slice x col 0) a aop ty v cmp
        (r.1, r.2.1)
    | .check tag x col a n num write atomic => s.serveCheck port f tag x col a n num write atomic
    | .answer _ _ | .answerErr _ _ _ => some s

/-- A request waits behind an earlier one of its port to the same page (R317, R370). -/
def behind (q : List (Nat × EtherFrame)) (port : Nat) (f : EtherFrame) : Bool :=
  q.any fun e => e.1 == port && (farPage e.2.pkt).map (·.1) == (farPage f.pkt).map (·.1)

/-- The cause of a code (R349). -/
def causeOf (b : BitVec 8) : Cause :=
  ([Cause.iins, .ialn, .icls, .mbnd, .mcol, .mprm, .mnul, .maln, .pftp, .phwm, .pnot, .euce, .gabs, .fpen, .brkp, .pree, .cncl].find? fun c =>
    c.code == b).getD .mnul

/-- The access of a request that has been checked. -/
def BufWrite.access (b : BufWrite) : Access :=
  { el := b.el, lane := b.lane, path := b.path, space := b.space, addr := b.addr, size := b.size, act := b.act, land := b.land, lower := b.lower,
    halves := [] }

/-- A range check of another device is answered (R281): what failed, if anything. -/
def State.cpAnswered (s : State) (o : Op) (c : CopyCmd) (b : BufWrite) (r : Option (Cause × Addr)) : State :=
  s.cpJudge o { c with ask := c.ask - 1, bad := c.bad ++ r.toList.map fun e => (b.el, e) }

/-- The checks that another device was asked for have passed: those of a range or of the destination of an element of CPYS (R281, R283), or of a staged
access, which is staged (R333, R338). -/
def State.probed (s : State) (b : BufWrite) : State :=
  match s.op? b.op, s.team? b.team with
  | some o, some t => match o.kind with
    | .copy c =>
      if b.lane ≠ 0 then s.setOp (o.setCopy { c with dests := (b.el, true) :: c.dests.filter fun e => e.1 != b.el })
      else if b.num ≠ 0 then s.cpAnswered o c b none
      else if c.failed.contains b.el then s else s.cpStage o c t b.access b.el
    | _ => match s.stage1 b.team t b.path (b.access.toStaged o t) with
      | some s1 => s1
      | none => s.failAccess o b.access .mbnd
  | _, _ => s

/-- The Curator's request is answered (R341). -/
def State.resvAnswer (s : State) (id : Nat) (r : Option (List Byte)) : State :=
  { s with resvAsk := s.resvAsk.map fun q => if q.1 = id then (id, some r) else q }

/-- A request of this device is answered with bytes (R406). -/
def State.answered (s : State) (b : BufWrite) (bs : List Byte) : State :=
  let s1 := (s.delBuf b.id).resvAnswer b.id (some bs)
  let flags : Sticky := match b.act with | .atomic aop ty x cmp => (atomNew aop ty bs x cmp).2 | _ => 0
  if b.probe then s1.probed b
  else match s.op? b.op, b.act with
  | some o, .read => (match o.kind with
    | .copy c => if c.failed.contains b.el then s1 else s1.setOp (o.setCopy (c.take b.el ((s.cpIndexNow o c b.el).getD 0) bs))
    | _ => s1.setOp (o.land b.land b.lane bs))
  | some o, .atomic _ _ _ _ => s1.setOp { (o.land b.land b.lane bs) with raises := o.raises ||| flags }
  | none, .atomic _ _ _ _ => if b.op = 0 then s1.gatherFl (b.team / 8) flags else s1
  | _, _ => s1

/-- A request of this device gets an error response (R200, R281, R424), with the address that is charged; a write of the Registrar never does
(R333). -/
def State.answeredErr (s : State) (b : BufWrite) (c : Cause) (a : Addr) : State :=
  let s1 := (s.delBuf b.id).resvAnswer b.id none
  if b.op = 0 then s1
  else match s.op? b.op with
    | some o => (match o.kind with
      | .copy k =>
        if b.probe && b.lane == 0 && b.num != 0 then s1.cpAnswered o k b (some (c, a))
        else if k.failed.contains b.el then s1 else s1.cpFail o k b.el c b.addr
      | _ => (s1.giveErr b.team b.path b.lane c b.addr b.slot b.seq).setOp (o.dropLane b.lane))
    | none => s1.giveErr b.team b.path b.lane c b.addr b.slot b.seq

/-- A request that is on its way to another device. -/
def State.inFlight (s : State) (tag : Nat) : Option BufWrite := s.bufs.find? fun b => b.id == tag && b.stage == 3

/-- SCALEOUT_FRAME_RECEIVE (R423), for the port and frame named: an answer, or a request, which may have to wait (R370, R381); or, for the number
named, a request that has waited. (log 22: DEDUCED, unsafe.) -/
def execScaleoutFrameReceive (s : State) : Out :=
  match s.arg with
  | .pkt port f => .next
      (if 16 ≤ port ∨ s.portsDown.contains port ∨ f.etherType ≠ farEther then s
       else match f.pkt with
         | .answer tag bs => (match s.inFlight tag with | some b => s.answered b bs | none => s)
         | .answerErr tag c a => (match s.inFlight tag with | some b => s.answeredErr b (causeOf c) a | none => s)
         | .read _ _ _ _ _ | .write _ _ _ _ _ | .atomic _ _ _ _ _ _ _ _ | .check _ _ _ _ _ _ _ _ =>
           let wait : State := { s with inbox := s.inbox ++ [(port, f)] }
           if behind s.inbox port f then wait else (s.serveFrame port f).getD wait)
  | .id k => .next (match s.inbox[k]? with
    | some e =>
      if behind (s.inbox.take k) e.1 e.2 then s
      else (match s.serveFrame e.1 e.2 with
        | some s1 => { s1 with inbox := s.inbox.eraseIdx k }
        | none => s)
    | none => s)
  | _ => .next s

/-- The tag of a request. -/
def requestTag : FarPacket → Option Nat
  | .read t _ _ _ _ | .write t _ _ _ _ | .atomic t _ _ _ _ _ _ _ | .check t _ _ _ _ _ _ _ => some t
  | .answer _ _ | .answerErr _ _ _ => none

/-- A frame takes another port (R424): a request of this device that of its target, what else the port carried any of its partition's; with none
left it stays undelivered. -/
def State.reroute (s : State) (port : Nat) (f : EtherFrame) : State :=
  let dest := match (requestTag f.pkt).bind s.inFlight with
    | some b => (match b.space with
      | .remote dev col x => s.portFor (match s.ctx? x with | some c => c.part | none => 0) dev col
      | _ => none)
    | none => s.portFor (port * s.nPart / 16) 0 0
  match dest with
  | some n => { s with egress := s.egress ++ [(n, f)] }
  | none => s

/-- PORT_FAILURE (R424), for the port named: its traffic is rehashed over the remaining ports. -/
def execPortFailure (s : State) : Out :=
  match s.arg with
  | .id port => .next
      (if 16 ≤ port ∨ s.portsDown.contains port then s
       else
         let mine := s.egress.filter fun e => e.1 == port
         let s1 : State := { s with portsDown := s.portsDown ++ [port], egress := s.egress.filter fun e => e.1 != port }
         mine.foldl (fun s e => s.reroute port e.2) s1)
  | _ => .next s

/-- DELIVERY_TIMEOUT (R424), for the request named: MNUL, and its device is unreachable until a new installation entry. -/
def execDeliveryTimeout (s : State) : Out :=
  match s.arg with
  | .id tag => .next (match s.inFlight tag with
    | some b => (match b.space with
      | .remote dev _ _ =>
        let s1 := s.answeredErr b .mnul b.addr
        { s1 with install := s1.install.map fun e => if e.1 = dev then (e.1, { e.2 with unreachable := true }) else e,
                  egress := s1.egress.filter fun e => requestTag e.2.pkt != some tag }
      | _ => s)
    | none => s)
  | _ => .next s

end Sys2Proof.Machine
end

