-- ==== Sys2Proof/Machine/HostSide.lean ====
section
/-!
DEFINITION. The mailboxes and the host window (R403 to R405, R419, R420), partitions and contexts (R416, R417, R385), bring-up, firmware,
measurement and attestation (R421, R425 to R429).
-/

namespace Sys2Proof.Machine

/-! ### Mailboxes -/

/-- The mailbox of the device, or of a context page; a page of the window whose context does not exist has one too (R419). -/
def State.mailbox (s : State) (who : Option Nat) : Option Mailbox :=
  match who with
  | none => some s.devMb
  | some x => match s.ctx? x with
    | some c => some c.mb
    | none => if x < 256 then some ((assoc s.idleMb x).getD Mailbox.initial) else none

/-- Change a mailbox. -/
def State.modMb (s : State) (who : Option Nat) (f : Mailbox → Mailbox) : State :=
  match who with
  | none => { s with devMb := f s.devMb }
  | some x => match s.ctx? x with
    | some _ => s.modCtx x fun c => { c with mb := f c.mb }
    | none => { s with idleMb := assocSet s.idleMb x (f ((assoc s.idleMb x).getD Mailbox.initial)) }

/-- DONE of the response (R403). -/
def Mailbox.done (m : Mailbox) : Bool := (m.resp.getD 0 0).getLsbD 0

/-- The command that waits to be executed. -/
def Mailbox.pending (m : Mailbox) (code : Nat) : Bool := !m.done && (m.cmd.getD 0 0).toNat % 256 == code

/-- A word of the command slot. -/
def Mailbox.arg (m : Mailbox) (k : Nat) : Word := m.cmd.getD k 0

/-- The Curator's response (R403): DONE and the status, with OVR as it stands; word 1 is the result. -/
def Mailbox.respond (m : Mailbox) (status : Nat) (result : Word) : Mailbox :=
  let ovr := (m.resp.getD 0 0) &&& 2
  { m with resp := (m.resp.set 0 (ovr ||| BitVec.ofNat 64 (1 + 256 * status))).set 1 result }

/-- A word 0 that is written before DONE of the previous command (R403). (log 64: DEDUCED, unsafe.) -/
def Mailbox.overrun (m : Mailbox) : Mailbox := if m.done then m else { m with resp := m.resp.set 0 ((m.resp.getD 0 0) ||| 2) }

/-- MAILBOX_OVERRUN (R403), for the mailbox named. -/
def execMailboxOverrun (s : State) : Out :=
  match s.arg with
  | .mb who => .next (s.modMb who Mailbox.overrun)
  | _ => .next s

/-- Respond in a mailbox. -/
def State.respond (s : State) (who : Option Nat) (status : Nat) (result : Word) : State := s.modMb who fun m => m.respond status result

/-- Whether a mailbox accepts a command (R403, R420); that of a context that does not exist accepts none. (log 64: DEDUCED, unsafe.) -/
def State.accepts (s : State) (who : Option Nat) (w0 : Word) : Bool :=
  let c := w0.toNat
  match s.stage, who with
  | .stage2, none => decide (0x80 ≤ c ∧ c ≤ 0x86)
  | .stage2, some x => (s.ctx? x).isSome && (c == 0x01 || c == 0x02 || c == 0x03 || c == 0x10 || c == 0x11)
  | .stage0, none | .stage1, none | .recovery, none => c == 0x84 || c == 0x85
  | _, _ => false

/-- Word 0 of a command slot is written (R403): an unknown command, or one that the stage does not accept, is rejected. -/
def State.command (s : State) (who : Option Nat) (m : Mailbox) (w0 : Word) : State :=
  if s.stage == .reset then s
  else if !m.done then s.modMb who Mailbox.overrun
  else
    let s1 := s.modMb who fun m => { m with cmd := m.cmd.set 0 w0, resp := List.replicate 8 0 }
    if s.accepts who w0 then s1 else s1.respond who 1 0

/-- A 64-bit write within a page of the window (R419): the command slot, or the head of the error queue. -/
def State.pageWrite (s : State) (who : Option Nat) (off : Nat) (v : Word) : State :=
  match s.mailbox who with
  | none => s
  | some m =>
    if off = 0 then s.command who m v
    else if off < 64 ∧ off % 8 = 0 then s.modMb who fun m => { m with cmd := m.cmd.set (off / 8) v }
    else if off = 0x88 then s.modMb who fun m => { m with head := v }
    else s

/-- HOST_REGISTER_WRITE (R419), at the window offset named. -/
def execHostRegisterWrite (s : State) : Out :=
  match s.arg with
  | .hostw off v => .next
      (if off < 0x10000 then s.pageWrite none off v
       else if off < 0x100000 then s
       else s.pageWrite (some ((off - 0x100000) / 0x10000)) ((off - 0x100000) % 0x10000) v)
  | _ => .next s

/-- The Curator executes the command that waits in a mailbox, if it is the one named; one that the stage no longer accepts is rejected (R420).
(log 64: DEDUCED, unsafe.) -/
def State.execute (s : State) (who : Option Nat) (code : Nat) (body : State → Mailbox → State) : State :=
  match s.mailbox who with
  | some m => if m.pending code then (if s.accepts who (m.arg 0) then body s m else s.respond who 1 0) else s
  | none => s

/-! ### Jobs -/

/-- Entry g of a job's group table (R259, R404). -/
def groupOfWords (ws : List Word) : Group :=
  { memb := ws.getD 1 0 ++ ws.getD 0 0, v := (ws.getD 2 0).getLsbD 0, abs := (ws.getD 2 0).getLsbD 1 }

/-- A job description may be accepted (R404, R417): the root record's KIND and PARENT, the phase count, and the cores of its groups. -/
def State.jobOk (s : State) (c : Context) (d : JobDesc) : Bool :=
  recField d.record 5 33 32 == 0 && d.record.getD 6 0 == 0 && d.phases != 0 && decide (d.phases.toNat < 2 ^ 32) &&
    d.groups.all fun ws => let g := groupOfWords ws; !g.v || (List.range 128).all fun i => !g.memb.getLsbD i || inPartition s.nPart c.part (4 * i)

/-- No column of a context holds a post for a group whose entry would change (R259). -/
def State.groupsFree (s : State) (x : Nat) (c : Context) (d : JobDesc) : Bool :=
  (List.range 64).all fun g => c.groups[g]? == some (groupOfWords (d.groups.getD g [])) ||
    !(s.columns.any fun e => e.2.posts.any fun p => p.ctx == x && p.g == g && p.holder.isSome)

/-- The root launch of a job becomes node 0 of graph 0 of phase 0 (R395): its record names that graph. (log 50: DEDUCED, safe.) (log 65: DEDUCED, unsafe.) -/
def State.startJob (s : State) (x : Nat) (d : JobDesc) : State :=
  let s1 := s.modCtx x fun c =>
    { c with groups := (List.range 64).map fun g => groupOfWords (d.groups.getD g []), reserve := d.reserve.toNat, given := [] }
  let kj := s1.nextId
  let n := d.phases.toNat
  let s2 := s1.addUnit { Completion.blank .job x with want := n, counter := n, begun := true, parts := [kj + 1] }
  let s3 := s2.addUnit { Completion.blank .phase x with want := 1, counter := 1, begun := true, parent := some kj, parts := [kj + 2] }
  let s4 := s3.addUnit { Completion.blank .graph x with want := 1, counter := 1, parent := some (kj + 1) }
  let rec_ := d.record.set 6 (s4.handleOf (some (kj + 2)))
  (s4.enterIntake 512 (.record x none rec_ (some d))).respond (some x) 0 (s4.handleOf (some kj))

/-- START_JOB (R403, R404), for the context and description named. -/
def execStartJob (s : State) : Out :=
  match s.arg with
  | .job x d => .next (s.execute (some x) 0x01 fun s _ => match s.ctx? x with
      | some c =>
        if !s.jobOk c d then s.respond (some x) 1 0
        else if s.intakeFull || !s.groupsFree x c d then s
        else s.startJob x d
      | none => s)
  | _ => .next s

/-- MB_CANCEL (R403): the request enters the intake FIFO. -/
def execMbCancel (s : State) : Out :=
  match s.arg with
  | .mb (some x) => .next (s.execute (some x) 0x02 fun s m =>
      if s.intakeFull then s
      else (s.enterIntake 512 (.cancel x (m.arg 1))).respond (some x) 0 0)
  | _ => .next s

/-- MB_STATUS (R403, R135). -/
def execMbStatus (s : State) : Out :=
  match s.arg with
  | .mb (some x) => .next (s.execute (some x) 0x03 fun s m => s.respond (some x) 0 (s.statusOf x (m.arg 1)))
  | _ => .next s

/-! ### Objects -/

/-- The object that a descriptor image gives (R368, R369): DUP is 0 at creation, and SBASE is null when SCALE is 0. -/
def objOfImage (img : ObjImage) : Obj :=
  let f := recField img.words
  let n := pageCount (f 1 47 0)
  { ty := Ty.ofCode (BitVec.ofNat 4 (f 0 4 1)), w := f 0 5 5 == 1, split := f 0 6 6 == 1, tol := f 0 7 7 == 1, scale := BitVec.ofNat 2 (f 0 9 8),
    dup := false, snap := false, bound := f 1 47 0, sbase := if f 0 9 8 = 0 then addrOf 0xFFFF 0 else img.words.getD 2 0, rows := BitVec.ofNat 32 (f 3 31 0),
    pitch := BitVec.ofNat 32 (f 3 63 32), bcol := f 4 9 0, ncol := f 4 19 10, stride := f 4 28 20, blk := BitVec.ofNat 32 (f 4 63 32),
    source := addrOf 0xFFFF 0, code := img.code, sup := false, ftFrom := if img.firstTouch then 0 else n, replicas := [],
    mate := none }

/-- An image's distribution is admitted (R368). -/
def Obj.distOk (o : Obj) : Bool := decide (1 ≤ o.ncol) && decide (o.ncol ≤ 512) && o.columns.dedup.length == o.ncol

/-- The page entries that the Curator writes at creation (R369). -/
def imageEntries (id : Nat) (img : ObjImage) (o : Obj) (x : Nat) : List (PageRef × Pte) :=
  img.pages.map fun e =>
    let f (hi lo : Nat) : Nat := recField [e.2.2.2] 0 hi lo
    let xx := o.code || f 3 3 == 1
    ({ ctx := x, obj := id, team := 0, col := e.1, page := e.2.1, lower := e.2.2.1 },
     { p := f 0 0 == 1, ft := f 1 1 == 1 && f 0 0 == 0, w := f 2 2 == 1 && o.w && !xx, x := xx, tier := BitVec.ofNat 2 (f 5 4), sh := false, col := e.1,
       frame := f 63 26 })

/-- The Curator's entries are ones that it may write: in the object's columns, on frames of the context's partition that are free (R417); a code object
is mapped whole there (R375). -/
def State.entriesOk (s : State) (x : Nat) (o : Obj) (es : List (PageRef × Pte)) : Bool :=
  let fs := es.filterMap fun e => if e.2.p then some e.2.key else none
  fs.dedup.length == fs.length &&
    (es.all fun e => o.columns.contains e.1.col && decide (e.1.page < pageCount o.bound) && (!e.1.lower || o.split) && decide (e.2.tier.toNat < 2) &&
      (!e.2.ft || s.inOwnPart x e.2.col) && (!e.2.p || (s.inOwnPart x e.2.col && s.frameFree e.2.level e.2.col e.2.frame))) &&
    (!o.code || (o.columns.filter (s.inOwnPart x)).all fun c => (List.range (pageCount o.bound)).all fun q => es.any fun e => e.1.col == c && e.1.page == q && e.2.p)

/-- CREATE_OBJECT (R367 to R369, R403), for the context and image named. -/
def execCreateObject (s : State) : Out :=
  match s.arg with
  | .obj x img => .next (s.execute (some x) 0x10 fun s _ =>
      let o := objOfImage img
      match s.freeIds x 1 with
      | some [id] =>
        let es := imageEntries id img o x
        if !o.distOk then s.respond (some x) 1 0
        else if !s.entriesOk x o es then s
        else
          (({ s.modCtx x fun c => { c with objs := assocSet c.objs id o, pages := c.pages ++ es } with free := s.free + 1 } : State)).respond (some x) 0
            (BitVec.ofNat 64 id)
      | _ => s.respond (some x) 1 0)
  | _ => .next s

/-- DELETE_OBJECT (R403): rejected for a snapshot, and for an identifier that names no object. -/
def execDeleteObject (s : State) : Out :=
  match s.arg with
  | .mb (some x) => .next (s.execute (some x) 0x11 fun s m =>
      let id := (m.arg 1).toNat
      match (s.ctx? x).bind fun c => assoc c.objs id with
      | some o => if o.snap then s.respond (some x) 1 0 else (s.modCtx x fun c => (c.dropObj id).unshare).respond (some x) 0 0
      | none => s.respond (some x) 1 0)
  | _ => .next s

/-! ### Partitions, the installation and contexts -/

/-- SET_PARTITIONS (R416, R420). -/
def execSetPartitions (s : State) : Out :=
  .next (s.execute none 0x80 fun s m =>
    let n := ((m.arg 1).extractLsb' 0 4).toNat
    if (n == 1 || n == 2 || n == 4 || n == 8) && s.contexts.isEmpty then ({ s with nPart := n } : State).respond none 0 0 else s.respond none 1 0)

/-- SET_INSTALLATION_ENTRY (R420, R424): a partition has one device number. -/
def execSetInstallationEntry (s : State) : Out :=
  .next (s.execute none 0x81 fun s m =>
    let dev := ((m.arg 1).extractLsb' 0 12).toNat
    let p := ((m.arg 1).extractLsb' 12 4).toNat
    let part : Option Nat := if p = 15 then none else some p
    let taken := match assoc s.install dev with
      | some e => e.part.isSome && e.part != part
      | none => false
    if taken || (p != 15 && decide (s.nPart ≤ p)) then s.respond none 1 0
    else
      let keep := s.install.filter fun e => part.isNone || e.2.part != part
      ({ s with install := assocSet keep dev { part := part, mac := (m.arg 2).extractLsb' 0 48, unreachable := false } } : State).respond none 0 0)

/-- The extend of R428. (log 67: PRESUMED, unsafe.) -/
def extendM (m : BitVec 512) (item : List Byte) : BitVec 512 :=
  BitVec.ofNat 512 (natOfBytes (shake256 (bytesOfNat m.toNat 64 ++ shake256 item)))

/-- The bytes of words. -/
def wordBytes (ws : List Word) : List Byte := ws.flatMap fun w => bytesOfNat w.toNat 8

/-- The columns of a partition. -/
def State.partColumns (s : State) (p : Nat) : List Nat := (List.range 512).filter fun c => inPartition s.nPart p c

/-- The supervisor code object of a new context (R385): executable and supervisor-only, in every column of the partition. (log 65: DEDUCED, unsafe.) -/
def supervisorObj (s : State) (p n : Nat) : Obj :=
  let cs := s.partColumns p
  { ty := .n64, w := false, split := false, tol := false, scale := 0, dup := false, snap := false, bound := 8 * n, sbase := addrOf 0xFFFF 0, rows := 0,
    pitch := 0, bcol := cs.getD 0 0, ncol := cs.length, stride := 1, blk := 0, source := addrOf 0xFFFF 0, code := true, sup := true,
    ftFrom := pageCount (8 * n), replicas := [], mate := none }

/-- One page of the supervisor code object is loaded in a column, on a frame that is free (R385). -/
def State.loadPage (s : State) (x id col q : Nat) (bytes : List Byte) : Option State :=
  match s.freeFrame col with
  | none => none
  | some f =>
    let e : Pte := { p := true, ft := false, w := false, x := true, tier := f.1, sh := false, col := col, frame := f.2 }
    let body := (bytes.drop (q * Config.pageBytes)).take Config.pageBytes
    let s1 := s.zeroFrame e.key
    let s2 : State := { s1 with mem := Memory.setBytes s1.mem e.key body, dram := Memory.setBytes s1.dram e.key body }
    some (s2.modCtx x fun c =>
      { c with pages := c.pages ++ [({ ctx := x, obj := id, team := 0, col := col, page := q, lower := false }, e)] })

/-- Every page of the supervisor code object is loaded in every column. -/
def State.loadSupervisor (s : State) (x id p : Nat) (ws : List Word) : Option State :=
  let bytes := wordBytes ws
  let todo := (s.partColumns p).flatMap fun c => (List.range (pageCount bytes.length)).map fun q => (c, q)
  todo.foldl (fun (acc : Option State) e => acc.bind fun s => s.loadPage x id e.1 e.2 bytes) (some s)

/-- The device number of a partition (R417). -/
def State.deviceOf (s : State) (p : Nat) : Option Nat := (s.install.find? fun e => e.2.part == some p).map (·.1)

/-- A context as it is created (R366, R374, R385). (log 65: DEDUCED, unsafe.) -/
def State.newContext (s : State) (p dev bound : Nat) (tvec : Addr) : Context :=
  { part := p, dev := dev, privBound := bound, privW := true, privDup := false, tvec := tvec, objs := [], pages := [], groups := List.replicate 64 { memb := 0, v := false, abs := false },
    reserve := 0, given := [], qfeat0 := 0x1F01, qfeat1 := Config.sfRevision.setWidth 64, qfeat2 := BitVec.ofNat 64 (s.install.length % 4096),
    mb := Mailbox.initial, log := [], events := 0 }

/-- CREATE_CONTEXT (R374, R385, R417, R420, R428), in a partition that the device has, with the words of its supervisor code object. -/
def execCreateContext (s : State) : Out :=
  match s.arg with
  | .handler ws => .next (s.execute none 0x82 fun s m =>
      let p := ((m.arg 1).extractLsb' 0 4).toNat
      let bound := (m.arg 2).toNat
      match s.deviceOf p, (List.range 256).find? fun x => (s.ctx? x).isNone with
      | some dev, some x =>
        if s.nPart ≤ p ∨ bound % 65536 ≠ 0 ∨ 2 ^ 48 ≤ bound then s.respond none 1 0
        else
          let s1 : State := { s with contexts := s.contexts ++ [(x, s.newContext p dev bound (addrOf 0xFFFF 0))], idleMb := assocDel s.idleMb x }
          (match s1.freeIds x 1 with
          | some [id] =>
            let s2 := s1.modCtx x fun c => { c with tvec := addrOf id 0, objs := [(id, supervisorObj s p ws.length)] }
            (match s2.loadSupervisor x id p ws with
            | some s3 => (({ s3 with free := s3.free + 1, m2 := extendM s3.m2 (wordBytes ws) } : State)).respond none 0 (BitVec.ofNat 64 x)
            | none => s.respond none 1 0)
          | _ => s.respond none 1 0)
      | _, _ => s.respond none 1 0)
  | _ => .next s

/-- Everything of a context goes (R420). -/
def State.dropContext (s : State) (x : Nat) : State :=
  let mine := fun u => (s.teamsOfCtx x).any fun e => e.1 == u
  { s with contexts := assocDel s.contexts x, teams := s.teams.filter fun e => !mine e.1, wgs := s.wgs.filter fun e => s.ctxOfWg e.1 != x,
           units := s.units.filter fun e => e.2.ctx != x, ops := s.ops.filter fun o => !mine o.team,
           columns := s.columns.map fun k => (k.1, { k.2 with posts := k.2.posts.filter fun p => p.ctx != x }),
           intake := s.intake.filter fun i => match i.entry with | .record y _ _ _ => y != x | .cancel y _ => y != x }

/-- DESTROY_CONTEXT (R420): its jobs are cancelled, and once they are complete its objects and frames go. -/
def execDestroyContext (s : State) : Out :=
  .next (s.execute none 0x83 fun s m =>
    let x := (m.arg 1).toNat
    let jobs := s.units.filter fun e => e.2.ctx == x && e.2.level == .job
    let busy := jobs.any fun e => !e.2.done
    if busy then jobs.foldl (fun s e => s.cancelUnit e.1) s
    else if s.wgs.any (fun e => s.ctxOfWg e.1 == x && e.2.st == .resident) then s
    else (s.dropContext x).respond none 0 0)

/-! ### Power, firmware and start -/

/-- SET_POWER_LIMIT (R420). -/
def execSetPowerLimit (s : State) : Out :=
  .next (s.execute none 0x86 fun s m =>
    let w := (m.arg 1).toNat
    if 1000 ≤ w ∧ w ≤ 2800 then ({ s with power := w } : State).respond none 0 0 else s.respond none 1 0)

/-- POWER_OR_THERMAL_LIMITING (R421, R426): THROT. -/
def execPowerOrThermalLimiting (s : State) : Out :=
  match s.arg with
  | .onOff b => .next { s with throt := b }
  | _ => .next s

/-- The device in Reset (R33, R414, R421, R427, R428): the removals that the package records are applied again at stage 1, and what else the package keeps,
an image that is staged among it, and what stands outside the device, is kept; second-tier memory that hot removal has taken is back. (log 65: DEDUCED, unsafe.) -/
def State.toReset (s : State) : State :=
  { State.reset with sched := s.sched, tick := s.tick, now := s.now, seq := s.seq, nextId := s.nextId, free := s.free, recorded := s.recorded,
                     rollback := s.rollback, staged := s.staged.or s.boot, hostMem := s.hostMem, dmaOut := s.dmaOut, egress := s.egress,
                     elsewhere := s.elsewhere }

/-- The signature of a firmware image, over its bytes and its version, verifies under the public key in package ROM (R427). (log 11: DESIGN CHOICE, unsafe.) -/
def fwSigned (img : FwImage) : Bool := Config.slhVerify Config.romKey (img.bytes ++ [img.version.setWidth 8]) img.sig

/-- A firmware image passes R427. -/
def State.fwOk (s : State) (img : FwImage) : Bool := fwSigned img && decide (s.rollback.toNat ≤ img.version.toNat)

/-- STAGE_FIRMWARE (R420, R425, R427), for the image named; in recovery the device goes to Reset. -/
def execStageFirmware (s : State) : Out :=
  match s.arg with
  | .fw img => .next (s.execute none 0x85 fun s _ =>
      if s.fwOk img then
        let s1 := ({ s with staged := some img } : State).respond none 0 0
        if s.stage = .recovery then s1.toReset else s1
      else s.respond none 1 0)
  | _ => .next s

/-- POWER_GOOD (R425, R427, R428): a start begins, for which the image staged before it counts; stage 0 runs from package ROM, which M0 measures. -/
def execPowerGood (s : State) : Out :=
  .next (if s.stage = .reset then { s with stage := .stage0, m0 := extendM s.m0 Config.stage0Image, boot := s.staged, staged := none } else s)

/-- STAGE0_COMPLETE (R425, R427, R428): the image that was staged before this start, else the one named, is checked; one that was staged raises the
rollback counter. One that is staged during this start waits for the next. -/
def execStage0Complete (s : State) : Out :=
  match s.arg with
  | .fw named => .next
      (if s.stage ≠ .stage0 then s
       else
         let img := s.boot.getD named
         if !s.fwOk img then { s with stage := .recovery, boot := none }
         else
           { s with stage := .stage1, m1 := extendM s.m1 img.bytes, fwver := img.version.setWidth 12, boot := none,
                    rollback := if s.boot.isSome then BitVec.ofNat 6 (max s.rollback.toNat img.version.toNat) else s.rollback })
  | _ => .next s

/-- The remap table that stage 1 writes is one that R33 and R35 allow: each entry stays on its die, no two of a die name one core, no failed core
serves, and a die leaves unserved only the cores that its working cores cannot serve. -/
def remapOk (bad : List Nat) (t : List (Nat × Nat)) : Bool :=
  (t.map (·.1)).dedup.length == t.length && (t.all fun e => decide (e.1 < 128) && decide (e.2 < 17) && !bad.contains (e.1 / 16 * 17 + e.2)) &&
    (List.range 8).all fun d =>
      let mine := t.filter fun e => e.1 / 16 == d
      (mine.map (·.2)).dedup.length == mine.length &&
        mine.length == min 16 (17 - ((List.range 17).filter fun p => bad.contains (d * 17 + p)).length)

/-- STAGE1_COMPLETE (R33, R35, R415, R425, R426, R428): memory and scratchpads hold zeros, the remap is in force, removals stand, and the scheduling
firmware is measured. -/
def execStage1Complete (s : State) : Out :=
  match s.arg with
  | .bringUp r => .next
      (if s.stage ≠ .stage1 ∨ !remapOk r.badCores r.remap ∨ !s.fwOk r.firmware then s
       else
         let lost := (List.range 128).filter fun i => (assoc r.remap i).isNone || r.badStacks.contains (i / 16)
         { s with stage := .stage2, remap := r.remap, unavail := lost, removed := s.recorded, mem := [], dram := [], poison := [], m1 := extendM s.m1 Config.trainingConfig,
                  m2 := extendM s.m2 r.firmware.bytes })
  | _ => .next s

/-- CRITICAL_TEMPERATURE (R425): the device halts, every resident workgroup is fatal, and a KIND 4 record is written. -/
def execCriticalTemperature (s : State) : Out :=
  .next (({ s.fatalWhere .euce fun _ => true with stage := .halted } : State).logError none
    (errRecord 4 4 0 0 0xFFFF 0xFFFF 0xFFFF 0 0 0 0 0 1))

/-- DEVICE_RESET (R425, R428). -/
def execDeviceReset (s : State) : Out := .next s.toReset

/-! ### Attestation -/

/-- STAT (R421). -/
def State.statWord (s : State) : Word :=
  let st : Nat := match s.stage with | .reset | .stage0 => 0 | .stage1 => 1 | .stage2 => 2 | .recovery => 3 | .halted => 4
  BitVec.ofNat 64 (st + 8 * s.nPart + (if s.throt then 2 ^ 7 else 0) + 2 ^ 8 * (s.removed.length % 256) + 2 ^ 16 * (s.crem % 16) +
    2 ^ 20 * s.fwver.toNat)

/-- Bytes 0 to 351 of the report (R429): the fields of its first row stand in six words of 8 bytes (log 11). (log 11: DESIGN CHOICE, unsafe.) -/
def State.reportHead (s : State) (nonce : List Byte) : List Byte :=
  wordBytes [1, s.statWord, s.rollback.setWidth 64, 0x1F01, Config.sfRevision.setWidth 64, BitVec.ofNat 64 s.removed.length] ++
    List.replicate 16 0 ++ bytesOfNat s.m0.toNat 64 ++ bytesOfNat s.m1.toNat 64 ++ bytesOfNat s.m2.toNat 64 ++ (nonce ++ List.replicate 32 0).take 32 ++
    (List.range 64).map Config.devicePublicKey

/-- The 64-bit word that the host reads at an offset of a page of the window (R419): the slots, STAT in the device page, the error queue's head, tail and
dropped count, and its records. -/
def State.pageWord (s : State) (who : Option Nat) (off : Nat) : Word :=
  match s.mailbox who with
  | none => 0
  | some m =>
    let k := off - 0x100
    if off < 0x40 then m.cmd.getD (off / 8) 0
    else if off < 0x80 then m.resp.getD (off / 8 - 8) 0
    else if off = 0x80 then (if who.isNone then s.statWord else 0)
    else if off = 0x88 then m.head
    else if off = 0x90 then m.tail
    else if off = 0x98 then m.dropped
    else if 0x100 ≤ off ∧ k / 32 < 2040 then ((assoc m.queue (k / 32)).getD []).getD (k % 32 / 8) 0
    else 0

/-- The 64-bit word that the host reads at an aligned offset of the window (R419). -/
def State.windowWord (s : State) (off : Nat) : Word :=
  if off < 0x10000 then s.pageWord none off
  else if off < 0x100000 then 0
  else s.pageWord (some ((off - 0x100000) / 0x10000)) ((off - 0x100000) % 0x10000)

/-- What the device certificate certifies: the device public key and the serial number (R429). -/
def certifiedBytes : List Byte := (List.range 64).map Config.devicePublicKey ++ (List.range 16).map Config.serialNumber

/-- The device certificate (R429): those 80 bytes and the root signature over them. (log 11: DESIGN CHOICE, unsafe.) -/
def deviceCertificate : List Byte := certifiedBytes ++ (List.range 29792).map (Config.rootSignature certifiedBytes)

/-- The report (R429). (log 11: DESIGN CHOICE, unsafe.) -/
def State.report (s : State) (nonce : List Byte) : List Byte :=
  let h := s.reportHead nonce
  h ++ ((List.range 29792).map fun k => Config.attestSignature h k) ++ deviceCertificate

/-- ATTEST (R420, R429): whether the buffer is mapped is for the IOMMU to say. -/
def execAttest (s : State) : Out :=
  match s.arg with
  | .attest mapped _ => .next (s.execute none 0x84 fun s m =>
      if !mapped then s.respond none 1 0
      else
        let nonce := wordBytes [m.arg 2, m.arg 3, m.arg 4, m.arg 5]
        let s1 : State := { s with hostMem := Memory.setBytes s.hostMem (m.arg 1).toNat (s.report nonce) }
        (s1.respond none 0 0).modMb none fun m => { m with resp := m.resp.set 2 60016 })
  | _ => .next s

end Sys2Proof.Machine
end

