-- ==== Sys2Proof/Machine/Matrix.lean ====
section
/-!
DEFINITION. The matrix unit (R294 to R309): tiles, accumulation in floats and residues, sparse rows, drains, follow-ons.
-/

namespace Sys2Proof.Machine

/-! ### Arithmetic -/

/-- Element k of a row or tile of patterns of width w bytes. -/
def elemAt (bs : List Byte) (w k : Nat) : Nat := natOfBytes ((bs.drop (k * w)).take w)

/-- The positions of a dense row that take part: those below kc (R297, R298). -/
def denseRow (bs : List Byte) (w kc : Nat) : List (Nat × Nat) := (List.range kc).map fun k => (k, elemAt bs w k)

/-- Nibble g of a metadata row: lo and hi (R299). -/
def metaNibble (ms : List Byte) (g : Nat) : Nat × Nat :=
  let x := (ms.getD (g / 2) 0).toNat / (if g % 2 = 0 then 1 else 16) % 16
  (x % 4, x / 4)

/-- The positions of a sparse row that take part, and the flags of its invalid nibbles (R299). -/
def sparseRow (bs ms : List Byte) (w kc : Nat) : List (Nat × Nat) × Sticky :=
  (List.range ((kc + 3) / 4)).foldl (fun acc g =>
    let n := metaNibble ms g
    if n.2 ≤ n.1 then (acc.1, acc.2 ||| fNV)
    else
      let ks := [(4 * g + n.1, elemAt bs w (2 * g)), (4 * g + n.2, elemAt bs w (2 * g + 1))]
      (acc.1 ++ ks.filter fun e => decide (e.1 < kc), acc.2)) ([], 0)

/-- Step of R297 on the positions of a row, ascending. -/
def floatDot (ty : Ty) (F : Fmt) (tile : Store 64) (n : Nat) (row : List (Nat × Nat)) (c : Nat) : Nat × Sticky :=
  row.foldl (fun acc e =>
    let r := ffmaV F .rn false (decodeF (fmtOf ty) e.2) (decodeF (fmtOf ty) (Store.get tile (e.1 * 64 + n)).toNat) (decodeF F acc.1)
    (r.pat, acc.2 ||| r.flags)) (c, 0)

/-- The residue sum of a row, converted (R298). -/
def residueDot (tile : Store 64) (n : Nat) (row : List (Nat × Nat)) : Int × Sticky :=
  let r := row.foldl (fun (acc : (Int × Int × Int) × Sticky) e =>
    let x := rq8Val e.2
    let y := rq8Val (Store.get tile (e.1 * 64 + n)).toNat
    let p := x.1 * y.1
    (((acc.1.1 + p) % 255, (acc.1.2.1 + p) % 256, (acc.1.2.2 + p) % 253), acc.2 ||| x.2 ||| y.2)) ((0, 0, 0), 0)
  (resVal (r.1.2.2 * 65536 + r.1.2.1 * 256 + r.1.1).toNat, r.2)

/-- Accumulator a0 to a3 (R79). -/
def MxState.accA (m : MxState) (k : Nat) : Store 32 := if k = 0 then m.a0 else if k = 1 then m.a1 else if k = 2 then m.a2 else m.a3

/-- Accumulator w0 or w1 (R79), by codes 4 and 5. -/
def MxState.accW (m : MxState) (k : Nat) : Store 64 := if k = 4 then m.w0 else m.w1

/-- Replace a0 to a3. -/
def MxState.setA (m : MxState) (k : Nat) (x : Store 32) : MxState :=
  if k = 0 then { m with a0 := x } else if k = 1 then { m with a1 := x } else if k = 2 then { m with a2 := x } else { m with a3 := x }

/-- Replace w0 or w1. -/
def MxState.setW (m : MxState) (k : Nat) (x : Store 64) : MxState := if k = 4 then { m with w0 := x } else { m with w1 := x }

/-- The all-zero pattern in every element (R295, R303). -/
def MxState.clear (m : MxState) (k : Nat) : MxState := if k < 4 then m.setA k [] else m.setW k []

/-- One row of a multiply (R304): the accumulator's row m, and the flags. -/
def MxState.mulRow (x : MxState) (ty : Ty) (acc m : Nat) (tile : Store 64) (row : List (Nat × Nat)) : MxState × Sticky :=
  (List.range 64).foldl (fun (st : MxState × Sticky) n =>
    let key := 64 * m + n
    match ty with
    | .rq8 =>
      let r := residueDot tile n row
      let w := st.1.accW acc
      (st.1.setW acc (Store.set w key (Store.get w key + BitVec.ofInt 64 r.1)), st.2 ||| r.2)
    | .f64 =>
      let w := st.1.accW acc
      let r := floatDot ty .f64 tile n row (Store.get w key).toNat
      (st.1.setW acc (Store.set w key (BitVec.ofNat 64 r.1)), st.2 ||| r.2)
    | _ =>
      let a := st.1.accA acc
      let r := floatDot ty .f32 tile n row (Store.get a key).toNat
      (st.1.setA acc (Store.set a key (BitVec.ofNat 32 r.1)), st.2 ||| r.2)) (x, 0)

/-- The tile that MLDN loads row by row and MLDW column by column (R303). -/
def loadTile (ty : Ty) (byColumn : Bool) (kc : Nat) (bs : List Byte) : Tile :=
  let kt := Fields.kt ty
  let els := (List.range (kt * 64)).foldl (fun (st : Store 64) p =>
    let k := if byColumn then p % kt else p / 64
    let n := if byColumn then p / kt else p % 64
    Store.set st (k * 64 + n) (BitVec.ofNat 64 (elemAt bs ty.bytes p))) []
  { ty := ty, kc := kc, els := els }

/-! ### Issue -/

/-- The checks of R301 that depend on the unit. -/
def MxState.allows (m : MxState) : Instr → Bool
  | .mma f => (match m.bt with | some b => b.ty == f.ty | none => false)
  | .mmas f => (match m.bt with | some b => b.ty == f.ty | none => false) && f.fa != f.fm
  | _ => true

/-- The unit begins no command of its stream while one executes or a follow-on is queued (R288, R308). -/
def Column.mxFree (k : Column) : Bool := k.mx.busy.isNone && k.mx.follow.isEmpty

/-- A matrix command issues, which is when it begins (R301, R308). -/
def matrixCmd (i : Instr) (f : GForm) (s : State) : Out :=
  s.issueEng true i f.se f.fs fun s u t x =>
    let col := s.colOf t
    let k := s.column col
    if !k.mxFree then s
    else if !k.mx.allows i then s.haltStream u true .iins x.pc x.slot 0
    else
      let c : MCmd := { op := s.nextId, instr := i, snap := x.snap, follow := false, row := 0, seq := s.seq, vals := none }
      ((s.addEng u x f.se f.fs .matrix).modCol col fun k => { k with mx := { k.mx with busy := some c } }).advanceEng u true 1

/-- MCLR (R303). -/
def execMclr (f : GForm) (s : State) : Out := matrixCmd (.mclr f) f s
/-- MLDN (R303). -/
def execMldn (f : GForm) (s : State) : Out := matrixCmd (.mldn f) f s
/-- MLDW (R303). -/
def execMldw (f : GForm) (s : State) : Out := matrixCmd (.mldw f) f s
/-- MMA (R304). -/
def execMma (f : GForm) (s : State) : Out := matrixCmd (.mma f) f s
/-- MMAS (R299, R304). -/
def execMmas (f : GForm) (s : State) : Out := matrixCmd (.mmas f) f s
/-- MDRN (R305). -/
def execMdrn (f : GForm) (s : State) : Out := matrixCmd (.mdrn f) f s

/-- MSIG (R307). -/
def execMsig (f : GForm) (s : State) : Out :=
  s.issueEng true (.msig f) f.se f.fs fun s u t x =>
    if !(s.column (s.colOf t)).mxFree then s
    else (s.addEng u x f.se f.fs (.msig (f.off.extractLsb' 0 3).toNat)).advanceEng u true 1

/-- MEND (R307). -/
def execMend (s : State) : Out :=
  s.issueEng true .mend false false fun s u t _ =>
    if !(s.column (s.colOf t)).mxFree then s
    else (s.advanceEng u true 1).modTeam u fun t => { t with mtx := t.mtx.map fun x => { x with halted := true } }

/-- MSIG completes (R307): every earlier command of the stream has, earlier MSIGs among them, and the writes before it have reached the scope. -/
def State.finishMsig (s : State) (o : Op) : State :=
  match o.kind with
  | .msig scope =>
    if !(s.ops.any fun p => p.by_ o.agent && decide (p.seq < o.seq)) && s.wroteBefore o.team .M o.seq scope false then s.delOp o.id else s
  | _ => s

/-! ### Drains -/

/-- The drain value with one rounding of R168. Of two NaN scales sA's is returned, and an infinite scale beside a zero W
raises NV also when the other scale is a quiet NaN: R168 orders neither. (log 70: DESIGN CHOICE, unsafe.) -/
def scaledDrain (F : Fmt) (w : Int) (sa sb : Val) : Rounded :=
  let neg := (decide (w < 0) != sa.neg) != sb.neg
  arith F [sa, sb] ((sa.isInf || sb.isInf) && (w == 0 || sa.isZero || sb.isZero))
    (if sa.isInf || sb.isInf then roundInf F false neg
      else roundEx F .rn false { neg := neg, m := w.natAbs * (sa.mag.1 * sb.mag.1), e := sa.mag.2 + sb.mag.2, sticky := false })

/-- Bytes of an element that MDRN writes (R305). -/
def drainWidth (ty : Ty) : Nat := ty.bytes

/-- Element e of the drain (R305); the scale block holds FP32 words. -/
def MxState.drainElem (m : MxState) (f : GForm) (scales : List Byte) (e : Nat) : Rounded :=
  let acc := f.acc.toNat
  let one : Val := decodeF .f32 0x3F800000
  let sc (k : Nat) : Val := if f.sm = 0 then one else decodeF .f32 (elemAt scales 4 k)
  if acc < 4 then
    let a := (Store.get (m.accA acc) e).toNat
    if f.ty == .bf16 then roundVal .bf16 .rn false (decodeF .f32 a) else { pat := a, flags := 0 }
  else if f.ty == .f32 || f.ty == .bf16 then
    scaledDrain (fmtOf f.ty) (Store.get (m.accW acc) e).toInt (sc (if f.sm = 2 then e / 64 else 0)) (sc (if f.sm = 2 then 64 + e % 64 else 1))
  else { pat := (Store.get (m.accW acc) e).toNat, flags := 0 }

/-- The offset that an element, or a scale word, of width v first extends beyond an allocation (R306). -/
def pastEnd (size o v : Nat) : Nat := if o ≤ size then o + (size - o) / v * v else o

/-- The check that MDRN fails (R305, R306), and the offset charged. -/
def drainFail (size o v sc bytes : Nat) : Option (Cause × Nat) :=
  let sb := bytes ≠ 0
  if o % v ≠ 0 then some (.maln, o)
  else if sb ∧ sc % 4 ≠ 0 then some (.maln, sc)
  else if size < o + 4096 * v then some (.mbnd, pastEnd size o v)
  else if sb ∧ size < sc + bytes then some (.mbnd, pastEnd size sc 4)
  else none

/-- A matrix command is over: the unit is free, and its operation completes. -/
def State.endMx (s : State) (col op : Nat) : State :=
  (s.modCol col fun k => { k with mx := { k.mx with busy := none } }).delOp op

/-- Change the matrix state of a column. -/
def State.modMx (s : State) (col : Nat) (f : MxState → MxState) : State := s.modCol col fun k => { k with mx := f k.mx }

/-- The scale block of a drain: its offset, and its bytes (R305). -/
def drainScales (snap : Store 64) (f : GForm) : Nat × Nat :=
  ((Store.get snap f.c.toNat).toNat, if f.sm = 0 then 0 else if f.sm = 1 then 8 else 512)

/-- MDRN is performed (R305, R306): its writes enter path M. (log 44: DESIGN CHOICE, unsafe.) Its offset wraps at 64 bits. (log 36: DESIGN CHOICE, unsafe.) -/
def State.drain (s : State) (col u : Nat) (t : Team) (c : MCmd) (f : GForm) : State :=
  let m := (s.column col).mx
  let o := (Store.get c.snap f.b.toNat + BitVec.ofInt 64 (f.off.toInt * 64)).toNat
  let sc := (drainScales c.snap f).1
  let bytes := (drainScales c.snap f).2
  let v := drainWidth f.ty
  let fail (k : Cause) (a : Nat) : State :=
    ((if k = .euce then s.notePoison u (.spad t.wg) (BitVec.ofNat 64 a) false else s).giveErr u .M 0 k (BitVec.ofNat 64 a) 0 c.seq).endMx col c.op
  if s.fenceHolds u .M c.seq then s
  else match drainFail (s.spadSize t.wg) o v sc bytes with
    | some e => fail e.1 e.2
    | none =>
      match s.readValue u .M (.spad t.wg) false (BitVec.ofNat 64 sc) bytes with
      | none => s
      | some r =>
        match (List.range (bytes / 4)).find? fun k => s.poisonedAt (.spad t.wg) (BitVec.ofNat 64 (sc + 4 * k)) false 4 && r.2 with
        | some k => fail .euce (sc + 4 * k)
        | none =>
          let es := (List.range 4096).map fun e => m.drainElem f r.1 e
          let bs := es.flatMap fun e => bytesOfNat e.pat v
          let fl := es.foldl (fun a e => a ||| e.flags) 0
          let b : BufWrite :=
            { id := s.nextId, agent := .matrix u, team := u, path := .M, seq := c.seq, op := c.op, el := 0, lane := 0, slot := 0, space := .spad t.wg,
              addr := BitVec.ofNat 64 o, lower := false, act := .write bs, land := .none, size := bs.length, stage := 0, die := 0, num := 0,
              stamp := [], spec := false, probe := false, before := [] }
          let s1 := { s.fresh with bufs := s.bufs ++ [b] }
          let s2 := if f.clr then s1.modMx col fun m => m.clear f.acc.toNat else s1
          (s2.modTeam u fun t => t.raise fl).endMx col c.op

/-! ### Completion -/

/-- The bytes of the tile that a load takes have landed (R296). -/
def MxState.nextLanded (m : MxState) (i : Instr) : Bool := (mxNeeds i).1.all fun e => decide (e.2 ≤ (m.fifo e.1).length)

/-- A row of a multiply is accumulated from its values, which have been taken, and for MMAS the metadata next in its FIFO (R296, R304). -/
def MxState.stepMul (m : MxState) (f : GForm) (sparse : Bool) (row : Nat) (vs : List Byte) : MxState × Sticky :=
  match m.bt with
  | none => (m, 0)
  | some b =>
    let w := f.ty.bytes
    let fm := f.fm.toNat
    let r := if sparse then sparseRow vs (m.fifo fm) w b.kc else (denseRow vs w b.kc, 0)
    let m1 := if sparse then m.setFifo fm ((m.fifo fm).drop (Fields.kt f.ty / 8)) else m
    let z := m1.mulRow f.ty f.acc.toNat row b.els r.1
    (z.1, z.2 ||| r.2)

/-- The bytes of values that a row of a multiply takes (R294). -/
def rowBytes (f : GForm) (sparse : Bool) : Nat := if sparse then Fields.kt f.ty / 2 * f.ty.bytes else Fields.kt f.ty * f.ty.bytes

/-- The command that executes goes on (R296, R304, R308): a row of a multiply, for MMAS its values and then its metadata, or the whole of another command. (log 47: DEDUCED, unsafe.) -/
def State.stepMx (s : State) (col u : Nat) (t : Team) (c : MCmd) : State :=
  let m := (s.column col).mx
  let row (f : GForm) (sparse : Bool) (m : MxState) (vs : List Byte) : State :=
    let r := m.stepMul f sparse c.row vs
    let s1 := (s.modMx col fun _ => { r.1 with busy := some { c with row := c.row + 1, vals := none } }).modTeam u fun t => t.raise r.2
    if f.mc.toNat < c.row + 1 then s1.endMx col c.op else s1
  let mul (f : GForm) (sparse : Bool) : State :=
    let n := rowBytes f sparse
    let q := m.fifo f.fa.toNat
    match c.vals with
    | some vs => if (m.fifo f.fm.toNat).length < Fields.kt f.ty / 8 then s else row f sparse m vs
    | none =>
      if q.length < n then s
      else
        let m1 := m.setFifo f.fa.toNat (q.drop n)
        if sparse then s.modMx col fun _ => { m1 with busy := some { c with vals := some (q.take n) } } else row f sparse m1 (q.take n)
  let ld (f : GForm) (byColumn : Bool) : State :=
    if !m.nextLanded c.instr then s
    else
      let n := Fields.kt f.ty * 64 * f.ty.bytes
      (s.modMx col fun m => { m with bt := some (loadTile f.ty byColumn (f.kc.toNat + 1) m.qs), qs := m.qs.drop n }).endMx col c.op
  match c.instr with
  | .mclr f => (s.modMx col fun m => m.clear f.acc.toNat).endMx col c.op
  | .mldn f => ld f false
  | .mldw f => ld f true
  | .mma f => mul f false
  | .mmas f => mul f true
  | .mdrn f => s.drain col u t c f
  | _ => s.endMx col c.op

/-- MATRIX_COMMAND_COMPLETE (R308), for the column named. -/
def execMatrixCommandComplete (s : State) : Out :=
  match s.arg with
  | .id col => .next (match (s.column col).mx.busy, (s.column col).mxHolder with
    | some c, some u => (match s.team? u with | some t => if s.streamsRun t then s.stepMx col u t c else s | none => s)
    | _, _ => s)
  | _ => .next s

/-- A follow-on's payload passes the checks of R301 when it executes. -/
def MxState.payloadOk (m : MxState) (t : Team) (i : Instr) : Bool :=
  let r := i.rule
  r.cls == .matrix && r.ok && (r.uses.all fun y => useOk t.nv t.ns y) && m.allows i

/-- FOLLOW_ON_EXECUTE (R288, R311), for the column named: the oldest queued follow-on begins, or is discarded when it fails its checks (R287). -/
def execFollowOnExecute (s : State) : Out :=
  match s.arg with
  | .id col => .next (match (s.column col).mx.follow, (s.column col).mxHolder with
    | c :: rest, some u =>
      (match s.team? u with
      | none => s
      | some t =>
        if (s.column col).mx.busy.isSome || !s.streamsRun t then s
        else if (s.column col).mx.payloadOk t c.instr then
          ({ s with seq := s.seq + 1 }).modMx col fun m => { m with follow := rest, busy := some { c with seq := s.seq } }
        else if s.engBusy u false then s
        else
          let cause := match s.op? c.op with
            | some o => (match o.kind with | .cmx _ slot hdr _ => engCause false .iins hdr slot 0 0 | _ => engCause false .iins 0 0 0 0)
            | none => engCause false .iins 0 0 0 0
          ((s.modMx col fun m => { m with follow := rest }).modTeam u fun t => t.postEng false cause).delOp c.op)
    | _, _ => s)
  | _ => .next s

end Sys2Proof.Machine
end

