-- ==== Sys2Proof/Machine/MemEvents.lean ====
section
/-!
DEFINITION. The two steps that every family's outstanding operations share: MM_PERFORM (R314) and WRITE_PERFORMED (R77).
-/

namespace Sys2Proof.Machine

/-- An access of R314 is performed, with those that are served together with it (R205); the two halves of a lane of LDSP or STSP both or neither (R377). -/
def State.performMates (s : State) (o : Op) (a : Access) : State :=
  let els := o.slotMates a
  let s1 := els.foldl (fun s el => match s.op? o.id with
    | none => s
    | some p => match p.acc.find? fun b => b.el == el with
      | some b => s.performAccess p b
      | none => s) s
  if a.halves.isEmpty then s1
  else match s1.op? o.id with
    | some p => if p.acc.any fun b => els.contains b.el then s else s1
    | none => s1

/-- An access of an operation is performed: a copy command's element, a word of an LDG, or an access of R314. -/
def State.performEl (s : State) (o : Op) (el : Nat) : State :=
  match o.kind with
  | .copy c => s.performCopy o c el
  | k =>
    match o.acc.find? fun a => a.el == el with
    | none => s
    | some a => match k with
      | .ldg grp code ty _ lanes => s.performLdg o a grp code ty lanes
      | _ => s.performMates o a

/-- The access by which team u, or a stream of it, reads the words of the clause at its program counter (R103). -/
def State.codeAcc (s : State) (u : Nat) (pc : Addr) (words : Nat) : Option Access :=
  (s.team? u).map fun t =>
    { el := 0, lane := 0, path := .I, space := .slice (s.ctxOf t) (s.colOf t) 0, addr := pc, size := 8 * words, act := .read, land := .none, lower := false,
      halves := [] }

/-- What a fetch of the agent named reads: its clause as it stands, the longest where the header is not known yet. -/
def State.fetchAcc (s : State) : Agent → Option Access
  | .team u => (s.team? u).bind fun t => s.codeAcc u t.pc 17
  | .copy u => ((s.team? u).bind (·.copy)).bind fun x => s.codeAcc u x.pc 17
  | .matrix u => ((s.team? u).bind (·.mtx)).bind fun x => s.codeAcc u x.pc 17

/-- The accesses by which an operation reads for one of its elements: those of R314; of a copy command the index word and the source element (R283); of a
drain its scale block (R305). -/
def State.readsOf (s : State) (o : Op) (el : Nat) : List Access :=
  match o.kind with
  | .copy c =>
    if !c.left.contains el then []
    else
      (if c.cop == .cpyg || c.cop == .cpys then [s.cpAccess o.team c.indexOp (c.index + BitVec.ofNat 64 (4 * el)) el 4 .read] else []) ++
        [s.cpAccess o.team c.src (c.src.elemAddr (if c.cop == .cpyg then (s.cpIndexNow o c el).getD 0 else el) c.w) el c.w .read]
  | .matrix => match s.team? o.team with
    | none => []
    | some t => match (s.column (s.colOf t)).mx.busy with
      | some b => (match b.instr with
        | .mdrn f =>
          let z := drainScales b.snap f
          if b.op = o.id then
            [{ el := 0, lane := 0, path := .M, space := .spad t.wg, addr := BitVec.ofNat 64 z.1, size := z.2, act := .read, land := .none, lower := false,
               halves := [] }]
          else []
        | _ => [])
      | none => []
  | _ => (o.acc.find? fun a => a.el == el).toList

/-- Errors are found in word number `word` of those that some accesses read (R408, R412): none when they read no such word. -/
def State.observeReads (s : State) (as : List Access) (loc word : Nat) (obs : EccObs) : Option State :=
  ((as.flatMap fun a => (s.wordsAt a.space a.addr a.lower a.size).map fun w => (a, w))[word]?).map fun e => s.observeAccess e.1 e.2 loc obs

/-- MM_PERFORM (R314), for the operation and element named; with it what the check bits of a cached or scratchpad word that it reads show (R408), or
those of a word that the agent named fetches. -/
def execMmPerform (s : State) : Out :=
  match s.arg with
  | .sram n el loc word obs => .next (match s.op? n with
    | some o => match s.observeReads (s.readsOf o el) loc word obs with
      | some s1 => s1.performEl o el
      | none => s
    | none => s)
  | .code a loc word obs => .next ((s.observeReads (s.fetchAcc a).toList loc word obs).getD s)
  | .pair n el => .next (match s.op? n with | some o => s.performEl o el | none => s)
  | _ => .next s

/-- An operation whose work is done completes (R77, R99, R134, R135, R150, R277, R307, R361); the kinds that complete in steps of their own do
not complete here. (log 18: DEDUCED, safe.) -/
def State.finishOp (s : State) (o : Op) : State :=
  match o.kind with
  | .alu | .mem | .yield => if s.opDrained o then s.completeOp o else s
  | .ldg _ code ty d lanes => if o.acc.isEmpty then s.finishLdg o code ty d lanes else s
  | .lnch _ _ => if o.acc.isEmpty then s.sendIntake o else s
  | .cancel _ => s.sendIntake o
  | .cntw d h => s.endCntw o d h
  | .copy _ | .csig _ | .cfence _ => s.finishCopy o
  | .msig _ => s.finishMsig o
  | .cat i a b lanes => s.finishCat o i a b lanes
  | .image load => if s.opDrained o then s.finishImage o load else s
  | .sf | .fence _ _ _ _ | .iter _ | .gpost _ _ | .cmx _ _ _ _ | .matrix | .xcol _ _ _ _ _ => s

/-- WRITE_PERFORMED (R77), for the operation named. -/
def execWritePerformed (s : State) : Out :=
  match s.arg with
  | .id n => .next (match s.op? n with | some o => s.finishOp o | none => s)
  | _ => .next s

end Sys2Proof.Machine
end

