-- ==== Sys2Proof/Machine/ScalarInt.lean ====
section
/-!
DEFINITION. The scalar integer instructions and their immediate twins (R137 to R147).
-/

namespace Sys2Proof.Machine

/-- A scalar instruction of two sources. -/
def scalar2 (i : Instr) (f : VForm) (op : Ty → Word → Word → Word) (s : State) : Out :=
  scalarV i f (fun t => op f.ty (t.spat f.ty f.a.toNat) (t.spat f.ty f.b.toNat)) s

/-- A scalar instruction of one source. -/
def scalar1 (i : Instr) (f : VForm) (op : Ty → Word → Word) (s : State) : Out :=
  scalarV i f (fun t => op f.ty (t.spat f.ty f.a.toNat)) s

/-- A scalar immediate twin of a two-source instruction. -/
def scalar2I (i : Instr) (f : IForm) (op : Ty → Word → Word → Word) (s : State) : Out :=
  scalarI i f (fun t => op f.ty (t.spat f.ty f.a.toNat) (immPat f)) s

/-- SMOV (R139). -/
def execSmov (f : VForm) (s : State) : Out := scalar1 (.smov f) f (fun _ a => a) s

/-- SADD (R139). -/
def execSadd (f : VForm) (s : State) : Out := scalar2 (.sadd f) f (opArith (· + ·) f.sat) s

/-- SADD's immediate twin (R111, R139). -/
def execSaddImm (f : IForm) (s : State) : Out := scalar2I (.saddImm f) f (opArith (· + ·) false) s

/-- SSUB (R139). -/
def execSsub (f : VForm) (s : State) : Out := scalar2 (.ssub f) f (opArith (· - ·) f.sat) s

/-- SSUB's immediate twin (R111, R139). -/
def execSsubImm (f : IForm) (s : State) : Out := scalar2I (.ssubImm f) f (opArith (· - ·) false) s

/-- SMUL (R139). -/
def execSmul (f : VForm) (s : State) : Out := scalar2 (.smul f) f (opArith (· * ·) f.sat) s

/-- SMUL's immediate twin (R111, R139). -/
def execSmulImm (f : IForm) (s : State) : Out := scalar2I (.smulImm f) f (opArith (· * ·) false) s

/-- SMULH (R139). -/
def execSmulh (f : VForm) (s : State) : Out := scalar2 (.smulh f) f opMulh s

/-- SDIV (R140). -/
def execSdiv (f : VForm) (s : State) : Out := scalar2 (.sdiv f) f (opDiv f.sat) s

/-- SREM (R140). -/
def execSrem (f : VForm) (s : State) : Out := scalar2 (.srem f) f opRem s

/-- SAND (R139). -/
def execSand (f : VForm) (s : State) : Out := scalar2 (.sand f) f (fun _ a b => a &&& b) s

/-- SAND's immediate twin (R111, R139). -/
def execSandImm (f : IForm) (s : State) : Out := scalar2I (.sandImm f) f (fun _ a b => a &&& b) s

/-- SOR (R139). -/
def execSor (f : VForm) (s : State) : Out := scalar2 (.sor f) f (fun _ a b => a ||| b) s

/-- SOR's immediate twin (R111, R139). -/
def execSorImm (f : IForm) (s : State) : Out := scalar2I (.sorImm f) f (fun _ a b => a ||| b) s

/-- SXOR (R139). -/
def execSxor (f : VForm) (s : State) : Out := scalar2 (.sxor f) f (fun _ a b => a ^^^ b) s

/-- SXOR's immediate twin (R111, R139). -/
def execSxorImm (f : IForm) (s : State) : Out := scalar2I (.sxorImm f) f (fun _ a b => a ^^^ b) s

/-- SNOT (R139). -/
def execSnot (f : VForm) (s : State) : Out := scalar1 (.snot f) f (fun _ a => ~~~a) s

/-- SSHL (R141). -/
def execSshl (f : VForm) (s : State) : Out := scalar2 (.sshl f) f opShl s

/-- SSHL's immediate twin (R111, R141). -/
def execSshlImm (f : IForm) (s : State) : Out := scalar2I (.sshlImm f) f opShl s

/-- SSHR (R141). -/
def execSshr (f : VForm) (s : State) : Out := scalar2 (.sshr f) f opShr s

/-- SSHR's immediate twin (R111, R141). -/
def execSshrImm (f : IForm) (s : State) : Out := scalar2I (.sshrImm f) f opShr s

/-- SSAR (R141). -/
def execSsar (f : VForm) (s : State) : Out := scalar2 (.ssar f) f opSar s

/-- SSAR's immediate twin (R111, R141). -/
def execSsarImm (f : IForm) (s : State) : Out := scalar2I (.ssarImm f) f opSar s

/-- SROT (R141). -/
def execSrot (f : VForm) (s : State) : Out := scalar2 (.srot f) f opRot s

/-- SROT's immediate twin (R111, R141). -/
def execSrotImm (f : IForm) (s : State) : Out := scalar2I (.srotImm f) f opRot s

/-- SCMP (R144): writes 1 when the condition holds, else 0. -/
def execScmp (f : VForm) (s : State) : Out :=
  s.issue (.scmp f) f.se f.fs fun s u t =>
    let r := intCond f.sub.toNat (intVal f.ty (t.spat f.ty f.a.toNat)) (intVal f.ty (t.spat f.ty f.b.toNat))
    s.emit u t f.se f.fs [.s f.d.toNat] [.s f.d.toNat (if r then 1 else 0)] 0 false

/-- SSEL (R145): all 64 bits of S[c] are tested. -/
def execSsel (f : VForm) (s : State) : Out :=
  scalarV (.ssel f) f (fun t => if t.scal f.c.toNat != 0 then t.spat f.ty f.a.toNat else t.spat f.ty f.b.toNat) s

/-- SMIN (R139). -/
def execSmin (f : VForm) (s : State) : Out := scalar2 (.smin f) f opMin s

/-- SMIN's immediate twin (R111, R139). -/
def execSminImm (f : IForm) (s : State) : Out := scalar2I (.sminImm f) f opMin s

/-- SMAX (R139). -/
def execSmax (f : VForm) (s : State) : Out := scalar2 (.smax f) f opMax s

/-- SMAX's immediate twin (R111, R139). -/
def execSmaxImm (f : IForm) (s : State) : Out := scalar2I (.smaxImm f) f opMax s

/-- SCLZ (R142). -/
def execSclz (f : VForm) (s : State) : Out := scalar1 (.sclz f) f opClz s

/-- SPOP (R142). -/
def execSpop (f : VForm) (s : State) : Out := scalar1 (.spop f) f opPop s

/-- SLEA (R146). -/
def execSlea (f : VForm) (s : State) : Out := scalar2 (.slea f) f (opLea f.sub.toNat) s

/-- SLEA's immediate twin (R146). -/
def execSleaImm (f : IForm) (s : State) : Out := scalar2I (.sleaImm f) f (opLea 0) s

/-- SMOVI, the twin of SMOV (R111). -/
def execSmovi (f : IForm) (s : State) : Out := scalarI (.smovi f) f (fun _ => immPat f) s

end Sys2Proof.Machine
end

