-- ==== Sys2Proof/Machine/Special.lean ====
section
/-!
DEFINITION. The special-function instructions (R190 to R194). R192's rows are exact. For every other operand the exact result is bracketed in
fixed point, and the FP32 result is one of the values that R191's bound of one unit of last place leaves, chosen by a free value (log 7).
-/

namespace Sys2Proof.Machine

/-- The functions of R190. -/
inductive SfFn where
  | sin | cos | sinp | cosp | ex2 | lg2 | tnh | rcp | rsq
deriving DecidableEq, Repr, Inhabited

/-- A result before its rounding: a row of R192, an overflow, or an exact value to be approximated. -/
inductive SfRes where
  | row (r : Rounded)
  | over (neg : Bool)
  | near (x : Ex)
deriving DecidableEq, Repr, Inhabited

/-! ### Fixed point with 320 fraction bits -/

/-- One. -/
def sfOne : Nat := 2 ^ 320

/-- π ÷ 2, rounded down. -/
def sfHalfPi : Nat := 3355200590106084457577920487110001620402097044713574475363553212175856609335902690049750194457019

/-- 2 ÷ π with 640 fraction bits, rounded down. -/
def sfTwoOverPi : Nat :=
  2904539907431249152158772998607397113672649249128262703601637086869901184823306014487785623506845885828912445005414320299082127391116041092460347456990561465162404700881480633892020712956443124

/-- ln 2, rounded down. -/
def sfLn2 : Nat := 1480553391661173448385607439722553250922680800745876974795605978609098082859138712941075737848984

/-- The alternating series of sine (from k = 2 and the angle) and cosine (from k = 1 and one), `n` terms. -/
def sfAlt (x2 : Nat) : Nat → Nat → Nat → Int
  | 0, _, _ => 0
  | n + 1, k, t => (t : Int) - sfAlt x2 n (k + 2) (t * x2 / sfOne / (k * (k + 1)))

/-- The series of e^x, `n` terms from term `t` with index `k`. -/
def sfExpSer (x : Nat) : Nat → Nat → Nat → Nat
  | 0, _, _ => 0
  | n + 1, k, t => t + sfExpSer x n (k + 1) (t * x / sfOne / k)

/-- The value A × 2^-320, inexact, to 256 fraction bits. -/
def sfEx (neg : Bool) (a : Nat) : Ex := { neg := neg, m := a / 2 ^ 64, e := -256, sticky := true }

/-- The sine (or the cosine) of q quarter turns and a fraction r of one, neither of them exact (R192). -/
def sfTurn (cosine : Bool) (neg : Bool) (q r : Nat) : Ex :=
  let th := r * sfHalfPi / sfOne
  let x2 := th * th / sfOne
  let quad := (if cosine then q + 1 else q) % 4
  let useCos := quad % 2 == 1
  let v := if useCos then sfAlt x2 45 1 sfOne else sfAlt x2 45 2 th
  sfEx (neg != decide (2 ≤ quad)) v.toNat

/-- m × 2^e as a fixed-point number, rounded down. -/
def sfFix (m : Nat) (e : Int) (bits : Nat) : Nat :=
  let s := e + (bits : Int)
  if 0 ≤ s then m * 2 ^ s.toNat else m / 2 ^ (-s).toNat

/-- The bits of log2 of y in [1, 2), `n` of them, most significant first. -/
def sfLogBits : Nat → Nat → Nat → Nat
  | 0, _, acc => acc
  | n + 1, y, acc =>
    let z := y * y / sfOne
    if 2 * sfOne ≤ z then sfLogBits n (z / 2) (2 * acc + 1) else sfLogBits n z (2 * acc)

/-- A value strictly below m × 2^e in magnitude and within m × 2^(e - 60) of it. -/
def sfBelow (neg : Bool) (m : Nat) (e : Int) : Ex := { neg := neg, m := m * 2 ^ 36 - 1, e := e - 36, sticky := true }

/-- A magnitude m × 2^e is below 2^k. -/
def sfLess (m : Nat) (e k : Int) : Bool := decide ((Nat.log2 m : Int) + e < k)

/-- The row of R192 that gives a pattern of FP32 and flags. -/
def sfRow (pat : Nat) (flags : Sticky) : SfRes := .row { pat := pat, flags := flags }

/-- The FP32 pattern of an integer. -/
def sfInt (x : Int) : Nat := (roundEx .f32 .rn false (exOfInt x 0 false)).pat

/-- m × 2^e is an integer; its value when it is. -/
def sfAsInt (m : Nat) (e : Int) : Option Nat :=
  if 0 ≤ e then some (m * 2 ^ e.toNat) else if m % 2 ^ (-e).toNat = 0 then some (m / 2 ^ (-e).toNat) else none

/-- log2 of a power of two m. -/
def sfPow2 (m : Nat) : Option Nat := if m = 2 ^ Nat.log2 m then some (Nat.log2 m) else none

/-- 2^n as an FP32 pattern when it is representable. -/
def sfTwoTo (n : Int) : Option Nat :=
  if -149 ≤ n ∧ n ≤ 127 then some (roundEx .f32 .rn false { neg := false, m := 1, e := n, sticky := false }).pat else none

/-- Sine or cosine of a finite nonzero x (R191, R192). -/
def sfSinCos (cosine neg : Bool) (m : Nat) (e : Int) : Ex :=
  if sfLess m e (-30) then (if cosine then sfBelow false 1 0 else sfBelow neg m e)
  else
    let y := sfFix (m * sfTwoOverPi) (e - 640) 320
    sfTurn cosine (!cosine && neg) (y / sfOne) (y % sfOne)

/-- Sine or cosine of πx for a finite x (R191, R192). -/
def sfSinCosPi (cosine neg : Bool) (m : Nat) (e : Int) : SfRes :=
  match sfAsInt m (e + 1) with
  | some h =>
    let odd := h / 2 % 2 == 1
    if h % 2 = 0 then
      (if cosine then sfRow (if odd then 0xBF800000 else 0x3F800000) 0 else sfRow (if neg then 0x80000000 else 0) 0)
    else if cosine then sfRow 0 0
    else sfRow (if odd != neg then 0xBF800000 else 0x3F800000) 0
  | none =>
    let y := sfFix m (e + 1) 320
    .near (sfTurn cosine (!cosine && neg) (y / sfOne) (y % sfOne))

/-- 2^x of a finite x (R191, R192). -/
def sfExp2 (neg : Bool) (m : Nat) (e : Int) : SfRes :=
  let big := m ≠ 0 ∧ !sfLess m e 8
  if big then (if neg then .near { neg := false, m := 0, e := 0, sticky := true } else .over false)
  else
    let xi := sgn neg (sfFix m e 320)
    let n := xi / (sfOne : Int)
    let fr := (xi % (sfOne : Int)).toNat
    if 128 ≤ n then .over false
    else match (if fr = 0 then sfTwoTo n else none) with
      | some p => sfRow p 0
      | none => .near { neg := false, m := sfExpSer (fr * sfLn2 / sfOne) 70 1 sfOne / 2 ^ 64, e := n - 256, sticky := true }

/-- log2 of a finite positive x (R191, R192). -/
def sfLog2 (m : Nat) (e : Int) : SfRes :=
  match sfPow2 m with
  | some k => sfRow (sfInt ((k : Int) + e)) 0
  | none =>
    let k := Nat.log2 m
    let v := ((k : Int) + e) * (2 ^ 200 : Nat) + (sfLogBits 200 (sfFix m (-(k : Int)) 320) 0 : Nat)
    .near (if 0 ≤ v then { neg := false, m := v.toNat, e := -200, sticky := true }
      else { neg := true, m := (-v - 1).toNat, e := -200, sticky := true })

/-- tanh of a finite nonzero x (R191). -/
def sfTanh (neg : Bool) (m : Nat) (e : Int) : Ex :=
  if sfLess m e (-30) then sfBelow neg m e
  else if !sfLess m e 7 then sfBelow neg 1 0
  else
    let y := sfFix m (e + 1) 320
    let k := y / sfLn2
    let ex := sfExpSer (y - k * sfLn2) 70 1 sfOne * 2 ^ k
    sfEx neg ((ex - sfOne) * sfOne / (ex + sfOne))

/-- 1 ÷ x of a finite nonzero x (R191, R192): the row of 2^n names no negative power, whose reciprocal is therefore no row
(log 83: DEDUCED, unsafe). -/
def sfRcp (neg : Bool) (m : Nat) (e : Int) : SfRes :=
  match (if neg then none else sfPow2 m).bind fun k => sfTwoTo (-((k : Int) + e)) with
  | some p => sfRow p 0
  | none =>
    let x := divEx false 1 0 neg m e
    if (roundEx .f32 .ru false { x with neg := false }).pat = 0x7F800000 then .over neg else .near x

/-- 1 ÷ √x of a finite positive x (R191). -/
def sfRsq (m : Nat) (e : Int) : Ex :=
  let odd := decide (e % 2 ≠ 0)
  let m1 := if odd then 2 * m else m
  let e1 : Int := if odd then e - 1 else e
  let r := isqrt (2 ^ 200 / m1)
  { neg := false, m := r, e := -100 - e1 / 2, sticky := r * r * m1 != 2 ^ 200 }

/-- The canonical NaN with NV (R192). -/
def sfInvalid : SfRes := sfRow 0x7FC00000 fNV

/-- The result of a function of an FP32 pattern (R192). -/
def sfExact (fn : SfFn) (x : Nat) : SfRes :=
  match decodeF .f32 x with
  | .nan _ q _ _ => sfRow (quietPat .f32 x) (flagIf (!q) fNV)
  | .inf n =>
    match fn with
    | .sin | .cos | .sinp | .cosp => sfInvalid
    | .ex2 => sfRow (if n then 0 else 0x7F800000) 0
    | .lg2 => if n then sfInvalid else sfRow 0x7F800000 0
    | .tnh => sfRow (if n then 0xBF800000 else 0x3F800000) 0
    | .rcp => sfRow (if n then 0x80000000 else 0) 0
    | .rsq => if n then sfInvalid else sfRow 0 0
  | .fin n m e =>
    if m = 0 then
      match fn with
      | .sin | .sinp | .tnh => sfRow x 0
      | .cos | .cosp | .ex2 => sfRow 0x3F800000 0
      | .lg2 => sfRow 0xFF800000 fDZ
      | .rcp | .rsq => sfRow (if n then 0xFF800000 else 0x7F800000) fDZ
    else
      match fn with
      | .sin => .near (sfSinCos false n m e)
      | .cos => .near (sfSinCos true n m e)
      | .sinp => sfSinCosPi false n m e
      | .cosp => sfSinCosPi true n m e
      | .ex2 => sfExp2 n m e
      | .lg2 => if n then sfInvalid else sfLog2 m e
      | .tnh => .near (sfTanh n m e)
      | .rcp => sfRcp n m e
      | .rsq => if n then sfInvalid else .near (sfRsq m e)

/-- The magnitudes of the FP32 values within one unit of last place of an exact value (R191). (log 7: DESIGN CHOICE, safe.) -/
def sfCandidates (x : Ex) : List Nat :=
  if x.m = 0 then [0, 1]
  else
    let y := { x with neg := false }
    let lo := (roundEx .f32 .rz false y).pat
    let edge := lo % 2 ^ 23 == 0 && decide (2 ^ 24 ≤ lo)
    let exact := (roundEx .f32 .rz false y).flags == 0
    if exact then [lo - 1, lo, lo + 1] ++ (if edge then [lo - 2] else [])
    else [lo, lo + 1] ++ (if edge && (roundEx .f32 .rn false y).pat == lo then [lo - 1] else [])

/-- F(x) of a function at an operand, with the flags of an FP32 result and whether it is a row of R192 (R190 to R192). -/
def sfF (fn : SfFn) (num x : Nat) : Rounded × Bool :=
  match sfExact fn x with
  | .row r => (r, true)
  | .over n => ({ pat := Fmt.f32.infPat n, flags := fOF ||| fNX }, false)
  | .near v =>
    let c := sfCandidates v
    let p := c.getD (Config.sfPick num (BitVec.ofNat 32 x) % c.length) 0
    ({ pat := Fmt.f32.signPat v.neg + p, flags := fNX ||| flagIf (decide (0 < p ∧ p < 0x00800000)) fUF }, false)

/-- The result of type `ty` (R190, R192): a bf16 result is rounded once from F(x), and its flags are judged on it. (log 7: DESIGN CHOICE, safe.) (log 78: DESIGN CHOICE, unsafe.) -/
def sfResult (fn : SfFn) (num : Nat) (ty : Ty) (pat : Word) : Word × Sticky :=
  if ty == .bf16 then
    let r := sfF fn num (widenPat .bf16 .f32 pat.toNat)
    let b := roundVal .bf16 .rn false (decodeF .f32 r.1.pat)
    let low := magOf .bf16 b.pat
    let uf := flagIf (decide (0 < low ∧ low < 0x0080)) fUF
    let fl : Sticky :=
      if r.2 && b.flags == 0 then r.1.flags else b.flags ||| uf ||| fNX ||| (if r.2 then 0 else r.1.flags &&& fOF)
    (BitVec.ofNat 64 b.pat, fl)
  else
    let r := sfF fn num pat.toNat
    (BitVec.ofNat 64 r.1.pat, r.1.flags)

/-- Special-function instructions that a team's queue holds (R193). -/
def State.sfHeld (s : State) (u : Nat) : Nat := (s.ops.filter fun o => o.team == u && o.kind == .sf).length

/-- A special-function instruction enters the team's queue (R193): a full queue of 8 holds the slot. Each function that it computes has the number
under which its free values are chosen. -/
def special (i : Instr) (f : VForm) (fns : List (SfFn × Nat)) (s : State) : Out :=
  s.issue i f.se f.fs fun s u t =>
    if 8 ≤ s.sfHeld u then s
    else
      let ls := t.active f.m
      let d := f.d.toNat
      let rs := (fns.zipIdx).map fun fk =>
        vecWrites f.ty (d + fk.2) ls fun l => sfResult fk.1.1 fk.1.2 f.ty (t.pat f.ty f.a.toNat l)
      let s1 := s.addOp u .sf fun o =>
        { o with flag := selFlag t.hdr f.se f.fs, dests := (List.range fns.length).map fun k => .v (d + k),
                 writes := rs.flatMap (·.1), raises := rs.foldl (fun a r => a ||| r.2) 0, raiser := true, slot := t.slot }
      (s1.modCol (s.colOf t) fun c => { c with sfq := c.sfq ++ [s.nextId] }).advance u

/-- QSIN (R190). -/
def execQsin (f : VForm) (s : State) : Out := special (.qsin f) f [(.sin, 0x300)] s

/-- QCOS (R190). -/
def execQcos (f : VForm) (s : State) : Out := special (.qcos f) f [(.cos, 0x302)] s

/-- QSC (R190): sine and cosine into a pair. -/
def execQsc (f : VForm) (s : State) : Out := special (.qsc f) f [(.sin, 0x304), (.cos, 0x305)] s

/-- QSINP (R190). -/
def execQsinp (f : VForm) (s : State) : Out := special (.qsinp f) f [(.sinp, 0x306)] s

/-- QCOSP (R190). -/
def execQcosp (f : VForm) (s : State) : Out := special (.qcosp f) f [(.cosp, 0x308)] s

/-- QSCP (R190, R387): sine and cosine of πx into a pair, each exactly what QSINP or QCOSP gives. -/
def execQscp (f : VForm) (s : State) : Out := special (.qscp f) f [(.sinp, 0x306), (.cosp, 0x308)] s

/-- QEX2 (R190). -/
def execQex2 (f : VForm) (s : State) : Out := special (.qex2 f) f [(.ex2, 0x30C)] s

/-- QLG2 (R190). -/
def execQlg2 (f : VForm) (s : State) : Out := special (.qlg2 f) f [(.lg2, 0x30E)] s

/-- QTNH (R190). -/
def execQtnh (f : VForm) (s : State) : Out := special (.qtnh f) f [(.tnh, 0x310)] s

/-- QRCP (R190). -/
def execQrcp (f : VForm) (s : State) : Out := special (.qrcp f) f [(.rcp, 0x312)] s

/-- QRSQ (R190). -/
def execQrsq (f : VForm) (s : State) : Out := special (.qrsq f) f [(.rsq, 0x314)] s

end Sys2Proof.Machine
end

