-- ==== Sys2Proof/Machine/VectorInt.lean ====
section
/-!
DEFINITION. The vector integer instructions and their immediate twins (R137 to R149).
-/

namespace Sys2Proof.Machine

/-- A vector integer instruction of two sources (R138). -/
def vector2 (i : Instr) (f : VForm) (op : Ty → Word → Word → Word) (s : State) : Out :=
  vectorV i f f.ty false (fun t l => (op f.ty (t.pat f.ty f.a.toNat l) (t.pat f.ty f.b.toNat l), 0)) s

/-- A vector integer instruction of one source (R138). -/
def vector1 (i : Instr) (f : VForm) (op : Ty → Word → Word) (s : State) : Out :=
  vectorV i f f.ty false (fun t l => (op f.ty (t.pat f.ty f.a.toNat l), 0)) s

/-- A vector immediate twin of a two-source instruction (R111). -/
def vector2I (i : Instr) (f : IForm) (op : Ty → Word → Word → Word) (s : State) : Out :=
  vectorI i f false (fun t l => (op f.ty (t.pat f.ty f.a.toNat l) (immPat f), 0)) s

/-- VMOV (R139). -/
def execVmov (f : VForm) (s : State) : Out := vector1 (.vmov f) f (fun _ a => a) s

/-- VADD (R139). -/
def execVadd (f : VForm) (s : State) : Out := vector2 (.vadd f) f (opArith (· + ·) f.sat) s

/-- VADD's immediate twin (R111, R139). -/
def execVaddImm (f : IForm) (s : State) : Out := vector2I (.vaddImm f) f (opArith (· + ·) false) s

/-- VSUB (R139). -/
def execVsub (f : VForm) (s : State) : Out := vector2 (.vsub f) f (opArith (· - ·) f.sat) s

/-- VSUB's immediate twin (R111, R139). -/
def execVsubImm (f : IForm) (s : State) : Out := vector2I (.vsubImm f) f (opArith (· - ·) false) s

/-- VMUL (R139). -/
def execVmul (f : VForm) (s : State) : Out := vector2 (.vmul f) f (opArith (· * ·) f.sat) s

/-- VMUL's immediate twin (R111, R139). -/
def execVmulImm (f : IForm) (s : State) : Out := vector2I (.vmulImm f) f (opArith (· * ·) false) s

/-- VMULH (R139). -/
def execVmulh (f : VForm) (s : State) : Out := vector2 (.vmulh f) f opMulh s

/-- VMAD (R139): a × b + c, wrapped or saturated once. -/
def execVmad (f : VForm) (s : State) : Out :=
  vectorV (.vmad f) f f.ty false (fun t l =>
    (finish f.ty f.sat (intVal f.ty (t.pat f.ty f.a.toNat l) * intVal f.ty (t.pat f.ty f.b.toNat l) +
      intVal f.ty (t.pat f.ty f.c.toNat l)), 0)) s

/-- VDIV (R140). -/
def execVdiv (f : VForm) (s : State) : Out := vector2 (.vdiv f) f (opDiv f.sat) s

/-- VREM (R140). -/
def execVrem (f : VForm) (s : State) : Out := vector2 (.vrem f) f opRem s

/-- VAND (R139). -/
def execVand (f : VForm) (s : State) : Out := vector2 (.vand f) f (fun _ a b => a &&& b) s

/-- VAND's immediate twin (R111, R139). -/
def execVandImm (f : IForm) (s : State) : Out := vector2I (.vandImm f) f (fun _ a b => a &&& b) s

/-- VOR (R139). -/
def execVor (f : VForm) (s : State) : Out := vector2 (.vor f) f (fun _ a b => a ||| b) s

/-- VOR's immediate twin (R111, R139). -/
def execVorImm (f : IForm) (s : State) : Out := vector2I (.vorImm f) f (fun _ a b => a ||| b) s

/-- VXOR (R139). -/
def execVxor (f : VForm) (s : State) : Out := vector2 (.vxor f) f (fun _ a b => a ^^^ b) s

/-- VXOR's immediate twin (R111, R139). -/
def execVxorImm (f : IForm) (s : State) : Out := vector2I (.vxorImm f) f (fun _ a b => a ^^^ b) s

/-- VNOT (R139). -/
def execVnot (f : VForm) (s : State) : Out := vector1 (.vnot f) f (fun _ a => ~~~a) s

/-- VSHL (R141). -/
def execVshl (f : VForm) (s : State) : Out := vector2 (.vshl f) f opShl s

/-- VSHL's immediate twin (R111, R141). -/
def execVshlImm (f : IForm) (s : State) : Out := vector2I (.vshlImm f) f opShl s

/-- VSHR (R141). -/
def execVshr (f : VForm) (s : State) : Out := vector2 (.vshr f) f opShr s

/-- VSHR's immediate twin (R111, R141). -/
def execVshrImm (f : IForm) (s : State) : Out := vector2I (.vshrImm f) f opShr s

/-- VSAR (R141). -/
def execVsar (f : VForm) (s : State) : Out := vector2 (.vsar f) f opSar s

/-- VSAR's immediate twin (R111, R141). -/
def execVsarImm (f : IForm) (s : State) : Out := vector2I (.vsarImm f) f opSar s

/-- VROT (R141). -/
def execVrot (f : VForm) (s : State) : Out := vector2 (.vrot f) f opRot s

/-- VROT's immediate twin (R111, R141). -/
def execVrotImm (f : IForm) (s : State) : Out := vector2I (.vrotImm f) f opRot s

/-- VCMP (R144): the bits of the active lanes of a mask register. -/
def execVcmp (f : VForm) (s : State) : Out :=
  maskV (.vcmp f) f false (fun t l =>
    (intCond f.sub.toNat (intVal f.ty (t.pat f.ty f.a.toNat l)) (intVal f.ty (t.pat f.ty f.b.toNat l)), 0)) s

/-- VSEL (R145): the selector is mask register c, apart from the mask operand. -/
def execVsel (f : VForm) (s : State) : Out :=
  vectorV (.vsel f) f f.ty false (fun t l =>
    (if (t.mask f.c.toNat).getLsbD l then t.pat f.ty f.a.toNat l else t.pat f.ty f.b.toNat l, 0)) s

/-- VMIN (R139). -/
def execVmin (f : VForm) (s : State) : Out := vector2 (.vmin f) f opMin s

/-- VMIN's immediate twin (R111, R139). -/
def execVminImm (f : IForm) (s : State) : Out := vector2I (.vminImm f) f opMin s

/-- VMAX (R139). -/
def execVmax (f : VForm) (s : State) : Out := vector2 (.vmax f) f opMax s

/-- VMAX's immediate twin (R111, R139). -/
def execVmaxImm (f : IForm) (s : State) : Out := vector2I (.vmaxImm f) f opMax s

/-- VABS (R139). -/
def execVabs (f : VForm) (s : State) : Out := 
  vector1 (.vabs f) f (fun ty a => finish ty f.sat (intVal ty a).natAbs) s

/-- VNEG (R139). -/
def execVneg (f : VForm) (s : State) : Out := vector1 (.vneg f) f (fun ty a => finish ty f.sat (-(intVal ty a))) s

/-- VCLZ (R142). -/
def execVclz (f : VForm) (s : State) : Out := vector1 (.vclz f) f opClz s

/-- VPOP (R142). -/
def execVpop (f : VForm) (s : State) : Out := vector1 (.vpop f) f opPop s

/-- VBREV (R142). -/
def execVbrev (f : VForm) (s : State) : Out := vector1 (.vbrev f) f opBrev s

/-- VBFE (R143): the control word is one 32-bit register. -/
def execVbfe (f : VForm) (s : State) : Out :=
  vectorV (.vbfe f) f f.ty false (fun t l => (opBfe f.ty (t.pat f.ty f.a.toNat l) (t.elem f.b.toNat l), 0)) s

/-- VBFI (R143). -/
def execVbfi (f : VForm) (s : State) : Out :=
  vectorV (.vbfi f) f f.ty false (fun t l =>
    (opBfi f.ty (t.pat f.ty f.a.toNat l) (t.pat f.ty f.b.toNat l) (t.elem f.c.toNat l), 0)) s

/-- VLEA (R146). -/
def execVlea (f : VForm) (s : State) : Out := vector2 (.vlea f) f (opLea f.sub.toNat) s

/-- VLEA's immediate twin (R146). -/
def execVleaImm (f : IForm) (s : State) : Out := vector2I (.vleaImm f) f (opLea 0) s

/-- VIDX (R147): the lane's number. -/
def execVidx (f : VForm) (s : State) : Out := vectorV (.vidx f) f f.ty false (fun _ l => (BitVec.ofNat 64 l, 0)) s

/-- VSPLAT (R147): a scalar in every active lane. -/
def execVsplat (f : VForm) (s : State) : Out := vectorV (.vsplat f) f f.ty false (fun t _ => (t.spat f.ty f.a.toNat, 0)) s

/-- VEXT (R147): the element of lane S[b] when that lane lives, else 0. -/
def execVext (f : VForm) (s : State) : Out :=
  scalarV (.vext f) f (fun t =>
    let j := (t.scal f.b.toNat).toNat
    if j < t.lanes ∧ t.live.getLsbD j then t.pat f.ty f.a.toNat j else 0) s

/-- VCVTI (R148): from type S of the sub-operation to type D. -/
def execVcvti (f : VForm) (s : State) : Out :=
  let src := Ty.ofCode (f.sub.setWidth 4)
  vectorV (.vcvti f) f f.ty false (fun t l => (finish f.ty f.sat (intVal src (t.pat src f.a.toNat l)), 0)) s

/-- Mag of R149. -/
def spkMag (ty : Ty) (e : Nat) : Nat :=
  match ty with
  | .i8 | .rq8 => (BitVec.ofNat 8 e).toInt.natAbs
  | .i16 => (BitVec.ofNat 16 e).toInt.natAbs
  | _ => e % 2 ^ (ty.width - 1)

/-- The position of the largest of the numbers at some positions; ties to the lowest (R149). -/
def largestAt (g : Nat → Nat) : List Nat → Nat
  | [] => 0
  | [p] => p
  | p :: r => let q := largestAt g r; if g q > g p then q else p

/-- SPK24 (R149): the two elements of largest magnitude of each group of four, and their positions. -/
def execSpk24 (f : VForm) (s : State) : Out :=
  s.issue (.spk24 f) f.se f.fs fun s u t =>
    let w := f.ty.width
    let ws := (t.active f.m).flatMap fun l =>
      let lo := (t.elem f.a.toNat l).toNat
      let e := fun j => if w = 8 then lo / 2 ^ (8 * j) % 256
        else if j < 2 then lo / 2 ^ (16 * j) % 65536 else (t.elem f.b.toNat l).toNat / 2 ^ (16 * (j - 2)) % 65536
      let g := fun j => spkMag f.ty (e j)
      let p0 := largestAt g [0, 1, 2, 3]
      let p1 := largestAt g ([0, 1, 2, 3].filter fun j => j != p0)
      let a := min p0 p1
      let b := max p0 p1
      putElem f.d.toNat l (BitVec.ofNat 32 (e a + 2 ^ w * e b)) ++ putElem (f.d.toNat + 1) l (BitVec.ofNat 32 (a + 4 * b))
    s.emit u t f.se f.fs [.v f.d.toNat, .v (f.d.toNat + 1)] ws 0 false

/-- VMOVI, the twin of VMOV (R111). -/
def execVmovi (f : IForm) (s : State) : Out := vectorI (.vmovi f) f false (fun _ _ => (immPat f, 0)) s

end Sys2Proof.Machine
end

