-- ==== Sys2Proof/Machine/Dispatch.lean ====
section
/-!
DEFINITION. The dispatch from an instruction, or a step of the machine, to its meaning.
-/

namespace Sys2Proof.Machine

/-- The meaning of each instruction and of each step of the machine. -/
def exec (i : Instr) (s : State) : Host.Outcome State Fault Refusal :=
  match i with
  | .smov f => Sys2Proof.Machine.execSmov f s
  | .sadd f => Sys2Proof.Machine.execSadd f s
  | .ssub f => Sys2Proof.Machine.execSsub f s
  | .smul f => Sys2Proof.Machine.execSmul f s
  | .smulh f => Sys2Proof.Machine.execSmulh f s
  | .sdiv f => Sys2Proof.Machine.execSdiv f s
  | .srem f => Sys2Proof.Machine.execSrem f s
  | .sand f => Sys2Proof.Machine.execSand f s
  | .sor f => Sys2Proof.Machine.execSor f s
  | .sxor f => Sys2Proof.Machine.execSxor f s
  | .snot f => Sys2Proof.Machine.execSnot f s
  | .sshl f => Sys2Proof.Machine.execSshl f s
  | .sshr f => Sys2Proof.Machine.execSshr f s
  | .ssar f => Sys2Proof.Machine.execSsar f s
  | .srot f => Sys2Proof.Machine.execSrot f s
  | .scmp f => Sys2Proof.Machine.execScmp f s
  | .ssel f => Sys2Proof.Machine.execSsel f s
  | .smin f => Sys2Proof.Machine.execSmin f s
  | .smax f => Sys2Proof.Machine.execSmax f s
  | .sclz f => Sys2Proof.Machine.execSclz f s
  | .spop f => Sys2Proof.Machine.execSpop f s
  | .slea f => Sys2Proof.Machine.execSlea f s
  | .smovi f => Sys2Proof.Machine.execSmovi f s
  | .saddImm f => Sys2Proof.Machine.execSaddImm f s
  | .ssubImm f => Sys2Proof.Machine.execSsubImm f s
  | .smulImm f => Sys2Proof.Machine.execSmulImm f s
  | .sandImm f => Sys2Proof.Machine.execSandImm f s
  | .sorImm f => Sys2Proof.Machine.execSorImm f s
  | .sxorImm f => Sys2Proof.Machine.execSxorImm f s
  | .sshlImm f => Sys2Proof.Machine.execSshlImm f s
  | .sshrImm f => Sys2Proof.Machine.execSshrImm f s
  | .ssarImm f => Sys2Proof.Machine.execSsarImm f s
  | .srotImm f => Sys2Proof.Machine.execSrotImm f s
  | .sminImm f => Sys2Proof.Machine.execSminImm f s
  | .smaxImm f => Sys2Proof.Machine.execSmaxImm f s
  | .sleaImm f => Sys2Proof.Machine.execSleaImm f s
  | .vmov f => Sys2Proof.Machine.execVmov f s
  | .vadd f => Sys2Proof.Machine.execVadd f s
  | .vsub f => Sys2Proof.Machine.execVsub f s
  | .vmul f => Sys2Proof.Machine.execVmul f s
  | .vmulh f => Sys2Proof.Machine.execVmulh f s
  | .vmad f => Sys2Proof.Machine.execVmad f s
  | .vdiv f => Sys2Proof.Machine.execVdiv f s
  | .vrem f => Sys2Proof.Machine.execVrem f s
  | .vand f => Sys2Proof.Machine.execVand f s
  | .vor f => Sys2Proof.Machine.execVor f s
  | .vxor f => Sys2Proof.Machine.execVxor f s
  | .vnot f => Sys2Proof.Machine.execVnot f s
  | .vshl f => Sys2Proof.Machine.execVshl f s
  | .vshr f => Sys2Proof.Machine.execVshr f s
  | .vsar f => Sys2Proof.Machine.execVsar f s
  | .vrot f => Sys2Proof.Machine.execVrot f s
  | .vcmp f => Sys2Proof.Machine.execVcmp f s
  | .vsel f => Sys2Proof.Machine.execVsel f s
  | .vmin f => Sys2Proof.Machine.execVmin f s
  | .vmax f => Sys2Proof.Machine.execVmax f s
  | .vabs f => Sys2Proof.Machine.execVabs f s
  | .vneg f => Sys2Proof.Machine.execVneg f s
  | .vclz f => Sys2Proof.Machine.execVclz f s
  | .vpop f => Sys2Proof.Machine.execVpop f s
  | .vbrev f => Sys2Proof.Machine.execVbrev f s
  | .vbfe f => Sys2Proof.Machine.execVbfe f s
  | .vbfi f => Sys2Proof.Machine.execVbfi f s
  | .vlea f => Sys2Proof.Machine.execVlea f s
  | .vidx f => Sys2Proof.Machine.execVidx f s
  | .vsplat f => Sys2Proof.Machine.execVsplat f s
  | .vext f => Sys2Proof.Machine.execVext f s
  | .vcvti f => Sys2Proof.Machine.execVcvti f s
  | .spk24 f => Sys2Proof.Machine.execSpk24 f s
  | .vmovi f => Sys2Proof.Machine.execVmovi f s
  | .vaddImm f => Sys2Proof.Machine.execVaddImm f s
  | .vsubImm f => Sys2Proof.Machine.execVsubImm f s
  | .vmulImm f => Sys2Proof.Machine.execVmulImm f s
  | .vandImm f => Sys2Proof.Machine.execVandImm f s
  | .vorImm f => Sys2Proof.Machine.execVorImm f s
  | .vxorImm f => Sys2Proof.Machine.execVxorImm f s
  | .vshlImm f => Sys2Proof.Machine.execVshlImm f s
  | .vshrImm f => Sys2Proof.Machine.execVshrImm f s
  | .vsarImm f => Sys2Proof.Machine.execVsarImm f s
  | .vrotImm f => Sys2Proof.Machine.execVrotImm f s
  | .vminImm f => Sys2Proof.Machine.execVminImm f s
  | .vmaxImm f => Sys2Proof.Machine.execVmaxImm f s
  | .vleaImm f => Sys2Proof.Machine.execVleaImm f s
  | .fadd f => Sys2Proof.Machine.execFadd f s
  | .fsub f => Sys2Proof.Machine.execFsub f s
  | .fmul f => Sys2Proof.Machine.execFmul f s
  | .ffma f => Sys2Proof.Machine.execFfma f s
  | .fmin f => Sys2Proof.Machine.execFmin f s
  | .fmax f => Sys2Proof.Machine.execFmax f s
  | .fmaxi f => Sys2Proof.Machine.execFmaxi f s
  | .fmini f => Sys2Proof.Machine.execFmini f s
  | .fabs f => Sys2Proof.Machine.execFabs f s
  | .fneg f => Sys2Proof.Machine.execFneg f s
  | .fcmp f => Sys2Proof.Machine.execFcmp f s
  | .fclass f => Sys2Proof.Machine.execFclass f s
  | .fdiv f => Sys2Proof.Machine.execFdiv f s
  | .fsqrt f => Sys2Proof.Machine.execFsqrt f s
  | .frnd f => Sys2Proof.Machine.execFrnd f s
  | .fscl f => Sys2Proof.Machine.execFscl f s
  | .fdot2 f => Sys2Proof.Machine.execFdot2 f s
  | .fcvt f => Sys2Proof.Machine.execFcvt f s
  | .fcvti f => Sys2Proof.Machine.execFcvti f s
  | .icvtf f => Sys2Proof.Machine.execIcvtf f s
  | .faddImm f => Sys2Proof.Machine.execFaddImm f s
  | .fsubImm f => Sys2Proof.Machine.execFsubImm f s
  | .fmulImm f => Sys2Proof.Machine.execFmulImm f s
  | .fminImm f => Sys2Proof.Machine.execFminImm f s
  | .fmaxImm f => Sys2Proof.Machine.execFmaxImm f s
  | .qsin f => Sys2Proof.Machine.execQsin f s
  | .qcos f => Sys2Proof.Machine.execQcos f s
  | .qsc f => Sys2Proof.Machine.execQsc f s
  | .qsinp f => Sys2Proof.Machine.execQsinp f s
  | .qcosp f => Sys2Proof.Machine.execQcosp f s
  | .qscp f => Sys2Proof.Machine.execQscp f s
  | .qex2 f => Sys2Proof.Machine.execQex2 f s
  | .qlg2 f => Sys2Proof.Machine.execQlg2 f s
  | .qtnh f => Sys2Proof.Machine.execQtnh f s
  | .qrcp f => Sys2Proof.Machine.execQrcp f s
  | .qrsq f => Sys2Proof.Machine.execQrsq f s
  | .ncvt f => Sys2Proof.Machine.execNcvt f s
  | .rnenc f => Sys2Proof.Machine.execRnenc f s
  | .rndec f => Sys2Proof.Machine.execRndec f s
  | .rnadd f => Sys2Proof.Machine.execRnadd f s
  | .rnmul f => Sys2Proof.Machine.execRnmul f s
  | .rng f => Sys2Proof.Machine.execRng f s
  | .ld f => Sys2Proof.Machine.execLd f s
  | .st f => Sys2Proof.Machine.execSt f s
  | .lds f => Sys2Proof.Machine.execLds f s
  | .sts f => Sys2Proof.Machine.execSts f s
  | .ldc f => Sys2Proof.Machine.execLdc f s
  | .ldsp f => Sys2Proof.Machine.execLdsp f s
  | .stsp f => Sys2Proof.Machine.execStsp f s
  | .pref f => Sys2Proof.Machine.execPref f s
  | .clnv f => Sys2Proof.Machine.execClnv f s
  | .atomAdd f => Sys2Proof.Machine.execAtomAdd f s
  | .atomSub f => Sys2Proof.Machine.execAtomSub f s
  | .atomMin f => Sys2Proof.Machine.execAtomMin f s
  | .atomMax f => Sys2Proof.Machine.execAtomMax f s
  | .atomAnd f => Sys2Proof.Machine.execAtomAnd f s
  | .atomOr f => Sys2Proof.Machine.execAtomOr f s
  | .atomXor f => Sys2Proof.Machine.execAtomXor f s
  | .atomXchg f => Sys2Proof.Machine.execAtomXchg f s
  | .atomCas f => Sys2Proof.Machine.execAtomCas f s
  | .atomFadd f => Sys2Proof.Machine.execAtomFadd f s
  | .atomMaxi f => Sys2Proof.Machine.execAtomMaxi f s
  | .atomMini f => Sys2Proof.Machine.execAtomMini f s
  | .atomrAdd f => Sys2Proof.Machine.execAtomrAdd f s
  | .atomfAdd f => Sys2Proof.Machine.execAtomfAdd f s
  | .atomfSub f => Sys2Proof.Machine.execAtomfSub f s
  | .atomfMin f => Sys2Proof.Machine.execAtomfMin f s
  | .atomfMax f => Sys2Proof.Machine.execAtomfMax f s
  | .atomfAnd f => Sys2Proof.Machine.execAtomfAnd f s
  | .atomfOr f => Sys2Proof.Machine.execAtomfOr f s
  | .atomfXor f => Sys2Proof.Machine.execAtomfXor f s
  | .atomfXchg f => Sys2Proof.Machine.execAtomfXchg f s
  | .atomfCas f => Sys2Proof.Machine.execAtomfCas f s
  | .atomfFadd f => Sys2Proof.Machine.execAtomfFadd f s
  | .atomfMaxi f => Sys2Proof.Machine.execAtomfMaxi f s
  | .atomfMini f => Sys2Proof.Machine.execAtomfMini f s
  | .fence f => Sys2Proof.Machine.execFence f s
  | .fences f => Sys2Proof.Machine.execFences f s
  | .fencex f => Sys2Proof.Machine.execFencex f s
  | .xlane f => Sys2Proof.Machine.execXlane f s
  | .xshuf f => Sys2Proof.Machine.execXshuf f s
  | .xred f => Sys2Proof.Machine.execXred f s
  | .xscan f => Sys2Proof.Machine.execXscan f s
  | .xcol f => Sys2Proof.Machine.execXcol f s
  | .xvote f => Sys2Proof.Machine.execXvote f s
  | .gen f => Sys2Proof.Machine.execGen f s
  | .yield f => Sys2Proof.Machine.execYield f s
  | .gdone f => Sys2Proof.Machine.execGdone f s
  | .gcon f => Sys2Proof.Machine.execGcon f s
  | .gfr f => Sys2Proof.Machine.execGfr f s
  | .gfrInfo f => Sys2Proof.Machine.execGfrInfo f s
  | .gbar f => Sys2Proof.Machine.execGbar f s
  | .gpost f => Sys2Proof.Machine.execGpost f s
  | .gpostWd f => Sys2Proof.Machine.execGpostWd f s
  | .gqry f => Sys2Proof.Machine.execGqry f s
  | .ldgAdd f => Sys2Proof.Machine.execLdgAdd f s
  | .ldgMin f => Sys2Proof.Machine.execLdgMin f s
  | .ldgMax f => Sys2Proof.Machine.execLdgMax f s
  | .ldgAnd f => Sys2Proof.Machine.execLdgAnd f s
  | .ldgOr f => Sys2Proof.Machine.execLdgOr f s
  | .ldgXor f => Sys2Proof.Machine.execLdgXor f s
  | .ldgFadd f => Sys2Proof.Machine.execLdgFadd f s
  | .ldgFmin f => Sys2Proof.Machine.execLdgFmin f s
  | .ldgFmax f => Sys2Proof.Machine.execLdgFmax f s
  | .ldgMaxi f => Sys2Proof.Machine.execLdgMaxi f s
  | .ldgMini f => Sys2Proof.Machine.execLdgMini f s
  | .bra f => Sys2Proof.Machine.execBra f s
  | .brac f => Sys2Proof.Machine.execBrac f s
  | .brav f => Sys2Proof.Machine.execBrav f s
  | .call f => Sys2Proof.Machine.execCall f s
  | .callReg f => Sys2Proof.Machine.execCallReg f s
  | .ret f => Sys2Proof.Machine.execRet f s
  | .exit f => Sys2Proof.Machine.execExit f s
  | .forkCopy f => Sys2Proof.Machine.execForkCopy f s
  | .forkMatrix f => Sys2Proof.Machine.execForkMatrix f s
  | .forkReg f => Sys2Proof.Machine.execForkReg f s
  | .waitk f => Sys2Proof.Machine.execWaitk f s
  | .setk f => Sys2Proof.Machine.execSetk f s
  | .clrk f => Sys2Proof.Machine.execClrk f s
  | .iter f => Sys2Proof.Machine.execIter f s
  | .rdv f => Sys2Proof.Machine.execRdv f s
  | .lnch f => Sys2Proof.Machine.execLnch f s
  | .cntw f => Sys2Proof.Machine.execCntw f s
  | .cntwQuery f => Sys2Proof.Machine.execCntwQuery f s
  | .cancel f => Sys2Proof.Machine.execCancel f s
  | .cpy f => Sys2Proof.Machine.execCpy f s
  | .cpym f => Sys2Proof.Machine.execCpym f s
  | .cpyf f => Sys2Proof.Machine.execCpyf f s
  | .cpyg f => Sys2Proof.Machine.execCpyg f s
  | .cpys f => Sys2Proof.Machine.execCpys f s
  | .csig f => Sys2Proof.Machine.execCsig f s
  | .cwait f => Sys2Proof.Machine.execCwait f s
  | .cfence f => Sys2Proof.Machine.execCfence f s
  | .cmx f => Sys2Proof.Machine.execCmx f s
  | .mldn f => Sys2Proof.Machine.execMldn f s
  | .mldw f => Sys2Proof.Machine.execMldw f s
  | .mma f => Sys2Proof.Machine.execMma f s
  | .mmas f => Sys2Proof.Machine.execMmas f s
  | .mclr f => Sys2Proof.Machine.execMclr f s
  | .mdrn f => Sys2Proof.Machine.execMdrn f s
  | .msig f => Sys2Proof.Machine.execMsig f s
  | .trap f => Sys2Proof.Machine.execTrap f s
  | .csrr f => Sys2Proof.Machine.execCsrr f s
  | .csrw f => Sys2Proof.Machine.execCsrw f s
  | .csrwFstat f => Sys2Proof.Machine.execCsrwFstat f s
  | .csrwFctl f => Sys2Proof.Machine.execCsrwFctl f s
  | .csrwElogInfo f => Sys2Proof.Machine.execCsrwElogInfo f s
  | .csrwTrapCause f => Sys2Proof.Machine.execCsrwTrapCause f s
  | .qfeat f => Sys2Proof.Machine.execQfeat f s
  | .qphys f => Sys2Proof.Machine.execQphys f s
  | .mapft f => Sys2Proof.Machine.execMapft f s
  | .catld f => Sys2Proof.Machine.execCatld f s
  | .catsetAccess f => Sys2Proof.Machine.execCatsetAccess f s
  | .catsetBound f => Sys2Proof.Machine.execCatsetBound f s
  | .catsetHwm f => Sys2Proof.Machine.execCatsetHwm f s
  | .catsetPg f => Sys2Proof.Machine.execCatsetPg f s
  | .catsnap f => Sys2Proof.Machine.execCatsnap f s
  | .catsnapRel f => Sys2Proof.Machine.execCatsnapRel f s
  | .ctxsv f => Sys2Proof.Machine.execCtxsv f s
  | .ctxld f => Sys2Proof.Machine.execCtxld f s
  | .wfi f => Sys2Proof.Machine.execWfi f s
  | .gsw => Sys2Proof.Machine.execGsw s
  | .kill => Sys2Proof.Machine.execKill s
  | .bar => Sys2Proof.Machine.execBar s
  | .nop => Sys2Proof.Machine.execNop s
  | .nopSet0 => Sys2Proof.Machine.execNopSet0 s
  | .nopSet1 => Sys2Proof.Machine.execNopSet1 s
  | .yld => Sys2Proof.Machine.execYld s
  | .cend => Sys2Proof.Machine.execCend s
  | .mend => Sys2Proof.Machine.execMend s
  | .rte => Sys2Proof.Machine.execRte s
  | .sfdrn => Sys2Proof.Machine.execSfdrn s
  | .clauseStart => Sys2Proof.Machine.execClauseStart s
  | .writePerformed => Sys2Proof.Machine.execWritePerformed s
  | .sfQueueWrite => Sys2Proof.Machine.execSfQueueWrite s
  | .stallThreshold => Sys2Proof.Machine.execStallThreshold s
  | .teamExchange => Sys2Proof.Machine.execTeamExchange s
  | .timeSliceExpiry => Sys2Proof.Machine.execTimeSliceExpiry s
  | .teamRetire => Sys2Proof.Machine.execTeamRetire s
  | .workgroupRetire => Sys2Proof.Machine.execWorkgroupRetire s
  | .counterDecrement => Sys2Proof.Machine.execCounterDecrement s
  | .unitBegin => Sys2Proof.Machine.execUnitBegin s
  | .recordLaunch => Sys2Proof.Machine.execRecordLaunch s
  | .recordNewGraph => Sys2Proof.Machine.execRecordNewGraph s
  | .recordNewPhase => Sys2Proof.Machine.execRecordNewPhase s
  | .recordQuery => Sys2Proof.Machine.execRecordQuery s
  | .cancelRequest => Sys2Proof.Machine.execCancelRequest s
  | .cnclDelivery => Sys2Proof.Machine.execCnclDelivery s
  | .curatorBind => Sys2Proof.Machine.execCuratorBind s
  | .dispatch => Sys2Proof.Machine.execDispatch s
  | .preempt => Sys2Proof.Machine.execPreempt s
  | .trapEntry => Sys2Proof.Machine.execTrapEntry s
  | .contextSave => Sys2Proof.Machine.execContextSave s
  | .restore => Sys2Proof.Machine.execRestore s
  | .barOpen => Sys2Proof.Machine.execBarOpen s
  | .gpostTakesEffect => Sys2Proof.Machine.execGpostTakesEffect s
  | .gbarComplete => Sys2Proof.Machine.execGbarComplete s
  | .xcolComplete => Sys2Proof.Machine.execXcolComplete s
  | .waitkComplete => Sys2Proof.Machine.execWaitkComplete s
  | .wfiWake => Sys2Proof.Machine.execWfiWake s
  | .rdvComplete => Sys2Proof.Machine.execRdvComplete s
  | .pendingForkStart => Sys2Proof.Machine.execPendingForkStart s
  | .iterAnswer => Sys2Proof.Machine.execIterAnswer s
  | .streamEnd => Sys2Proof.Machine.execStreamEnd s
  | .fifoBytesLand => Sys2Proof.Machine.execFifoBytesLand s
  | .followOnTrigger => Sys2Proof.Machine.execFollowOnTrigger s
  | .followOnExecute => Sys2Proof.Machine.execFollowOnExecute s
  | .cpymRequestArrival => Sys2Proof.Machine.execCpymRequestArrival s
  | .cpymSectorRead => Sys2Proof.Machine.execCpymSectorRead s
  | .mmIssue => Sys2Proof.Machine.execMmIssue s
  | .mmPerform => Sys2Proof.Machine.execMmPerform s
  | .mmExport => Sys2Proof.Machine.execMmExport s
  | .mmTransfer => Sys2Proof.Machine.execMmTransfer s
  | .mmApply => Sys2Proof.Machine.execMmApply s
  | .fenceComplete => Sys2Proof.Machine.execFenceComplete s
  | .speculationConflict => Sys2Proof.Machine.execSpeculationConflict s
  | .registrarRelease => Sys2Proof.Machine.execRegistrarRelease s
  | .loanLend => Sys2Proof.Machine.execLoanLend s
  | .loanReclaimComplete => Sys2Proof.Machine.execLoanReclaimComplete s
  | .farFirstTouchMap => Sys2Proof.Machine.execFarFirstTouchMap s
  | .copyOnWrite => Sys2Proof.Machine.execCopyOnWrite s
  | .pageMigration => Sys2Proof.Machine.execPageMigration s
  | .pageDuplication => Sys2Proof.Machine.execPageDuplication s
  | .liveMigration => Sys2Proof.Machine.execLiveMigration s
  | .poolRefill => Sys2Proof.Machine.execPoolRefill s
  | .readPacket => Sys2Proof.Machine.execReadPacket s
  | .writePacket => Sys2Proof.Machine.execWritePacket s
  | .atomicPacket => Sys2Proof.Machine.execAtomicPacket s
  | .scrubGranule => Sys2Proof.Machine.execScrubGranule s
  | .errorRecordMergeFlush => Sys2Proof.Machine.execErrorRecordMergeFlush s
  | .registerUncorrectable => Sys2Proof.Machine.execRegisterUncorrectable s
  | .dramDieRemoval => Sys2Proof.Machine.execDramDieRemoval s
  | .coreFailure => Sys2Proof.Machine.execCoreFailure s
  | .dmaWrite => Sys2Proof.Machine.execDmaWrite s
  | .dmaRead => Sys2Proof.Machine.execDmaRead s
  | .cxlPoisonReport => Sys2Proof.Machine.execCxlPoisonReport s
  | .cxlHotRemove => Sys2Proof.Machine.execCxlHotRemove s
  | .scaleoutFrameReceive => Sys2Proof.Machine.execScaleoutFrameReceive s
  | .portFailure => Sys2Proof.Machine.execPortFailure s
  | .deliveryTimeout => Sys2Proof.Machine.execDeliveryTimeout s
  | .startJob => Sys2Proof.Machine.execStartJob s
  | .mbCancel => Sys2Proof.Machine.execMbCancel s
  | .mbStatus => Sys2Proof.Machine.execMbStatus s
  | .createObject => Sys2Proof.Machine.execCreateObject s
  | .deleteObject => Sys2Proof.Machine.execDeleteObject s
  | .mailboxOverrun => Sys2Proof.Machine.execMailboxOverrun s
  | .setPartitions => Sys2Proof.Machine.execSetPartitions s
  | .setInstallationEntry => Sys2Proof.Machine.execSetInstallationEntry s
  | .createContext => Sys2Proof.Machine.execCreateContext s
  | .destroyContext => Sys2Proof.Machine.execDestroyContext s
  | .attest => Sys2Proof.Machine.execAttest s
  | .stageFirmware => Sys2Proof.Machine.execStageFirmware s
  | .setPowerLimit => Sys2Proof.Machine.execSetPowerLimit s
  | .hostRegisterWrite => Sys2Proof.Machine.execHostRegisterWrite s
  | .powerGood => Sys2Proof.Machine.execPowerGood s
  | .stage0Complete => Sys2Proof.Machine.execStage0Complete s
  | .stage1Complete => Sys2Proof.Machine.execStage1Complete s
  | .criticalTemperature => Sys2Proof.Machine.execCriticalTemperature s
  | .deviceReset => Sys2Proof.Machine.execDeviceReset s
  | .matrixCommandComplete => Sys2Proof.Machine.execMatrixCommandComplete s
  | .powerOrThermalLimiting => Sys2Proof.Machine.execPowerOrThermalLimiting s

end Sys2Proof.Machine
end

