-- ==== Sys2Proof/Machine/Step.lean ====
section
/-!
DEFINITION. One step of the machine: a turn is taken; an agent issues the word at its slot (fetched, decoded, executed), or a step of the
machine that no word encodes is executed.
-/

namespace Sys2Proof.Machine

/-- One step (R97, R103, R113): what comes about at once, and then a turn. (log 1: DESIGN CHOICE, safe.) (log 34: DESIGN CHOICE, safe.) -/
def step (s : State) : Host.Outcome State Fault Refusal :=
  let s1 := s.tidy.tickOver
  match s.turn with
  | .ev i arg => if i.isStep then exec i { s1 with arg := arg } else .fault .notAStep
  | .issue a =>
    match s1.fetchFor a with
    | .idle => .next s1
    | .fail s2 => .next s2
    | .word w =>
      match decodeWord w with
      | some i => exec i { s1 with cur := a }
      | none => .next (s1.badWord a)

/-- The state in which the next step fetches and runs the instruction word given (log 14). (log 14: DESIGN CHOICE, safe.) -/
def State.withFetchWord (s : State) (nbits w : Nat) : State := s.placeWord (BitVec.ofNat 64 (w % 2 ^ nbits))

end Sys2Proof.Machine
end

