-- ==== Sys2Proof/Safety.lean ====
section
/-!
DEFINITION. What the statements say in common: the states in which an agent is about to issue an instruction that passes its checks (R77,
R97, R113), the stored bytes and their canonical form, and what a read of one byte gives.
-/

namespace Sys2Proof.Machine

/-- Every memory of the machine has the canonical form: the coherent memory, DRAM, each workgroup's scratchpad, and the scratchpads that
contexts which have moved to another device took with them, with the bytes of their frames (R384). -/
structure State.Canonical (s : State) : Prop where
  mem : s.mem.wf = true
  dram : s.dram.wf = true
  spads : ∀ e ∈ s.wgs, e.2.spad.wf = true
  moved : ∀ m ∈ s.elsewhere, m.mem.wf = true ∧ ∀ e ∈ m.wgs, e.2.spad.wf = true

/-- The stored bytes: the coherent memory, DRAM, each workgroup's scratchpad, and what contexts that have moved to another device took
with them. -/
def State.store (s : State) : Memory × Memory × List (Nat × Memory) × List Migrated :=
  (s.mem, s.dram, s.wgs.map fun e => (e.1, e.2.spad), s.elsewhere)

/-- The byte of the coherent memory at a physical key. -/
def State.byteAt (s : State) (key : Nat) : Byte := Store.get (w := 8) s.mem key

/-- The byte of a workgroup's scratchpad at an offset. -/
def State.spadByte (s : State) (w off : Nat) : Byte := match s.wg? w with | some g => Store.get (w := 8) g.spad off | none => 0

/-! ### An instruction that may issue -/

/-- Team u runs a clause, stands at instruction i, and i passes its checks (R113 steps 1 to 3, R15, R97, R108, R348): the speculative window,
if one is open, allows it (R327), no pass of the team waits for the vector port (R227, log 81), and no register it reads has a write pending (R77). -/
structure State.Ready (s : State) (u : Nat) (t : Team) (i : Instr) (se fs : Bool) : Prop where
  cur : s.cur = .team u
  team : s.team? u = some t
  started : t.started = true
  admits : t.admits i se fs = true
  window : ∀ sp, t.spec = some sp → sp.conflict = false ∧ windowAllows i = true ∧ (windowStore i = true → sp.stores < 16)
  port : s.portHeld u = false
  operands : ∀ x ∈ i.rule.uses, ∀ d, useSource x = some d → s.pendingDest u d = false

/-- An engine stream of team u runs a clause, stands at instruction i, and i passes its checks (R95, R103, R108, R278). -/
structure State.ReadyEng (s : State) (u : Nat) (mtx : Bool) (t : Team) (x : Stream) (i : Instr) (se fs : Bool) : Prop where
  cur : s.cur = if mtx then .matrix u else .copy u
  team : s.team? u = some t
  stream : t.stream mtx = some x
  started : x.started = true
  running : x.halted = false ∧ x.stopped = false
  admits : x.admits t i mtx se fs = true

/-- What of a team an issuing instruction leaves unchanged when its clause goes on or ends without a transfer of control (R93, R97, R116): all
but the program counter, the slot, the clock of its wait, and m0, to which the block-entry merge may add lanes. -/
structure Team.SameButPc (t t' : Team) : Prop where
  sregs : t'.sregs = t.sregs
  vregs : t'.vregs = t.vregs
  masks : t'.masks = t.masks ∨ ∃ more, t'.masks = Store.set t.masks 0 (t.mask 0 ||| more)
  frontier : t'.live = t.live ∧ t'.ra = t.ra
  shape : t'.wg = t.wg ∧ t'.twg = t.twg ∧ t'.lanes = t.lanes ∧ t'.nv = t.nv ∧ t'.ns = t.ns
  status : t'.fstat = t.fstat ∧ t'.fctl = t.fctl ∧ t'.pstat = t.pstat ∧ t'.holds = t.holds ∧ t'.rngC = t.rngC
  errors : t'.elogAddr = t.elogAddr ∧ t'.elogInfo = t.elogInfo ∧ t'.pendErr = t.pendErr ∧ t'.pendGabs = t.pendGabs ∧ t'.pendFpen = t.pendFpen
  traps : t'.trapCause = t.trapCause ∧ t'.trapAddr = t.trapAddr ∧ t'.trapRpc = t.trapRpc ∧ t'.trapArg = t.trapArg ∧
    t'.trapLaddr = t.trapLaddr ∧ t'.bank = t.bank ∧ t'.issueTrap = t.issueTrap
  mode : t'.st = t.st ∧ t'.wait = t.wait ∧ t'.hwait = t.hwait
  loops : t'.vit = t.vit ∧ t'.spec = t.spec ∧ t'.resv = t.resv ∧ t'.xcount = t.xcount ∧ t'.xposts = t.xposts
  streams : t'.forks = t.forks ∧ t'.copy = t.copy ∧ t'.mtx = t.mtx

/-- Nothing of the machine changes but team u, the datapath it holds, its outstanding operations and the counters that order them. -/
structure State.SameBut (s s' : State) (u : Nat) : Prop where
  store : s'.store = s.store
  others : ∀ v, v ≠ u → s'.team? v = s.team? v
  wgs : s'.wgs = s.wgs
  units : s'.units = s.units
  contexts : s'.contexts = s.contexts
  bufs : s'.bufs = s.bufs
  poison : s'.poison = s.poison
  intake : s'.intake = s.intake
  device : s'.stage = s.stage ∧ s'.remap = s.remap ∧ s'.devMb = s.devMb ∧ s'.hostMem = s.hostMem ∧ s'.egress = s.egress

/-- Instruction i issues: a next state, in which one operation of team u has been added with the destinations, the register writes, the raised
flags and the selected flag given, and all else is as before but for the program counter (R77, R99, R150). -/
def Issues (s : State) (u : Nat) (t : Team) (i : Instr) (se fs : Bool) (dests : List Dest) (writes : List RegWr) (raises : Sticky) : Prop :=
  ∃ s' t' o, exec i s = .next s' ∧ s'.team? u = some t' ∧ t.SameButPc t' ∧ s.SameBut s' u ∧ s'.ops = s.ops ++ [o] ∧
    o.agent = .team u ∧ o.team = u ∧ o.seq = s.seq ∧ o.kind = .alu ∧ o.acc = [] ∧ o.later = [] ∧ o.flag = selFlag t.hdr se fs ∧
    o.dests = dests ∧ o.writes = writes ∧ o.raises = raises

/-! ### Values as integers, in the words of the spec -/

/-- A w-bit pattern read as its type (R137): as signed for i types and as unsigned for n types. -/
def readAs (ty : Ty) (p : Nat) : Int := if ty.isSigned ∧ 2 ^ (ty.width - 1) ≤ p then (p : Int) - 2 ^ ty.width else p

/-- The w low bits of S[n], as a number. -/
def Team.sbits (t : Team) (ty : Ty) (n : Nat) : Nat := (t.scal n).toNat % 2 ^ ty.width

/-- The w-bit pattern in lane l of register n, as a number: of the pair for a 64-bit type (R15, R137). -/
def Team.vbits (t : Team) (ty : Ty) (n l : Nat) : Nat :=
  if ty.width = 64 then (t.elem (n + 1) l).toNat * 2 ^ 32 + (t.elem n l).toNat else (t.elem n l).toNat % 2 ^ ty.width

/-- SVal (R137). -/
def Team.sval (t : Team) (ty : Ty) (n : Nat) : Int := readAs ty (t.sbits ty n)

/-- Val (R137). -/
def Team.val (t : Team) (ty : Ty) (n l : Nat) : Int := readAs ty (t.vbits ty n l)

/-- The number that a w-bit pattern of y extends to when it is written (R73, R74): sign-extended for i types, zero-extended for n types. -/
def wrapTo (ty : Ty) (y : Int) : Int := if ty.isSigned then Int.bmod y (2 ^ ty.width) else y % 2 ^ ty.width

/-- SPut (R137): the register write that puts the w-bit pattern of y in S[n], extended as R74 states. -/
def sput (ty : Ty) (n : Nat) (y : Int) : RegWr := .s n (BitVec.ofInt 64 (wrapTo ty y))

/-- Put (R137): the register writes that put the w-bit pattern of y in lane l of register n, extended as R73 states; for w = 64, in the pair. -/
def vput (ty : Ty) (n l : Nat) (y : Int) : List RegWr :=
  if ty.width = 64 then
    [.v n l (BitVec.allOnes 32) (BitVec.ofInt 32 y), .v (n + 1) l (BitVec.allOnes 32) (BitVec.ofInt 32 (y / 2 ^ 32))]
  else [.v n l (BitVec.allOnes 32) (BitVec.ofInt 32 (wrapTo ty y))]

/-- The least and the greatest value of an integer type (R26). -/
def limits (ty : Ty) : Int × Int :=
  if ty.isSigned then (-(2 ^ (ty.width - 1)), 2 ^ (ty.width - 1) - 1) else (0, 2 ^ ty.width - 1)

/-- SatInt under .sat, the exact value otherwise (R26, R138). -/
def satIf (sat : Bool) (ty : Ty) (y : Int) : Int :=
  if sat then (if y < (limits ty).1 then (limits ty).1 else if (limits ty).2 < y then (limits ty).2 else y) else y

/-- The w-bit pattern of an integer immediate (R16): class 0 extends the sign, class 1 zeros, class 3 gives the upper half. -/
def immBits (f : IForm) : Nat :=
  ((if f.cls = 0 then f.imm.toInt else if f.cls = 1 then (f.imm.toNat : Int) else f.imm.toNat * 2 ^ 32) % 2 ^ f.ty.width).toNat

/-- A scalar instruction that may issue writes SPut(d, T, y) and does nothing else (R138). -/
def ScalarResult (i : Instr) (f : VForm) (y : Team → Int) : Prop :=
  ∀ s u t, s.Ready u t i f.se f.fs → Issues s u t i f.se f.fs [.s f.d.toNat] [sput f.ty f.d.toNat (y t)] 0

/-- The same of an immediate twin (R111). -/
def ScalarTwin (i : Instr) (f : IForm) (y : Team → Int) : Prop :=
  ∀ s u t, s.Ready u t i false false → Issues s u t i false false [.s f.d.toNat] [sput f.ty f.d.toNat (y t)] 0

/-- A vector instruction that may issue writes Put(d, l, T, y) for each active lane l and does nothing else (R138). -/
def VectorResult (i : Instr) (f : VForm) (y : Team → Nat → Int) : Prop :=
  ∀ s u t, s.Ready u t i f.se f.fs →
    Issues s u t i f.se f.fs (destsV f.ty f.d.toNat) ((t.active f.m).flatMap fun l => vput f.ty f.d.toNat l (y t l)) 0

/-- The same of an immediate twin: every lane of m0 is active (R18, R111). -/
def VectorTwin (i : Instr) (f : IForm) (y : Team → Nat → Int) : Prop :=
  ∀ s u t, s.Ready u t i false false →
    Issues s u t i false false (destsV f.ty f.d.toNat) ((t.active 0).flatMap fun l => vput f.ty f.d.toNat l (y t l)) 0

/-! ### The integer operations that the spec gives by tables and pseudocode -/

/-- DIV and DIV.sat (R140). -/
def divTable (ty : Ty) (sat : Bool) (a b : Int) : Int :=
  if b = 0 then
    (if ty.isSigned then (if sat then (if 0 ≤ a then (limits ty).2 else (limits ty).1) else -1) else 2 ^ ty.width - 1)
  else if ty.isSigned ∧ a = (limits ty).1 ∧ b = -1 then (if sat then (limits ty).2 else (limits ty).1)
  else Int.tdiv a b

/-- REM (R140). -/
def remTable (a b : Int) : Int := if b = 0 then a else a - b * Int.tdiv a b

/-- SHL (R141). -/
def shlOf (ty : Ty) (p n : Nat) : Int := if n < ty.width then (p * 2 ^ n : Nat) else 0

/-- SHR (R141). -/
def shrOf (ty : Ty) (p n : Nat) : Int := if n < ty.width then (p / 2 ^ n : Nat) else 0

/-- SAR (R141): copies of bit w − 1 enter. -/
def sarOf (ty : Ty) (p n : Nat) : Int :=
  let top : Bool := p.testBit (ty.width - 1)
  if n < ty.width then (if top then (p : Int) - 2 ^ ty.width else p) / 2 ^ n else if top then -1 else 0

/-- ROT (R141): left by n mod w. -/
def rotOf (ty : Ty) (p n : Nat) : Int :=
  (p * 2 ^ (n % ty.width) % 2 ^ ty.width + p / 2 ^ (ty.width - n % ty.width) : Nat)

/-- The number of leading zero bits of a w-bit pattern; w for 0 (R142). -/
def leadingZeros (w p : Nat) : Int := w - p.size

/-- The number of one bits of a w-bit pattern (R142). -/
def oneBits (w p : Nat) : Int := ((List.range w).filter p.testBit).length

/-- A w-bit pattern with bit i moved to bit w − 1 − i (R142). -/
def reversed (w p : Nat) : Int := (((List.range w).filter p.testBit).map fun i => 2 ^ (w - 1 - i)).sum

/-- s and n of a bit-field instruction's control word (R143). -/
def fieldCtl (ty : Ty) (ctl : Elem) : Nat × Nat :=
  let st := min (ctl.toNat % 2 ^ 8) ty.width
  (st, min (ctl.toNat / 2 ^ 8 % 2 ^ 8) (ty.width - st))

/-- The conditions of R144 by their sub-operation. -/
abbrev compares (cond : Nat) (a b : Int) : Prop :=
  (cond = 0 ∧ a = b) ∨ (cond = 1 ∧ a ≠ b) ∨ (cond = 2 ∧ a < b) ∨ (cond = 3 ∧ a ≤ b) ∨ (cond = 4 ∧ b < a) ∨ (cond = 5 ∧ b ≤ a)

/-- LEA (R146). -/
def leaOf (ty : Ty) (sh a b : Nat) : Int :=
  if ty = .n64 then (a / 2 ^ 48 * 2 ^ 48 : Nat) + ((a : Int) + readAs .i64 b * 2 ^ sh) % 2 ^ 48 else a + b * 2 ^ sh

/-- Mag of R149, of an element pattern. -/
def magnitude (ty : Ty) (e : Nat) : Nat :=
  match ty with
  | .i8 | .rq8 | .i16 => if 2 ^ (ty.width - 1) ≤ e then 2 ^ ty.width - e else e
  | _ => e % 2 ^ (ty.width - 1)

/-- Element j of a lane's group of four (R149). -/
def packElem (t : Team) (f : VForm) (l j : Nat) : Nat :=
  if f.ty.width = 8 then (t.elem f.a.toNat l).toNat / 2 ^ (8 * j) % 2 ^ 8
  else (if j < 2 then (t.elem f.a.toNat l).toNat / 2 ^ (16 * j) else (t.elem f.b.toNat l).toNat / 2 ^ (16 * (j - 2))) % 2 ^ 16

/-! ### Floating point -/

/-- The flags raised over the active lanes (R160, R173). -/
def raisedBy (ls : List Nat) (fl : Nat → Sticky) : Sticky := ls.foldr (fun l a => fl l ||| a) 0

/-- A vector instruction that may issue writes a pattern of type ty, as an integer, to each active lane, raises the lanes' flags and does nothing
else (R173). -/
def LanesResult (i : Instr) (f : VForm) (ty : Ty) (r : Team → Nat → Int × Sticky) : Prop :=
  ∀ s u t, s.Ready u t i f.se f.fs →
    Issues s u t i f.se f.fs (destsV ty f.d.toNat) ((t.active f.m).flatMap fun l => vput ty f.d.toNat l (r t l).1)
      (raisedBy (t.active f.m) fun l => (r t l).2)

/-- The same of an immediate twin (R111, R171). -/
def LanesTwin (i : Instr) (f : IForm) (r : Team → Nat → Int × Sticky) : Prop :=
  ∀ s u t, s.Ready u t i false false →
    Issues s u t i false false (destsV f.ty f.d.toNat) ((t.active 0).flatMap fun l => vput f.ty f.d.toNat l (r t l).1)
      (raisedBy (t.active 0) fun l => (r t l).2)

/-- A rounded pattern as a lane's result. -/
def Rounded.out (r : Rounded) : Int × Sticky := (r.pat, r.flags)

/-- The frame of R174 over the operands' patterns: the first NaN quieted, Invalid, DivZero with its sign, else the result of the operation. -/
def frame174 (F : Fmt) (sat : Bool) (ops : List Nat) (invalid : Bool) (divZero : Option Bool) (rest : Rounded) : Rounded :=
  match ops.find? (isNaNPat F) with
  | some p => { pat := quietPat F p, flags := if (ops.any fun q => (decodeF F q).isSig) || invalid then fNV else 0 }
  | none =>
    if invalid then { pat := F.canonicalNaN, flags := fNV }
    else match divZero with
      | some n => { pat := if sat then F.signPat n + F.maxPat else F.infPat n, flags := fDZ }
      | none => rest

/-- The real number that an exact value stands for: (−1)^neg × (m + δ) × 2^e, with δ = 0 unless it is sticky, and then 0 < δ < 1. -/
def Ex.represents (x : Ex) (v : ℝ) : Prop :=
  ∃ d : ℝ, 0 ≤ d ∧ d < 1 ∧ (x.sticky = true ↔ 0 < d) ∧ v = (if x.neg then -1 else 1) * ((x.m : ℝ) + d) * 2 ^ x.e

/-- What a row of a multiply leaves (R297, R298, R304), `ks` its positions in ascending order with their patterns: each of the 64 elements of row `c.row` of the
accumulator takes the products with its column of the tile, one rounded step each in a float type, their residue sums at once in rq8; `nv` an invalid nibble. -/
def RowDone (s s' : State) (col u : Nat) (t : Team) (c : MCmd) (f : GForm) (b : Tile) (ks : List (Nat × Nat)) (nv : Bool) : Prop :=
  let m := (s.column col).mx
  let m' := (s'.column col).mx
  let acc := f.acc.toNat
  let a := fun (n : Nat) => (Store.get (m.accA acc) (64 * c.row + n)).toNat
  let w := fun (n : Nat) => Store.get (m.accW acc) (64 * c.row + n)
  let y := fun (k n : Nat) => (Store.get b.els (k * 64 + n)).toNat
  let dot := fun (F : Fmt) (n c : Nat) => ks.foldl (fun (r : Nat × Sticky) e =>
    let z := ffmaV F .rn false (decodeF (fmtOf f.ty) e.2) (decodeF (fmtOf f.ty) (y e.1 n)) (decodeF F r.1)
    (z.pat, r.2 ||| z.flags)) (c, 0)
  let sum := fun (n : Nat) => (ks.map fun e => (rq8Val e.2).1 * (rq8Val (y e.1 n)).1).sum
  let flags := fun (n : Nat) =>
    if f.ty = .rq8 then ks.foldl (fun r e => r ||| (rq8Val e.2).2 ||| (rq8Val (y e.1 n)).2) 0
    else if f.ty = .f64 then (dot .f64 n (w n).toNat).2 else (dot .f32 n (a n)).2
  let ends := f.mc.toNat < c.row + 1
  m'.bt = m.bt ∧ m'.busy = (if ends then none else some { c with row := c.row + 1, vals := none }) ∧ s'.store = s.store ∧
  (if ends then s'.op? c.op = none else s'.ops = s.ops) ∧
  (∃ fl, s'.team? u = some (t.raise fl) ∧ ∀ j, fl.getLsbD j = ((nv && fNV.getLsbD j) || (List.range 64).any fun n => (flags n).getLsbD j)) ∧
  (∀ n < 64,
    if f.ty = .rq8 then Store.get (m'.accW acc) (64 * c.row + n) =
      w n + BitVec.ofInt 64 (resVal (sum n % 253 * 65536 + sum n % 256 * 256 + sum n % 255).toNat)
    else if f.ty = .f64 then Store.get (m'.accW acc) (64 * c.row + n) = BitVec.ofNat 64 (dot .f64 n (w n).toNat).1
    else Store.get (m'.accA acc) (64 * c.row + n) = BitVec.ofNat 32 (dot .f32 n (a n)).1) ∧
  (∀ k < 4, ∀ j, k ≠ acc ∨ j / 64 ≠ c.row → Store.get (m'.accA k) j = Store.get (m.accA k) j) ∧
  ∀ k, k = 4 ∨ k = 5 → ∀ j, k ≠ acc ∨ j / 64 ≠ c.row → Store.get (m'.accW k) j = Store.get (m.accW k) j

/-- The matrix unit with the accumulator of a code all zeros (R79, R303). -/
def MxState.zeroed (m : MxState) (acc : Nat) : MxState :=
  if acc = 0 then { m with a0 := [] } else if acc = 1 then { m with a1 := [] } else if acc = 2 then { m with a2 := [] } else if acc = 3 then { m with a3 := [] }
  else if acc = 4 then { m with w0 := [] } else { m with w1 := [] }

/-- The real number of a finite value (R153). -/
noncomputable def Val.real : Val → ℝ
  | .fin n m e => (if n then -1 else 1) * (m : ℝ) * 2 ^ e
  | _ => 0

/-- Val(n, l, T) as a pattern of its float format. -/
def Team.fbits (t : Team) (f : VForm) (n : BitVec 8) (l : Nat) : Nat := t.vbits f.ty n.toNat l

/-- Numbers of w-bit float patterns in order, with −0 below +0 (R177, R180). -/
def totalOrder (w p : Nat) : Int := if 2 ^ (w - 1) ≤ p then (2 ^ (w - 1) : Int) - 1 - p else p

/-- The same with −0 equal to +0 (R179). -/
def valueOrder (w p : Nat) : Int := if 2 ^ (w - 1) ≤ p then (2 ^ (w - 1) : Int) - p else p

/-- FMIN or FMAX by an order (R177). -/
def minMax (F : Fmt) (before : Nat → Nat → Prop) [DecidableRel before] (a b : Nat) : Int × Sticky :=
  let na := isNaNPat F a
  let nb := isNaNPat F b
  (if na && nb then quietPat F a else if na then b else if nb then a else if before a b then a else b,
   if (decodeF F a).isSig || (decodeF F b).isSig then fNV else 0)

/-- The class word of R181. -/
def classOf (F : Fmt) (p : Nat) : Int :=
  match decodeF F p with
  | .nan _ quiet _ _ => if quiet then 2 ^ 0 else 2 ^ 1
  | .inf neg => if neg then 2 ^ 9 else 2 ^ 2
  | .fin neg m _ =>
    if m = 0 then (if neg then 2 ^ 6 else 2 ^ 5)
    else if m < 2 ^ F.p then (if neg then 2 ^ 7 else 2 ^ 4)
    else if neg then 2 ^ 8 else 2 ^ 3

/-- Wins of R180, for FMAXI when `isMax`. -/
def wins (ty : Ty) (isMax : Bool) (x y : Nat × Nat) : Prop :=
  let nx := isNaNPat (fmtOf ty) x.1
  let ny := isNaNPat (fmtOf ty) y.1
  if nx = true ∨ ny = true then (if nx = true ∧ ny = true then x.2 ≤ y.2 else nx = true)
  else if totalOrder ty.width x.1 ≠ totalOrder ty.width y.1 then
    (if isMax then totalOrder ty.width y.1 < totalOrder ty.width x.1 else totalOrder ty.width x.1 < totalOrder ty.width y.1)
  else x.2 ≤ y.2

open Classical in
/-- The value and index that FMAXI or FMINI writes (R180). -/
noncomputable def winner (ty : Ty) (isMax : Bool) (x y : Nat × Nat) : Nat × Nat :=
  let z := if wins ty isMax x y then x else y
  (if isNaNPat (fmtOf ty) z.1 then quietPat (fmtOf ty) z.1 else z.1, z.2)

/-- FCVTI of a value (R183). -/
def toInteger (ty : Ty) (mode : RMode) : Val → Int × Sticky
  | .nan _ _ _ _ => (0, fNV)
  | .inf neg => (if neg then (limits ty).1 else (limits ty).2, fNV)
  | .fin neg m e =>
    let r := intRound mode neg m e
    let y : Int := if neg then -(r.1 : Int) else r.1
    if y < (limits ty).1 then ((limits ty).1, fNV) else if (limits ty).2 < y then ((limits ty).2, fNV)
    else (y, if r.2 then fNX else 0)

/-- The canonical digits of an integer modulo M in an RN24 pattern (R166). -/
def digits (x : Int) : Int := x % 255 + x % 256 * 2 ^ 8 + x % 253 * 2 ^ 16

/-! ### Memory instructions -/

/-- A store in a speculative window is counted (R327). -/
def Team.counted (t : Team) (i : Instr) : Team :=
  { t with spec := t.spec.map fun sp => if windowStore i then { sp with stores := sp.stores + 1 } else sp }

/-- Instruction i issues its accesses: a next state, in which one operation has been added that holds them, with the registers that it will write,
and the team is `t1` but for the program counter. All else is as before, unless an access writes a page that a snapshot shares (R381). -/
def IssuesAccesses (s : State) (u : Nat) (t t1 : Team) (i : Instr) (se fs : Bool) (dests : List Dest) (acc : List Access) (raiser : Bool) : Prop :=
  ∃ s' t' o, exec i s = .next s' ∧ s'.team? u = some t' ∧ t1.SameButPc t' ∧ s'.ops = s.ops ++ [o] ∧
    o.agent = .team u ∧ o.team = u ∧ o.seq = s.seq ∧ o.kind = .mem ∧ o.flag = selFlag t.hdr se fs ∧ o.dests = dests ∧ o.writes = [] ∧
    o.later = [] ∧ o.raises = 0 ∧ o.raiser = raiser ∧ o.queued = false ∧ o.acc = acc ∧
    ((∀ a ∈ acc, s.partWanted a = none) → s.SameBut s' u)

/-- What a trap taken at issue leaves (R101, R350), for a team outside Handler and outside a speculative window: nothing has issued; the trap is
entered at once if all that the team has issued has settled, and waits for that otherwise. -/
def TrapsAtIssue (s : State) (u : Nat) (t : Team) (i : Instr) (c : Cause) (rslot : Nat) (arg : BitVec 32) (laddr : Store 64) (lanes : Lanes) : Prop :=
  ∃ s' t', exec i s = .next s' ∧ s'.team? u = some t' ∧ s.SameBut s' u ∧ s'.ops = s.ops ∧
    (s.settled u = true →
      t' = ((t.atBoundary s.now).enterTrap (s.tvecOf t) s.now c t.slot rslot 0 t.pc t.pc arg laddr lanes)) ∧
    (s.settled u = false →
      t'.issueTrap = some { cause := c, slot := t.slot, rslot := rslot, arg := arg, lanes := lanes, laddr := laddr, addr := t.pc } ∧
      t'.sregs = t.sregs ∧ t'.vregs = t.vregs ∧ t'.masks = t.masks ∧ t'.pc = t.pc ∧ t'.st = t.st ∧ t'.started = false)

/-- A memory instruction of path T that may issue (R199, R201): its accesses issue, unless one meets a precise fault; then none does, and the team
takes the lowest faulting lane's cause, with the lanes that meet it as the handler's. -/
def MemResult (i : Instr) (f : MForm) (dests : List Dest) (raiser : State → Team → Bool) (acc : State → Nat → Team → List Access) : Prop :=
  ∀ s u t, s.Ready u t i f.se f.fs →
    (s.preciseOf u (acc s u t) = none →
      IssuesAccesses s u t (t.counted i) i f.se f.fs dests (acc s u t) (raiser s t)) ∧
    (∀ c lanes laddr, s.preciseOf u (acc s u t) = some (c, lanes, laddr) → t.priv = false → t.spec = none →
      TrapsAtIssue s u t i c t.slot 0 laddr lanes)

/-- An atomic of path T (R219 to R221): one access for each active lane, aligned to the element, which returns the old value unless the launch is
deterministic (R335). -/
def AtomResult (i : Instr) (f : MForm) (aop : AOp) : Prop :=
  MemResult i f (atomDests aop f.ty f.d.toNat) (fun s t => aop == .fadd && !s.isDet t.wg) fun s u t => (t.active f.m).map fun l =>
    s.sliceAcc u t (effAddr t f (atomSize aop f.ty) l) l (atomSize aop f.ty) (t.atomAct aop f.ty f.d.toNat l)
      (atomLand (s.isDet t.wg) aop f.ty f.d.toNat)

/-- An atomic of path F (R222): the same at the column that the route word S[base + 1] names, whatever that column answers later. -/
def FarAtomResult (i : Instr) (f : MForm) (aop : AOp) : Prop :=
  ∀ s u t, s.Ready u t i f.se f.fs →
    ∃ acc, acc.map (·.lane) = t.active f.m ∧
      (∀ a ∈ acc, a.path = .F ∧ a.size = atomSize aop f.ty ∧ a.act = t.atomAct aop f.ty f.d.toNat a.lane ∧
        a.land = atomLand (s.isDet t.wg) aop f.ty f.d.toNat ∧
        a.addr = farAddr (t.scal f.base.toNat)
          ((if f.vo then (t.elem f.voff.toNat a.lane).setWidth 64 else 0) + BitVec.ofInt 64 (f.off.toInt * (atomSize aop f.ty : Int))) ∧
        a.space = s.farSpace (s.ctxOf t) a.addr (t.scal (f.base.toNat + 1))) ∧
      IssuesAccesses s u t t i f.se f.fs (atomDests aop f.ty f.d.toNat) acc (aop == .fadd && !s.isDet t.wg)

/-- The value of an element's bytes at an integer type. -/
def valueOf (ty : Ty) (bs : List Byte) : Int := readAs ty (natOfBytes bs)

/-! ### Instructions that complete at once, and those that start an operation -/

/-- Instruction i completes in the clk that it issues: a next state in which the team is `t1` but for the program counter, and all else is as
before (R99, R128). -/
def Completes (s : State) (u : Nat) (t1 : Team) (i : Instr) : Prop :=
  ∃ s' t', exec i s = .next s' ∧ s'.team? u = some t' ∧ t1.SameButPc t' ∧ s.SameBut s' u ∧ s'.ops = s.ops

/-- Instruction i starts one operation of which P holds: a next state in which the team is `t1` but for the program counter, and all else is as
before (R77, R99, R150). -/
def Starts (s : State) (u : Nat) (t t1 : Team) (i : Instr) (se fs : Bool) (P : Op → Prop) : Prop :=
  ∃ s' t' o, exec i s = .next s' ∧ s'.team? u = some t' ∧ t1.SameButPc t' ∧ s.SameBut s' u ∧ s'.ops = s.ops ++ [o] ∧
    o.agent = .team u ∧ o.team = u ∧ o.seq = s.seq ∧ o.flag = selFlag t.hdr se fs ∧ P o

/-- The stream once `k` slots of its clause have issued: at the next slot, or before the next clause, where a killed stream halts (R93, R122). -/
def Stream.past (x : Stream) (k : Nat) : Stream :=
  if hdrCount x.hdr < x.slot + k then
    { x with pc := x.pc + BitVec.ofNat 64 (8 * (hdrCount x.hdr + 2)), slot := 0, started := false, halted := x.halted || x.ended }
  else { x with slot := x.slot + k }

/-- A command of an engine stream that takes k slots starts one operation of which P holds (R99, R101): its stream moves past them, and the rest of the
team, the registers, memory and the other teams are as before. -/
def EngStarts (s : State) (u : Nat) (mtx : Bool) (t : Team) (x : Stream) (i : Instr) (se fs : Bool) (k : Nat) (P : State → Op → Prop) : Prop :=
  ∃ s' o, exec i s = .next s' ∧ s'.team? u = some (t.setStream mtx (some (x.past k))) ∧ s.SameBut s' u ∧ s'.ops = s.ops ++ [o] ∧
    o.agent = (if mtx then .matrix u else .copy u) ∧ o.team = u ∧ o.seq = s.seq ∧ o.flag = selFlag x.hdr se fs ∧ o.addr = x.pc ∧ o.slot = x.slot ∧ P s' o

/-- A command of an engine stream that starts no operation leaves its stream at `x'` and all but its team as before. -/
def EngMoves (s : State) (u : Nat) (mtx : Bool) (t : Team) (x' : Stream) (i : Instr) : Prop :=
  ∃ s', exec i s = .next s' ∧ s'.team? u = some (t.setStream mtx (some x')) ∧ s.SameBut s' u ∧ s'.ops = s.ops

/-- Operand p of a copy command (R279), of a kind, an operand field and an offset in elements of width w: an address of the snapshot plus the offset, a
FIFO, or a far address with its route word. -/
def CpOperand.reads (p : CpOperand) (snap : Store 64) (kind n : Nat) (off : Int) (w : Nat) : Prop :=
  p.kind = kind ∧
  (kind = 0 ∨ kind = 1 → p.base = Store.get snap n + BitVec.ofInt 64 (off * w)) ∧
  (kind = 2 → p.fifo = n) ∧
  (kind = 3 → p.base = farAddr (Store.get snap n) (BitVec.ofInt 64 (off * w))) ∧
  (kind = 3 → p.route = Store.get snap (n + 1))

/-- The copy command that a data command of a stream issues (R278 to R281, R285): nothing of it read yet. -/
structure CopyCmd.Issued (c : CopyCmd) (cop : COp) (f : CForm) (snap : Store 64) : Prop where
  which : c.cop = cop ∧ c.ty = f.ty ∧ c.w = f.ty.bytes
  count : c.n = if f.cf then (Store.get snap f.cnt.toNat).toNat else f.cnt.toNat + 1
  src : c.src.reads snap f.sk.toNat f.sop.toNat (if cop = .cpyg ∨ cop = .cpym then 0 else f.soff.toInt) f.ty.bytes
  dst : c.dst.reads snap f.dk.toNat f.dop.toNat (if cop = .cpys then 0 else f.doff.toInt) f.ty.bytes
  index : (cop = .cpyg → c.index = Store.get snap f.soff.toNat) ∧ (cop = .cpys → c.index = Store.get snap f.doff.toNat)
  mask : cop = .cpym → c.mask = Store.get snap f.soff.toNat
  rest : c.left = List.range c.n ∧ c.got = [] ∧ c.landed = 0 ∧ c.failed = [] ∧ c.stopped = none ∧ c.arrived = false ∧ c.reserved = false ∧
    c.staged = false ∧ c.ask = 0 ∧ c.bad = []

/-- A data command of the copy engine (R278 to R282, R312): with a count of 0 it only completes; one that is too long gives its team one error response;
one whose operands lie on this device starts, and with a range that fails a check of R281 it has nothing left to move and its team has one error response;
one with an operand on another device starts, and waits for that device's answer to each such range. -/
def CopyResult (i : Instr) (cop : COp) (f : CForm) : Prop :=
  ∀ s u t x, s.ReadyEng u false t x i f.se f.fs → ∃ c : CopyCmd, c.Issued cop f x.snap ∧
    (c.n = 0 → EngMoves s u false t (x.past 1) i) ∧
    (c.tooMuch = true → ∃ s' t', exec i s = .next s' ∧ s'.team? u = some t' ∧ t'.elogInfo.getLsbD 0 = true ∧ t'.copy = some (x.past 1) ∧
      s'.ops = s.ops ∧ s'.store = s.store ∧ s'.bufs = s.bufs) ∧
    (0 < c.n → c.tooMuch = false → s.cpFar u c = [] → s.cpRange u c = [] →
      EngStarts s u false t x i f.se f.fs 1 fun _ o => o.kind = .copy c ∧ o.dests = [] ∧ o.acc = []) ∧
    (0 < c.n → c.tooMuch = false → s.cpFar u c = [] → s.cpRange u c ≠ [] → ∃ s' t' o, exec i s = .next s' ∧ s'.team? u = some t' ∧
      t'.elogInfo.getLsbD 0 = true ∧ t'.copy = some (x.past 1) ∧ s'.ops = s.ops ++ [o] ∧
      o.kind = .copy { c with bad := s.cpRange u c }.reject ∧ s'.store = s.store ∧ s'.bufs = s.bufs) ∧
    (0 < c.n → c.tooMuch = false → s.cpFar u c ≠ [] → ∃ s' t' o, exec i s = .next s' ∧ s'.team? u = some t' ∧ t'.copy = some (x.past 1) ∧
      s'.ops = s.ops ++ [o] ∧ o.kind = .copy { c with ask := (s.cpFar u c).length, bad := s.cpRange u c } ∧ s'.store = s.store)

/-- A team's sparse registers, with those that a trap banks and those of a checkpoint, have the canonical form. -/
structure Team.Stored (t : Team) : Prop where
  sregs : Store.wf t.sregs = true
  vregs : Store.wf t.vregs = true
  masks : Store.wf t.masks = true
  ra : Store.wf t.ra = true
  pra : Store.wf t.vit.pra = true
  bank : ∀ b, t.bank = some b → Store.wf b.s = true ∧ Store.wf b.v = true ∧ Store.wf b.m = true ∧ Store.wf b.ra = true
  spec : ∀ c, t.spec = some c → Store.wf c.sregs = true ∧ Store.wf c.vregs = true ∧ Store.wf c.masks = true ∧ Store.wf c.ra = true

/-- What a trap taken at issue in Handler does (R353): no byte changes; the team's workgroup is cancelled, what it has staged is discarded and its
teams retire with no handler; its launch is marked cancelled, and the Curator's log of the context records the handler's own cause, then this one. -/
def FatalAtIssue (s : State) (u : Nat) (t : Team) (i : Instr) (c : Cause) : Prop :=
  ∃ s', exec i s = .next s' ∧ s'.store = s.store ∧
    (∀ g, s.wg? t.wg = some g →
      (∃ g', s'.wg? t.wg = some g' ∧ g'.fatal = true ∧ g'.cancelled = true ∧ g'.staged = [] ∧ g'.teams = g.teams) ∧
      ∀ v ∈ g.teams, ∀ w, s.team? v = some w → w.st ≠ .retired →
        ∃ w', s'.team? v = some w' ∧ w'.st = .retiring ∧ w'.live = 0 ∧ (w.Stored → w'.mask 0 = 0) ∧ w'.started = false) ∧
    (∀ k, s.unit? (s.launchKey t.wg) = some k → k.done = false → ∃ k', s'.unit? (s.launchKey t.wg) = some k' ∧ k'.cancelled = true) ∧
    ∀ x, s.ctx? (s.ctxOf t) = some x → ∃ x', s'.ctx? (s.ctxOf t) = some x' ∧
      x'.log = x.log ++ [[BitVec.ofNat 64 (t.trapCause.toNat % 2 ^ 8), BitVec.ofNat 64 c.code.toNat, BitVec.ofNat 64 (s.colOf t)]]

/-- `t'` stands where Select (R115) puts a team whose resume addresses are those of `t'` and whose lanes to choose from are `lanes`: with none
left it retires, once no trap is due before the exit (R58). -/
def Selected (lanes : List Nat) (t' : Team) : Prop :=
  (lanes = [] → t'.mask 0 = 0 ∧ (t'.trapsFirst = false → t'.st = .retiring)) ∧
  ∀ l ∈ lanes, (∀ k ∈ lanes, (Store.get t'.ra l).toNat ≤ (Store.get t'.ra k).toNat) →
    t'.pc = Store.get t'.ra l ∧ t'.mask 0 = lanesOf (lanes.filter fun k => Store.get t'.ra k == Store.get t'.ra l)

/-- A branch (R120, R121): the taken lanes get their targets, the running lanes that do not take it NextClause, and no other lane's resume address
changes; Select follows. A taken lane whose target is not 64-byte aligned raises IALN instead. CALL also starts the write of its link pair. -/
def BranchResult (i : Instr) (m : BitVec 4) (taken : Team → Bool) (target : Team → Nat → Addr) (link : Option Nat) : Prop :=
  ∀ s u t, s.Ready u t i false false → t.Stored →
    let lanes := if taken t then t.active m else []
    ((∀ l ∈ lanes, (target t l).toNat % 64 = 0) →
      ∃ s' t', exec i s = .next s' ∧ s'.team? u = some t' ∧ s.SameBut s' u ∧
        (∀ l ∈ lanes, Store.get t'.ra l = target t l) ∧
        (∀ l < t.lanes, (t.mask 0).getLsbD l = true → l ∉ lanes → Store.get t'.ra l = s.nextClause t) ∧
        (∀ l, (t.lanes ≤ l ∨ (t.mask 0).getLsbD l = false) → Store.get t'.ra l = Store.get t.ra l) ∧
        Selected (laneList t.range t.lanes) t' ∧ t'.started = false ∧
        t'.live = t.live ∧ t'.sregs = t.sregs ∧ t'.vregs = t.vregs ∧ (∀ n, n ≠ 0 → t'.mask n = t.mask n) ∧ t'.fstat = t.fstat ∧
        (match link with
         | none => s'.ops = s.ops
         | some n => ∃ o, s'.ops = s.ops ++ [o] ∧ o.agent = .team u ∧ o.dests = [.v n, .v (n + 1)] ∧
             o.writes = lanes.flatMap fun l => vput .n64 n l (s.nextClause t).toNat)) ∧
    ((∃ l ∈ lanes, (target t l).toNat % 64 ≠ 0) → t.priv = false → t.spec = none →
      TrapsAtIssue s u t i .ialn t.slot 0 [] (t.mask 0))

/-! ### Exchange -/

/-- The type that moves an element of ty's width whole (R229). -/
def carrier (ty : Ty) : Ty := if ty.width = 64 then .n64 else .n32

/-- What lane l receives by R231 from lane j of register n: its own element of source a, or zero under FILL, when that lane is not available. -/
def Team.received (t : Team) (ty : Ty) (l a n : Nat) (j : Int) (fill : Bool) : Int :=
  if 0 ≤ j ∧ j < t.lanes ∧ t.live.getLsbD j.toNat = true then t.vbits (carrier ty) n j.toNat
  else if fill then 0 else t.vbits (carrier ty) a l

/-- x(i) of R235 after s steps, with the flags of the combinations that formed it. -/
def redAt (code : Nat) (ty : Ty) (x : Nat → Option CElem) : Nat → Nat → Option CElem × Sticky
  | 0, i => (x i, 0)
  | s + 1, i =>
    let a := redAt code ty x s i
    let b := redAt code ty x s (i + 2 ^ s)
    let c := combineOpt code ty a.1 b.1
    (c.1, c.2 ||| (a.2 ||| b.2))

/-- y(i) of R236 after s steps, with the flags of the combinations that formed it. -/
def scanAt (code : Nat) (ty : Ty) (x : Nat → Option CElem) : Nat → Nat → Option CElem × Sticky
  | 0, i => (x i, 0)
  | s + 1, i =>
    let b := scanAt code ty x s i
    if i < 2 ^ s then b
    else
      let a := scanAt code ty x s (i - 2 ^ s)
      let c := combineOpt code ty a.1 b.1
      (c.1, c.2 ||| (a.2 ||| b.2))

/-- Position i of segment g (R234): the element of an active lane; other positions are absent. -/
def Team.segment (t : Team) (f : XForm) (p g i : Nat) : Option CElem :=
  if g * p + i ∈ t.active f.m then some (t.cElem (f.pat.toNat % 16) f.ty f.a.toNat (g * p + i)) else none

/-! ### Generator loops -/

/-- A pass on frame k begins (R252, R253): the consumer lanes are the lowest of G, as many as the frame holds records, and run at the consumer entry;
when it began in a producer clause, the resume addresses of the producer lanes are kept, NextClause for those that ran. -/
structure PassBegins (t t' : Team) (k fill : Nat) (drain : Bool) (next : Addr) : Prop where
  phase : t'.vit.phase = .consuming ∧ t'.vit.cfr = k ∧ t'.vit.drain = drain
  lanes : t'.vit.cset = lanesOf ((laneList t.vit.gset t.lanes).take fill) ∧ t'.mask 0 = t'.vit.cset
  place : t'.pc = t.vit.cent ∧ t'.started = false
  kept : t.vit.phase = .producing → ∀ l < t.lanes, t.vit.pset.getLsbD l = true → t'.vit.pset.getLsbD l = true →
    Store.get t'.vit.pra l = if (t.mask 0).getLsbD l then next else Store.get t.ra l
  loop : t'.vit.gset = t.vit.gset ∧ t'.vit.n = t.vit.n ∧ t'.vit.t = t.vit.t ∧ t'.vit.d = t.vit.d ∧ t'.vit.base = t.vit.base ∧
    t'.vit.cent = t.vit.cent ∧ t'.vit.xent = t.vit.xent
  rest : t'.sregs = t.sregs ∧ t'.vregs = t.vregs ∧ t'.live = t.live ∧ t'.st = t.st ∧ ∀ n, n ≠ 0 → t'.mask n = t.mask n

/-- The loop ends (R245): every lane of G resumes at the exit, and Select follows. -/
structure LoopEnds (t t' : Team) : Prop where
  phase : t'.vit.phase = .off
  resume : ∀ l < t.lanes, t.vit.gset.getLsbD l = true → Store.get t'.ra l = t.vit.xent
  select : Selected (laneList (t.live &&& t.all) t.lanes) t'
  rest : t'.sregs = t.sregs ∧ t'.vregs = t.vregs ∧ t'.live = t.live ∧ t'.started = false

/-- A step of team u's own control flow: a next state in which no operation has been added and all but the team is as before. -/
def Moves (s : State) (u : Nat) (i : Instr) (P : Team → Prop) : Prop :=
  ∃ s' t', exec i s = .next s' ∧ s'.team? u = some t' ∧ s.SameBut s' u ∧ s'.ops = s.ops ∧ P t'

/-! ### Steps of the machine -/

/-- No two teams have one number. -/
def State.Keyed (s : State) : Prop := (s.teams.map (·.1)).Nodup

/-- What the matrix unit holds has the canonical form. -/
structure MxState.Stored (m : MxState) : Prop where
  a : ∀ n < 4, Store.wf (m.accA n) = true
  w : ∀ n < 6, Store.wf (m.accW n) = true

/-- The teams, workgroups and units of some lists are numbered apart, the units below n; and the teams' registers have the canonical form. -/
structure Kept (n : Nat) (ts : List (Nat × Team)) (gs : List (Nat × Workgroup)) (us : List (Nat × Completion)) : Prop where
  teams : (ts.map (·.1)).Nodup
  wgs : (gs.map (·.1)).Nodup
  units : (us.map (·.1)).Nodup
  below : ∀ e ∈ us, e.1 < n
  stored : ∀ e ∈ ts, e.2.Stored
  saved : ∀ e ∈ gs, ∀ u m, e.2.savedMx = some (u, m) → m.Stored

/-- The teams, workgroups and units of the machine, and those of each context that has moved away, are numbered apart, and every team's registers
have the canonical form; so have what each matrix unit holds and the host's memory. -/
structure State.Orderly (s : State) : Prop where
  here : Kept s.nextId s.teams s.wgs s.units
  units : ∀ c, (s.column c).mx.Stored
  host : s.hostMem.wf = true
  away : ∀ m ∈ s.elsewhere, Kept s.nextId m.teams m.wgs m.units

/-- Instruction i answers a next state of which P holds. -/
def Does (s : State) (i : Instr) (P : State → Prop) : Prop := ∃ s', exec i s = .next s' ∧ P s'

/-- Operation o completes (R20, R77, R89): its team, outside a speculative window, takes the writes `ws` with those of later-issued operations over
them, and the flags raised; the operation no longer sets its completion flag. -/
def Finishes (s s' : State) (o : Op) (ws : List RegWr) (raises : Sticky) : Prop :=
  s'.op? o.id = none ∧ s'.store = s.store ∧ ∀ t, s.team? o.team = some t → t.spec = none →
    ∃ t', s'.team? o.team = some t' ∧ t'.sregs = (t.applyAll (ws ++ o.later.map (·.wr))).sregs ∧ t'.vregs = (t.applyAll (ws ++ o.later.map (·.wr))).vregs ∧
      t'.masks = (t.applyAll (ws ++ o.later.map (·.wr))).masks ∧ t'.fstat = t.fstat ||| raises ∧ t'.pc = t.pc ∧ t'.live = t.live

/-- A request enters the intake as one that arrives now from a column (R391): behind all that arrived earlier, and in front of what arrives in the same
clk from a column of higher number. -/
def Enters (s s' : State) (col : Nat) (e : Intake) : Prop :=
  ∃ k, s'.intake = s.intake.take k ++ { clk := s.now, col := col, entry := e } :: s.intake.drop k ∧
    (∀ a ∈ s.intake.drop k, a.clk = s.now ∧ col < a.col) ∧ ∀ a, (s.intake.take k).getLast? = some a → ¬(a.clk = s.now ∧ col < a.col)

/-- The registers, masks and frontier of a team, and the bytes of the machine, are as before. -/
def Team.SameRegs (t t' : Team) : Prop :=
  t'.sregs = t.sregs ∧ t'.vregs = t.vregs ∧ t'.masks = t.masks ∧ t'.live = t.live ∧ t'.ra = t.ra

end Sys2Proof.Machine
end

