-- ==== Sys2Proof/Certificates/Slice0/Obligations.lean ====
section
/-!
DEFINITION. The statements for the provers. Each `Obligations.X` is one statement; where one has several parts, each part is a `Claims.Y` with its
own rules, and the statement is their conjunction.
-/

open Sys2Proof Sys2Proof.Machine

/-- R139, "compute Op as shown": the moves, arithmetic, logic, minima and maxima, scalar, vector and immediate twins, each with its own
destination alone written, and SatInt under .sat. -/
def Obligations.ArithmeticAndLogic : Prop :=
  (∀ f : VForm,
    ScalarResult (.smov f) f (fun t => t.sval f.ty f.a.toNat) ∧
    ScalarResult (.sadd f) f (fun t => satIf f.sat f.ty (t.sval f.ty f.a.toNat + t.sval f.ty f.b.toNat)) ∧
    ScalarResult (.ssub f) f (fun t => satIf f.sat f.ty (t.sval f.ty f.a.toNat - t.sval f.ty f.b.toNat)) ∧
    ScalarResult (.smul f) f (fun t => satIf f.sat f.ty (t.sval f.ty f.a.toNat * t.sval f.ty f.b.toNat)) ∧
    ScalarResult (.smulh f) f (fun t => t.sval f.ty f.a.toNat * t.sval f.ty f.b.toNat / 2 ^ f.ty.width) ∧
    ScalarResult (.sand f) f (fun t => (t.sbits f.ty f.a.toNat &&& t.sbits f.ty f.b.toNat : Nat)) ∧
    ScalarResult (.sor f) f (fun t => (t.sbits f.ty f.a.toNat ||| t.sbits f.ty f.b.toNat : Nat)) ∧
    ScalarResult (.sxor f) f (fun t => (t.sbits f.ty f.a.toNat ^^^ t.sbits f.ty f.b.toNat : Nat)) ∧
    ScalarResult (.snot f) f (fun t => (2 ^ f.ty.width - 1 : Int) - t.sbits f.ty f.a.toNat) ∧
    ScalarResult (.smin f) f (fun t => min (t.sval f.ty f.a.toNat) (t.sval f.ty f.b.toNat)) ∧
    ScalarResult (.smax f) f (fun t => max (t.sval f.ty f.a.toNat) (t.sval f.ty f.b.toNat))) ∧
  (∀ f : IForm,
    ScalarTwin (.smovi f) f (fun _ => readAs f.ty (immBits f)) ∧
    ScalarTwin (.saddImm f) f (fun t => t.sval f.ty f.a.toNat + readAs f.ty (immBits f)) ∧
    ScalarTwin (.ssubImm f) f (fun t => t.sval f.ty f.a.toNat - readAs f.ty (immBits f)) ∧
    ScalarTwin (.smulImm f) f (fun t => t.sval f.ty f.a.toNat * readAs f.ty (immBits f)) ∧
    ScalarTwin (.sandImm f) f (fun t => (t.sbits f.ty f.a.toNat &&& immBits f : Nat)) ∧
    ScalarTwin (.sorImm f) f (fun t => (t.sbits f.ty f.a.toNat ||| immBits f : Nat)) ∧
    ScalarTwin (.sxorImm f) f (fun t => (t.sbits f.ty f.a.toNat ^^^ immBits f : Nat)) ∧
    ScalarTwin (.sminImm f) f (fun t => min (t.sval f.ty f.a.toNat) (readAs f.ty (immBits f))) ∧
    ScalarTwin (.smaxImm f) f (fun t => max (t.sval f.ty f.a.toNat) (readAs f.ty (immBits f)))) ∧
  (∀ f : VForm,
    VectorResult (.vmov f) f (fun t l => t.val f.ty f.a.toNat l) ∧
    VectorResult (.vadd f) f (fun t l => satIf f.sat f.ty (t.val f.ty f.a.toNat l + t.val f.ty f.b.toNat l)) ∧
    VectorResult (.vsub f) f (fun t l => satIf f.sat f.ty (t.val f.ty f.a.toNat l - t.val f.ty f.b.toNat l)) ∧
    VectorResult (.vmul f) f (fun t l => satIf f.sat f.ty (t.val f.ty f.a.toNat l * t.val f.ty f.b.toNat l)) ∧
    VectorResult (.vmulh f) f (fun t l => t.val f.ty f.a.toNat l * t.val f.ty f.b.toNat l / 2 ^ f.ty.width) ∧
    VectorResult (.vmad f) f (fun t l =>
      satIf f.sat f.ty (t.val f.ty f.a.toNat l * t.val f.ty f.b.toNat l + t.val f.ty f.c.toNat l)) ∧
    VectorResult (.vand f) f (fun t l => (t.vbits f.ty f.a.toNat l &&& t.vbits f.ty f.b.toNat l : Nat)) ∧
    VectorResult (.vor f) f (fun t l => (t.vbits f.ty f.a.toNat l ||| t.vbits f.ty f.b.toNat l : Nat)) ∧
    VectorResult (.vxor f) f (fun t l => (t.vbits f.ty f.a.toNat l ^^^ t.vbits f.ty f.b.toNat l : Nat)) ∧
    VectorResult (.vnot f) f (fun t l => (2 ^ f.ty.width - 1 : Int) - t.vbits f.ty f.a.toNat l) ∧
    VectorResult (.vmin f) f (fun t l => min (t.val f.ty f.a.toNat l) (t.val f.ty f.b.toNat l)) ∧
    VectorResult (.vmax f) f (fun t l => max (t.val f.ty f.a.toNat l) (t.val f.ty f.b.toNat l)) ∧
    VectorResult (.vabs f) f (fun t l => satIf f.sat f.ty |t.val f.ty f.a.toNat l|) ∧
    VectorResult (.vneg f) f (fun t l => satIf f.sat f.ty (-(t.val f.ty f.a.toNat l)))) ∧
  (∀ f : IForm,
    VectorTwin (.vmovi f) f (fun _ _ => readAs f.ty (immBits f)) ∧
    VectorTwin (.vaddImm f) f (fun t l => t.val f.ty f.a.toNat l + readAs f.ty (immBits f)) ∧
    VectorTwin (.vsubImm f) f (fun t l => t.val f.ty f.a.toNat l - readAs f.ty (immBits f)) ∧
    VectorTwin (.vmulImm f) f (fun t l => t.val f.ty f.a.toNat l * readAs f.ty (immBits f)) ∧
    VectorTwin (.vandImm f) f (fun t l => (t.vbits f.ty f.a.toNat l &&& immBits f : Nat)) ∧
    VectorTwin (.vorImm f) f (fun t l => (t.vbits f.ty f.a.toNat l ||| immBits f : Nat)) ∧
    VectorTwin (.vxorImm f) f (fun t l => (t.vbits f.ty f.a.toNat l ^^^ immBits f : Nat)) ∧
    VectorTwin (.vminImm f) f (fun t l => min (t.val f.ty f.a.toNat l) (readAs f.ty (immBits f))) ∧
    VectorTwin (.vmaxImm f) f (fun t l => max (t.val f.ty f.a.toNat l) (readAs f.ty (immBits f))))

/-- The table of R140: `lim` are the limits of T, `a` and `b` the operands; truncation is towards zero. -/
def Claims.Division : Prop :=
  (∀ f : VForm,
    ScalarResult (.sdiv f) f (fun t => divTable f.ty f.sat (t.sval f.ty f.a.toNat) (t.sval f.ty f.b.toNat)) ∧
    ScalarResult (.srem f) f (fun t => remTable (t.sval f.ty f.a.toNat) (t.sval f.ty f.b.toNat)) ∧
    VectorResult (.vdiv f) f (fun t l => divTable f.ty f.sat (t.val f.ty f.a.toNat l) (t.val f.ty f.b.toNat l)) ∧
    VectorResult (.vrem f) f (fun t l => remTable (t.val f.ty f.a.toNat l) (t.val f.ty f.b.toNat l))) ∧
  ∀ op ∈ [0x046, 0x047, 0x0C6, 0x0C7], ∀ w, opcodeOf w = op → decodeWord w = none

/-- R140: SDIV, SREM, VDIV and VREM at their opcodes: the table of results, the saturation that REM does not take, and the opcodes of twins that are not assigned. -/
def Obligations.Division : Prop :=
  Claims.Division ∧
  ∀ f w, (encode (.sdiv f) = some w → opcodeOf w = 0x006) ∧ (encode (.srem f) = some w → opcodeOf w = 0x007) ∧
    (encode (.vdiv f) = some w → opcodeOf w = 0x086) ∧ (encode (.vrem f) = some w → opcodeOf w = 0x087) ∧
    ((Instr.srem f).wellFormed = true ∨ (Instr.vrem f).wellFormed = true → f.sat = false)

/-- R141: shifts and rotations of the w-bit pattern p of source a by the count n, source b read as an n type of width w. -/
def Claims.ShiftsAndRotations : Prop :=
  (∀ f : VForm,
    ScalarResult (.sshl f) f (fun t => shlOf f.ty (t.sbits f.ty f.a.toNat) (t.sbits f.ty f.b.toNat)) ∧
    ScalarResult (.sshr f) f (fun t => shrOf f.ty (t.sbits f.ty f.a.toNat) (t.sbits f.ty f.b.toNat)) ∧
    ScalarResult (.ssar f) f (fun t => sarOf f.ty (t.sbits f.ty f.a.toNat) (t.sbits f.ty f.b.toNat)) ∧
    ScalarResult (.srot f) f (fun t => rotOf f.ty (t.sbits f.ty f.a.toNat) (t.sbits f.ty f.b.toNat)) ∧
    VectorResult (.vshl f) f (fun t l => shlOf f.ty (t.vbits f.ty f.a.toNat l) (t.vbits f.ty f.b.toNat l)) ∧
    VectorResult (.vshr f) f (fun t l => shrOf f.ty (t.vbits f.ty f.a.toNat l) (t.vbits f.ty f.b.toNat l)) ∧
    VectorResult (.vsar f) f (fun t l => sarOf f.ty (t.vbits f.ty f.a.toNat l) (t.vbits f.ty f.b.toNat l)) ∧
    VectorResult (.vrot f) f (fun t l => rotOf f.ty (t.vbits f.ty f.a.toNat l) (t.vbits f.ty f.b.toNat l))) ∧
  (∀ f : IForm,
    ScalarTwin (.sshlImm f) f (fun t => shlOf f.ty (t.sbits f.ty f.a.toNat) (immBits f)) ∧
    ScalarTwin (.sshrImm f) f (fun t => shrOf f.ty (t.sbits f.ty f.a.toNat) (immBits f)) ∧
    ScalarTwin (.ssarImm f) f (fun t => sarOf f.ty (t.sbits f.ty f.a.toNat) (immBits f)) ∧
    ScalarTwin (.srotImm f) f (fun t => rotOf f.ty (t.sbits f.ty f.a.toNat) (immBits f)) ∧
    VectorTwin (.vshlImm f) f (fun t l => shlOf f.ty (t.vbits f.ty f.a.toNat l) (immBits f)) ∧
    VectorTwin (.vshrImm f) f (fun t l => shrOf f.ty (t.vbits f.ty f.a.toNat l) (immBits f)) ∧
    VectorTwin (.vsarImm f) f (fun t l => sarOf f.ty (t.vbits f.ty f.a.toNat l) (immBits f)) ∧
    VectorTwin (.vrotImm f) f (fun t l => rotOf f.ty (t.vbits f.ty f.a.toNat l) (immBits f)))

/-- R141: the four shifts, scalar, vector and twins, at their opcodes: what each gives below the width and from the width on. -/
def Obligations.ShiftsAndRotations : Prop :=
  Claims.ShiftsAndRotations ∧
  (∀ (f : VForm) (w : Word), ∀ p ∈ [(Instr.sshl f, 0x00C), (.sshr f, 0x00D), (.ssar f, 0x00E), (.srot f, 0x00F), (.vshl f, 0x08C), (.vshr f, 0x08D),
      (.vsar f, 0x08E), (.vrot f, 0x08F)], encode p.1 = some w → opcodeOf w = p.2) ∧
  ∀ (f : IForm) (w : Word), ∀ p ∈ [(Instr.sshlImm f, 0x04C), (.sshrImm f, 0x04D), (.ssarImm f, 0x04E), (.srotImm f, 0x04F), (.vshlImm f, 0x0CC),
      (.vshrImm f, 0x0CD), (.vsarImm f, 0x0CE), (.vrotImm f, 0x0CF)], encode p.1 = some w → opcodeOf w = p.2

/-- R142: leading zeros, one bits and bit reversal of the w-bit pattern p. -/
def Claims.CountsAndReversal : Prop :=
  ∀ f : VForm,
    ScalarResult (.sclz f) f (fun t => leadingZeros f.ty.width (t.sbits f.ty f.a.toNat)) ∧
    VectorResult (.vclz f) f (fun t l => leadingZeros f.ty.width (t.vbits f.ty f.a.toNat l)) ∧
    ScalarResult (.spop f) f (fun t => oneBits f.ty.width (t.sbits f.ty f.a.toNat)) ∧
    VectorResult (.vpop f) f (fun t l => oneBits f.ty.width (t.vbits f.ty f.a.toNat l)) ∧
    VectorResult (.vbrev f) f (fun t l => reversed f.ty.width (t.vbits f.ty f.a.toNat l))

/-- R143: VBFE and VBFI, with the control word from a single 32-bit register and start and len clamped. -/
def Claims.BitFields : Prop :=
  ∀ f : VForm,
    VectorResult (.vbfe f) f (fun t l =>
      let c := fieldCtl f.ty (t.elem f.b.toNat l)
      let x := t.vbits f.ty f.a.toNat l / 2 ^ c.1 % 2 ^ c.2
      if f.ty.isSigned ∧ 0 < c.2 ∧ 2 ^ (c.2 - 1) ≤ x then (x : Int) - 2 ^ c.2 else x) ∧
    VectorResult (.vbfi f) f (fun t l =>
      let c := fieldCtl f.ty (t.elem f.c.toNat l)
      let p := t.vbits f.ty f.a.toNat l
      let q := t.vbits f.ty f.b.toNat l
      (p / 2 ^ (c.1 + c.2) * 2 ^ (c.1 + c.2) + q % 2 ^ c.2 * 2 ^ c.1 + p % 2 ^ c.1 : Nat))

/-- R142 and R143: counting, reversal and bit fields, at their opcodes; the counts and the reversal take no source b and have no twin. -/
def Obligations.CountsAndBitFields : Prop :=
  Claims.CountsAndReversal ∧ Claims.BitFields ∧
  (∀ (f : VForm) (w : Word), ∀ p ∈ [(Instr.sclz f, 0x014), (.vclz f, 0x096), (.spop f, 0x015), (.vpop f, 0x097), (.vbrev f, 0x098)],
    (encode p.1 = some w → opcodeOf w = p.2) ∧ (p.1.wellFormed = true → f.b = 0)) ∧
  ∀ (f : VForm) (w : Word), (encode (.vbfe f) = some w → opcodeOf w = 0x099) ∧ (encode (.vbfi f) = some w → opcodeOf w = 0x09A) ∧
    ∀ op ∈ [0x054, 0x055, 0x0D6, 0x0D7, 0x0D8], opcodeOf w = op → decodeWord w = none

/-- R144: SCMP writes 1 or 0 to S[d]; VCMP writes the bits of the active lanes of mask register d. -/
def Claims.Compare : Prop :=
  ∀ f : VForm,
    (∀ s u t, s.Ready u t (.scmp f) f.se f.fs →
      Issues s u t (.scmp f) f.se f.fs [.s f.d.toNat]
        [.s f.d.toNat (if compares f.sub.toNat (t.sval f.ty f.a.toNat) (t.sval f.ty f.b.toNat) then 1 else 0)] 0) ∧
    (∀ s u t, s.Ready u t (.vcmp f) f.se f.fs → ∃ bits : Lanes,
      Issues s u t (.vcmp f) f.se f.fs [.m f.d.toNat] [.m f.d.toNat (t.activeSet f.m) bits] 0 ∧
      ∀ l ∈ t.active f.m, bits.getLsbD l = decide (compares f.sub.toNat (t.val f.ty f.a.toNat l) (t.val f.ty f.b.toNat l)))

/-- R145: SSEL tests all 64 bits of S[c]; VSEL takes each lane's bit of mask register c, m0 included. -/
def Claims.Select : Prop :=
  ∀ f : VForm,
    ScalarResult (.ssel f) f (fun t => if t.scal f.c.toNat ≠ 0 then t.sval f.ty f.a.toNat else t.sval f.ty f.b.toNat) ∧
    VectorResult (.vsel f) f (fun t l =>
      if (t.mask f.c.toNat).getLsbD l = true then t.val f.ty f.a.toNat l else t.val f.ty f.b.toNat l)

/-- R144 and R145: comparisons, at their opcodes and with no condition but the six, and selections. -/
def Obligations.CompareAndSelect : Prop :=
  Claims.Compare ∧ Claims.Select ∧
  ∀ (f : VForm) (w : Word), (encode (.scmp f) = some w → opcodeOf w = 0x010) ∧ (encode (.vcmp f) = some w → opcodeOf w = 0x090) ∧
    ((Instr.scmp f).wellFormed = true ∨ (Instr.vcmp f).wellFormed = true → f.sub.toNat ≤ 5) ∧
    ((Instr.vcmp f).wellFormed = true → 1 ≤ f.d.toNat ∧ f.d.toNat ≤ 15)

/-- R146: SLEA and VLEA. For n64 bits [63:48] of a stay and [47:0] become (a[47:0] + b × 2^sh) mod 2^48; for n32 the sum wraps. -/
def Claims.FormingAddresses : Prop :=
  (∀ f : VForm,
    ScalarResult (.slea f) f (fun t => leaOf f.ty f.sub.toNat (t.sbits f.ty f.a.toNat) (t.sbits f.ty f.b.toNat)) ∧
    VectorResult (.vlea f) f (fun t l => leaOf f.ty f.sub.toNat (t.vbits f.ty f.a.toNat l) (t.vbits f.ty f.b.toNat l))) ∧
  ∀ f : IForm,
    ScalarTwin (.sleaImm f) f (fun t => leaOf f.ty 0 (t.sbits f.ty f.a.toNat) (immBits f)) ∧
    VectorTwin (.vleaImm f) f (fun t l => leaOf f.ty 0 (t.vbits f.ty f.a.toNat l) (immBits f))

/-- R147: lane index, broadcast and extract. -/
def Claims.LaneIndexBroadcastExtract : Prop :=
  ∀ f : VForm,
    VectorResult (.vidx f) f (fun _ l => l) ∧
    VectorResult (.vsplat f) f (fun t _ => t.sval f.ty f.a.toNat) ∧
    ScalarResult (.vext f) f (fun t =>
      if (t.scal f.b.toNat).toNat < t.lanes ∧ t.live.getLsbD (t.scal f.b.toNat).toNat = true then
        t.val f.ty f.a.toNat (t.scal f.b.toNat).toNat
      else 0)

/-- R146 and R147: addresses formed without a carry into the object identifier, lane indices, broadcasts and extracts. -/
def Obligations.AddressesAndLanes : Prop :=
  Claims.FormingAddresses ∧ Claims.LaneIndexBroadcastExtract

/-- R148: VCVTI converts from the type of sub-operation [3:0], saturated under .sat. -/
def Claims.IntegerConversion : Prop :=
  ∀ f : VForm, VectorResult (.vcvti f) f (fun t l => satIf f.sat f.ty (t.val (Ty.ofCode (f.sub.setWidth 4)) f.a.toNat l))

/-- R149: SPK24 copies the two elements of largest magnitude, ties to the lowest position, bit for bit, in position order, and writes lo + 4 × hi.
`p` is any choice of two positions that the rule's two maxima describe. -/
def Claims.SparsityPacker : Prop :=
  ∀ f s u t, s.Ready u t (.spk24 f) f.se f.fs →
    ∃ pos : Nat → Nat × Nat,
      (∀ l ∈ t.active f.m,
        let g := fun j => magnitude f.ty (packElem t f l j)
        (pos l).1 < 4 ∧ (pos l).2 < 4 ∧ (pos l).1 ≠ (pos l).2 ∧
        (∀ j < 4, g j < g (pos l).1 ∨ (g j = g (pos l).1 ∧ (pos l).1 ≤ j)) ∧
        (∀ j < 4, j ≠ (pos l).1 → g j < g (pos l).2 ∨ (g j = g (pos l).2 ∧ (pos l).2 ≤ j))) ∧
      Issues s u t (.spk24 f) f.se f.fs [.v f.d.toNat, .v (f.d.toNat + 1)]
        ((t.active f.m).flatMap fun l =>
          let lo := min (pos l).1 (pos l).2
          let hi := max (pos l).1 (pos l).2
          [.v f.d.toNat l (BitVec.allOnes 32) (BitVec.ofNat 32 (packElem t f l lo + 2 ^ f.ty.width * packElem t f l hi)),
           .v (f.d.toNat + 1) l (BitVec.allOnes 32) (BitVec.ofNat 32 (lo + 4 * hi))]) 0

/-- R148 and R149: conversions between integer types, and the 2:4 packer. -/
def Obligations.ConversionAndPacking : Prop :=
  Claims.IntegerConversion ∧ Claims.SparsityPacker

/-- R174 and R176 with the frame of R174 over the operands' patterns: FADD, FSUB, FMUL, FFMA, FDIV, FSQRT, FSCL, FRND and the immediate twins. The
exact sums, products, quotients and roots that are rounded are those of `Claims.ExactIntermediates`. -/
def Claims.FloatArithmetic : Prop :=
  (∀ f : VForm,
    let F := fmtOf f.ty
    let D := decodeF F
    LanesResult (.fadd f) f f.ty (fun t l =>
      let a := t.fbits f f.a l
      let b := t.fbits f f.b l
      (frame174 F f.sat [a, b] ((D a).isInf && (D b).isInf && (D a).neg != (D b).neg) none
        (if (D a).isInf then roundInf F f.sat (D a).neg else if (D b).isInf then roundInf F f.sat (D b).neg
          else roundEx F f.rnd f.sat (sumEx f.rnd [((D a).neg, (D a).mag), ((D b).neg, (D b).mag)]))).out) ∧
    LanesResult (.fsub f) f f.ty (fun t l =>
      let a := t.fbits f f.a l
      let b := t.fbits f f.b l
      (frame174 F f.sat [a, b] ((D a).isInf && (D b).isInf && (D a).neg == (D b).neg) none
        (if (D a).isInf then roundInf F f.sat (D a).neg else if (D b).isInf then roundInf F f.sat (!(D b).neg)
          else roundEx F f.rnd f.sat (sumEx f.rnd [((D a).neg, (D a).mag), (!(D b).neg, (D b).mag)]))).out) ∧
    LanesResult (.fmul f) f f.ty (fun t l =>
      let a := t.fbits f f.a l
      let b := t.fbits f f.b l
      (frame174 F f.sat [a, b] (((D a).isZero && (D b).isInf) || ((D a).isInf && (D b).isZero)) none
        (if (D a).isInf || (D b).isInf then roundInf F f.sat ((D a).neg != (D b).neg)
          else roundEx F f.rnd f.sat
            { neg := (D a).neg != (D b).neg, m := (D a).mag.1 * (D b).mag.1, e := (D a).mag.2 + (D b).mag.2, sticky := false })).out) ∧
    LanesResult (.ffma f) f f.ty (fun t l =>
      let a := t.fbits f f.a l
      let b := t.fbits f f.b l
      let c := t.fbits f f.c l
      let n := (D a).neg != (D b).neg
      let inf := ((D a).isInf || (D b).isInf) && !(D a).isNaN && !(D b).isNaN
      (frame174 F f.sat [a, b, c]
        (((D a).isZero && (D b).isInf) || ((D a).isInf && (D b).isZero) || (inf && (D c).isInf && (D c).neg != n)) none
        (if (D c).isInf then roundInf F f.sat (D c).neg else if inf then roundInf F f.sat n
          else roundEx F f.rnd f.sat
            (sumEx f.rnd [(n, (D a).mag.1 * (D b).mag.1, (D a).mag.2 + (D b).mag.2), ((D c).neg, (D c).mag)]))).out) ∧
    LanesResult (.fdiv f) f f.ty (fun t l =>
      let a := t.fbits f f.a l
      let b := t.fbits f f.b l
      let n := (D a).neg != (D b).neg
      (frame174 F f.sat [a, b] (((D a).isZero && (D b).isZero) || ((D a).isInf && (D b).isInf))
        (if (D b).isZero && !(D a).isInf then some n else none)
        (if (D a).isInf then roundInf F f.sat n else if (D b).isInf then { pat := F.signPat n, flags := 0 }
          else roundEx F f.rnd f.sat (divEx (D a).neg (D a).mag.1 (D a).mag.2 (D b).neg (D b).mag.1 (D b).mag.2))).out) ∧
    LanesResult (.fsqrt f) f f.ty (fun t l =>
      let a := t.fbits f f.a l
      (frame174 F false [a] ((D a).neg && !(D a).isZero && !(D a).isNaN) none
        (if (D a).isInf then roundInf F false false else if (D a).isZero then { pat := F.signPat (D a).neg, flags := 0 }
          else roundEx F f.rnd false (sqrtEx (D a).mag.1 (D a).mag.2))).out) ∧
    LanesResult (.fscl f) f f.ty (fun t l =>
      let a := t.fbits f f.a l
      (frame174 F f.sat [a] false none
        (if (D a).isInf then roundInf F f.sat (D a).neg
          else roundEx F f.rnd f.sat
            { neg := (D a).neg, m := (D a).mag.1, e := (D a).mag.2 + (t.elem f.b.toNat l).toInt, sticky := false })).out) ∧
    LanesResult (.frnd f) f f.ty (fun t l =>
      let a := t.fbits f f.a l
      let r := intRound f.rnd (D a).neg (D a).mag.1 (D a).mag.2
      (frame174 F false [a] false none
        (if (D a).isInf then roundInf F false (D a).neg
          else { pat := (roundEx F f.rnd false { neg := (D a).neg, m := r.1, e := 0, sticky := false }).pat,
                 flags := if f.sub.getLsbD 0 && r.2 then fNX else 0 })).out)) ∧
  ∀ f : IForm,
    let F := fmtOf f.ty
    let D := decodeF F
    let b := immFloat f
    LanesTwin (.faddImm f) f (fun t l =>
      let a := t.vbits f.ty f.a.toNat l
      (frame174 F false [a, b] ((D a).isInf && (D b).isInf && (D a).neg != (D b).neg) none
        (if (D a).isInf then roundInf F false (D a).neg else if (D b).isInf then roundInf F false (D b).neg
          else roundEx F .rn false (sumEx .rn [((D a).neg, (D a).mag), ((D b).neg, (D b).mag)]))).out) ∧
    LanesTwin (.fsubImm f) f (fun t l =>
      let a := t.vbits f.ty f.a.toNat l
      (frame174 F false [a, b] ((D a).isInf && (D b).isInf && (D a).neg == (D b).neg) none
        (if (D a).isInf then roundInf F false (D a).neg else if (D b).isInf then roundInf F false (!(D b).neg)
          else roundEx F .rn false (sumEx .rn [((D a).neg, (D a).mag), (!(D b).neg, (D b).mag)]))).out) ∧
    LanesTwin (.fmulImm f) f (fun t l =>
      let a := t.vbits f.ty f.a.toNat l
      (frame174 F false [a, b] (((D a).isZero && (D b).isInf) || ((D a).isInf && (D b).isZero)) none
        (if (D a).isInf || (D b).isInf then roundInf F false ((D a).neg != (D b).neg)
          else roundEx F .rn false
            { neg := (D a).neg != (D b).neg, m := (D a).mag.1 * (D b).mag.1, e := (D a).mag.2 + (D b).mag.2, sticky := false })).out)

/-- R175: FDOT2 reads two elements of type T from each source, adds both products and the f32 addend, and rounds once to FP32. Its NaN order is
a0, b0, a1, b1, c, each 16-bit NaN widened as an operand. -/
def Claims.DotProduct : Prop :=
  ∀ f : VForm, LanesResult (.fdot2 f) f .f32 (fun t l =>
    let S := fmtOf f.ty
    let D := decodeF S
    let a0 := (t.elem f.a.toNat l).toNat % 2 ^ 16
    let a1 := (t.elem f.a.toNat l).toNat / 2 ^ 16
    let b0 := (t.elem f.b.toNat l).toNat % 2 ^ 16
    let b1 := (t.elem f.b.toNat l).toNat / 2 ^ 16
    let c := (t.elem f.c.toNat l).toNat
    let C := decodeF .f32 c
    let zeroInf := fun a b => ((D a).isZero && (D b).isInf) || ((D a).isInf && (D b).isZero)
    let terms : List (Bool × Bool) :=
      [(((D a0).isInf || (D b0).isInf) && !(D a0).isNaN && !(D b0).isNaN, (D a0).neg != (D b0).neg),
       (((D a1).isInf || (D b1).isInf) && !(D a1).isNaN && !(D b1).isNaN, (D a1).neg != (D b1).neg), (C.isInf, C.neg)]
    let infs := (terms.filter fun x => x.1).map fun x => x.2
    (frame174 .f32 f.sat [widenPat S .f32 a0, widenPat S .f32 b0, widenPat S .f32 a1, widenPat S .f32 b1, c]
      (zeroInf a0 b0 || zeroInf a1 b1 || (infs.contains true && infs.contains false)) none
      (match infs with
        | n :: _ => roundInf .f32 f.sat n
        | [] => roundEx .f32 f.rnd f.sat (sumEx f.rnd
          [((D a0).neg != (D b0).neg, (D a0).mag.1 * (D b0).mag.1, (D a0).mag.2 + (D b0).mag.2),
           ((D a1).neg != (D b1).neg, (D a1).mag.1 * (D b1).mag.1, (D a1).mag.2 + (D b1).mag.2), (C.neg, C.mag)]))).out)

/-- R174 to R176: each form of the float arithmetic completes wherever it may issue: exec answers a next state, which has one operation more of
the team and differs in nothing else but the team's place. -/
def Claims.FloatFormsComplete : Prop :=
  ∀ (s : State) (u : Nat) (t : Team),
    let completes := fun (i : Instr) => ∃ s' t' o, exec i s = .next s' ∧ s'.team? u = some t' ∧ t.SameButPc t' ∧ s.SameBut s' u ∧
      s'.ops = s.ops ++ [o] ∧ o.agent = .team u ∧ o.kind = .alu
    (∀ f : VForm,
      (s.Ready u t (.fadd f) f.se f.fs → completes (.fadd f)) ∧ (s.Ready u t (.fsub f) f.se f.fs → completes (.fsub f)) ∧
      (s.Ready u t (.fmul f) f.se f.fs → completes (.fmul f)) ∧ (s.Ready u t (.ffma f) f.se f.fs → completes (.ffma f)) ∧
      (s.Ready u t (.fdiv f) f.se f.fs → completes (.fdiv f)) ∧ (s.Ready u t (.fsqrt f) f.se f.fs → completes (.fsqrt f)) ∧
      (s.Ready u t (.frnd f) f.se f.fs → completes (.frnd f)) ∧ (s.Ready u t (.fscl f) f.se f.fs → completes (.fscl f)) ∧
      (s.Ready u t (.fdot2 f) f.se f.fs → completes (.fdot2 f))) ∧
    ∀ f : IForm,
      (s.Ready u t (.faddImm f) false false → completes (.faddImm f)) ∧ (s.Ready u t (.fsubImm f) false false → completes (.fsubImm f)) ∧
      (s.Ready u t (.fmulImm f) false false → completes (.fmulImm f))

/-- R174 to R176: the float arithmetic and the dot product, and that each of their forms completes wherever it may issue. -/
def Obligations.FloatArithmetic : Prop :=
  Claims.FloatArithmetic ∧ Claims.DotProduct ∧ Claims.FloatFormsComplete

/-- What R174 rounds is exact: the sum of finite terms, a quotient by a nonzero divisor, and the square root of a value that is not negative, each
as the real number that the model's exact value stands for; and a sum that is exactly zero has the sign of R157. -/
def Claims.ExactIntermediates : Prop :=
  (∀ (mode : RMode) (ts : List (Bool × Nat × Int)), ts ≠ [] →
    (sumEx mode ts).represents (ts.map fun x => Val.real (.fin x.1 x.2.1 x.2.2)).sum ∧
    ((ts.map fun x => Val.real (.fin x.1 x.2.1 x.2.2)).sum = 0 →
      (sumEx mode ts).neg =
        if ts.all fun x => x.1 then true else if ts.all fun x => !x.1 then false else decide (mode = .rd))) ∧
  (∀ (an bn : Bool) (am bm : Nat) (ae be : Int), bm ≠ 0 →
    (divEx an am ae bn bm be).represents (Val.real (.fin an am ae) / Val.real (.fin bn bm be)) ∧
    (am ≠ 0 → 2 ^ 79 ≤ (divEx an am ae bn bm be).m)) ∧
  ∀ (m : Nat) (e : Int), m ≠ 0 → (sqrtEx m e).represents (Real.sqrt (Val.real (.fin false m e))) ∧ 2 ^ 79 ≤ (sqrtEx m e).m

/-- The rounding step under every result (R26, R157): (m + d) ÷ 2^shift rounded to an integer, its direction by the mode and the sign, to nearest with
ties to even, and inexact just when the result differs. -/
def Claims.RoundingStep : Prop :=
  ∀ (mode : RMode) (neg sticky : Bool) (m shift : Nat) (d : ℝ), 0 ≤ d → d < 1 → (sticky = true ↔ 0 < d) → (sticky = true → 1 ≤ shift) →
    let r := shiftRound mode neg m sticky shift
    let v := ((m : ℝ) + d) / 2 ^ shift
    (r.2 = true ↔ (r.1 : ℝ) ≠ v) ∧
    (mode = .rn → |v - r.1| ≤ 1 / 2 ∧ (|v - r.1| = 1 / 2 → r.1 % 2 = 0)) ∧
    ((mode = .rz ∨ (mode = .rd ∧ neg = false) ∨ (mode = .ru ∧ neg = true)) → (r.1 : ℝ) ≤ v ∧ v < r.1 + 1) ∧
    (((mode = .rd ∧ neg = true) ∨ (mode = .ru ∧ neg = false)) → v ≤ r.1 ∧ (r.1 : ℝ) - 1 < v)

/-- R26, R157, R174: what the float instructions round is the exact sum, quotient or root, and rounding it follows the mode. -/
def Obligations.RoundingIsExact : Prop :=
  Claims.ExactIntermediates ∧ Claims.RoundingStep

/-- R177 to R181: FMIN and FMAX and their twins, FABS and FNEG, FCMP, FMAXI and FMINI, FCLASS. `totalOrder` places −0 below +0, `valueOrder` makes
them equal. -/
def Obligations.MinMaxCompareClass : Prop :=
  (∀ f : VForm,
    let F := fmtOf f.ty
    let w := f.ty.width
    LanesResult (.fmin f) f f.ty (fun t l => minMax F (fun a b => totalOrder w a ≤ totalOrder w b) (t.fbits f f.a l) (t.fbits f f.b l)) ∧
    LanesResult (.fmax f) f f.ty (fun t l => minMax F (fun a b => totalOrder w b ≤ totalOrder w a) (t.fbits f f.a l) (t.fbits f f.b l)) ∧
    LanesResult (.fabs f) f f.ty (fun t l => ((t.fbits f f.a l % 2 ^ (w - 1) : Nat), 0)) ∧
    LanesResult (.fneg f) f f.ty (fun t l =>
      let a := t.fbits f f.a l
      ((if 2 ^ (w - 1) ≤ a then (a : Int) - 2 ^ (w - 1) else a + 2 ^ (w - 1)), 0)) ∧
    LanesResult (.fclass f) f .n32 (fun t l => (classOf F (t.fbits f f.a l), 0)) ∧
    (∀ s u t, s.Ready u t (.fcmp f) f.se f.fs → ∃ bits : Lanes,
      Issues s u t (.fcmp f) f.se f.fs [.m f.d.toNat] [.m f.d.toNat (t.activeSet f.m) bits]
        (raisedBy (t.active f.m) fun l =>
          let a := t.fbits f f.a l
          let b := t.fbits f f.b l
          if (if 2 ≤ f.sub.toNat ∧ f.sub.toNat ≤ 5 then isNaNPat F a || isNaNPat F b else (decodeF F a).isSig || (decodeF F b).isSig)
          then fNV else 0) ∧
      ∀ l ∈ t.active f.m, bits.getLsbD l = decide (
        let a := t.fbits f f.a l
        let b := t.fbits f f.b l
        let ordered := isNaNPat F a = false ∧ isNaNPat F b = false
        (f.sub = 0 ∧ ordered ∧ valueOrder w a = valueOrder w b) ∨ (f.sub = 1 ∧ (¬ordered ∨ valueOrder w a ≠ valueOrder w b)) ∨
        (f.sub = 2 ∧ ordered ∧ valueOrder w a < valueOrder w b) ∨ (f.sub = 3 ∧ ordered ∧ valueOrder w a ≤ valueOrder w b) ∨
        (f.sub = 4 ∧ ordered ∧ valueOrder w a > valueOrder w b) ∨ (f.sub = 5 ∧ ordered ∧ valueOrder w a ≥ valueOrder w b) ∨
        (f.sub = 6 ∧ ¬ordered) ∨ (f.sub = 7 ∧ ordered)))) ∧
  (∀ f : IForm,
    let F := fmtOf f.ty
    let w := f.ty.width
    LanesTwin (.fminImm f) f (fun t l =>
      minMax F (fun a b => totalOrder w a ≤ totalOrder w b) (t.vbits f.ty f.a.toNat l) (immFloat f)) ∧
    LanesTwin (.fmaxImm f) f (fun t l =>
      minMax F (fun a b => totalOrder w b ≤ totalOrder w a) (t.vbits f.ty f.a.toNat l) (immFloat f))) ∧
  ∀ f : VForm, ∀ p ∈ [(Instr.fmaxi f, true), (Instr.fmini f, false)], ∀ s u t, s.Ready u t p.1 f.se f.fs →
    Issues s u t p.1 f.se f.fs [.v f.d.toNat, .v (f.d.toNat + 1)]
      ((t.active f.m).flatMap fun l =>
        let z := winner f.ty p.2 (t.fbits f f.a l, (t.elem (f.a.toNat + 1) l).toNat) (t.fbits f f.b l, (t.elem (f.b.toNat + 1) l).toNat)
        vput f.ty f.d.toNat l z.1 ++ vput .n32 (f.d.toNat + 1) l z.2) 0

/-- R182, R183, R184 and R186: the conversions. Every one rounds once; FCVTI clamps; NCVT keeps the other fields of V[d] when it encodes.
What the spec leaves open or to inference in it is the model's choice: logs 25 and 72. -/
def Obligations.FloatConversions : Prop :=
  ∀ f : VForm,
    let T := Ty.ofCode (f.sub.setWidth 4)
    LanesResult (.fcvt f) f f.ty (fun t l =>
      let a := t.vbits T f.a.toNat l
      let exact := f.ty = T ∨ f.ty = .f64 ∨ (f.ty = .f32 ∧ T ≠ .f64)
      (roundVal (fmtOf f.ty) f.rnd (f.sat && !decide exact) (decodeF (fmtOf T) a)).out) ∧
    LanesResult (.fcvti f) f f.ty (fun t l => toInteger f.ty f.rnd (decodeF (fmtOf T) (t.vbits T f.a.toNat l))) ∧
    LanesResult (.icvtf f) f f.ty (fun t l =>
      let x := t.val T f.a.toNat l
      (roundEx (fmtOf f.ty) f.rnd f.sat { neg := decide (x < 0), m := x.natAbs, e := 0, sticky := false }).out) ∧
    LanesResult (.ncvt f) f (if f.sub.getLsbD 3 then f.ty else .n32) (fun t l =>
      let k := f.sub.toNat % 8
      let w := if k = 3 then 4 else 8
      let at0 := w * (f.sub.toNat / 16 % 8)
      let sc := decodeF .f32 (t.elem f.b.toNat l).toNat
      if f.sub.getLsbD 3 then (ncvtDec (fmtOf f.ty) k f.rnd f.sat ((t.elem f.a.toNat l).toNat / 2 ^ at0 % 2 ^ w) sc).out
      else
        let x := decodeF (fmtOf f.ty) (t.fbits f f.a l)
        let e := if k = 2 then ncvtEncQ f.rnd x sc else ncvtEnc (ncvtFmt k) f.rnd f.sat x sc
        let old := (t.elem f.d.toNat l).toNat
        (old / 2 ^ (at0 + w) * 2 ^ (at0 + w) + e.pat * 2 ^ at0 + old % 2 ^ at0, e.flags))

/-- R166, R187 and R188: RNENC, RNDEC, RNADD and RNMUL, in the ring of integers modulo M. -/
def Claims.Residues : Prop :=
  (∀ f : VForm,
    let M : Int := 255 * 256 * 253
    LanesResult (.rnenc f) f .rn24 (fun t l =>
      let x := t.val f.ty f.a.toNat l
      (digits (if f.sat then max (-(M / 2)) (min x (M / 2 - 1)) else x), if x < -(M / 2) ∨ M / 2 ≤ x then fOF else 0)) ∧
    LanesResult (.rndec f) f f.ty (fun t l => (satIf f.sat f.ty (resVal (t.elem f.a.toNat l).toNat), 0)) ∧
    LanesResult (.rnadd f) f .rn24 (fun t l =>
      let a := resVal (t.elem f.a.toNat l).toNat
      let b := resVal (t.elem f.b.toNat l).toNat
      (digits (if f.sub = 1 then a - b else a + b), 0)) ∧
    LanesResult (.rnmul f) f .rn24 (fun t l =>
      let a := resVal (t.elem f.a.toNat l).toNat
      let b := resVal (t.elem f.b.toNat l).toNat
      let c := resVal (t.elem f.c.toNat l).toNat
      (digits (if f.sub = 1 then a * b + c else a * b), 0))) ∧
  ∀ p : Nat,
    let M : Int := 255 * 256 * 253
    resVal p < M / 2 ∧ -(M / 2) ≤ resVal p ∧ resVal p % 255 = (p % 256 % 255 : Nat) ∧ resVal p % 256 = (p / 256 % 256 : Nat) ∧
    resVal p % 253 = (p / 65536 % 256 % 253 : Nat)

/-- R189: RNG. The value of a lane depends only on the seed, the lane's counter and its global identifier; each active lane's counter goes up by one
and no other does. -/
def Claims.RandomNumbers : Prop :=
  ∀ f s u t, s.Ready u t (.rng f) f.se f.fs → ∃ s' t' o, exec (.rng f) s = .next s' ∧ s'.team? u = some t' ∧ s'.ops = s.ops ++ [o] ∧
    s.SameBut s' u ∧ t'.sregs = t.sregs ∧ t'.vregs = t.vregs ∧ t'.fstat = t.fstat ∧
    o.team = u ∧ o.dests = destsV f.ty f.d.toNat ∧ o.raises = 0 ∧ o.flag = selFlag t.hdr f.se f.fs ∧
    o.writes = ((t.active f.m).flatMap fun l =>
      let k : Word := match s.launchOf t.wg with | some x => x.seed | none => 0
      let g : Word := BitVec.ofNat 64 (s.laneBase t + l)
      let mix := fun x : Word =>
        let y := (x ^^^ (x >>> 30)) * 0xBF58476D1CE4E5B9
        let z := (y ^^^ (y >>> 27)) * 0x94D049BB133111EB
        z ^^^ (z >>> 31)
      let h := mix (mix (k + Store.get t.rngC l * 0x9E3779B97F4A7C15) ^^^ g)
      vput f.ty f.d.toNat l (if f.ty = .f32 then
        (roundEx .f32 .rn false { neg := false, m := h.toNat / 2 ^ 40, e := -24, sticky := false }).pat else h.toNat)) ∧
    t'.rngC = (t.active f.m).foldl (fun c l => Store.set c l (Store.get c l + 1)) t.rngC

/-- R166, R187 to R189: residue arithmetic and random numbers. -/
def Obligations.ResiduesAndRandomNumbers : Prop :=
  Claims.Residues ∧ Claims.RandomNumbers

/-- R190 and R193: a special-function instruction that finds fewer than 8 of its team held enters the column's queue with its register writes, and the
slot has issued; with 8 held the slot waits and nothing changes. -/
def Claims.SpecialFunctions : Prop :=
  ∀ f : VForm, ∀ p ∈ [(Instr.qsin f, 0x180, [SfFn.sin]), (.qcos f, 0x181, [.cos]), (.qsc f, 0x182, [.sin, .cos]), (.qsinp f, 0x183, [.sinp]),
      (.qcosp f, 0x184, [.cosp]), (.qscp f, 0x185, [.sinp, .cosp]), (.qex2 f, 0x186, [.ex2]), (.qlg2 f, 0x187, [.lg2]),
      (.qtnh f, 0x188, [.tnh]), (.qrcp f, 0x189, [.rcp]), (.qrsq f, 0x18A, [.rsq])],
    ∀ s u t, s.Ready u t p.1 f.se f.fs →
      (8 ≤ s.sfHeld u → exec p.1 s = .next s) ∧
      (s.sfHeld u < 8 → ∃ s' t' o, exec p.1 s = .next s' ∧ s'.team? u = some t' ∧ t.SameButPc t' ∧ s.SameBut s' u ∧
        s'.ops = s.ops ++ [o] ∧ (s'.column (s.colOf t)).sfq = (s.column (s.colOf t)).sfq ++ [o.id] ∧
        o.team = u ∧ o.kind = .sf ∧ o.flag = selFlag t.hdr f.se f.fs ∧
        o.dests = (List.range p.2.2.length).map (fun k => .v (f.d.toNat + k)) ∧
        o.writes = p.2.2.zipIdx.flatMap (fun e => (t.active f.m).flatMap fun l =>
          vput f.ty (f.d.toNat + e.2) l (sfResult e.1 (2 * p.2.1 + e.2) f.ty (t.pat f.ty f.a.toNat l)).1.toNat) ∧
        o.raises = p.2.2.zipIdx.foldl (fun a e => a ||| raisedBy (t.active f.m) fun l =>
          (sfResult e.1 (2 * p.2.1 + e.2) f.ty (t.pat f.ty f.a.toNat l)).2) 0)

/-- The rows of R192 for FP32 operands that need no approximation. -/
def Claims.SpecialFunctionRows : Prop :=
  (∀ fn num x, x < 2 ^ 32 → isNaNPat .f32 x = true →
    (sfF fn num x).1 = { pat := quietPat .f32 x, flags := if (decodeF .f32 x).isSig then fNV else 0 }) ∧
  (∀ num, ∀ fn ∈ [SfFn.sin, .cos, .sinp, .cosp], ∀ x ∈ [0x7F800000, 0xFF800000],
    (sfF fn num x).1 = { pat := 0x7FC00000, flags := fNV }) ∧
  (∀ num, ∀ x ∈ [0, 0x80000000], (sfF .sin num x).1 = { pat := x, flags := 0 } ∧ (sfF .sinp num x).1 = { pat := x, flags := 0 } ∧
    (sfF .tnh num x).1 = { pat := x, flags := 0 } ∧ (sfF .cos num x).1 = { pat := 0x3F800000, flags := 0 } ∧
    (sfF .cosp num x).1 = { pat := 0x3F800000, flags := 0 } ∧ (sfF .lg2 num x).1 = { pat := 0xFF800000, flags := fDZ }) ∧
  (∀ num, (sfF .ex2 num 0xFF800000).1 = { pat := 0, flags := 0 } ∧ (sfF .ex2 num 0x7F800000).1 = { pat := 0x7F800000, flags := 0 } ∧
    (sfF .lg2 num 0x7F800000).1 = { pat := 0x7F800000, flags := 0 } ∧ (sfF .lg2 num 0xFF800000).1 = { pat := 0x7FC00000, flags := fNV } ∧
    (sfF .tnh num 0x7F800000).1 = { pat := 0x3F800000, flags := 0 } ∧ (sfF .tnh num 0xFF800000).1 = { pat := 0xBF800000, flags := 0 } ∧
    (sfF .rcp num 0).1 = { pat := 0x7F800000, flags := fDZ } ∧ (sfF .rcp num 0x80000000).1 = { pat := 0xFF800000, flags := fDZ } ∧
    (sfF .rcp num 0x7F800000).1 = { pat := 0, flags := 0 } ∧ (sfF .rcp num 0xFF800000).1 = { pat := 0x80000000, flags := 0 } ∧
    (sfF .rsq num 0).1 = { pat := 0x7F800000, flags := fDZ } ∧ (sfF .rsq num 0x80000000).1 = { pat := 0xFF800000, flags := fDZ } ∧
    (sfF .rsq num 0x7F800000).1 = { pat := 0, flags := 0 })

/-- R193: SF_QUEUE_WRITE. The first instruction of a column's special-function service order writes its registers and raises its flags. -/
def Claims.SpecialFunctionsWrite : Prop :=
  ∀ (s : State) (c n : Nat) (o : Op) (rest : List Nat), s.arg = .id c →
    ((s.column c).sfq = n :: rest → s.op? n = some o → Does s .sfQueueWrite fun s' => Finishes s s' o o.writes o.raises ∧ (s'.column c).sfq = rest) ∧
    ((s.column c).sfq = [] → exec .sfQueueWrite s = .next s)

/-- R190, R192, R193: the special functions enter their queue; the rows of R192 that need no approximation. Where R190 allows a unit of last place, the value is the free value of log 7, and the statement holds for every one. -/
def Obligations.SpecialFunctions : Prop :=
  Claims.SpecialFunctions ∧ Claims.SpecialFunctionRows ∧ Claims.SpecialFunctionsWrite

/-- R213, R216, R217, R218, R224: what LD, ST, LDC, LDSP, STSP, PREF and CLNV issue: one access for each active lane (LDC: one; LDSP and STSP: one
for each half that the lane uses), at R17's address in the team's own slice, of the element's width; a store carries the w low bits of register d,
and a load returns to register d. PREF issues those lanes alone that pass the checks.
What the spec leaves open or to inference in it is the model's choice: logs 19 and 59. -/
def Obligations.LoadsAndStores : Prop :=
  ∀ f : MForm,
    MemResult (.ld f) f (destsV f.ty f.d.toNat) (fun _ _ => false) (fun s u t => (t.active f.m).map fun l =>
      s.sliceAcc u t (effAddr t f f.ty.bytes l) l f.ty.bytes .read (.vreg f.d.toNat f.ty 1)) ∧
    MemResult (.st f) f [] (fun _ _ => false) (fun s u t => (t.active f.m).map fun l =>
      s.sliceAcc u t (effAddr t f f.ty.bytes l) l f.ty.bytes (.write (bytesOfNat (t.vbits f.ty f.d.toNat l) f.ty.bytes)) .none) ∧
    MemResult (.ldc f) f [.s f.d.toNat] (fun _ _ => false) (fun s u t =>
      [s.sliceAcc u t (effAddr t f f.ty.bytes 0) 0 f.ty.bytes .read (.sreg f.d.toNat f.ty)]) ∧
    MemResult (.ldsp f) f [.v f.d.toNat] (fun _ _ => false) (fun s u t => (t.active f.m).flatMap fun l =>
      if f.ty = .bf16 then [s.halfAcc u t (effAddr t f 4 l) l false [false] .read (.upper f.d.toNat)]
      else [s.halfAcc u t (effAddr t f 4 l) l false [false, true] .read (.half f.d.toNat true),
        s.halfAcc u t (effAddr t f 4 l) l true [false, true] .read (.half f.d.toNat false)]) ∧
    MemResult (.stsp f) f [] (fun _ _ => false) (fun s u t => (t.active f.m).flatMap fun l =>
      let x := (t.elem f.d.toNat l).toNat
      [s.halfAcc u t (effAddr t f 4 l) l false [false, true]
          (.write (bytesOfNat (if f.ty = .bf16 then x % 2 ^ 16 else x / 2 ^ 16) 2)) .none,
        s.halfAcc u t (effAddr t f 4 l) l true [false, true] (.write (bytesOfNat (if f.ty = .bf16 then 0 else x % 2 ^ 16) 2)) .none]) ∧
    MemResult (.clnv f) f [] (fun _ _ => false) (fun s u t => (t.active f.m).map fun l =>
      s.sliceAcc u t (effAddr t f 1 l) l 1 (.clean (f.d.extractLsb' 2 2 == 2)) .none) ∧
    (∀ s u t, s.Ready u t (.pref f) f.se f.fs → ∃ acc, IssuesAccesses s u t t (.pref f) f.se f.fs [] acc false ∧
      ∀ a, a ∈ acc ↔ ∃ l ∈ t.active f.m,
        a = s.sliceAcc u t (effAddr t f f.ty.bytes l) l f.ty.bytes .pref .none ∧ s.checkAccess u a = .ok)

/-- R204, R205, R217: LDS and STS move groups of 1, 2 or 4 elements per lane between the workgroup's scratchpad and registers; PSTAT.ST_RPL is set
when a lane group needs more than one slot, that is, when two different words of one bank are asked for.
What the spec leaves open or to inference in it is the model's choice: log 73. -/
def Obligations.ScratchpadAccess : Prop :=
  ∀ (f : MForm) (s : State) (u : Nat) (t : Team),
    let size := Fields.groupG f * f.ty.bytes
    let acc := fun (act : Nat → Act) (ld : Land) => (t.active f.m).map fun l =>
      ({ el := l, lane := l, path := .T, space := .spad t.wg, addr := effAddr t f f.ty.bytes l, size := size, act := act l, land := ld,
         lower := false, halves := [] } : Access)
    let clash := fun (as : List Access) => ∃ a ∈ as, ∃ b ∈ as, a.lane / groupLanes size = b.lane / groupLanes size ∧
      s.checkSpad t.wg a.addr size = .ok ∧ s.checkSpad t.wg b.addr size = .ok ∧
      ∃ i < (size + 3) / 4, ∃ j < (size + 3) / 4, a.addr.toNat / 4 + i ≠ b.addr.toNat / 4 + j ∧
        (a.addr.toNat / 4 + i) % 32 = (b.addr.toNat / 4 + j) % 32
    (s.Ready u t (.lds f) f.se f.fs →
      let as := acc (fun _ => .read) (.vreg f.d.toNat f.ty (Fields.groupG f))
      ∃ p, (clash as → p = t.pstat ||| 2) ∧ (¬clash as → p = t.pstat) ∧
        IssuesAccesses s u t { t with pstat := p } (.lds f) f.se f.fs (destsK f.d.toNat (Fields.groupRegs f)) as false) ∧
    (s.Ready u t (.sts f) f.se f.fs →
      let as := acc (fun l => .write ((List.range (Fields.groupG f)).flatMap fun j =>
        bytesOfNat (t.vbits f.ty (f.d.toNat + j * (if f.ty.width = 64 then 2 else 1)) l) f.ty.bytes)) .none
      ∃ p, (clash as → p = t.pstat ||| 2) ∧ (¬clash as → p = t.pstat) ∧
        IssuesAccesses s u t { t.counted (.sts f) with pstat := p } (.sts f) f.se f.fs [] as false)

/-- R219 to R222, R335: ATOM on path T and ATOMF on path F, by operation: the accesses that they issue. -/
def Claims.AtomicAccesses : Prop :=
  ∀ f : MForm,
    (AtomResult (.atomAdd f) f .add ∧ AtomResult (.atomSub f) f .sub ∧ AtomResult (.atomMin f) f .min ∧ AtomResult (.atomMax f) f .max ∧
      AtomResult (.atomAnd f) f .and ∧ AtomResult (.atomOr f) f .or ∧ AtomResult (.atomXor f) f .xor ∧ AtomResult (.atomXchg f) f .xchg ∧
      AtomResult (.atomCas f) f .cas ∧ AtomResult (.atomFadd f) f .fadd ∧ AtomResult (.atomMaxi f) f .maxi ∧ AtomResult (.atomMini f) f .mini) ∧
    (FarAtomResult (.atomfAdd f) f .add ∧ FarAtomResult (.atomfSub f) f .sub ∧ FarAtomResult (.atomfMin f) f .min ∧
      FarAtomResult (.atomfMax f) f .max ∧ FarAtomResult (.atomfAnd f) f .and ∧ FarAtomResult (.atomfOr f) f .or ∧
      FarAtomResult (.atomfXor f) f .xor ∧ FarAtomResult (.atomfXchg f) f .xchg ∧ FarAtomResult (.atomfCas f) f .cas ∧
      FarAtomResult (.atomfFadd f) f .fadd ∧ FarAtomResult (.atomfMaxi f) f .maxi ∧ FarAtomResult (.atomfMini f) f .mini)

/-- R223, R335, R341: ATOMR.add in a deterministic launch gives each active lane, in ascending order, its reservation's base plus the team's running
count, and adds its operand to the count, when every active lane names the reservation and their operands stay within its capacity; outside a
deterministic launch it raises IINS. -/
def Claims.ReservedAdds : Prop :=
  ∀ (f : MForm) (s : State) (u : Nat) (t : Team), s.Ready u t (.atomrAdd f) f.se f.fs →
    (s.isDet t.wg = false → t.priv = false → t.spec = none → TrapsAtIssue s u t (.atomrAdd f) .iins t.slot 0 [] (t.mask 0)) ∧
    (∀ k r, s.isDet t.wg = true → k < t.resv.length → t.resv[k]? = some r → r.used = true → r.wide = decide (f.ty.width = 64) →
      (∀ j q, t.resv[j]? = some q → j < k → ¬(q.used = true ∧ q.caddr = r.caddr ∧ q.wide = r.wide)) →
      (∀ l ∈ t.active f.m, effAddr t f f.ty.bytes l = r.caddr) →
      r.count + ((t.active f.m).map fun l => t.vbits f.ty f.d.toNat l).sum ≤ r.cap →
      ∃ s' t' o, exec (.atomrAdd f) s = .next s' ∧ s'.team? u = some t' ∧
        ({ t with resv := t.resv.set k { r with count := r.count + ((t.active f.m).map fun l => t.vbits f.ty f.d.toNat l).sum } } : Team).SameButPc t' ∧
        s.SameBut s' u ∧ s'.ops = s.ops ++ [o] ∧ o.agent = .team u ∧ o.dests = destsV f.ty f.d.toNat ∧
        o.flag = selFlag t.hdr f.se f.fs ∧ o.raises = 0 ∧
        o.writes = (t.active f.m).flatMap fun l => vput f.ty f.d.toNat l
          (r.base + (r.count + (((t.active f.m).filter (· < l)).map fun k => t.vbits f.ty f.d.toNat k).sum : Nat)))

/-- R219 to R223: the atomics of paths T and F, and the reserved adds. -/
def Obligations.AtomicsIssue : Prop :=
  Claims.AtomicAccesses ∧ Claims.ReservedAdds

/-- R219: the new value of an atomic, from the old bytes and the operand's, for the types of ATOM; integers wrap, `.fadd` rounds with rn, `.maxi` and
`.mini` keep the winner of R180 over (value, index) pairs. -/
def Obligations.AtomicValues : Prop :=
  ∀ (ty : Ty) (old x cmp : List Byte), (ty.width = 32 ∨ ty.width = 64) → old.length = ty.bytes → x.length = ty.bytes →
    let new := fun (aop : AOp) => (atomNew aop ty old x cmp).1
    let a := valueOf ty old
    let b := valueOf ty x
    (valueOf ty (new .add) = wrapTo ty (a + b) ∧ valueOf ty (new .sub) = wrapTo ty (a - b) ∧
      valueOf ty (new .min) = min a b ∧ valueOf ty (new .max) = max a b ∧
      natOfBytes (new .and) = natOfBytes old &&& natOfBytes x ∧ natOfBytes (new .or) = natOfBytes old ||| natOfBytes x ∧
      natOfBytes (new .xor) = natOfBytes old ^^^ natOfBytes x ∧ new .xchg = x ∧ new .cas = if old = cmp then x else old) ∧
    (∀ aop, aop ≠ .maxi → aop ≠ .mini → (new aop).length = ty.bytes) ∧
    (∀ aop, aop ≠ .fadd → (atomNew aop ty old x cmp).2 = 0) ∧
    (ty = .f32 ∨ ty = .f64 →
      let F := fmtOf ty
      let D := decodeF F
      let p := natOfBytes old
      let q := natOfBytes x
      let r := frame174 F false [p, q] ((D p).isInf && (D q).isInf && (D p).neg != (D q).neg) none
        (if (D p).isInf then roundInf F false (D p).neg else if (D q).isInf then roundInf F false (D q).neg
          else roundEx F .rn false (sumEx .rn [((D p).neg, (D p).mag), ((D q).neg, (D q).mag)]))
      natOfBytes (new .fadd) = r.pat ∧ (atomNew .fadd ty old x cmp).2 = r.flags) ∧
    (ty = .f64 → ∀ isMax,
      let z := (atomNew (if isMax then .maxi else .mini) .f32 old x cmp).1
      (natOfBytes (z.take 4), natOfBytes (z.drop 4)) =
        winner .f32 isMax (natOfBytes (old.take 4), natOfBytes (old.drop 4)) (natOfBytes (x.take 4), natOfBytes (x.drop 4)))

/-- MM_ISSUE, MM_PERFORM of a read (R314, R315, R214): an issued instruction's accesses enter the path queue. A queued read that is in order and
passes its checks takes the youngest write of its own issuer's path buffer if that covers it, waits if that covers only a part, and otherwise
takes memory's bytes, which land as R73, R74, R213 and R217 say; poison gives its lane the error response EUCE. No byte of memory
changes. Lanes whose words one slot of the vector port serves are served in one step (R205), one after another; the two halves of a lane of LDSP
or STSP are performed in one step, or not at all (R377). Stated for paths T and F outside a window and a deterministic launch. -/
def Claims.ReadsArePerformed : Prop :=
  (∀ s n o, s.arg = .id n → s.op? n = some o →
    exec .mmIssue s = .next { s with ops := s.ops.map fun p => if p.id == n then { o with queued := true } else p }) ∧
  (∀ s n el o a, s.arg = .pair n el → s.op? n = some o → o.kind = .mem → o.acc.find? (fun x => x.el == el) = some a →
    (∀ w, a.space ≠ .spad w) ∨ a.path ≠ .T →
    (a.halves = [] → exec .mmPerform s = .next (s.performAccess o a)) ∧
    (a.halves ≠ [] → (o.acc.map (·.el)).Nodup →
      let lane := o.acc.filter fun b => b.lane == a.lane
      let s1 := lane.foldl (fun s b => match s.op? o.id with
        | some p => if (p.acc.find? fun c => c.el == b.el) = some b then s.performAccess p b else s
        | none => s) s
      ((∃ p, s1.op? o.id = some p ∧ ∃ b ∈ p.acc, ∃ c ∈ lane, b.el = c.el) → exec .mmPerform s = .next s) ∧
      ((∀ p, s1.op? o.id = some p → ∀ b ∈ p.acc, ∀ c ∈ lane, b.el ≠ c.el) → exec .mmPerform s = .next s1))) ∧
  (∀ s n el o a w, s.arg = .pair n el → s.op? n = some o → o.kind = .mem → o.acc.find? (fun x => x.el == el) = some a →
    a.space = .spad w → a.path = .T → a.halves = [] → (o.acc.map (·.el)).Nodup →
    ∃ mates : List Access, (∀ b ∈ mates, b ∈ o.acc) ∧
      (∀ b ∈ o.acc, b ∈ mates ↔ b.path = .T ∧ b.space = .spad w ∧ b.lane / groupLanes b.size = a.lane / groupLanes a.size ∧
        b.addr.toNat / 4 * 4 < a.addr.toNat + a.size ∧ a.addr.toNat / 4 * 4 < b.addr.toNat + b.size) ∧
      exec .mmPerform s = .next (mates.foldl (fun s b => match s.op? o.id with
        | some p => if (p.acc.find? fun c => c.el == b.el) = some b then s.performAccess p b else s
        | none => s) s)) ∧
  ∀ (s : State) (n el : Nat) (o : Op) (a : Access) (t : Team),
    s.arg = .pair n el → s.op? n = some o → o.kind = .mem → o.acc.find? (fun x => x.el == el) = some a → o.queued = true →
    s.inOrder o a = true → s.spadTurn o a = true → o.slotMates a = [el] → s.fenceHolds o.team a.path o.seq = false →
    s.checkAccess o.team a = .ok → a.act = .read → (a.path = .T ∨ a.path = .F) → (∀ d c x, a.space ≠ .remote d c x) → (∀ k, a.land ≠ .data k) → s.team? o.team = some t →
    t.spec = none → s.isDet t.wg = false →
    let own := s.bufs.filter fun b => b.agent == .team o.team && b.path == a.path && b.stage == 0 && b.act.writes && b.hits a.space a.lower a.addr a.size
    let takes := fun (bs : List Byte) => ∃ s', exec .mmPerform s = .next s' ∧ s'.store = s.store ∧ s'.teams = s.teams ∧ s'.bufs = s.bufs ∧
      s'.ops = s.ops.map fun p => if p.id == n then
        { o with acc := o.acc.filter (fun x => x.el != el), writes := o.writes ++ landing a.land a.lane bs } else p
    (own = [] → (∀ k < a.size, s.poisonedAt a.space (a.addr + BitVec.ofNat 64 k) a.lower 1 = false) →
      takes (s.readMem a.space a.addr a.lower a.size)) ∧
    (∀ b w, own.getLast? = some b → b.act = .write w → b.covers a.space a.lower a.addr a.size = true →
      takes ((w.drop (a.addr.toNat - b.addr.toNat)).take a.size)) ∧
    (∀ b, own.getLast? = some b → b.covers a.space a.lower a.addr a.size = false → exec .mmPerform s = .next s) ∧
    (own = [] → (∃ k < a.size, s.poisonedAt a.space (a.addr + BitVec.ofNat 64 k) a.lower 1 = true) →
      ∃ s' t', exec .mmPerform s = .next s' ∧ s'.store = s.store ∧ s'.team? o.team = some t' ∧ t'.elogInfo.getLsbD 0 = true ∧
        s'.ops = s.ops.map fun p => if p.id == n then o.dropLane a.lane else p)

/-- Where the bytes that a read returns land (R73, R74, R213, R217): an element of type T in the lane, extended; a group of elements in successive
registers; a half of an element, the other half kept; a BF16 pattern in the low half with zeros above; LDC in a scalar, extended. -/
def Claims.LoadsLand : Prop :=
  (∀ ty n l (bs : List Byte), bs.length = ty.bytes → ty.isInt = true →
    landing (.vreg n ty 1) l bs = vput ty n l (valueOf ty bs) ∧ landing (.sreg n ty) l bs = [sput ty n (valueOf ty bs)]) ∧
  (∀ ty n l (b0 b1 : List Byte), b0.length = ty.bytes → b1.length = ty.bytes → ty.isInt = true → ty.width ≤ 32 →
    landing (.vreg n ty 2) l (b0 ++ b1) = vput ty n l (valueOf ty b0) ++ vput ty (n + 1) l (valueOf ty b1)) ∧
  (∀ n l (b0 b1 : Byte) (t : Team), Store.wf t.vregs = true →
    let x := b0.toNat + 256 * b1.toNat
    ((t.applyAll (landing (.half n true) l [b0, b1])).elem n l).toNat = 2 ^ 16 * x + (t.elem n l).toNat % 2 ^ 16 ∧
    ((t.applyAll (landing (.half n false) l [b0, b1])).elem n l).toNat = (t.elem n l).toNat / 2 ^ 16 * 2 ^ 16 + x ∧
    ((t.applyAll (landing (.upper n) l [b0, b1])).elem n l).toNat = x)

/-- R213, R214, R217, R314, R315: reads take what their order says, and land in their registers.
What the spec leaves open or to inference in it is the model's choice: logs 17 and 66. -/
def Obligations.ReadsArePerformed : Prop :=
  Claims.ReadsArePerformed ∧ Claims.LoadsLand

/-- MM_PERFORM of a write (R314, R333, R336, R338): a queued write that is in order and passes its checks enters its issuer's path buffer with its
place and its bytes; in a deterministic launch a write to an object other than object 0 is staged, in order, while the workgroup's capacity
lasts; but in a speculative window it stays in the buffer (R327), and in a cancelled workgroup it is discarded (R54). None of these changes a byte
of memory. -/
def Claims.WritesArePerformed : Prop :=
  ∀ (s : State) (n el : Nat) (o : Op) (a : Access) (t : Team) (bs : List Byte),
    s.arg = .pair n el → s.op? n = some o → o.kind = .mem → o.acc.find? (fun x => x.el == el) = some a → o.queued = true →
    s.inOrder o a = true → s.spadTurn o a = true → o.slotMates a = [el] → s.fenceHolds o.team a.path o.seq = false →
    s.checkAccess o.team a = .ok → a.act = .write bs → a.path = .T → s.team? o.team = some t →
    let left := s.ops.map fun p => if p.id == n then { o with acc := o.acc.filter fun x => x.el != el } else p
    (s.stages o.team a.space a.addr a.act = false ∨ (s.stageOrder o a = true ∧ t.inWindow o.seq = true) →
      ∃ s' b, exec .mmPerform s = .next s' ∧ s'.store = s.store ∧ s'.teams = s.teams ∧ s'.wgs = s.wgs ∧ s'.ops = left ∧ s'.bufs = s.bufs ++ [b] ∧
        b.agent = .team o.team ∧ b.team = o.team ∧ b.path = .T ∧ b.seq = o.seq ∧ b.space = a.space ∧ b.addr = a.addr ∧ b.lower = a.lower ∧
        b.act = .write bs ∧ b.stage = 0 ∧ b.spec = t.inWindow o.seq) ∧
    ∀ g, s.stages o.team a.space a.addr a.act = true → s.wg? t.wg = some g → s.stageOrder o a = true → t.inWindow o.seq = false →
      (g.cancelled = true → exec .mmPerform s = .next { s with ops := left }) ∧
      (g.cancelled = false → s.splitAt a.space a.addr = false → g.stageUsed < s.stageCap t.wg →
        ∃ s' g' e, exec .mmPerform s = .next s' ∧ s'.store = s.store ∧ s'.bufs = s.bufs ∧ s'.ops = left ∧
          (s'.teams.map fun x => (x.1, { x.2 with spec := none })) = (s.teams.map fun x => (x.1, { x.2 with spec := none })) ∧
          s'.wg? t.wg = some g' ∧ g'.staged = g.staged ++ [e] ∧ g'.stageUsed = g.stageUsed + 1 ∧
          e.twg = t.twg ∧ e.rank = 0 ∧ e.seq = o.seq ∧ e.el = el ∧ e.space = a.space ∧ e.addr = a.addr ∧ e.act = .write bs) ∧
      (g.cancelled = false → s.splitAt a.space a.addr = false → s.stageCap t.wg ≤ g.stageUsed →
        ∃ s' t', exec .mmPerform s = .next s' ∧ s'.store = s.store ∧ s'.bufs = s.bufs ∧ s'.wgs = s.wgs ∧ s'.team? o.team = some t' ∧
          t'.elogInfo.getLsbD 0 = true ∧ s'.ops = s.ops.map fun p => if p.id == n then o.dropLane a.lane else p)

/-- MM_EXPORT, MM_TRANSFER and MM_APPLY of a write (R205, R206, R314, R320 to R322): where memory takes a write's bytes, exactly those bytes change
and every other byte reads as before. A write to the issuer's own die reaches memory as it is exported, and with it the writes of the same
instruction to its words, `ms`, the bytes of a later one over those of an earlier; one that crosses dies is numbered and stamped, then
moves to the apply queue, and reaches memory when its base die is ready. Its buffer entries leave, and of the others only the model's list of
what their store has written before them changes (R410). -/
def Claims.WritesReachMemory : Prop :=
  ∀ (s : State) (n : Nat) (b : BufWrite) (bs : List Byte), s.Canonical → s.arg = .id n → s.buf? n = some b → b.act = .write bs →
    let puts := fun (ms : List BufWrite) (place : BufWrite → Option Nat) (k : Nat) (old : Byte) => ms.foldl (fun x m => match place m with
      | some p => if p ≤ k ∧ k < p + m.act.bytes.length then m.act.bytes.getD (k - p) 0 else x
      | none => x) old
    let lands := fun (ms : List BufWrite) (s' : State) =>
      (∀ x c v, b.space = .slice x c v →
        (∀ key, s'.byteAt key = puts ms (fun m => s.physAt m.space m.addr m.lower) key (s.byteAt key)) ∧
        ∀ w off, s'.spadByte w off = s.spadByte w off) ∧
      (∀ w g, b.space = .spad w → s.wg? w = some g →
        (∀ off, s'.spadByte w off = puts ms (fun m => some m.addr.toNat) off (s.spadByte w off)) ∧
        (∀ v off, v ≠ w → s'.spadByte v off = s.spadByte v off) ∧ ∀ key, s'.byteAt key = s.byteAt key)
    let leaves := fun (gone : BufWrite → Bool) (s' : State) =>
      (s'.bufs.map fun c => { c with before := [] }) = (s.bufs.filter fun c => !gone c).map fun c => { c with before := [] }
    (s.mayExport b = true → s.crossing b.team b.space = none → (∀ d c x, b.space ≠ .remote d c x) →
      ∃ s', exec .mmExport s = .next s' ∧ lands (s.storeMates b) s' ∧ s'.dram = s.dram ∧ s'.ops = s.ops ∧ b ∈ s.storeMates b ∧
        leaves (fun c => (s.storeMates b).any fun m => m.id == c.id) s' ∧
        ((b.path ≠ .T ∨ ∀ c ∈ s.bufs, c.id = n ∨ c.op ≠ b.op) → ∀ m ∈ s.storeMates b, m.id = n)) ∧
    (∀ d e, s.mayExport b = true → s.crossing b.team b.space = some (d, e) →
      let num := (s.vclk.getD d []).getD d 0 + 1
      exec .mmExport s = .next { s with
        vclk := s.vclk.set d ((s.vclk.getD d []).set d num)
        bufs := s.bufs.map fun c => if c.id == n then
          { b with stage := 1, die := d, num := num, stamp := (s.vclk.getD d []).set d num } else c }) ∧
    (b.stage = 1 → exec .mmTransfer s = .next { s with bufs := s.bufs.map fun c => if c.id == n then { b with stage := 2 } else c }) ∧
    (∀ c, b.stage = 2 → Space.col? s b.space = some c → s.ready b (c / 64 / 2) = true → s.sharedPage b.space b.addr b.lower = false →
      ∃ s', exec .mmApply s = .next s' ∧ lands [b] s' ∧ s'.dram = s.dram ∧ s'.ops = s.ops ∧ leaves (fun c => c.id == n) s' ∧
        s'.pclk = s.pclk.map (fun p => p.set b.die (max b.num (p.getD b.die 0))) ∧
        s'.vclk = s.vclk.set (c / 64) (List.zipWith max (s.vclk.getD (c / 64) []) b.stamp))

/-- R314, R320 to R322, R333, R336: a write enters its buffer or is staged, and then reaches memory, where only its own bytes change.
What the spec leaves open or to inference in it is the model's choice: logs 20, 21, 23 and 52. -/
def Obligations.WritesReachMemory : Prop :=
  Claims.WritesArePerformed ∧ Claims.WritesReachMemory

/-- MM_PERFORM of an atomic on the issuer's own die (R219, R221, R316): memory's value is replaced by the new one in one step, and by no other
byte; the old value lands, and the flags are raised with the instruction's write. -/
def Claims.AtomicsArePerformed : Prop :=
  ∀ (s : State) (n el : Nat) (o : Op) (a : Access) (aop : AOp) (ty : Ty) (x cmp : List Byte) (k : Nat),
    s.Canonical → s.arg = .pair n el → s.op? n = some o → o.kind = .mem → o.acc.find? (fun y => y.el == el) = some a → o.queued = true →
    s.inOrder o a = true → s.fenceHolds o.team a.path o.seq = false → s.checkAccess o.team a = .ok → a.act = .atomic aop ty x cmp →
    a.lower = false → a.halves = [] → a.size = x.length → s.stages o.team a.space a.addr a.act = false →
    (∀ b ∈ s.bufs, b.agent = issuerOf o.team a.path → b.path = a.path → b.stage = 0 → b.hits a.space a.lower a.addr a.size = false) →
    s.crossing o.team a.space = none → s.physAt a.space a.addr false = some k → s.sharedPage a.space a.addr false = false →
    s.poisonedAt a.space a.addr false a.size = false → (∀ j, a.land ≠ .data j) →
    let old := Memory.bytes s.mem k x.length
    let new := atomNew aop ty old x cmp
    ∃ s', exec .mmPerform s = .next s' ∧ (∀ w off, s'.spadByte w off = s.spadByte w off) ∧ s'.dram = s.dram ∧ s'.bufs = s.bufs ∧
      (∀ key, s'.byteAt key = if k ≤ key ∧ key < k + new.1.length then new.1.getD (key - k) 0 else s.byteAt key) ∧
      s'.ops = s.ops.map fun p => if p.id == n then
        { o with acc := o.acc.filter (fun y => y.el != el), writes := o.writes ++ landing a.land a.lane old, raises := o.raises ||| new.2 } else p

/-- MM_PERFORM and MM_APPLY of an atomic that does not stay on the issuer's die (R219, R221, R222, R316, R320 to R322, R423): one for another die
enters the send queue with its number and its stamp, and one for another device leaves as a packet by the port that R424 picks, and neither changes
a byte; on the base die's turn the first replaces memory's value in one step, and the old value and the flags come back with it. -/
def Claims.AtomicsElsewhere : Prop :=
  (∀ (s : State) (n el : Nat) (o : Op) (a : Access) (aop : AOp) (ty : Ty) (x cmp : List Byte),
    s.arg = .pair n el → s.op? n = some o → o.kind = .mem → o.acc.find? (fun y => y.el == el) = some a → o.queued = true →
    s.inOrder o a = true → s.fenceHolds o.team a.path o.seq = false → s.checkAccess o.team a = .ok → a.act = .atomic aop ty x cmp →
    a.halves = [] → (∀ w, a.space ≠ .spad w) → s.stages o.team a.space a.addr a.act = false →
    (∀ b ∈ s.bufs, b.agent = issuerOf o.team a.path → b.path = a.path → b.stage = 0 → b.hits a.space a.lower a.addr a.size = false) →
    let left := s.ops.map fun p => if p.id == n then { o with acc := o.acc.filter fun y => y.el != el } else p
    let carries := fun (b : BufWrite) => b.id = s.nextId ∧ b.op = n ∧ b.team = o.team ∧ b.path = a.path ∧ b.seq = o.seq ∧ b.el = el ∧ b.lane = a.lane ∧
      b.land = a.land ∧ b.space = a.space ∧ b.addr = a.addr ∧ b.act = a.act ∧ b.size = a.size
    (∀ d e, (∀ dev c v, a.space ≠ .remote dev c v) → s.crossing o.team a.space = some (d, e) →
      let num := (s.vclk.getD d []).getD d 0 + 1
      let stamp := (s.vclk.getD d []).set d num
      ∃ b, exec .mmPerform s = .next { s with nextId := s.nextId + 1, vclk := s.vclk.set d stamp, bufs := s.bufs ++ [b], ops := left } ∧
        carries b ∧ b.stage = 1 ∧ b.die = d ∧ b.num = num ∧ b.stamp = stamp) ∧
    (∀ dev c v ctx port, a.space = .remote dev c v → s.ctx? v = some ctx → s.portFor ctx.part dev c = some port →
      ∃ b f, exec .mmPerform s = .next { s with nextId := s.nextId + 1, bufs := s.bufs ++ [b], egress := s.egress ++ [(port, f)], ops := left } ∧
        carries b ∧ b.stage = 3 ∧ f.dst = s.macOf dev ∧ f.src = s.macOfPart ctx.part ∧ f.pkt = .atomic s.nextId v c a.addr aop ty x cmp)) ∧
  ∀ (s : State) (n c k : Nat) (b : BufWrite) (o : Op) (aop : AOp) (ty : Ty) (x cmp : List Byte),
    s.Canonical → s.arg = .id n → s.buf? n = some b → b.act = .atomic aop ty x cmp → b.stage = 2 → b.lower = false → b.size = x.length →
    Space.col? s b.space = some c → s.ready b (c / 64 / 2) = true → s.sharedPage b.space b.addr false = false → s.op? b.op = some o →
    s.physAt b.space b.addr false = some k → s.poisonedAt b.space b.addr false b.size = false → (∀ j, b.land ≠ .data j) →
    let old := Memory.bytes s.mem k x.length
    let new := atomNew aop ty old x cmp
    ∃ s', exec .mmApply s = .next s' ∧ (∀ w off, s'.spadByte w off = s.spadByte w off) ∧ s'.dram = s.dram ∧
      (∀ key, s'.byteAt key = if k ≤ key ∧ key < k + new.1.length then new.1.getD (key - k) 0 else s.byteAt key) ∧
      (s'.bufs = s.bufs.filter fun c => c.id != n) ∧ s'.pclk = s.pclk.map (fun p => p.set b.die (max b.num (p.getD b.die 0))) ∧
      s'.ops = s.ops.map fun p => if p.id == b.op then { o with writes := o.writes ++ landing b.land b.lane old, raises := o.raises ||| new.2 } else p

/-- R219, R221, R222, R316, R320 to R322: an atomic replaces memory's value in one step, on its own die, on another, or on another device, to which
it is sent. What the spec leaves open or to inference in it is the model's choice: logs 12, 13 and 20. -/
def Obligations.AtomicsArePerformed : Prop :=
  Claims.AtomicsArePerformed ∧ Claims.AtomicsElsewhere

/-- WRITE_PERFORMED (R20, R77, R89, R99): an operation whose accesses are performed writes its registers, with the writes of later-issued
operations over them, raises its flags, and stops setting its completion flag.
What the spec leaves open or to inference in it is the model's choice: log 18. -/
def Obligations.WritesBecomeVisible : Prop :=
  ∀ (s : State) (n : Nat) (o : Op) (t : Team), s.arg = .id n → s.op? n = some o → (o.kind = .alu ∨ o.kind = .mem ∨ o.kind = .yield) → s.opDrained o = true →
    s.team? o.team = some t → t.spec = none →
    ∃ s' t', exec .writePerformed s = .next s' ∧ s'.team? o.team = some t' ∧ s'.op? n = none ∧ s'.store = s.store ∧
      t'.sregs = (t.applyAll (o.writes ++ o.later.map (·.wr))).sregs ∧ t'.vregs = (t.applyAll (o.writes ++ o.later.map (·.wr))).vregs ∧
      t'.masks = (t.applyAll (o.writes ++ o.later.map (·.wr))).masks ∧ t'.fstat = t.fstat ||| o.raises ∧
      (t'.pendFpen = true ↔ t.pendFpen = true ∨ (o.raises &&& t.fctl ≠ 0 ∧ t.st ≠ .retiring)) ∧
      t'.pc = t.pc ∧ t'.live = t.live ∧ t'.elogInfo = t.elogInfo ∧
      (∀ v, v ≠ o.team → s'.team? v = s.team? v) ∧ ∀ p ∈ s'.ops, ∃ q ∈ s.ops, q.id ≠ n ∧ p.id = q.id ∧ p.writes = q.writes ∧ p.dests = q.dests

/-- R230 to R233: XLANE and XSHUF write each active lane the element that the pattern names, or what R231 gives when its source is not available;
XSHUF.byte picks four of the eight bytes. A count outside its limits raises IINS. -/
def Obligations.Permutations : Prop :=
  ∀ (f : XForm) (s : State) (u : Nat) (t : Team),
    let code := f.pat.toNat % 32
    let fill := f.pat.getLsbD 5
    let writes := fun (g : Nat → Int) => (t.active f.m).flatMap fun l => vput (carrier f.ty) f.d.toNat l (g l)
    (s.Ready u t (.xlane f) false false →
      let a := f.a.toNat
      let moves := fun (j : Nat → Int) =>
        Issues s u t (.xlane f) false false (destsV f.ty f.d.toNat) (writes fun l => t.received f.ty l a a (j l) fill) 0
      (code = 0 → moves fun l => (t.elem f.b.toNat l).toNat) ∧
      (∀ p, Fields.param Config.colw t.lanes f.par = some p → p < 1024 →
        (code = 1 → moves fun _ => p) ∧
        (0 < p → (code = 2 → moves fun l => (l : Int) - p) ∧ (code = 3 → moves fun l => (l : Int) + p) ∧
          (code = 4 → moves fun l => ((l + p) % t.lanes : Nat)) ∧ (code = 5 → moves fun l => (l ^^^ p : Nat)))) ∧
      (t.priv = false → t.spec = none → code ≠ 0 →
        (Fields.param Config.colw t.lanes f.par = none ∨ (∃ p, Fields.param Config.colw t.lanes f.par = some p ∧ (1024 ≤ p ∨ (code ≠ 1 ∧ p = 0)))) →
        TrapsAtIssue s u t (.xlane f) .iins t.slot 0 [] (t.mask 0))) ∧
    (s.Ready u t (.xshuf f) false false →
      let a := f.a.toNat
      let b := f.b.toNat
      let merges := fun (n : Nat → Nat) (j : Nat → Nat) =>
        Issues s u t (.xshuf f) false false (destsV f.ty f.d.toNat) (writes fun l => t.received f.ty l a (n l) (j l) fill) 0
      (code = 0 → merges (fun l => if l % 2 = 0 then a else b) (fun l => l / 2)) ∧
      (code = 1 → merges (fun l => if l % 2 = 0 then a else b) (fun l => t.lanes / 2 + l / 2)) ∧
      (code = 2 → merges (fun l => if 2 * l < t.lanes then a else b) (fun l => if 2 * l < t.lanes then 2 * l else 2 * l - t.lanes)) ∧
      (code = 3 → merges (fun l => if 2 * l + 1 < t.lanes then a else b) (fun l => if 2 * l + 1 < t.lanes then 2 * l + 1 else 2 * l + 1 - t.lanes)) ∧
      (code = 4 → Issues s u t (.xshuf f) false false [.v f.d.toNat] (writes fun l =>
        let q := (t.elem a l).toNat + 2 ^ 32 * (t.elem b l).toNat
        let byte := fun k => q / 2 ^ (8 * (f.par.toNat / 2 ^ (3 * k) % 8)) % 256
        (byte 0 + 2 ^ 8 * byte 1 + 2 ^ 16 * byte 2 + 2 ^ 24 * byte 3 : Nat)) 0))

/-- R234 to R236: XRED writes each active lane its segment's x(0), and XSCAN the lane's prefix y(i), or with `.ex` the prefix before it, with the
log-step trees of the rules; the flags are those of the combinations that make the values of active lanes (R169, log 71). A segment size that is no power of two from 2 to 1024 raises IINS. -/
def Claims.ReductionsAndScans : Prop :=
  ∀ (f : XForm) (s : State) (u : Nat) (t : Team),
    let code := f.pat.toNat % 16
    let zero : CElem := { val := 0, idx := 0 }
    let segs := fun (p : Nat) => List.range ((t.lanes + p - 1) / p)
    let prefixOf := fun (k l : Nat) =>
      let y := scanAt code f.ty (t.segment f (2 ^ k) (l / 2 ^ k)) k
      let i := l % 2 ^ k
      if f.pat.getLsbD 4 then (if i = 0 then (none, 0) else y (i - 1)) else y i
    (s.Ready u t (.xred f) false false →
      (∀ k, 1 ≤ k → k ≤ 10 → Fields.param Config.colw t.lanes f.par = some (2 ^ k) →
        Issues s u t (.xred f) false false (cDests code f.ty f.d.toNat)
          ((t.active f.m).flatMap fun l => cWrite code f.ty f.d.toNat l ((redAt code f.ty (t.segment f (2 ^ k) (l / 2 ^ k)) k 0).1.getD zero))
          (raisedBy (segs (2 ^ k)) fun g => (redAt code f.ty (t.segment f (2 ^ k) g) k 0).2)) ∧
      ((∀ k, 1 ≤ k → k ≤ 10 → Fields.param Config.colw t.lanes f.par ≠ some (2 ^ k)) → t.priv = false → t.spec = none →
        TrapsAtIssue s u t (.xred f) .iins t.slot 0 [] (t.mask 0))) ∧
    (s.Ready u t (.xscan f) false false →
      ∀ k, 1 ≤ k → k ≤ 10 → Fields.param Config.colw t.lanes f.par = some (2 ^ k) →
        Issues s u t (.xscan f) false false (cDests code f.ty f.d.toNat)
          ((t.active f.m).flatMap fun l => cWrite code f.ty f.d.toNat l ((prefixOf k l).1.getD zero))
          (raisedBy (t.active f.m) fun l => (prefixOf k l).2))

/-- R234: Comb by operation code, over patterns of type T; integers wrap, floats round with rn, and a pair's winner is that of R180. -/
def Claims.Combination : Prop :=
  ∀ (ty : Ty) (x y : CElem), x.val.toNat < 2 ^ ty.width → y.val.toNat < 2 ^ ty.width →
    let a := readAs ty x.val.toNat
    let b := readAs ty y.val.toNat
    let c := fun k => combine k ty x y
    let F := fmtOf ty
    let D := decodeF F
    let p := x.val.toNat
    let q := y.val.toNat
    (readAs ty (c 0).1.val.toNat = wrapTo ty (a + b) ∧ readAs ty (c 1).1.val.toNat = min a b ∧ readAs ty (c 2).1.val.toNat = max a b ∧
      (c 3).1.val.toNat = p &&& q ∧ (c 4).1.val.toNat = p ||| q ∧ (c 5).1.val.toNat = p ^^^ q) ∧
    (∀ k < 6, (c k).2 = 0 ∧ (c k).1.val.toNat < 2 ^ ty.width) ∧
    (ty = .f16 ∨ ty = .bf16 ∨ ty = .f32 ∨ ty = .f64 →
      let r := frame174 F false [p, q] ((D p).isInf && (D q).isInf && (D p).neg != (D q).neg) none
        (if (D p).isInf then roundInf F false (D p).neg else if (D q).isInf then roundInf F false (D q).neg
          else roundEx F .rn false (sumEx .rn [((D p).neg, (D p).mag), ((D q).neg, (D q).mag)]))
      ((c 6).1.val.toNat = r.pat ∧ (c 6).2 = r.flags) ∧
      ((c 7).1.val.toNat, (c 7).2) = ((minMax F (fun a b => totalOrder ty.width a ≤ totalOrder ty.width b) p q).1.toNat,
        (minMax F (fun a b => totalOrder ty.width a ≤ totalOrder ty.width b) p q).2) ∧
      ((c 8).1.val.toNat, (c 8).2) = ((minMax F (fun a b => totalOrder ty.width b ≤ totalOrder ty.width a) p q).1.toNat,
        (minMax F (fun a b => totalOrder ty.width b ≤ totalOrder ty.width a) p q).2)) ∧
    (ty = .f16 ∨ ty = .bf16 ∨ ty = .f32 →
      ((c 9).1.val.toNat, (c 9).1.idx.toNat) = winner ty true (p, x.idx.toNat) (q, y.idx.toNat) ∧
      ((c 10).1.val.toNat, (c 10).1.idx.toNat) = winner ty false (p, x.idx.toNat) (q, y.idx.toNat) ∧ (c 9).2 = 0 ∧ (c 10).2 = 0)

/-- R234 to R236: reductions and scans, and the combinations that they are made of.
What the spec leaves open or to inference in it is the model's choice: log 71. -/
def Obligations.ReductionsAndScans : Prop :=
  Claims.ReductionsAndScans ∧ Claims.Combination

/-- R237: XVOTE over the set E of active lanes whose bit of mask p is 1. -/
def Claims.Votes : Prop :=
  ∀ (f : XForm) (s : State) (u : Nat) (t : Team), s.Ready u t (.xvote f) false false →
    let act := t.active f.m
    let e := act.filter fun l => (t.mask f.a.toNat).getLsbD l
    let writes := fun (x : Nat) => Issues s u t (.xvote f) false false [.s f.d.toNat] [.s f.d.toNat (BitVec.ofNat 64 x)] 0
    (f.pat.toNat % 32 = 0 → writes (if e = [] then 0 else 1)) ∧
    (f.pat.toNat % 32 = 1 → writes (if e = act then 1 else 0)) ∧
    (f.pat.toNat % 32 = 2 → writes e.length) ∧
    (f.pat.toNat % 32 = 3 → writes (e.headD 0xFFFFFFFF)) ∧
    (f.pat.toNat % 32 = 4 → writes (((List.range 32).filter fun i => 32 * f.par.toNat + i ∈ e).map fun i => 2 ^ i).sum)

/-- R238 to R240: XCOL in a gang=core launch is the team's next arrival: it posts source a of its live lanes and waits; otherwise it raises IINS.
XCOL_COMPLETE, when every partner has arrived at it or retired, ends the wait, and the operation completes with what each active lane
receives. -/
def Claims.ColumnExchange : Prop :=
  (∀ (f : XForm) (s : State) (u : Nat) (t : Team), s.Ready u t (.xcol f) false false →
    (s.ganged t = true → t.priv = false → t.st = .active →
      ∃ s' t' o p, exec (.xcol f) s = .next s' ∧ s'.team? u = some t' ∧ s.SameBut s' u ∧ s'.ops = s.ops ++ [o] ∧ o.agent = .team u ∧
        o.dests = destsV f.ty f.d.toNat ∧ t'.xcount = t.xcount + 1 ∧ t'.xposts = t.xposts ++ [p] ∧ p.k = t.xcount ∧ p.wide = f.ty.wide ∧
        p.lanes = t.live &&& t.all ∧ (∀ l < t.lanes, t.live.getLsbD l = true → Store.get p.els (2 * l) = t.elem f.a.toNat l ∧
          (f.ty.wide = true → Store.get p.els (2 * l + 1) = t.elem (f.a.toNat + 1) l)) ∧
        t'.wait = .xcol o.id ∧ t'.st = .active ∧ t'.sregs = t.sregs ∧ t'.vregs = t.vregs ∧ t'.live = t.live ∧
        o.kind = .xcol t.xcount f.d.toNat f.ty.wide (f.pat.getLsbD 5) ((t.active f.m).map fun l =>
          let pos := s.position t
          let n := f.par.toNat
          (l, if f.pat.toNat % 32 = 0 then (pos ^^^ n, l) else if f.pat.toNat % 32 = 1 then ((pos + 4 - n) % 4, l)
            else if f.pat.toNat % 32 = 2 then (n, l) else if f.pat.toNat % 32 = 3 then ((t.elem f.b.toNat l).toNat % 4, l)
            else (l % 4, 4 * (l / 4) + pos)))) ∧
    (s.ganged t = false → t.priv = false → t.spec = none → TrapsAtIssue s u t (.xcol f) .iins t.slot 0 [] (t.mask 0))) ∧
  (∀ (s : State) (n k d : Nat) (wide fill : Bool) (sel : List (Nat × Nat × Nat)) (o : Op) (t : Team),
    s.arg = .id n → s.op? n = some o → o.kind = .xcol k d wide fill sel → s.team? o.team = some t →
    ((∃ c < 4, xcolArrived k (s.partner t c) = false) → exec .xcolComplete s = .next s) ∧
    ((∀ c < 4, xcolArrived k (s.partner t c) = true) → t.wait = .xcol n → (t.st = .active ∨ t.st = .stalled) → t.bank = none → t.hwait = .none → t.spec = none → o.later = [] →
      o.raises = 0 →
      ∃ s' t', exec .xcolComplete s = .next s' ∧ s'.team? o.team = some t' ∧ s'.op? n = none ∧ s'.store = s.store ∧ t'.wait = .none ∧ t'.st = .active ∧
        t'.sregs = t.sregs ∧ t'.masks = t.masks ∧
        t'.vregs = (t.applyAll (sel.flatMap fun e =>
          match xcolElem k wide e.2.2 (s.partner t e.2.1) with
          | some x => moveElem (if wide then .n64 else .n32) d e.1 x.1 x.2
          | none => if fill then moveElem (if wide then .n64 else .n32) d e.1 0 0
            else match xcolElem k wide e.1 (some t) with
              | some x => moveElem (if wide then .n64 else .n32) d e.1 x.1 x.2
              | none => [])).vregs))

/-- R237 to R240: votes, and the exchange between the columns of a core. -/
def Obligations.VotesAndColumnExchange : Prop :=
  Claims.Votes ∧ Claims.ColumnExchange

/-- R246, R247, R249: GEN with a control word that R247 admits opens the loop over m0: frame depth N, threshold min(T, N), record size D, base, and the
consumer and exit entries from the two offsets; its producer lanes are m0. A word that R246 does not admit raises IINS, and frames whose base is no
multiple of 256 or that end past the allocation raise MBND, which ELOG records as an error of lane 0 on path T at the base. -/
def Claims.GeneratorLoopOpens : Prop :=
  ∀ (f : BForm) (s : State) (u : Nat) (t : Team), s.Ready u t (.gen f) false false → t.priv = false → t.vit.phase = .off →
    let c := (t.scal f.creg.toNat).toNat
    let base := c % 2 ^ 20
    let d := c / 2 ^ 20 % 8 + 1
    let thr := c / 2 ^ 24 % 2 ^ 11
    let m := t.mask 0 &&& t.all
    let n := (laneList m t.lanes).length
    let block := t.slotPc &&& ~~~(63 : Word)
    let entry := fun (x : BitVec 16) => block + (x.signExtend 64) * 64
    (c / 2 ^ 23 % 2 = 0 → c / 2 ^ 35 = 0 → 1 ≤ thr → thr ≤ 1024 → base % 256 = 0 → base + 8 * n * d ≤ s.spadSize t.wg →
      Completes s u { t with vit := { t.vit with
        phase := .producing, gset := m, pset := m, cset := 0, n := n, t := min thr n, d := d, base := base,
        cent := entry (f.imm.extractLsb' 16 16), xent := entry (f.imm.extractLsb' 0 16), cur := 0, fill0 := 0, fill1 := 0, cfr := 0,
        drain := false, pass := 0, pra := [] } } (.gen f)) ∧
    ((c / 2 ^ 23 % 2 ≠ 0 ∨ c / 2 ^ 35 ≠ 0 ∨ thr = 0 ∨ 1024 < thr) → t.spec = none → TrapsAtIssue s u t (.gen f) .iins t.slot 0 [] (t.mask 0)) ∧
    (c / 2 ^ 23 % 2 = 0 → c / 2 ^ 35 = 0 → 1 ≤ thr → thr ≤ 1024 → (base % 256 ≠ 0 ∨ s.spadSize t.wg < base + 8 * n * d) → t.spec = none →
      let logged := t.elog s.now .T 0 .mbnd (BitVec.ofNat 64 base) t.slot s.seq
      TrapsAtIssue s u logged (.gen f) .mbnd t.slot 0 [] (t.mask 0) ∧ logged.elogInfo.getLsbD 0 = true ∧
      (t.elogInfo.getLsbD 0 = false → logged.elogAddr = BitVec.ofNat 64 base ∧ logged.elogInfo = elogWord .T 0 .mbnd t.slot))

/-- R250 to R255: what YIELD, GSW, GDONE and GCON do in their phase. A YIELD whose records fit in the frame that fills stores one record of D words for
each active lane, in lane order, at R246's places, and one whose records do not fit goes on in the other frame, which is empty; with the frame at or past the threshold, or at a GSW with one record, the pass on it begins.
GDONE takes its lanes out of the producer set and GCON out of the consumer set; what follows when the set is empty is a pass, the producer's
resumption, or the end of the loop. -/
def Claims.GeneratorLoopRuns : Prop :=
  (∀ (f : VForm) (s : State) (u : Nat) (t : Team), s.Ready u t (.yield f) f.se f.fs → t.Stored → t.priv = false → t.vit.phase = .producing →
    t.vit.cur < 2 → f.a.toNat + t.vit.d ≤ t.nv → (∀ j < t.vit.d, s.pendingDest u (.v (f.a.toNat + j)) = false) →
    let v := t.vit
    let act := t.active f.m
    let fill := v.fill v.cur + act.length
    fill ≤ v.n →
    let next := s.nextClause t
    let acc := act.zipIdx.flatMap fun lr => (List.range v.d).map fun j =>
      ({ el := lr.1 * 8 + j, lane := lr.1, path := .T, space := .spad t.wg,
         addr := BitVec.ofNat 64 (v.base + 4 * ((v.cur * v.n + (v.fill v.cur + lr.2)) * v.d + j)), size := 4,
         act := .write (bytesOfNat (t.elem (f.a.toNat + j) lr.1).toNat 4), land := .none, lower := false, halves := [] } : Access)
    ∃ s' t' o, exec (.yield f) s = .next s' ∧ s'.team? u = some t' ∧ s.SameBut s' u ∧ s'.ops = s.ops ++ [o] ∧ o.agent = .team u ∧ o.kind = .yield ∧
      o.flag = selFlag t.hdr f.se f.fs ∧ o.dests = [] ∧ o.acc = acc ∧ t'.vit.fill v.cur = fill ∧ t'.vit.fill (1 - v.cur) = v.fill (1 - v.cur) ∧
      (fill < v.t → ({ t with vit := v.setFill v.cur fill } : Team).SameButPc t') ∧
      (v.t ≤ fill → PassBegins t t' v.cur fill false next ∧ t'.vit.cur = 1 - v.cur)) ∧
  (∀ (f : VForm) (s : State) (u : Nat) (t : Team), s.Ready u t (.yield f) f.se f.fs → t.Stored → t.priv = false → t.vit.phase = .producing →
    t.vit.cur < 2 → f.a.toNat + t.vit.d ≤ t.nv → (∀ j < t.vit.d, s.pendingDest u (.v (f.a.toNat + j)) = false) →
    let v := t.vit
    let act := t.active f.m
    let fill := v.fill v.cur + act.length
    v.t ≤ v.n → v.fill v.cur ≤ v.n → v.fill (1 - v.cur) = 0 → act.length ≤ v.n → v.n < fill →
    let acc := act.zipIdx.flatMap fun lr =>
      let i := v.fill v.cur + lr.2
      let p := if i < v.n then v.cur * v.n + i else (1 - v.cur) * v.n + (i - v.n)
      (List.range v.d).map fun j =>
        ({ el := lr.1 * 8 + j, lane := lr.1, path := .T, space := .spad t.wg, addr := BitVec.ofNat 64 (v.base + 4 * (p * v.d + j)), size := 4,
           act := .write (bytesOfNat (t.elem (f.a.toNat + j) lr.1).toNat 4), land := .none, lower := false, halves := [] } : Access)
    ∃ s' t' o, exec (.yield f) s = .next s' ∧ s'.team? u = some t' ∧ s.SameBut s' u ∧ s'.ops = s.ops ++ [o] ∧ o.agent = .team u ∧ o.kind = .yield ∧
      o.flag = selFlag t.hdr f.se f.fs ∧ o.dests = [] ∧ o.acc = acc ∧ t'.vit.fill v.cur = v.n ∧ t'.vit.fill (1 - v.cur) = fill - v.n ∧
      PassBegins t t' v.cur v.n false (s.nextClause t) ∧ t'.vit.cur = 1 - v.cur) ∧
  (∀ (s : State) (u : Nat) (t : Team), s.Ready u t .gsw false false → t.Stored → t.priv = false → t.vit.phase = .producing →
    let v := t.vit
    (1 ≤ v.fill v.cur → Moves s u .gsw fun t' => PassBegins t t' v.cur (v.fill v.cur) false (s.nextClause t) ∧ t'.vit.cur = 1 - v.cur) ∧
    (v.fill v.cur = 0 → Completes s u t .gsw)) ∧
  (∀ (f : VForm) (s : State) (u : Nat) (t : Team), s.Ready u t (.gdone f) false false → t.Stored → t.priv = false → t.vit.phase = .producing →
    let v := t.vit
    let left := v.pset &&& ~~~t.activeSet f.m
    (left ≠ 0 → Moves s u (.gdone f) fun t' => t'.vit.pset = left ∧ t'.vit.phase = .producing ∧
      (∀ l < t.lanes, (t.mask 0).getLsbD l = true → l ∉ t.active f.m → Store.get t'.ra l = s.nextClause t) ∧
      Selected (laneList (t.live &&& t.all &&& left) t.lanes) t') ∧
    (left = 0 → 1 ≤ v.fill v.cur → Moves s u (.gdone f) fun t' => PassBegins { t with vit := { v with pset := left } } t' v.cur (v.fill v.cur) true (s.nextClause t) ∧
      t'.vit.cur = 1 - v.cur ∧ t'.vit.pset = 0) ∧
    (left = 0 → v.fill v.cur = 0 → Moves s u (.gdone f) fun t' => LoopEnds t t' ∧ t'.vit.pset = 0)) ∧
  (∀ (f : BForm) (s : State) (u : Nat) (t : Team), s.Ready u t (.gcon f) false false → t.Stored → t.priv = false → t.vit.phase = .consuming → t.vit.cfr < 2 →
    let v := t.vit
    let left := v.cset &&& ~~~t.activeSet f.m
    let other := 1 - v.cfr
    (left ≠ 0 → Moves s u (.gcon f) fun t' => t'.vit.cset = left ∧ t'.vit.phase = .consuming ∧ t'.vit.pass = v.pass ∧
      (∀ l < t.lanes, (t.mask 0).getLsbD l = true → l ∉ t.active f.m → Store.get t'.ra l = s.nextClause t) ∧
      Selected (laneList (t.live &&& t.all &&& left) t.lanes) t') ∧
    (left = 0 → Moves s u (.gcon f) fun t' => t'.vit.pass = v.pass + 1 ∧ t'.vit.fill v.cfr = 0 ∧
      (v.pset ≠ 0 → v.t ≤ v.fill other → PassBegins t t' other (v.fill other) false (s.nextClause t)) ∧
      (v.pset ≠ 0 → v.fill other < v.t → t'.vit.phase = .producing ∧ t'.vit.cur = other ∧ t'.vit.pset = v.pset ∧
        (∀ l < t.lanes, v.pset.getLsbD l = true → Store.get t'.ra l = Store.get v.pra l) ∧
        Selected (laneList (t.live &&& t.all &&& v.pset) t.lanes) t') ∧
      (v.pset = 0 → 1 ≤ v.fill other → PassBegins t t' other (v.fill other) true (s.nextClause t)) ∧
      (v.pset = 0 → v.fill other = 0 → LoopEnds t t')))

/-- R254, R248: GFR gives each running consumer lane the record of its rank in G from the consumer frame, and GFR.info the pass number, the frame's
count, the drain bit and the frame; in any other phase, and in Handler, the generator instructions raise IINS. -/
def Claims.GeneratorFrames : Prop :=
  (∀ (f : VForm) (s : State) (u : Nat) (t : Team), s.Ready u t (.gfr f) f.se f.fs → t.priv = false → t.vit.phase = .consuming →
    f.d.toNat + t.vit.d ≤ t.nv →
    IssuesAccesses s u t t (.gfr f) f.se f.fs (destsK f.d.toNat t.vit.d)
      ((t.active 0).flatMap fun l => (List.range t.vit.d).map fun j =>
        ({ el := l * 8 + j, lane := l, path := .T, space := .spad t.wg,
           addr := BitVec.ofNat 64 (t.vit.base +
             4 * ((t.vit.cfr * t.vit.n + ((List.range l).filter fun k => t.vit.gset.getLsbD k).length) * t.vit.d + j)), size := 4, act := .read,
           land := .vreg (f.d.toNat + j) .n32 1, lower := false, halves := [] } : Access)) false) ∧
  (∀ (f : VForm) (s : State) (u : Nat) (t : Team), s.Ready u t (.gfrInfo f) false false → t.priv = false → t.vit.phase = .consuming →
    Issues s u t (.gfrInfo f) false false [.s f.d.toNat]
      [.s f.d.toNat (BitVec.ofNat 64 (t.vit.pass.toNat + 2 ^ 32 * t.vit.fill t.vit.cfr + 2 ^ 48 * (if t.vit.drain then 1 else 0) + 2 ^ 49 * t.vit.cfr))] 0) ∧
  ∀ (s : State) (u : Nat) (t : Team) (b : BForm) (f : VForm), t.priv = false → t.spec = none →
    let stops := fun (i : Instr) (se fs : Bool) => s.Ready u t i se fs → TrapsAtIssue s u t i .iins t.slot 0 [] (t.mask 0)
    (t.vit.phase ≠ .off → stops (.gen b) false false ∧ stops (.exit b) false false) ∧
    (t.vit.phase ≠ .producing → stops (.yield f) f.se f.fs ∧ stops .gsw false false ∧ stops (.gdone f) false false) ∧
    (t.vit.phase ≠ .consuming → stops (.gcon b) false false ∧ stops (.gfr f) f.se f.fs ∧ stops (.gfrInfo f) false false)

/-- R244 to R257: a generator loop opens, runs its passes, and ends; its frames are read.
What the spec leaves open or to inference in it is the model's choice: logs 26 and 74. -/
def Obligations.GeneratorLoops : Prop :=
  Claims.GeneratorLoopOpens ∧ Claims.GeneratorLoopRuns ∧ Claims.GeneratorFrames

/-- R114, R115, R120, R121: the branches, by target: BRA and BRAC relative to the fetch block, BRAC when its condition on a scalar holds, BRAV and RET
to the lane's pair, CALL to the relative or register target with NextClause in the link pair. -/
def Claims.Branches : Prop :=
  ∀ f : BForm,
    let rel := fun (t : Team) (_ : Nat) => (t.slotPc &&& ~~~(63 : Word)) + (f.imm.signExtend 64) * 64
    let pair := fun (t : Team) (l : Nat) => BitVec.ofNat 64 (t.vbits .n64 (2 * f.creg.toNat) l)
    BranchResult (.bra f) f.m (fun _ => true) rel none ∧
    BranchResult (.brac f) f.m (fun t =>
      let x := readAs .i64 (t.scal f.creg.toNat).toNat
      decide ((f.cond.toNat = 0 ∧ x = 0) ∨ (f.cond.toNat = 1 ∧ x ≠ 0) ∨ (f.cond.toNat = 2 ∧ x < 0) ∨ (f.cond.toNat = 3 ∧ 0 ≤ x) ∨
        (f.cond.toNat = 4 ∧ 0 < x) ∨ (5 ≤ f.cond.toNat ∧ x ≤ 0))) rel none ∧
    BranchResult (.brav f) f.m (fun _ => true) pair none ∧
    BranchResult (.ret f) f.m (fun _ => true) pair none ∧
    BranchResult (.call f) f.m (fun _ => true) rel (some (2 * f.creg.toNat)) ∧
    BranchResult (.callReg f) f.m (fun _ => true) (fun t _ => t.scal (f.imm.toNat % 2 ^ 7)) (some (2 * f.creg.toNat))

/-- R122: EXIT outside a generator loop ends its lanes; the other running lanes go on at NextClause, and Select follows, which leaves a team with no
live lane in Retiring, but for one that has an exchange outstanding that may raise: it stays until that has completed, since the trap comes before
the exit (R58, R242). KILL lets what the team's finished operations write and raise land, ends every lane, takes the team's pending forks and waits
away, halts its streams, and leaves it in Retiring; when it frees the matrix unit, a fork of another team may start. -/
def Claims.ExitAndKill : Prop :=
  (∀ (f : BForm) (s : State) (u : Nat) (t : Team), s.Ready u t (.exit f) false false → t.Stored → t.priv = false → t.vit.phase = .off →
    Moves s u (.exit f) fun t' => t'.live = t.live &&& ~~~t.activeSet f.m ∧
      (∀ l < t.lanes, (t.mask 0).getLsbD l = true → l ∉ t.active f.m → Store.get t'.ra l = s.nextClause t) ∧
      (∃ t1, Selected (laneList (t'.live &&& t.all) t.lanes) t1 ∧ t' = { t1 with st := t'.st } ∧ (s.raisesOut u = false → t'.st = t1.st) ∧
        (s.raisesOut u = true → t1.st = .retiring → t'.st = .active)) ∧
      t'.sregs = t.sregs ∧ t'.vregs = t.vregs ∧ t'.started = false) ∧
  (∀ (s : State) (u : Nat) (t : Team), s.Ready u t .kill false false → s.Keyed → t.Stored → t.st ≠ .retired → (s.ops.map (·.id)).Nodup →
    ∃ s' t', exec .kill s = .next s' ∧ s'.team? u = some t' ∧ t'.live = 0 ∧ t'.mask 0 = 0 ∧ t'.st = .retiring ∧ t'.forks = [] ∧ t'.wait = .none ∧
      t'.hwait = .none ∧ t'.started = false ∧ (∀ x, t'.copy = some x ∨ t'.mtx = some x → x.ended = true) ∧
      s'.store = s.store ∧
      (s'.wgs.map fun e => (e.1, { e.2 with savedMx := none })) = (s.wgs.map fun e => (e.1, { e.2 with savedMx := none })) ∧
      (∀ v w, v ≠ u → s.team? v = some w → ∃ w', s'.team? v = some w' ∧ w.SameRegs w' ∧ w'.pc = w.pc ∧ w'.st = w.st ∧
        ((s.column (s.colOf t)).mxHolder ≠ some u → w' = w)) ∧
      (∀ o ∈ s'.ops, ∃ p ∈ s.ops, p.id = o.id) ∧
      ((∀ o ∈ s.ops, o.team = u → o.kind ≠ .alu ∧ s.xcolDue o = false) →
        t'.sregs = t.sregs ∧ t'.vregs = t.vregs ∧ ∀ o ∈ s'.ops, o ∈ s.ops))

/-- R120 to R124: branches, calls, returns, exit and kill.
What the spec leaves open or to inference in it is the model's choice: logs 29 and 44. -/
def Obligations.ControlTransfers : Prop :=
  Claims.Branches ∧ Claims.ExitAndKill

/-- R20, R87, R128, R129, R359: SETK and CLRK change the software holds of the flags named; WAITK goes on at once when none of them is set and otherwise
waits; NOP with a selected flag, whose setting ends in the clk that it issues, NOP without, and SFDRN with no special-function instruction
outstanding only go on. -/
def Obligations.FlagsAndNops : Prop :=
  ∀ (s : State) (u : Nat) (t : Team),
    (∀ f : VForm, s.Ready u t (.setk f) false false → Completes s u { t with holds := t.holds ||| Fields.flagSet f } (.setk f)) ∧
    (∀ f : VForm, s.Ready u t (.clrk f) false false → Completes s u { t with holds := t.holds &&& ~~~Fields.flagSet f } (.clrk f)) ∧
    (∀ f : VForm, s.Ready u t (.waitk f) false false →
      ((∀ n < 12, (Fields.flagSet f).getLsbD n = true → s.flag u n = false) → Completes s u t (.waitk f)) ∧
      (∀ n < 12, (Fields.flagSet f).getLsbD n = true → s.flag u n = true →
        Completes s u (if t.priv then { t with hwait := .waitk (Fields.flagSet f) }
          else { t with wait := .waitk (Fields.flagSet f) }) (.waitk f))) ∧
    (s.Ready u t .nop false false → Completes s u t .nop) ∧
    (s.Ready u t .nopSet0 true false → Completes s u t .nopSet0) ∧
    (s.Ready u t .nopSet1 true true → Completes s u t .nopSet1) ∧
    (s.Ready u t .sfdrn false false → (∀ o ∈ s.ops, o.team = u → o.kind ≠ .sf) → Completes s u t .sfdrn) ∧
    (s.Ready u t .sfdrn false false → (∃ o ∈ s.ops, o.team = u ∧ o.kind = .sf) → exec .sfdrn s = .next s)

/-- R56, R57, R126, R129, R130, R131, R289: BAR arrives and waits for the workgroup's barrier, which opens at once for a workgroup of one team whose
accesses are performed; a second arrival raises IINS. YLD gives up the slot when some team of the column is Pending-ready and nothing is due at the
team's boundary, which comes first (R58). RDV goes on when the streams of its class have ended, and otherwise waits. -/
def Claims.Synchronisation : Prop :=
  ∀ (s : State) (u : Nat) (t : Team),
    (∀ g, s.Ready u t .bar false false → t.barArr = false → t.priv = false → s.wg? t.wg = some g →
      (2 ≤ g.teams.length → Completes s u { t with barArr := true, wait := .bar } .bar) ∧
      (g.teams = [u] → t.st = .active → s.performedAt u .T (s.seq + 1) 1 false = true →
        Moves s u .bar fun t' => t'.barArr = false ∧ t'.wait = .none ∧ t'.st = .active ∧ t'.sregs = t.sregs ∧ t'.vregs = t.vregs ∧ t'.live = t.live)) ∧
    (s.Ready u t .bar false false → t.barArr = true → t.priv = false → t.spec = none → TrapsAtIssue s u t .bar .iins t.slot 0 [] (t.mask 0)) ∧
    (s.Ready u t .yld false false → t.st = .active →
      (t.boundaryCause ≠ none ∨ (∀ e ∈ s.teamsIn (s.colOf t), s.pendingReady e.1 e.2 = false) → Completes s u t .yld) ∧
      (t.boundaryCause = none → (∃ e ∈ s.teamsIn (s.colOf t), s.pendingReady e.1 e.2 = true) →
        Moves s u .yld fun t' => t'.st = .pendingReady ∧ t'.since = s.now ∧ t'.sregs = t.sregs ∧ t'.vregs = t.vregs ∧ t'.live = t.live)) ∧
    (∀ f : VForm, s.Ready u t (.rdv f) false false →
      (f.sub.toNat = 1 → s.rdvReady u 1 = true → t.wait ≠ .rdv 1 → t.hwait ≠ .rdv 1 → Completes s u t (.rdv f)) ∧
      (f.sub.toNat ≠ 1 → s.rdvReady u f.sub.toNat = true → (s.teams.map (·.1)).Nodup →
        ∃ s' t', exec (.rdv f) s = .next s' ∧ s'.team? u = some t' ∧ s'.store = s.store ∧ (s'.column (s.colOf t)).mxHolder ≠ some u ∧ t'.sregs = t.sregs ∧
          t'.vregs = t.vregs ∧ t'.live = t.live) ∧
      (s.rdvReady u f.sub.toNat = false →
        Completes s u (if t.priv then { t with hwait := .rdv f.sub.toNat }
          else { t with wait := .rdv f.sub.toNat }) (.rdv f)))

/-- R22, R78, R130: a FORK of a class whose stream does not run, with no scalar write pending, starts the stream at its target with a snapshot of the
scalars: FORK.copy at once, FORK.matrix when the team holds the matrix unit. While the class's stream runs it stays pending, and a second FORK of
the class raises IINS; so does a target that is not aligned, with IALN. -/
def Claims.Forks : Prop :=
  ∀ (s : State) (u : Nat) (t : Team) (f : BForm),
    let rel := (t.slotPc &&& ~~~(63 : Word)) + (f.imm.signExtend 64) * 64
    let forms : List (Instr × Bool × Addr) :=
      [(.forkCopy f, false, rel), (.forkMatrix f, true, rel), (.forkReg f, decide (f.cond.toNat = 10), t.scal (f.imm.toNat % 2 ^ 7))]
    ∀ x ∈ forms, s.Ready u t x.1 false false → (∀ o ∈ s.ops, o.team = u → ∀ d ∈ o.dests, ∀ n, d ≠ .s n) →
      let i := x.1
      let mtx := x.2.1
      let a := x.2.2
      let clear := ∀ g ∈ t.forks, g.mtx ≠ mtx
      let fresh : Stream := { pc := a, started := false, hdr := 0, words := [], slot := 0, snap := t.sregs, cwait := 0, stopped := false, halted := false, ended := false }
      (a.toNat % 64 = 0 → clear → Stream.running (t.stream mtx) = false → (mtx = true → (s.column (s.colOf t)).mxHolder = some u) →
        Completes s u (t.setStream mtx (some fresh)) i) ∧
      (a.toNat % 64 = 0 → clear → Stream.running (t.stream mtx) = true →
        Completes s u { t with forks := t.forks ++ [{ mtx := mtx, target := a, snap := t.sregs, seq := s.seq, sup := t.priv }] } i) ∧
      (a.toNat % 64 ≠ 0 → t.priv = false → t.spec = none → TrapsAtIssue s u t i .ialn t.slot 0 [] (t.mask 0)) ∧
      (a.toNat % 64 = 0 → ¬clear → t.priv = false → t.spec = none → TrapsAtIssue s u t i .iins t.slot 0 [] (t.mask 0))

/-- R57, R126, R129 to R131, R289: barriers, yields, rendezvous and forks.
What the spec leaves open or to inference in it is the model's choice: logs 37 and 39. -/
def Obligations.SynchronisationAndForks : Prop :=
  Claims.Synchronisation ∧ Claims.Forks

/-- R71, R72, R132, R134 to R136, R391: ITER, LNCH, CNTW, CNTW.q and CANCEL. ITER starts an operation that will write four scalars; LNCH reads its
64-byte record on path T and will write its handle; CNTW.q, and CNTW on a complete unit, write the unit's status; CNTW on another waits;
CANCEL enters the Curator's intake, behind all that arrived earlier and in front of what arrives in the same clk from a column of higher number.
What the spec leaves open or to inference in it is the model's choice: log 40. -/
def Obligations.WorkInstructions : Prop :=
  ∀ (s : State) (u : Nat) (t : Team) (f : VForm),
    let d := f.d.toNat
    (s.Ready u t (.iter f) f.se f.fs →
      Starts s u t t (.iter f) f.se f.fs fun o => o.kind = .iter d ∧ o.dests = [.s d, .s (d + 1), .s (d + 2), .s (d + 3)] ∧ o.acc = [] ∧ o.writes = []) ∧
    (s.Ready u t (.lnch f) f.se f.fs →
      let acc := [s.sliceAcc u t (t.scal f.a.toNat) 0 64 .read (.data 0)]
      (s.preciseOf u acc = none →
        Starts s u t t (.lnch f) f.se f.fs fun o => o.kind = .lnch d false ∧ o.dests = [.s d] ∧ o.acc = acc ∧ o.addr = t.scal f.a.toNat) ∧
      (∀ c lanes la, s.preciseOf u acc = some (c, lanes, la) → t.priv = false → t.spec = none →
        TrapsAtIssue s u t (.lnch f) c t.slot 0 la lanes)) ∧
    (s.Ready u t (.cntwQuery f) false false →
      Issues s u t (.cntwQuery f) false false [.s d] [.s d (s.statusOf (s.ctxOf t) (t.scal f.a.toNat))] 0) ∧
    (s.Ready u t (.cntw f) false false →
      let st := s.statusOf (s.ctxOf t) (t.scal f.a.toNat)
      (st.getLsbD 2 = true → Issues s u t (.cntw f) false false [.s d] [.s d st] 0) ∧
      (st.getLsbD 2 = false → t.priv = false →
        Starts s u t { t with wait := .cntw s.nextId } (.cntw f) false false fun o =>
          o.id = s.nextId ∧ o.kind = .cntw d (t.scal f.a.toNat) ∧ o.dests = [.s d])) ∧
    (s.Ready u t (.cancel f) false false → s.intake.length < 512 →
      (∀ o ∈ s.ops, o.team = u → (∀ e, o.kind ≠ .lnch e false) ∧ ∀ h, o.kind ≠ .cancel h) →
      ∃ s' t', exec (.cancel f) s = .next s' ∧ s'.team? u = some t' ∧ Enters s s' (s.colOf t) (.cancel (s.ctxOf t) (t.scal f.a.toNat)) ∧
        s'.ops = s.ops ∧ s'.store = s.store ∧ s'.units = s.units ∧ t'.sregs = t.sregs ∧ t'.vregs = t.vregs ∧ t'.live = t.live ∧
        (∀ v, v ≠ u → s'.team? v = s.team? v))

/-- R262 to R266: GPOST and GPOST.wd of a member start a post or withdrawal that stays pending; GBAR of a member whose workgroup holds the slot arrives
and waits; the checks of R263 raise MNUL, GABS and IINS. GQRY counts members, available members and posts, and tells membership, post and
the entry's bits.
What the spec leaves open or to inference in it is the model's choice: log 35. -/
def Obligations.GroupBarriers : Prop :=
  ∀ (s : State) (u : Nat) (t : Team) (f : VForm),
    let g := f.sub.toNat % 64
    let e := s.group (s.ctxOf t) g
    let col := s.colOf t
    let member := e.v = true ∧ e.memb.getLsbD (col / 4) = true
    let slot := s.postSlot (s.ctxOf t) g
    let noPost := ∀ o ∈ s.ops, o.team = u → ∀ h w, o.kind ≠ .gpost h w
    (s.Ready u t (.gpost f) false false →
      (member → Starts s u t t (.gpost f) false false fun o => o.kind = .gpost g false) ∧
      (¬member → t.priv = false → TrapsAtIssue s u t (.gpost f) .mnul t.slot 0 [] (t.mask 0))) ∧
    (s.Ready u t (.gpostWd f) false false →
      (member → Starts s u t t (.gpostWd f) false false fun o => o.kind = .gpost g true) ∧
      (¬member → t.priv = false → TrapsAtIssue s u t (.gpostWd f) .mnul t.slot 0 [] (t.mask 0))) ∧
    (s.Ready u t (.gbar f) false false → t.priv = false →
      (∀ w, member → noPost → (slot col).holder = some t.wg → t.gbarArr = none → s.wg? t.wg = some w → (w.gbarK = none ∨ w.gbarK = some g) →
        ∃ s' t', exec (.gbar f) s = .next s' ∧ s'.team? u = some t' ∧
          ({ t with wait := .gbar g } : Team).SameButPc t' ∧ t'.gbarArr = some g ∧
          s'.wg? t.wg = some { w with gbarK := some g } ∧ s'.ops = s.ops ∧ s'.store = s.store ∧ ∀ v, v ≠ u → s'.team? v = s.team? v) ∧
      (¬member → TrapsAtIssue s u t (.gbar f) .mnul t.slot 0 [] (t.mask 0)) ∧
      (member → noPost → (slot col).holder ≠ some t.wg → TrapsAtIssue s u t (.gbar f) .gabs t.slot 0 [] (t.mask 0)) ∧
      (member → noPost → (slot col).holder = some t.wg → t.gbarArr ≠ none → TrapsAtIssue s u t (.gbar f) .iins t.slot 0 [] (t.mask 0)) ∧
      (∀ w k, member → noPost → (slot col).holder = some t.wg → s.wg? t.wg = some w → w.gbarK = some k → k ≠ g →
        TrapsAtIssue s u t (.gbar f) .iins t.slot 0 [] (t.mask 0))) ∧
    (s.Ready u t (.gqry f) false false →
      let members := (List.range 128).filter fun i => e.memb.getLsbD i
      let posted := fun i => (slot (4 * i + col % 4)).holder.isSome
      let bit := fun (b : Bool) (k : Nat) => if b then 2 ^ k else 0
      Issues s u t (.gqry f) false false [.s f.d.toNat] [.s f.d.toNat (if e.v = false then 0 else BitVec.ofNat 64
        (members.length + 2 ^ 8 * (members.filter fun i => !s.unavail.contains i).length + 2 ^ 16 * (members.filter posted).length +
          bit (e.memb.getLsbD (col / 4)) 24 + bit ((slot col).holder == some t.wg) 25 + bit e.abs 26 + bit e.v 27))] 0)

/-- R261, R267, R269: each LDG starts one operation with its operation code, its type, the group that its address pair names, if that has the form of
R261, and each active lane's scratchpad address. -/
def Claims.GroupLoads : Prop :=
  ∀ (s : State) (u : Nat) (t : Team) (f : MForm),
    let forms : List (Instr × Nat) := [(.ldgAdd f, 0), (.ldgMin f, 1), (.ldgMax f, 2), (.ldgAnd f, 3), (.ldgOr f, 4), (.ldgXor f, 5), (.ldgFadd f, 6),
      (.ldgFmin f, 7), (.ldgFmax f, 8), (.ldgMaxi f, 9), (.ldgMini f, 10)]
    ∀ x ∈ forms, s.Ready u t x.1 f.se f.fs →
      Starts s u t t x.1 f.se f.fs fun o => ∃ grp,
        o.kind = .ldg grp x.2 f.ty f.d.toNat ((t.active f.m).map fun l => (l, effAddr t f (if 9 ≤ x.2 then 8 else f.ty.bytes) l)) ∧
        o.dests = cDests x.2 f.ty f.d.toNat ∧ o.writes = [] ∧
        ∀ c, s.ctx? (s.ctxOf t) = some c →
          let a := (t.scal f.base.toNat).toNat
          let r := (t.scal (f.base.toNat + 1)).toNat
          grp = if a < 2 ^ 20 ∧ r / 2 ^ 62 = 2 ∧ r / 2 ^ 22 % 2 ^ 40 = 0 ∧ r / 2 ^ 10 % 2 ^ 12 = c.dev ∧ r / 2 ^ 6 % 2 ^ 4 = 0 then some (r % 2 ^ 6) else none

/-- R234, R269, R271: an LDG with no failed lane, whose leaves are read, writes each lane the log-step tree over cores 0 to 127 of the leaves of the
members that were present, or Ident(op, T) when none was, and raises the tree's flags. -/
def Claims.GroupLoadsCombine : Prop :=
  ∀ (s : State) (n : Nat) (o : Op) (t : Team) (grp : Option Nat) (code : Nat) (ty : Ty) (d : Nat) (lanes : List (Nat × Addr)),
    s.arg = .id n → s.op? n = some o → o.kind = .ldg grp code ty d lanes → o.acc = [] → s.team? o.team = some t → t.spec = none → o.later = [] →
    (∀ la ∈ lanes, o.errLanes.getLsbD la.1 = false ∧ o.leafCause la.1 = none) →
    let tree := fun (l : Nat) => redAt code ty (fun i => if i < 128 then o.leaf code ty l i else none) 7 0
    let writes := lanes.flatMap fun la => cWrite code ty d la.1 ((tree la.1).1.getD (identOf code ty))
    ∃ s' t', exec .writePerformed s = .next s' ∧ s'.team? o.team = some t' ∧ s'.op? n = none ∧ s'.store = s.store ∧
      t'.vregs = (t.applyAll writes).vregs ∧ t'.fstat = t.fstat ||| raisedBy (lanes.map (·.1)) (fun l => (tree l).2) ∧ t'.sregs = t.sregs ∧ t'.masks = t.masks

/-- R234, R261, R267 to R271: group loads issue, and combine their leaves.
What the spec leaves open or to inference in it is the model's choice: log 36. -/
def Obligations.GroupLoads : Prop :=
  Claims.GroupLoads ∧ Claims.GroupLoadsCombine

/-- R325, R327, R329: FENCE, FENCEX and FENCES start a fence with their paths and scope and do not hold the team; FENCES also takes the checkpoint of
its speculative window. -/
def Obligations.Fences : Prop :=
  ∀ (s : State) (u : Nat) (t : Team) (f : VForm),
    let path := fun n => [Path.T, .C, .M, .F, .I].getD n .I
    let scope := f.sub.toNat % 8
    let p := path (f.sub.toNat / 8 % 8)
    let q := path (f.sub.toNat / 64 % 8)
    (s.Ready u t (.fence f) f.se f.fs → Starts s u t t (.fence f) f.se f.fs fun o => o.kind = .fence .T .T scope .pending) ∧
    (s.Ready u t (.fencex f) f.se f.fs → Starts s u t t (.fencex f) f.se f.fs fun o => o.kind = .fence p q scope .pending) ∧
    (s.Ready u t (.fences f) f.se f.fs → ∃ s' t' o sp, exec (.fences f) s = .next s' ∧ s'.team? u = some t' ∧ s.SameBut s' u ∧
      s'.ops = s.ops ++ [o] ∧ o.agent = .team u ∧ o.seq = s.seq ∧ o.flag = selFlag t.hdr f.se f.fs ∧ o.kind = .fence p .T scope .speculating ∧
      t'.spec = some sp ∧ sp.op = o.id ∧ sp.seq = s.seq ∧ sp.sregs = t.sregs ∧ sp.vregs = t.vregs ∧ sp.masks = t'.masks ∧ sp.live = t.live ∧ sp.ra = t.ra ∧
      sp.pc = t'.pc ∧ sp.slot = t'.slot ∧ sp.started = t'.started ∧ sp.readSet = [] ∧ sp.stores = 0 ∧ sp.raises = 0 ∧ sp.errs = [] ∧
      t'.sregs = t.sregs ∧ t'.vregs = t.vregs ∧ t'.live = t.live)

/-- R350, R355, R356: entering a trap saves the banked registers, the masks m0 to m3, the frontier and the resume address, and the handler runs at
TVEC at supervisor privilege in its lanes, or in lane 0 when it has none, with m1 to m3 zero and every other register as it stands; TRAP_CAUSE holds
the cause, the slot, the resume slot and the engine. Left at once, it gives back every register, mask and resume address, and the team resumes
at TRAP_RPC and RSLOT. -/
def Obligations.TrapEntryAndReturn : Prop :=
  ∀ (t : Team) (tvec : Addr) (now later : Nat) (c : Cause) (slot rslot eng : Nat) (addr rpc : Addr) (arg : BitVec 32) (laddr : Store 64) (lanes : Lanes),
    t.Stored → t.st ≠ .handler →
    let h := t.enterTrap tvec now c slot rslot eng addr rpc arg laddr lanes
    let r := h.leaveTrap later
    let ls := if lanes = 0 then 1 else lanes
    (h.st = .handler ∧ h.priv = true ∧ h.pc = tvec ∧ h.started = false ∧ h.mask 0 = ls ∧ h.live = ls ∧ (∀ l < t.lanes, ls.getLsbD l = true → Store.get h.ra l = tvec) ∧
      (∀ n, 1 ≤ n → n ≤ 3 → h.mask n = 0) ∧ (∀ n, 4 ≤ n → h.mask n = t.mask n) ∧ h.sregs = t.sregs ∧ h.vregs = t.vregs) ∧
    (h.trapCause.toNat = c.code.toNat + 2 ^ 8 * (slot % 2 ^ 4) + 2 ^ 12 * (rslot % 2 ^ 5) + 2 ^ 17 * (eng % 2 ^ 2) ∧ h.trapAddr = addr ∧ h.trapRpc = rpc ∧
      h.trapArg = arg ∧ h.trapLaddr = laddr) ∧
    (h.fstat = t.fstat ∧ h.fctl = t.fctl ∧ h.pstat = t.pstat ∧ h.holds = t.holds ∧ h.elogInfo = t.elogInfo ∧ h.vit = t.vit ∧ h.resv = t.resv) ∧
    ((∀ n, r.scal n = t.scal n) ∧ (∀ n l, r.elem n l = t.elem n l) ∧ (∀ n, r.mask n = t.mask n) ∧ r.live = t.live ∧ r.ra = t.ra ∧
      r.pc = rpc ∧ r.rslot = rslot % 2 ^ 5 ∧ r.bank = none ∧ r.st = (if t.st = .retiring then .retiring else .active))

/-- R101, R348, R356, R358: TRAP raises BRKP with its immediate in TRAP_ARG, resuming after its slot; RTE resumes at TRAP_RPC, ends a team that took
CNCL, and waits in a PREE handler. A privileged instruction at user privilege raises IINS, as does access to a supervisor's register. A trap at
issue in Handler makes the workgroup fatal: IINS of TRAP and of the generator instructions, EXIT among them, a precise fault of a load or a store,
and the IALN of an RTE whose TRAP_RPC is no multiple of 8, which restores nothing.
What the spec leaves open or to inference in it is the model's choice: log 28. -/
def Obligations.TrapAndReturn : Prop :=
  ∀ (s : State) (u : Nat) (t : Team),
    (∀ f : IForm, s.Ready u t (.trap f) false false → t.priv = false → t.spec = none →
      TrapsAtIssue s u t (.trap f) .brkp (t.slot + 1) f.imm [] (t.mask 0)) ∧
    (s.Ready u t .rte false false → t.trapRpc.toNat % 8 = 0 →
      (∀ o ∈ s.ops, o.team = u → o.kind ≠ .image true ∧ (o.settles = true → ∀ d ∈ o.dests, d.banked = false)) →
      let code := t.trapCause.toNat % 2 ^ 8
      (code ≠ 0x40 → code ≠ 0x41 → ∃ s' t', exec .rte s = .next s' ∧ s'.team? u = some t' ∧ s'.store = s.store ∧ s'.wgs = s.wgs ∧
        (∀ v, v ≠ u → s'.team? v = s.team? v) ∧ t'.sregs = (t.leaveTrap s.now).sregs ∧ t'.vregs = (t.leaveTrap s.now).vregs ∧
        t'.masks = (t.leaveTrap s.now).masks ∧ t'.live = (t.leaveTrap s.now).live ∧ t'.ra = (t.leaveTrap s.now).ra ∧ t'.pc = t.trapRpc ∧
        t'.rslot = t.trapCause.toNat / 2 ^ 12 % 2 ^ 5 ∧ t'.st = (t.leaveTrap s.now).st ∧ t'.started = false) ∧
      (code = 0x40 → Moves s u .rte fun t' => t'.hwait = .rte ∧ t'.st = t.st ∧ t'.bank = t.bank ∧ t'.sregs = t.sregs) ∧
      (code = 0x41 → t.st ≠ .retired → ∃ s' t', exec .rte s = .next s' ∧ s'.team? u = some t' ∧ t'.st = .retiring ∧ t'.live = 0 ∧ s'.store = s.store)) ∧
    (∀ f : VForm, ∀ i ∈ ([.rte, .wfi f, .ctxsv f, .ctxld f, .mapft f, .catsetAccess f, .catsetBound f, .catsetHwm f, .catsetPg f] : List Instr),
      s.cur = .team u → s.team? u = some t → t.started = true → t.priv = false → t.spec = none →
      TrapsAtIssue s u t i .iins t.slot 0 [] (t.mask 0)) ∧
    (∀ f : IForm, 0x800 ≤ f.imm.toNat % 2 ^ 12 → ∀ i ∈ ([.csrr f, .csrw f, .csrwTrapCause f] : List Instr),
      s.cur = .team u → s.team? u = some t → t.started = true → t.priv = false → t.spec = none →
      TrapsAtIssue s u t i .iins t.slot 0 [] (t.mask 0)) ∧
    (t.priv = true → s.Keyed → (s.ops.map (·.id)).Nodup →
      (∀ f : IForm, s.Ready u t (.trap f) false false → FatalAtIssue s u t (.trap f) .iins) ∧
      (∀ b : BForm, ∀ i ∈ ([.gen b, .gcon b, .exit b, .gsw] : List Instr), s.Ready u t i false false → FatalAtIssue s u t i .iins) ∧
      (∀ f : VForm, ∀ i ∈ ([.yield f, .gfr f] : List Instr), s.Ready u t i f.se f.fs → FatalAtIssue s u t i .iins) ∧
      (∀ f : VForm, ∀ i ∈ ([.gdone f, .gfrInfo f] : List Instr), s.Ready u t i false false → FatalAtIssue s u t i .iins) ∧
      (∀ f : MForm, ∀ p ∈ [(Instr.ld f, Act.read), (.st f, .write (List.replicate f.ty.bytes 0))],
        s.Ready u t p.1 f.se f.fs → ∀ c lanes laddr,
        s.preciseOf u ((t.active f.m).map fun l => s.sliceAcc u t (effAddr t f f.ty.bytes l) l f.ty.bytes p.2 .none) = some (c, lanes, laddr) →
        FatalAtIssue s u t p.1 c) ∧
      (s.Ready u t .rte false false → t.trapRpc.toNat % 8 ≠ 0 → FatalAtIssue s u t .rte .ialn))

/-- R81 to R91, R354, R357: CSRR reads the register that its number names, at the privilege that it needs; ID_LANE gives each running lane its number and
TRAP_LADDR its faulting address; an unassigned number raises IINS (`Claims.UnassignedRegisters`), as does a supervisor's register at user privilege
(`Obligations.TrapAndReturn`). -/
def Claims.ControlRegistersRead : Prop :=
  ∀ (s : State) (u : Nat) (t : Team) (f : IForm), s.Ready u t (.csrr f) false false →
    let n := f.imm.toNat % 2 ^ 12
    let reads := fun (x : Word) => Issues s u t (.csrr f) false false [.s f.d.toNat] [.s f.d.toNat x] 0
    let nat := fun (x : Nat) => reads (BitVec.ofNat 64 x)
    let quiet := ∀ o ∈ s.ops, o.team = u → o.agent = .team u → o.raiser = false
    (n = 0x000 → Issues s u t (.csrr f) false false [.v f.d.toNat] ((t.active 0).flatMap fun l => vput .n32 f.d.toNat l l) 0) ∧
    (∀ g l, s.wg? t.wg = some g → s.launchOf t.wg = some l →
      (n = 0x001 → nat t.twg) ∧ (n = 0x002 → nat g.idx) ∧ (n = 0x003 → nat (g.idx * l.shape.twg + t.twg)) ∧ (n = 0x004 → nat g.col) ∧
      (n = 0x005 → nat (g.col / 4)) ∧
      (n = 0x012 → nat (l.shape.lanes + 2 ^ 16 * l.shape.nv + 2 ^ 32 * l.shape.ns + 2 ^ 40 * l.shape.twg + 2 ^ 44 * l.shape.spad)) ∧
      (n = 0x013 → nat (l.g + if l.det then 2 ^ 32 else 0))) ∧
    (∀ c, s.ctx? (s.ctxOf t) = some c → (n = 0x006 → nat c.dev) ∧ (n = 0x810 → t.priv = true → reads c.tvec)) ∧
    (n = 0x010 → nat 32) ∧ (n = 0x011 → nat (8 + 2 ^ 8 * 16 + 2 ^ 16 * 4 + 2 ^ 24 * 32 + 2 ^ 32 * 10 + 2 ^ 36 * 7)) ∧
    (n = 0x020 → reads (Config.clkBase (s.colOf t) + BitVec.ofNat 64 (colClk (s.colOf t) s.now) + t.clkOff)) ∧
    (n = 0x021 → nat (((List.range 12).filter fun k => s.flag u k).map fun k => 2 ^ k).sum) ∧
    (n = 0x100 → quiet → nat t.fstat.toNat) ∧ (n = 0x101 → quiet → nat t.fctl.toNat) ∧ (n = 0x102 → nat t.pstat.toNat) ∧
    (n = 0x110 → reads t.elogAddr) ∧ (n = 0x111 → reads t.elogInfo) ∧
    (t.priv = true → (n = 0x800 → reads t.trapCause) ∧ (n = 0x801 → reads t.trapAddr) ∧ (n = 0x802 → reads t.trapRpc) ∧
      (n = 0x803 → nat t.trapArg.toNat) ∧
      (n = 0x804 → Issues s u t (.csrr f) false false [.v f.d.toNat, .v (f.d.toNat + 1)]
        ((t.active 0).flatMap fun l => vput .n64 f.d.toNat l (Store.get t.trapLaddr l).toNat) 0))

/-- R15, R81, R113: an unassigned number below 0x800 fails its check before any operand is looked at, and raises IINS at user privilege. -/
def Claims.UnassignedRegisters : Prop :=
  ∀ (s : State) (u : Nat) (t : Team) (f : IForm), s.cur = .team u → s.team? u = some t → t.started = true → t.priv = false → t.spec = none →
    let n := f.imm.toNat % 2 ^ 12
    n < 0x800 → n ∉ [0x000, 0x001, 0x002, 0x003, 0x004, 0x005, 0x006, 0x010, 0x011, 0x012, 0x013, 0x020, 0x021, 0x100, 0x101, 0x102, 0x110, 0x111] →
    TrapsAtIssue s u t (.csrr f) .iins t.slot 0 [] (t.mask 0) ∧ TrapsAtIssue s u t (.csrw f) .iins t.slot 0 [] (t.mask 0)

/-- R81, R88 to R92, R354, R355: CSRW writes FSTAT, FCTL and PSTAT, clears the error record, and in Handler writes TRAP_RPC and the RSLOT field of
TRAP_CAUSE, and changes nothing else of them; for a register that cannot be written it raises IINS, as it does for a supervisor's register at user
privilege (`Obligations.TrapAndReturn`). -/
def Claims.ControlRegistersWritten : Prop :=
  ∀ (s : State) (u : Nat) (t : Team) (f : IForm),
    let n := f.imm.toNat % 2 ^ 12
    let x := t.scal f.a.toNat
    let quiet := ∀ o ∈ s.ops, o.team = u → o.agent = .team u → o.raiser = false
    (s.Ready u t (.csrw f) false false →
      (n = 0x102 → Completes s u { t with pstat := x.extractLsb' 0 2 } (.csrw f)) ∧
      (n = 0x802 → t.priv = true → Completes s u { t with trapRpc := x } (.csrw f)) ∧
      (t.priv = false → t.spec = none → n ≠ 0x102 → TrapsAtIssue s u t (.csrw f) .iins t.slot 0 [] (t.mask 0))) ∧
    (s.Ready u t (.csrwFstat f) false false → quiet → Completes s u { t with fstat := x.extractLsb' 0 5 } (.csrwFstat f)) ∧
    (s.Ready u t (.csrwFctl f) false false → quiet → Completes s u { t with fctl := x.extractLsb' 0 5 } (.csrwFctl f)) ∧
    (s.Ready u t (.csrwElogInfo f) false false →
      (x.getLsbD 0 = true → Completes s u t (.csrwElogInfo f)) ∧
      (x.getLsbD 0 = false → (∀ e, t.errNow = some e → e.clk ≠ s.now) → Completes s u { t with elogInfo := 0, elogAddr := 0 } (.csrwElogInfo f))) ∧
    (s.Ready u t (.csrwTrapCause f) false false →
      ∃ y : Word, Completes s u { t with trapCause := y } (.csrwTrapCause f) ∧
        ∀ k, y.getLsbD k = if 12 ≤ k ∧ k ≤ 16 then x.getLsbD k else t.trapCause.getLsbD k)

/-- R81 to R92, R354 to R357: control and status registers read and written.
What the spec leaves open or to inference in it is the model's choice: logs 2, 24 and 46. -/
def Obligations.ControlRegisters : Prop :=
  Claims.ControlRegistersRead ∧ Claims.ControlRegistersWritten ∧ Claims.UnassignedRegisters

/-- R365, R366: QFEAT reads the context's feature words, and QPHYS the machine beneath the logical columns: the physical column, core and die that serve
the team, the fitted second tier, the HBM4E left and the dies removed, Loan, and the unavailable columns; other selectors read zero.
What the spec leaves open or to inference in it is the model's choice: logs 8, 10 and 31. -/
def Obligations.FeatureQueries : Prop :=
  ∀ (s : State) (u : Nat) (t : Team) (f : IForm) (c : Context), s.ctx? (s.ctxOf t) = some c →
    let n := f.imm.toNat
    let col := s.colOf t
    let die := col / 64
    (s.Ready u t (.qfeat f) false false →
      Issues s u t (.qfeat f) false false [.s f.d.toNat]
        [.s f.d.toNat (if n = 0 then c.qfeat0 else if n = 1 then c.qfeat1 else if n = 2 then c.qfeat2 else 0)] 0) ∧
    (s.Ready u t (.qphys f) false false → ∃ x : Nat,
      Issues s u t (.qphys f) false false [.s f.d.toNat] [.s f.d.toNat (BitVec.ofNat 64 x)] 0 ∧
      (∀ pc, assoc s.remap (col / 4) = some pc → n = 0 → x = (die * 68 + pc * 4 + col % 4) + 2 ^ 16 * pc + 2 ^ 24 * die) ∧
      (n = 1 → x = (if Config.moduleM = false ∧ Config.secondTierCxl = true then 2 else 1) + 2 ^ 16 * (Config.fittedMiB - s.cxlLost)) ∧
      (n = 2 → x = (Config.hbmMiB - 64 * (s.removed.filter fun e => e.1 == die).length) + 2 ^ 16 * (s.removed.filter fun e => e.1 == die).length) ∧
      (n = 3 → x = 64 + 64 * ((s.column col).loan.filter fun e => e.1 == .lent).length) ∧
      (4 ≤ n → n ≤ 11 → x = (((List.range 64).filter fun i => s.unavail.contains ((64 * (n - 4) + i) / 4)).map fun i => 2 ^ i).sum) ∧
      (12 ≤ n → x = 0))

/-- R360 to R363: WFI goes on when a named flag is clear or PREE or CNCL is pending, and otherwise waits. CTXSV
stores the team's context image, 8 bytes at a time, once the handler's own writes of the registers in it have been made (R77), and CTXLD reads one into the registers that it will write, when the image's range passes the
checks of R199; otherwise one error response is given and nothing moves. -/
def Claims.ContextInstructions : Prop :=
  ∀ (s : State) (u : Nat) (t : Team) (f : VForm),
    let a := t.scal f.a.toNat
    (s.Ready u t (.wfi f) false false → t.priv = true →
      let goes := t.pendCncl = true ∨ t.pendPree = true ∨ ∃ n < 12, (Fields.flagSet f).getLsbD n = true ∧ s.flag u n = false
      (goes → Completes s u t (.wfi f)) ∧
      (¬goes → Completes s u { t with hwait := .wfi (Fields.flagSet f) } (.wfi f))) ∧
    (s.Ready u t (.ctxsv f) f.se f.fs → (∀ o ∈ s.ops, o.team = u → o.sup = true → ∀ d ∈ o.dests, d.banked = true) →
      (s.imageFail u t a true = none →
        Starts s u t t (.ctxsv f) f.se f.fs fun o => o.kind = .image false ∧ o.dests = [] ∧ o.acc.length = (4096 + 4 * t.nv * t.lanes + 24 * t.lanes) / 8 ∧
          ∀ k x, o.acc[k]? = some x → x.path = .T ∧ x.addr = a + BitVec.ofNat 64 (8 * k) ∧ x.size = 8 ∧ x.act = .write ((t.image.drop (8 * k)).take 8)) ∧
      (∀ c, s.imageFail u t a true = some c → t.spec = none → ∃ s' t', exec (.ctxsv f) s = .next s' ∧ s'.team? u = some t' ∧ s'.ops = s.ops ∧
        s'.store = s.store ∧ t'.elogInfo.getLsbD 0 = true ∧ t'.sregs = t.sregs)) ∧
    (s.Ready u t (.ctxsv f) f.se f.fs → (∃ o ∈ s.ops, o.team = u ∧ o.sup = true ∧ ∃ d ∈ o.dests, d.banked = false) →
      ∃ s' t', exec (.ctxsv f) s = .next s' ∧ s'.team? u = some t' ∧ t'.pc = t.pc ∧ t'.slot = t.slot ∧ s'.ops = s.ops ∧ s'.store = s.store) ∧
    (s.Ready u t (.ctxld f) f.se f.fs → s.imageFail u t a false = none →
      Starts s u t t (.ctxld f) f.se f.fs fun o => o.kind = .image true ∧ o.acc.length = (4096 + 4 * t.nv * t.lanes + 24 * t.lanes) / 8 ∧
        (∀ k x, o.acc[k]? = some x → x.path = .T ∧ x.addr = a + BitVec.ofNat 64 (8 * k) ∧ x.size = 8 ∧ x.act = .read ∧ x.land = .data (8 * k)) ∧
        (∀ n, Dest.s n ∈ o.dests ↔ 8 ≤ n ∧ n < t.ns) ∧ (∀ n, Dest.v n ∈ o.dests ↔ 4 ≤ n ∧ n < t.nv) ∧ (∀ n, Dest.m n ∈ o.dests ↔ 4 ≤ n ∧ n < 16))

/-- R362: the context image of a team outside Handler: its length, and where the scalars, the vector elements and the resume addresses of its lanes
stand. -/
def Claims.ContextImage : Prop :=
  ∀ t : Team, t.bank = none → t.ns ≤ 128 →
    let at_ := fun (k n : Nat) => natOfBytes ((t.image.drop k).take n)
    t.image.length = 4096 + 4 * t.nv * t.lanes + 24 * t.lanes ∧
    at_ 8 8 = t.trapRpc.toNat ∧ at_ 16 8 = t.trapCause.toNat ∧ at_ 32 8 = t.fstat.toNat ∧ at_ 40 8 = t.fctl.toNat ∧ at_ 48 8 = t.pstat.toNat ∧
    (∀ n < t.ns, at_ (768 + 8 * n) 8 = (t.scal n).toNat) ∧
    (∀ n < t.nv, ∀ l < t.lanes, at_ (4096 + 4 * (n * t.lanes + l)) 4 = (t.elem n l).toNat) ∧
    (∀ l < t.lanes, at_ (4096 + 4 * t.nv * t.lanes + 8 * l) 8 = (if (t.mask 0).getLsbD l then t.pc else Store.get t.ra l).toNat)

/-- R361, R362: when the bytes of CTXLD have been read, one whose shape is the team's loads TRAP_RPC, the RSLOT field of TRAP_CAUSE, FSTAT, FCTL, PSTAT, the
declared scalars, the mask words of m1 to m15 and the vector registers of the interrupted team, those that the trap banked in the bank; one of another
shape gets one error response MPRM and loads nothing. No byte of memory changes. -/
def Claims.ContextLoads : Prop :=
  ∀ (s : State) (n : Nat) (o : Op) (t : Team), s.arg = .id n → s.op? n = some o → o.kind = .image true → s.opDrained o = true → o.errLanes = 0 →
    o.raises = 0 → o.later = [] → s.team? o.team = some t → t.spec = none → t.Stored →
    let num := fun (at_ k : Nat) => natOfBytes (Memory.bytes o.data at_ k)
    let shape := num 0 8 / 2 ^ 8 % 2 ^ 28
    (shape ≠ (t.lanes + 2 ^ 11 * t.nv + 2 ^ 20 * t.ns) % 2 ^ 28 → ∃ s' t', exec .writePerformed s = .next s' ∧ s'.team? o.team = some t' ∧
      s'.op? n = none ∧ s'.store = s.store ∧ t'.elogInfo.getLsbD 0 = true ∧ t'.sregs = t.sregs ∧ t'.vregs = t.vregs ∧ t'.masks = t.masks ∧ t'.bank = t.bank ∧
      t'.trapRpc = t.trapRpc ∧ t'.trapCause = t.trapCause ∧ t'.fstat = t.fstat) ∧
    (shape = (t.lanes + 2 ^ 11 * t.nv + 2 ^ 20 * t.ns) % 2 ^ 28 → t.ns ≤ 128 → t.nv ≤ 256 → t.lanes ≤ 1024 → ∃ s' t', exec .writePerformed s = .next s' ∧
      s'.team? o.team = some t' ∧ s'.op? n = none ∧ s'.store = s.store ∧ t'.trapRpc.toNat = num 8 8 ∧
      (∀ k, t'.trapCause.getLsbD k = if 12 ≤ k ∧ k ≤ 16 then (num 16 8).testBit k else t.trapCause.getLsbD k) ∧
      t'.fstat.toNat = num 32 8 % 2 ^ 5 ∧ t'.fctl.toNat = num 40 8 % 2 ^ 5 ∧ t'.pstat.toNat = num 48 8 % 2 ^ 2 ∧
      (∀ k < t.ns, (t'.interrupted.scal k).toNat = num (768 + 8 * k) 8) ∧
      (∀ k, 1 ≤ k → k ≤ 15 → ∀ l < t.lanes, (t'.interrupted.mask k).getLsbD l = (num (1792 + 132 * k + 4 * (l / 32)) 4).testBit (l % 32)) ∧
      (∀ k < t.nv, ∀ l < t.lanes, (t'.interrupted.elem k l).toNat = num (4096 + 4 * (k * t.lanes + l)) 4) ∧
      t'.live = t.live ∧ t'.ra = t.ra ∧ t'.elogInfo = t.elogInfo)

/-- R360 to R363: waiting for work, and the image of a team, stored and loaded.
What the spec leaves open or to inference in it is the model's choice: logs 45 and 49. -/
def Obligations.ContextImages : Prop :=
  Claims.ContextInstructions ∧ Claims.ContextImage ∧ Claims.ContextLoads

/-- R372 to R379: the instructions of the Catalogue start an operation that holds their two scalars, or each active lane's address, and that will write
their destination; CATSET#7 on any object but 0 raises IINS, which in Handler makes the workgroup fatal (R353). -/
def Claims.CatalogueInstructions : Prop :=
  ∀ (s : State) (u : Nat) (t : Team) (f : VForm),
    let a := t.scal f.a.toNat
    let b := t.scal f.b.toNat
    let forms : List (Instr × List Dest) := [(.catld f, [.s f.d.toNat]), (.catsetAccess f, []), (.catsetBound f, []), (.catsetPg f, []),
      (.catsnap f, [.s f.d.toNat]), (.catsnapRel f, [])]
    (∀ x ∈ forms, s.Ready u t x.1 f.se f.fs → Starts s u t t x.1 f.se f.fs fun o => o.kind = .cat x.1 a b [] ∧ o.dests = x.2 ∧ o.acc = [] ∧ o.writes = []) ∧
    (s.Ready u t (.mapft f) f.se f.fs → Starts s u t t (.mapft f) f.se f.fs fun o =>
      o.kind = .cat (.mapft f) a b ((t.active f.m).map fun l => (l, BitVec.ofNat 64 (t.vbits .n64 f.a.toNat l))) ∧ o.dests = [.v f.d.toNat]) ∧
    (s.Ready u t (.catsetHwm f) f.se f.fs →
      (a.toNat / 2 ^ 48 = 0 → Starts s u t t (.catsetHwm f) f.se f.fs fun o => o.kind = .cat (.catsetHwm f) a b [] ∧ o.dests = []) ∧
      (∀ g, a.toNat / 2 ^ 48 ≠ 0 → t.priv = true → s.wg? t.wg = some g → ∃ s', exec (.catsetHwm f) s = .next s' ∧
        (∃ g', s'.wg? t.wg = some g' ∧ g'.fatal = true ∧ g'.cancelled = true ∧ g'.staged = [] ∧ g'.spad = g.spad ∧ g'.teams = g.teams) ∧
        s'.store = s.store))

/-- R368, R378: what CATLD and CATSET do when they complete. CATLD writes the word of the descriptor that its sub-operation names, 0 for an unknown
identifier. CATSET waits until the team's earlier T-path accesses are performed at dev scope; an address that is null, unknown or out of bounds changes
nothing (R377). #0 writes DUP and W, and drops the replicas as it clears DUP; #1 writes BOUND, with first-touch pages where it grows and without the pages
past it where it shrinks; #7 writes the team's mark; .pg writes W and X of the page in every column. -/
def Claims.CatalogueWrites : Prop :=
  ∀ (s : State) (n : Nat) (o : Op) (t : Team) (f : VForm) (a b : Word), s.arg = .id n → s.op? n = some o → s.team? o.team = some t → t.spec = none →
    let x := s.ctxOf t
    let col := s.colOf t
    let id := a.toNat / 2 ^ 48
    let off := a.toNat % 2 ^ 48
    let v := b.toNat % 2 ^ 48
    let ordered := s.performedAt o.team .T o.seq 4 false = true
    let bit := fun (p : Bool) (k : Nat) => if p then 2 ^ k else 0
    (o.kind = .cat (.catld f) a b [] → ∃ w : Word,
      (Does s .writePerformed fun s' => Finishes s s' o [.s f.d.toNat w] o.raises ∧ s'.contexts = s.contexts) ∧
      (s.obj? x id col = none → w = 0) ∧
      ∀ q, s.obj? x id col = some q → let k := f.sub.toNat % 8
        (k = 0 → w = BitVec.ofNat 64 (1 + 2 * q.ty.code.toNat + bit q.w 5 + bit q.split 6 + bit q.tol 7 + 2 ^ 8 * q.scale.toNat + bit q.dup 10 +
          bit q.snap 11 + 2 ^ 16 * id)) ∧
        (k = 1 → w = BitVec.ofNat 64 q.bound) ∧ (k = 2 → w = q.sbase) ∧ (k = 3 → w = BitVec.ofNat 64 (q.rows.toNat + 2 ^ 32 * q.pitch.toNat)) ∧
        (k = 4 → w = BitVec.ofNat 64 (q.bcol + 2 ^ 10 * q.ncol + 2 ^ 20 * q.stride + 2 ^ 32 * q.blk.toNat)) ∧
        (k = 5 → w = BitVec.ofNat 64 (s.mappedBytes x id o.team col q)) ∧ (k = 6 → w = q.source) ∧
        (k = 7 → w = if id = 0 then BitVec.ofNat 64 t.hwm else 0)) ∧
    (∀ i ∈ ([.catsetAccess f, .catsetBound f, .catsetHwm f, .catsetPg f] : List Instr), o.kind = .cat i a b [] →
      (¬ordered → exec .writePerformed s = .next s) ∧
      (ordered → (∀ q, s.obj? x id col = some q → q.bound ≤ off) → Does s .writePerformed fun s' => Finishes s s' o o.writes o.raises ∧ s'.contexts = s.contexts)) ∧
    ∀ q, ordered → s.obj? x id col = some q → off < q.bound →
      (o.kind = .cat (.catsetHwm f) a b [] → ∃ s' t', exec .writePerformed s = .next s' ∧ s'.team? o.team = some t' ∧ s'.op? n = none ∧ s'.store = s.store ∧
        t'.hwm = if v ≤ q.bound ∧ v % 65536 = 0 then v else t.hwm) ∧
      ∀ c, id ≠ 0 → s.ctx? x = some c →
        (o.kind = .cat (.catsetAccess f) a b [] → Does s .writePerformed fun s' => s'.op? n = none ∧ s'.store = s.store ∧
          (∀ y, y ≠ x → s'.ctx? y = s.ctx? y) ∧ ∃ c', s'.ctx? x = some c' ∧ c'.pages = c.pages ∧
            let dup := b.getLsbD 10
            let w := b.getLsbD 5
            assoc c'.objs id = some (if dup = true ∧ w = true then q
              else { q with dup := dup, replicas := if dup then q.replicas else [], w := if w = true ∧ q.snap = true then q.w else w })) ∧
        (o.kind = .cat (.catsetBound f) a b [] → Does s .writePerformed fun s' => s'.op? n = none ∧
          (∀ y, y ≠ x → s'.ctx? y = s.ctx? y) ∧ ∃ c' q', s'.ctx? x = some c' ∧ assoc c'.objs id = some q' ∧ q' = { q with bound := v, ftFrom := q'.ftFrom } ∧
            (∀ e ∈ c'.pages, e.1.obj = id → 65536 * e.1.page < v) ∧
            (∀ e ∈ c.pages, e.1.obj ≠ id ∨ 65536 * e.1.page < v → ∃ sh, (e.1, { e.2 with sh := sh }) ∈ c'.pages) ∧
            (∀ r : PageRef, r.ctx = x → r.obj = id → q.bound ≤ 65536 * r.page → 65536 * r.page < v → (∀ e ∈ c.pages, e.1 ≠ r) → q.inDist r.col = true →
              s.inOwnPart x r.col = true → (s'.pte r q').p = false ∧ (s'.pte r q').ft = true)) ∧
        (o.kind = .cat (.catsetPg f) a b [] →
          let w := b.getLsbD 2
          let ex := b.getLsbD 3
          ((w = true ∧ ex = true) ∨ (w = true ∧ q.w = false) → Does s .writePerformed fun s' => s'.op? n = none ∧ s'.contexts = s.contexts) ∧
          (¬(w = true ∧ ex = true) → ¬(w = true ∧ q.w = false) → Does s .writePerformed fun s' => s'.op? n = none ∧ s'.store = s.store ∧
            (∀ r : PageRef, r.ctx = x → r.obj = id → r.team = 0 → r.page = off / 65536 → q.inDist r.col = true → (r.lower = true → q.split = true) →
              s'.pte r q = { s.pte r q with w := w, x := ex }) ∧
            (∀ r : PageRef, r.ctx = x → r.obj = id → r.team = 0 → r.page = off / 65536 → q.inDist r.col = false → (r.lower = true → q.split = true) →
              q.ncol ≠ 0 → q.bcol < 512 → (∀ e ∈ c.pages, e.1 ≠ r) → (s'.pte r q).w = w ∧ (s'.pte r q).x = ex) ∧
            ∀ r : PageRef, r.ctx = x → r.obj = id → r.page ≠ off / 65536 → s'.pte r q = s.pte r q))

/-- R372, R379: what CATSNAP, its release and MAPFT do when they complete. CATSNAP, once the team's earlier T-path accesses are performed at dev scope,
makes a read-only object of the next free identifier that shares the frames, and writes its address, or null where it makes none; the release deletes
a snapshot and its scale snapshot, and clears SH where no entry shares the frame. MAPFT gives each lane its status and maps a page that is
first-touch or shared to the first frame of the pool; a second lane of the page sees it present. -/
def Claims.CatalogueMakes : Prop :=
  ∀ (s : State) (n : Nat) (o : Op) (t : Team) (f : VForm) (a b : Word), s.arg = .id n → s.op? n = some o → s.team? o.team = some t → t.spec = none →
    let x := s.ctxOf t
    let col := s.colOf t
    let id := a.toNat / 2 ^ 48
    (o.kind = .cat (.catsnap f) a b [] →
      (s.performedAt o.team .T o.seq 4 false = false → exec .writePerformed s = .next s) ∧
      (s.performedAt o.team .T o.seq 4 false = true →
        (∀ c, s.ctx? x = some c → (id = 0 ∨ assoc c.objs id = none ∨ ∃ q, assoc c.objs id = some q ∧ q.snap = true) →
          Does s .writePerformed fun s' => Finishes s s' o [.s f.d.toNat 0xFFFF000000000000] o.raises ∧ s'.contexts = s.contexts) ∧
        ∀ c q, s.ctx? x = some c → id ≠ 0 → assoc c.objs id = some q → q.snap = false →
          (q.sbase.toNat / 2 ^ 48 = id ∨ q.sbase.toNat / 2 ^ 48 = 0 ∨ assoc c.objs (q.sbase.toNat / 2 ^ 48) = none) →
          (s.freeIds x 1 = none → Does s .writePerformed fun s' => Finishes s s' o [.s f.d.toNat 0xFFFF000000000000] o.raises ∧ s'.contexts = s.contexts) ∧
          ∀ k, s.freeIds x 1 = some [k] → Does s .writePerformed fun s' => Finishes s s' o [.s f.d.toNat (BitVec.ofNat 64 (2 ^ 48 * k))] o.raises ∧
            k ≠ 0 ∧ k ≠ 0xFFFF ∧ assoc c.objs k = none ∧ ∃ c', s'.ctx? x = some c' ∧ assoc c'.objs id = some q ∧
            assoc c'.objs k = some { q with w := false, snap := true, source := BitVec.ofNat 64 (2 ^ 48 * id), replicas := [], mate := none } ∧
            (∀ e ∈ c.pages, e.1.obj = id → e.2.p = true →
              (e.1, { e.2 with sh := true }) ∈ c'.pages ∧ ({ e.1 with obj := k }, { e.2 with sh := true, w := false }) ∈ c'.pages) ∧
            ∀ e ∈ c.pages, e.1.obj ≠ id → e ∈ c'.pages)) ∧
    (o.kind = .cat (.catsnapRel f) a b [] → ∀ c, s.ctx? x = some c →
      ((∀ q, assoc c.objs id = some q → q.snap = false) →
        Does s .writePerformed fun s' => Finishes s s' o o.writes o.raises ∧ ∀ y, s'.ctx? y = s.ctx? y) ∧
      ∀ q, assoc c.objs id = some q → q.snap = true → Does s .writePerformed fun s' => Finishes s s' o o.writes o.raises ∧
        ∃ c', s'.ctx? x = some c' ∧ assoc c'.objs id = none ∧ (∀ m, q.mate = some m → assoc c'.objs m = none) ∧
          (∀ e ∈ c'.pages, e.1.obj ≠ id ∧ ∀ m, q.mate = some m → e.1.obj ≠ m) ∧
          ∀ e ∈ c'.pages, e.2.sh = true → ∃ g ∈ c'.pages, g.1 ≠ e.1 ∧ g.2.p = true ∧ g.2.key = e.2.key) ∧
    ∀ (l : Nat) (ad : Addr) (rest : List (Nat × Addr)), o.kind = .cat (.mapft f) a b ((l, ad) :: rest) →
      let i := ad.toNat / 2 ^ 48
      let off := ad.toNat % 2 ^ 48
      let status := fun (l : Nat) (st : Nat) => RegWr.v f.d.toNat l (BitVec.allOnes 32) (BitVec.ofNat 32 st)
      let gives := fun (st : Nat) => rest = [] → Does s .writePerformed fun s' => s'.op? n = none ∧
        (∃ t', s'.team? o.team = some t' ∧ t'.vregs = (t.applyAll (status l st :: o.later.map (·.wr))).vregs) ∧
        (st ≠ 0 → s'.store = s.store ∧ s'.contexts = s.contexts ∧ s'.columns = s.columns)
      (s.obj? x i col = none → gives 3) ∧
      ∀ q, s.obj? x i col = some q → (q.bound ≤ off → gives 3) ∧
        (off < q.bound → q.split = false →
          let r := pageRef x i o.team col off false
          let e := s.pte r q
          (e.col ≠ col → gives 3) ∧
          (e.col = col →
            (e.p = false → e.ft = false → gives 3) ∧ (e.p = true → e.sh = false → gives 1) ∧
            ((e.p = false ∧ e.ft = true) ∨ (e.p = true ∧ e.sh = true) →
              ((s.column col).pool false = [] → gives 2) ∧
              ∀ g fs c, (s.column col).pool false = g :: fs → s.ctx? x = some c →
                gives 0 ∧
                (rest = [] → Does s .writePerformed fun s' => (s'.column col).pool false = fs ∧
                  s'.pte r q = { e with p := true, ft := false, sh := false, w := q.w, x := false, tier := 0, col := col, frame := g } ∧
                  (e.p = false → ∀ k < 65536, s'.byteAt (physKey 0 col g 0 + k) = 0)) ∧
                ∀ l' ad', rest = [(l', ad')] → ad'.toNat / 2 ^ 48 = i → ad'.toNat % 2 ^ 48 < q.bound → ad'.toNat % 2 ^ 48 / 65536 = off / 65536 →
                  Does s .writePerformed fun s' => ∃ t', s'.team? o.team = some t' ∧
                    t'.vregs = (t.applyAll (status l 0 :: status l' 1 :: o.later.map (·.wr))).vregs)))

/-- R372 to R379: the instructions of the Catalogue start, and what each does when it completes.
What the spec leaves open or to inference in it is the model's choice: logs 32, 59 and 60. -/
def Obligations.CatalogueInstructions : Prop :=
  Claims.CatalogueInstructions ∧ Claims.CatalogueWrites ∧ Claims.CatalogueMakes

/-- R278 to R282, R285: CPY, CPYM, CPYF, CPYG and CPYS, each with the operands, offsets and index list of its form. -/
def Claims.CopyCommands : Prop :=
  ∀ f : CForm, CopyResult (.cpy f) .cpy f ∧ CopyResult (.cpym f) .cpym f ∧ CopyResult (.cpyf f) .cpyf f ∧ CopyResult (.cpyg f) .cpyg f ∧
    CopyResult (.cpys f) .cpys f

/-- R277, R287, R290: CSIG and CFENCE start an operation with their scope; CWAIT makes the stream wait for its flags; CMX takes the next word of its clause as its payload;
CEND ends the stream's issue. -/
def Claims.CopyControl : Prop :=
  ∀ (s : State) (u : Nat) (t : Team) (x : Stream) (f : KForm),
    (s.ReadyEng u false t x (.csig f) f.se f.fs →
      EngStarts s u false t x (.csig f) f.se f.fs 1 fun _ o => o.kind = .csig (f.low.toNat % 8)) ∧
    (s.ReadyEng u false t x (.cfence f) false false →
      EngStarts s u false t x (.cfence f) false false 1 fun _ o => o.kind = .cfence (f.low.toNat % 8)) ∧
    (s.ReadyEng u false t x (.cwait f) false false →
      EngMoves s u false t { x.past 1 with cwait := BitVec.ofNat 12 (f.low.toNat % 2 ^ 12) } (.cwait f)) ∧
    (∀ w, s.ReadyEng u false t x (.cmx f) f.se f.fs → x.slot < hdrCount x.hdr → x.words[x.slot + 1]? = some w → 0x340 ≤ opcodeOf w → opcodeOf w ≤ 0x345 → w.toNat / 2 ^ 48 % 4 = 0 →
      EngStarts s u false t x (.cmx f) f.se f.fs 2 fun _ o => o.kind = .cmx w (x.slot + 1) x.pc false) ∧
    (s.ReadyEng u false t x .cend false false → EngMoves s u false t { x.past 1 with halted := true } .cend)

/-- R280, R283, R284: MM_PERFORM of an element of a copy command reads it, with the bytes that the path's read gives, or writes what has been read, when it
passes its checks, those of CPYS's destination before its source, and no answer to a range check is awaited (R281). Before the source of an element
of CPYS is read, another device is asked whether its destination passes checks 1 to 5. FIFO_BYTES_LAND puts the next element of a FIFO's oldest command at the FIFO's tail, when there is space. -/
def Claims.CopyElements : Prop :=
  ∀ (s : State) (n : Nat) (o : Op) (c : CopyCmd) (t : Team), s.op? n = some o → o.kind = .copy c → s.team? o.team = some t →
    (∀ i, s.arg = .pair n i → o.queued = true → s.streamsRun t = true → s.cpHeld o = false → c.stopped = none →
      (∀ bs ix, i ∈ c.left → c.cop ≠ .cpym → c.ask = 0 → s.cpIndex o { c with reserved := true } i = some (.ok ix) →
        s.cpDest o { c with reserved := true } i ix = .ok → s.cpDestOpen o { c with reserved := true } i ix = false →
        (c.dst.kind = 2 → (s.column (s.colOf t)).mxHolder = some o.team) →
        let a := s.cpAccess o.team c.src (c.src.elemAddr (if c.cop = .cpyg then ix else i) c.w) i c.w .read
        s.cpCheck o.team c.src a = .ok → (∀ x y z, a.space ≠ .remote x y z) → s.readValue o.team .C a.space a.lower a.addr c.w = some (bs, false) →
        Does s .mmPerform fun s' => s'.store = s.store ∧ ∃ o' c', s'.op? n = some o' ∧ o'.kind = .copy c' ∧
          c'.left = c.left.filter (· != i) ∧ c'.got = c.got ++ [(i, ix, bs)]) ∧
      (∀ ix x y z, i ∈ c.left → c.cop = .cpys → c.ask = 0 → s.cpIndex o { c with reserved := true } i = some (.ok ix) →
        (s.cpAccess o.team c.dst (c.dst.elemAddr ix c.w) i c.w (.write [])).space = .remote x y z → (i, true) ∉ c.dests →
        (c.dst.kind = 2 → (s.column (s.colOf t)).mxHolder = some o.team) →
        ((i, false) ∈ c.dests → exec .mmPerform s = .next s) ∧
        ((i, false) ∉ c.dests → Does s .mmPerform fun s' => s'.store = s.store ∧ (∃ b, s'.bufs = s.bufs ++ [b] ∧ b.op = n ∧ b.el = i ∧ b.probe = true ∧
          b.addr = c.dst.elemAddr ix c.w ∧ b.size = c.w ∧ b.act.writes = true) ∧
          ∃ o' c', s'.op? n = some o' ∧ o'.kind = .copy c' ∧ c'.left = c.left ∧ c'.got = c.got ∧ c'.dests = c.dests ++ [(i, false)])) ∧
      (∀ bs ix, i ∉ c.left → c.got.find? (fun g => g.1 == i) = some (i, ix, bs) → c.dst.kind ≠ 2 → c.cop ≠ .cpys → c.ask = 0 →
        let a := s.cpAccess o.team c.dst (c.dst.elemAddr i c.w) i c.w (.write bs)
        s.cpCheck o.team c.dst a = .ok → s.stages o.team a.space a.addr a.act = false →
        Does s .mmPerform fun s' => s'.store = s.store ∧ (∃ b, s'.bufs = s.bufs ++ [b] ∧ b.agent = .copy o.team ∧ b.path = .C ∧ b.seq = o.seq ∧
          b.space = a.space ∧ b.addr = a.addr ∧ b.act = .write bs ∧ b.stage = 0) ∧
          ∃ o' c', s'.op? n = some o' ∧ o'.kind = .copy c' ∧ c'.left = c.left ∧ c'.got = c.got.filter fun g => g.1 != i)) ∧
    (∀ i ix bs, s.arg = .id n → c.got.find? (fun g => g.1 == c.landed) = some (i, ix, bs) → c.dst.kind = 2 →
      (s.column (s.colOf t)).mxHolder = some o.team →
      (∀ p ∈ s.ops, p.agent = o.agent → p.seq < o.seq → ∀ d, p.kind = .copy d → d.dst.kind = 2 → d.dst.fifo ≠ c.dst.fifo) →
      let m := (s.column (s.colOf t)).mx
      let room := if c.dst.fifo = 2 then 16384 else 32768
      ((m.fifo c.dst.fifo).length + c.w ≤ room → Does s .fifoBytesLand fun s' => s'.store = s.store ∧ s'.teams = s.teams ∧
        (s'.column (s.colOf t)).mx.fifo c.dst.fifo = m.fifo c.dst.fifo ++ bs ∧ (∀ e, e ≠ s.colOf t → s'.column e = s.column e) ∧
        ∃ o' c', s'.op? n = some o' ∧ o'.kind = .copy c' ∧ c'.landed = c.landed + 1 ∧ c'.left = c.left) ∧
      (room < (m.fifo c.dst.fifo).length + c.w → exec .fifoBytesLand s = .next s))

/-- R285, R286, R312: a CPYM request, whose bytes have their place in the FIFO, arrives at its source's slice, and joins the open entry with its key,
opens one of at most 16, or is served alone; without room in the FIFO it does not arrive. A sector of an entry is read for all its requests at
once, a receiver that cannot take it does not hold it back, and the entry ends with its last sector; one served alone takes a sector of its own. -/
def Claims.MulticastReads : Prop :=
  (∀ (s : State) (n : Nat) (o : Op) (c : CopyCmd) (t : Team) (x col v : Nat), s.arg = .id n → s.op? n = some o → o.kind = .copy c →
    s.team? o.team = some t → s.cpSpace o.team c.src c.src.base = .slice x col v → c.cop = .cpym →
    let key := s.mergeKey t c
    let ms := (s.column col).merges
    (c.arrived = false → c.left ≠ [] → o.queued = true → s.streamsRun t = true → s.cpHeld o = false → c.ask = 0 → s.fifoRoom o c = true →
      (c.dst.kind = 2 → (s.column (s.colOf t)).mxHolder = some o.team) →
      Does s .cpymRequestArrival fun s' => s'.store = s.store ∧ s'.teams = s.teams ∧
        s'.ops = s.ops.map (fun p => if p.id == n then { o with kind := .copy { c with arrived := true, reserved := true } } else p) ∧
        ((∃ m ∈ ms, m.key = key ∧ m.openJoin = true) →
          (s'.column col).merges = ms.map fun m => if m.key == key && m.openJoin then
            { m with joined := m.joined ++ [n], openJoin := !s.allJoined (c.mask.toNat % 2 ^ 16) (m.joined ++ [n]) } else m) ∧
        ((∀ m ∈ ms, m.key = key → m.openJoin = false) → ms.length < 16 →
          (s'.column col).merges = ms ++ [{ key := key, joined := [n], next := 0, total := c.sectorOf (c.n - 1) + 1,
                                            openJoin := !s.allJoined (c.mask.toNat % 2 ^ 16) [n] }]) ∧
        ((∀ m ∈ ms, m.key = key → m.openJoin = false) → 16 ≤ ms.length → (s'.column col).merges = ms)) ∧
    (c.dst.kind = 2 → c.reserved = false → (∀ p ∈ s.ops, p.seq < o.seq → p.agent = o.agent → ∀ d, p.kind ≠ .copy d) →
      (if c.dst.fifo = 2 then 16384 else 32768) < ((s.column (s.colOf t)).mx.fifo c.dst.fifo).length + c.n * c.w →
      exec .cpymRequestArrival s = .next s) ∧
    (∀ i bs, c.arrived = true → c.reserved = true → c.ask = 0 → (∀ e ∈ s.columns, ∀ m ∈ e.2.merges, n ∉ m.joined) → c.left.head? = some i →
      c.left.filter (fun j => c.sectorOf j == c.sectorOf i) = [i] → s.cpymReady n (c.sectorOf i) = true →
      (c.dst.kind = 2 → (s.column (s.colOf t)).mxHolder = some o.team) →
      let a := s.cpAccess o.team c.src (c.src.elemAddr i c.w) i c.w .read
      s.cpCheck o.team c.src a = .ok → (∀ x y z, a.space ≠ .remote x y z) → s.readValue o.team .C a.space a.lower a.addr c.w = some (bs, false) →
      Does s .cpymSectorRead fun s' => s'.store = s.store ∧ ∃ o' c', s'.op? n = some o' ∧ o'.kind = .copy c' ∧ c'.left = c.left.filter (· != i) ∧
        c'.got = c.got ++ [(i, i, bs)])) ∧
  (∀ (s : State) (col k : Nat) (m : Merge), s.arg = .pair col k → (s.column col).merges[k]? = some m →
    Does s .cpymSectorRead fun s' => s'.store = s.store ∧
      ((s'.column col).merges = if m.next + 1 < m.total then (s.column col).merges.set k { m with next := m.next + 1 }
        else (s.column col).merges.eraseIdx k) ∧
      ∀ n ∈ m.joined, s.cpymReady n m.next = false → ∀ o c, s.op? n = some o → o.kind = .copy c → ∃ o', s'.op? n = some o' ∧ o'.kind = .copy c)

/-- R277 to R287, R290: the commands of a copy stream, and the elements and bytes that they move.
What the spec leaves open or to inference in it is the model's choice: log 43. -/
def Obligations.CopyStreams : Prop :=
  Claims.CopyCommands ∧ Claims.CopyControl ∧ Claims.CopyElements ∧ Claims.MulticastReads

/-- R301, R307, R308: a matrix command, once the unit executes nothing and no follow-on is queued, begins with its snapshot of the scalars; MMA and MMAS need
a tile of their type, and halt the stream with IINS without one. MSIG starts an operation with its scope, and MEND ends the stream's issue. While
the unit is busy each of them is held. -/
def Claims.MatrixCommands : Prop :=
  ∀ (s : State) (u : Nat) (t : Team) (x : Stream) (f : GForm),
    let k := s.column (s.colOf t)
    let free := k.mx.busy = none ∧ k.mx.follow = []
    let tile := ∃ b, k.mx.bt = some b ∧ b.ty = f.ty
    let begins := fun (i : Instr) => EngStarts s u true t x i f.se f.fs 1 fun s' o => o.kind = .matrix ∧
      (s'.column (s.colOf t)).mx = { k.mx with busy := some { op := o.id, instr := i, snap := x.snap, follow := false, row := 0, seq := s.seq, vals := none } }
    (∀ i ∈ ([.mclr f, .mldn f, .mldw f, .mdrn f, .mma f, .mmas f] : List Instr), s.ReadyEng u true t x i f.se f.fs →
      (free → (i = .mma f ∨ i = .mmas f → tile ∧ (i = .mmas f → f.fa ≠ f.fm)) → begins i) ∧
      (¬free → exec i s = .next s) ∧
      (free → (i = .mma f ∨ i = .mmas f) → ¬tile → t.pendMtx = none → t.st ≠ .retiring → t.dying = false →
        Moves s u i fun t' => (∃ y, t'.mtx = some y ∧ y.halted = true ∧ y.started = false) ∧ ∃ e, t'.pendMtx = some e ∧ e.cause = .iins ∧ e.slot = x.slot)) ∧
    (s.ReadyEng u true t x (.msig f) f.se f.fs →
      (free → EngStarts s u true t x (.msig f) f.se f.fs 1 fun _ o => o.kind = .msig (f.off.toNat % 8)) ∧ (¬free → exec (.msig f) s = .next s)) ∧
    (s.ReadyEng u true t x .mend false false →
      (free → EngMoves s u true t { x.past 1 with halted := true } .mend) ∧ (¬free → exec .mend s = .next s))

/-- R287, R288: FOLLOW_ON_TRIGGER queues a CMX's payload, of at most eight, once the FIFO-destined commands before it have landed; FOLLOW_ON_EXECUTE begins
the oldest, when the team's streams run and the matrix unit executes nothing, or discards one that fails its checks, with IINS at the copy stream. -/
def Claims.FollowOns : Prop :=
  (∀ (s : State) (n : Nat) (o : Op) (t : Team) (w : Word) (slot : Nat) (hdr : Addr), s.arg = .id n → s.op? n = some o → o.kind = .cmx w slot hdr false →
    s.team? o.team = some t →
    let k := s.column (s.colOf t)
    let clear := ∀ p ∈ s.ops, p.agent = o.agent → p.seq < o.seq → (∀ c, p.kind = .copy c → c.dst.kind ≠ 2) ∧ ∀ a b d, p.kind ≠ .cmx a b d false
    (clear → k.mxHolder = some o.team → k.mx.follow.length < 8 → Does s .followOnTrigger fun s' => s'.store = s.store ∧ s'.teams = s.teams ∧
      (∃ c, (s'.column (s.colOf t)).mx = { k.mx with follow := k.mx.follow ++ [c] } ∧ c.op = n ∧ c.instr = (decodeWord w).getD .nop ∧ c.follow = true ∧
        c.row = 0 ∧ c.vals = none ∧ ∀ x, t.copy = some x → c.snap = x.snap) ∧
      s'.ops = s.ops.map fun p => if p.id == n then { o with kind := .cmx w slot hdr true } else p) ∧
    (k.mxHolder = some o.team → 8 ≤ k.mx.follow.length → exec .followOnTrigger s = .next s)) ∧
  (∀ (s : State) (col u : Nat) (t : Team) (c : MCmd) (rest : List MCmd), s.arg = .id col → (s.column col).mx.follow = c :: rest →
    (s.column col).mxHolder = some u → s.team? u = some t →
    let m := (s.column col).mx
    (s.streamsRun t = false → exec .followOnExecute s = .next s) ∧
    (s.streamsRun t = true → m.busy = none → m.payloadOk t c.instr = true → Does s .followOnExecute fun s' => s'.store = s.store ∧ s'.teams = s.teams ∧ s'.ops = s.ops ∧
      (s'.column col).mx = { m with follow := rest, busy := some { c with seq := s.seq } }) ∧
    (s.streamsRun t = true → m.busy = none → m.payloadOk t c.instr = false → t.pendCopy = none → Does s .followOnExecute fun s' => s'.store = s.store ∧
      (s'.column col).mx = { m with follow := rest } ∧ s'.op? c.op = none ∧
      (t.st ≠ .retiring → t.dying = false → ∃ t' e, s'.team? u = some t' ∧ t'.pendCopy = some e ∧ e.cause = .iins ∧ t.SameRegs t')) ∧
    (m.busy ≠ none → exec .followOnExecute s = .next s))

/-- R288, R301, R307, R308: the commands of a matrix stream, and follow-on commands. -/
def Obligations.MatrixCommands : Prop :=
  Claims.MatrixCommands ∧ Claims.FollowOns

/-- R296, R303: what MATRIX_COMMAND_COMPLETE does for a command that executes: MCLR zeros its accumulator; MLDN and MLDW take a tile's bytes from QS, row by
row or column by column. A load whose bytes have not landed does nothing yet. -/
def Claims.TileLoads : Prop :=
  ∀ (s : State) (col u : Nat) (t : Team) (c : MCmd) (f : GForm), s.arg = .id col → (s.column col).mx.busy = some c → (s.column col).mxHolder = some u →
    s.team? u = some t → s.streamsRun t = true →
    let m := (s.column col).mx
    let kt := Fields.kt f.ty
    let size := f.ty.bytes
    let val := fun (bs : List Byte) (k : Nat) => natOfBytes ((bs.drop (k * size)).take size)
    (c.instr = .mclr f → ∃ s', exec .matrixCommandComplete s = .next s' ∧ (s'.column col).mx = { m.zeroed f.acc.toNat with busy := none } ∧
      s'.op? c.op = none ∧ s'.store = s.store) ∧
    (∀ byColumn : Bool, c.instr = (if byColumn then .mldw f else .mldn f) → kt * 64 * size ≤ m.qs.length →
      ∃ s' b, exec .matrixCommandComplete s = .next s' ∧ (s'.column col).mx = { m with bt := some b, qs := m.qs.drop (kt * 64 * size), busy := none } ∧
        b.ty = f.ty ∧ b.kc = f.kc.toNat + 1 ∧ s'.op? c.op = none ∧ s'.store = s.store ∧
        ∀ k < kt, ∀ n < 64, Store.get b.els (k * 64 + n) = BitVec.ofNat 64 (val m.qs (if byColumn then n * kt + k else k * 64 + n))) ∧
    (∀ i, c.instr = i → (i = .mldn f ∨ i = .mldw f) → m.qs.length < kt * 64 * size → exec .matrixCommandComplete s = .next s)

/-- R296 to R299, R304: MMA takes one row from its FIFO and multiplies it into row m of its accumulator; MMAS takes the row's values when they have landed, and when
its metadata has landed too takes that and multiplies the kept positions, those of an invalid nibble's group left out with NV. A row whose bytes have
not landed waits. The type is f16, bf16, f32, e4m3 or e5m2 into a0 to a3, or f64 or rq8 into w0 or w1 (R302). -/
def Claims.RowsMultiply : Prop :=
  ∀ (s : State) (col u : Nat) (t : Team) (c : MCmd) (f : GForm) (b : Tile), s.arg = .id col → (s.column col).mx.busy = some c →
    (s.column col).mxHolder = some u → s.team? u = some t → s.streamsRun t = true → (s.column col).mx.bt = some b → b.kc ≤ 256 →
    (f.ty ∈ ([.f16, .bf16, .f32, .e4m3, .e5m2] : List Ty) ∧ f.acc.toNat < 4 ∨ (f.ty = .f64 ∨ f.ty = .rq8) ∧ (f.acc.toNat = 4 ∨ f.acc.toNat = 5)) →
    (∀ a, Store.wf ((s.column col).mx.accA a) = true ∧ Store.wf ((s.column col).mx.accW a) = true) → f.fa.toNat < 3 → f.fm.toNat < 3 →
    let m := (s.column col).mx
    let kt := Fields.kt f.ty
    let size := f.ty.bytes
    let val := fun (bs : List Byte) (k : Nat) => natOfBytes ((bs.drop (k * size)).take size)
    let row := fun (P : State → Prop) => ∃ s', exec .matrixCommandComplete s = .next s' ∧ P s'
    (c.instr = .mma f → c.vals = none →
      ((m.fifo f.fa.toNat).length < kt * size → exec .matrixCommandComplete s = .next s) ∧
      (kt * size ≤ (m.fifo f.fa.toNat).length → row fun s' =>
        RowDone s s' col u t c f b ((List.range b.kc).map fun k => (k, val (m.fifo f.fa.toNat) k)) false ∧
        ∀ n < 3, (s'.column col).mx.fifo n = if n = f.fa.toNat then (m.fifo n).drop (kt * size) else m.fifo n)) ∧
    (c.instr = .mmas f → c.vals = none →
      ((m.fifo f.fa.toNat).length < kt / 2 * size → exec .matrixCommandComplete s = .next s) ∧
      (kt / 2 * size ≤ (m.fifo f.fa.toNat).length → row fun s' =>
        s'.store = s.store ∧ s'.ops = s.ops ∧ s'.teams = s.teams ∧
        (s'.column col).mx.busy = some { c with vals := some ((m.fifo f.fa.toNat).take (kt / 2 * size)) } ∧
        (∀ n < 3, (s'.column col).mx.fifo n = if n = f.fa.toNat then (m.fifo n).drop (kt / 2 * size) else m.fifo n) ∧
        ∀ a, (s'.column col).mx.accA a = m.accA a ∧ (s'.column col).mx.accW a = m.accW a)) ∧
    (∀ vs, c.instr = .mmas f → c.vals = some vs →
      ((m.fifo f.fm.toNat).length < kt / 8 → exec .matrixCommandComplete s = .next s) ∧
      (kt / 8 ≤ (m.fifo f.fm.toNat).length →
        let nibble := fun (g : Nat) => ((m.fifo f.fm.toNat).getD (g / 2) 0).toNat / (if g % 2 = 0 then 1 else 16) % 16
        let groups := List.range ((b.kc + 3) / 4)
        row fun s' =>
          RowDone s s' col u t c f b
            (groups.flatMap fun g => if nibble g % 4 < nibble g / 4 then
              ([(4 * g + nibble g % 4, val vs (2 * g)), (4 * g + nibble g / 4, val vs (2 * g + 1))] : List (Nat × Nat)).filter fun e => decide (e.1 < b.kc) else [])
            (groups.any fun g => decide (nibble g / 4 ≤ nibble g % 4)) ∧
          ∀ n < 3, (s'.column col).mx.fifo n = if n = f.fm.toNat then (m.fifo n).drop (kt / 8) else m.fifo n))

/-- R168: what MDRN writes for a wide accumulator: the product of the integer and its two scales, formed exactly and rounded once; a NaN scale gives its quiet
form, an infinite one beside a zero the canonical NaN with NV, and otherwise an infinity of the product's sign. -/
def Claims.DrainScaling : Prop :=
  ∀ (F : Fmt) (w : Int) (a b : Val), F = .f32 ∨ F = .bf16 →
    let neg := (decide (w < 0) != a.neg) != b.neg
    let finite := fun (v : Val) => v.isNaN = false ∧ v.isInf = false
    (finite a → finite b → ∃ x : Ex, scaledDrain F w a b = roundEx F .rn false x ∧ x.neg = neg ∧
      x.represents ((w : ℝ) * Val.real a * Val.real b)) ∧
    (a.isNaN = true → finite b → scaledDrain F w a b = roundVal F .rn false a) ∧
    (b.isNaN = true → finite a → scaledDrain F w a b = roundVal F .rn false b) ∧
    (a.isNaN = false → b.isNaN = false → a.isInf = true ∨ b.isInf = true →
      scaledDrain F w a b = if w = 0 ∨ a.isZero = true ∨ b.isZero = true then { pat := F.canonicalNaN, flags := fNV } else { pat := F.infPat neg, flags := 0 })

/-- R305, R306: MDRN. A destination range or a scale block that is misaligned or past the allocation, or a poisoned word of the scale block, gives the team one
error response on path M, and nothing is written or cleared. Otherwise its 4096 elements are one write of path M, row by row, with the flags of their
rounding, and CLR zeros the accumulator. A fence may hold it, and its scale block's bytes may not be known yet.
That the elements enter the path in one step is the model's choice: log 44. -/
def Claims.Drains : Prop :=
  ∀ (s : State) (col u : Nat) (t : Team) (c : MCmd) (f : GForm), s.arg = .id col → (s.column col).mx.busy = some c → (s.column col).mxHolder = some u →
    s.team? u = some t → s.streamsRun t = true → c.instr = .mdrn f →
    let m := (s.column col).mx
    let o := (Store.get c.snap f.b.toNat + BitVec.ofInt 64 (f.off.toInt * 64)).toNat
    let sc := (Store.get c.snap f.c.toNat).toNat
    let n := if f.sm = 0 then 0 else if f.sm = 1 then 8 else 512
    let v := f.ty.bytes
    let size := s.spadSize t.wg
    let sp : Space := .spad t.wg
    let held := s.fenceHolds u .M c.seq
    let errs := fun (k : Cause) (a : Nat) =>
      let logged := t.elog s.now .M 0 k (BitVec.ofNat 64 a) 0 c.seq
      (t.elogInfo.getLsbD 0 = false → logged.elogAddr = BitVec.ofNat 64 a ∧ logged.elogInfo = elogWord .M 0 k 0) ∧
      ∃ s', exec .matrixCommandComplete s = .next s' ∧ s'.team? u = some logged ∧ s'.store = s.store ∧ s'.bufs = s.bufs ∧ s'.op? c.op = none ∧
        (s'.column col).mx = { m with busy := none }
    (held = true → exec .matrixCommandComplete s = .next s) ∧
    (held = false →
      (o % v ≠ 0 → errs .maln o) ∧
      (o % v = 0 → n ≠ 0 → sc % 4 ≠ 0 → errs .maln sc) ∧
      (o % v = 0 → (n ≠ 0 → sc % 4 = 0) →
        (size < o + 4096 * v → errs .mbnd (if o ≤ size then o + (size - o) / v * v else o)) ∧
        (o + 4096 * v ≤ size → n ≠ 0 → size < sc + n → errs .mbnd (if sc ≤ size then sc + (size - sc) / 4 * 4 else sc)) ∧
        (o + 4096 * v ≤ size → (n ≠ 0 → sc + n ≤ size) →
          let bad := fun (k : Nat) => s.poisonedAt sp (BitVec.ofNat 64 (sc + 4 * k)) false 4
          (s.readValue u .M sp false (BitVec.ofNat 64 sc) n = none → exec .matrixCommandComplete s = .next s) ∧
          (∀ bs p, s.readValue u .M sp false (BitVec.ofNat 64 sc) n = some (bs, p) →
            (∀ k < n / 4, p = true → bad k = true → (∀ j < k, bad j = false) → errs .euce (sc + 4 * k)) ∧
            (p = false ∨ (∀ k < n / 4, bad k = false) →
              let acc := f.acc.toNat
              let scale := fun (k : Nat) => decodeF .f32 (if f.sm = 0 then 0x3F800000 else natOfBytes ((bs.drop (k * 4)).take 4))
              let value : Nat → Rounded := fun e =>
                if acc < 4 then
                  (if f.ty = .bf16 then roundVal .bf16 .rn false (decodeF .f32 (Store.get (m.accA acc) e).toNat)
                    else { pat := (Store.get (m.accA acc) e).toNat, flags := 0 })
                else if f.ty = .f32 ∨ f.ty = .bf16 then
                  scaledDrain (fmtOf f.ty) (Store.get (m.accW acc) e).toInt (scale (if f.sm = 2 then e / 64 else 0)) (scale (if f.sm = 2 then 64 + e % 64 else 1))
                else { pat := (Store.get (m.accW acc) e).toNat, flags := 0 }
              ∃ s' w fl, exec .matrixCommandComplete s = .next s' ∧ s'.store = s.store ∧ s'.op? c.op = none ∧
                (s'.column col).mx = { (if f.clr then m.zeroed acc else m) with busy := none } ∧
                s'.bufs = s.bufs ++ [w] ∧ w.agent = .matrix u ∧ w.path = .M ∧ w.seq = c.seq ∧ w.space = sp ∧ w.addr = BitVec.ofNat 64 o ∧ w.stage = 0 ∧
                (∃ out, w.act = .write out ∧ out.length = 4096 * v ∧ ∀ e < 4096, natOfBytes ((out.drop (e * v)).take v) = (value e).pat % 2 ^ (8 * v)) ∧
                s'.team? u = some (t.raise fl) ∧ ∀ j, fl.getLsbD j = (List.range 4096).any fun e => (value e).flags.getLsbD j)))))

/-- R168, R296 to R299, R303 to R306: what MATRIX_COMMAND_COMPLETE does for the command that executes: tiles are loaded, rows multiplied, accumulators cleared and
drained.
What the spec leaves open or to inference in it is the model's choice: logs 36, 44, 47 and 70. -/
def Obligations.MatrixExecution : Prop :=
  Claims.TileLoads ∧ Claims.RowsMultiply ∧ Claims.DrainScaling ∧ Claims.Drains

/-- R57, R94 to R97: CLAUSE_START. In stage 2, with the datapath of its column free, a team's next clause starts only when no eligible team of the
column has waited longer and no move between the sets is due; it starts at its resume slot with the header at its program counter, pads skipped,
and changes no register. A team that fell into the block while its header could not be read takes the waiting lanes in here (R116). A bad header
traps with ICLS, and at a stream halts it with ICLS, whatever flags are set. A stream's next clause starts at slot 0 once its wait mask is
clear and every word of it can be fetched; those words are what it will issue. -/
def Claims.ClausesStart : Prop :=
  (∀ (s : State) (u : Nat) (t : Team) (h : Word), s.arg = .agent (.team u) → s.stage = .stage2 → s.team? u = some t →
    (s.column (s.colOf t)).dp = none → s.nextTeam (s.colOf t) = some u → s.nextHeader t = .ok h → s.Keyed →
    s.moveDue (s.colOf t) = false ∧ s.eligible u t = true ∧ (∀ e ∈ s.teamsIn (s.colOf t), s.eligible e.1 e.2 = true → t.since ≤ e.2.since) ∧
    (headerOk 0 h = true → t.rslot ≤ hdrCount h → Does s .clauseStart fun s' => ∃ t', s'.team? u = some t' ∧ t'.started = true ∧
      t'.sregs = t.sregs ∧ t'.vregs = t.vregs ∧ t'.live = t.live ∧ t'.ra = t.ra ∧ (t.fell = false ∨ hdrEntry h = false → t'.masks = t.masks) ∧
      (t.fell = true → hdrEntry h = true → t.Stored → (∀ n, n ≠ 0 → t'.mask n = t.mask n) ∧ ∀ l < t.lanes, (t'.mask 0).getLsbD l = true ↔
        (t.mask 0).getLsbD l = true ∨ (t.range.getLsbD l = true ∧ ({ t with pc := s.headerAt t } : Team).raOf l = s.headerAt t)) ∧ t'.fell = false ∧
      t'.pc = s.headerAt t ∧ t'.hdr = h ∧ t'.slot = t.rslot ∧ (s'.column (s.colOf t)).dp = some u ∧ s'.store = s.store ∧ s'.ops = s.ops ∧
      ∀ v, v ≠ u → s'.team? v = s.team? v) ∧
    (headerOk 0 h = false → t.priv = false → t.spec = none → s.settled u = true → Does s .clauseStart fun s' => ∃ t', s'.team? u = some t' ∧
      t'.st = .handler ∧ t'.started = false ∧ t'.pc = s.tvecOf t ∧ t'.trapRpc = s.headerAt t ∧
      t'.trapCause.toNat = Cause.icls.code.toNat)) ∧
  (∀ (s : State) (u : Nat) (mtx : Bool) (t : Team) (x : Stream) (h : Word), s.arg = .agent (if mtx then .matrix u else .copy u) → s.stage = .stage2 →
    s.team? u = some t → t.stream mtx = some x → s.streamIdle u mtx t x = true →
    let pc := s.skipPads (s.ctxOf t) (s.colOf t) false padFuel x.pc
    s.fetch (s.ctxOf t) (s.colOf t) false pc = .ok h →
    (headerOk (if mtx then 2 else 1) h = true → s.masked u (hdrWait h) = true → exec .clauseStart s = .next s) ∧
    (headerOk (if mtx then 2 else 1) h = true → s.masked u (hdrWait h) = false →
      (∀ n ≤ hdrCount h, ∃ w, s.fetch (s.ctxOf t) (s.colOf t) false (slotAddr pc n) = .ok w) →
      Moves s u .clauseStart fun t' => t.SameRegs t' ∧ ∃ ws : List Word,
        t'.stream mtx = some { x with pc := pc, hdr := h, words := ws, slot := 0, started := true } ∧ ws.length = hdrCount h + 1 ∧
        ∀ n ≤ hdrCount h, s.fetch (s.ctxOf t) (s.colOf t) false (slotAddr pc n) = .ok (ws.getD n 0)) ∧
    (headerOk (if mtx then 2 else 1) h = false → t.pendEng mtx = none → t.st ≠ .retiring → t.dying = false → Does s .clauseStart fun s' =>
      ∃ t' y e, s'.team? u = some t' ∧ t'.stream mtx = some y ∧ y.halted = true ∧ y.started = false ∧ t'.pendEng mtx = some e ∧ e.cause = .icls ∧
        e.addr = pc ∧ t.SameRegs t' ∧ s'.store = s.store))

/-- R57 to R61: STALL_THRESHOLD, TEAM_EXCHANGE, TIME_SLICE_EXPIRY and TEAM_RETIRE. A team that waits long enough, 24 clk on its wait mask, is Stalled,
unless a trap of it comes first (R58); a Pending-wait team whose wait has ended is Pending-ready; one with CNCL or PREE pending, else the lowest
runnable team of a deterministic launch, else the one that has waited longest, enters a free one of the eight active slots, or takes that of a Stalled
team that leaves; the lowest runnable team of a deterministic launch takes that of the launch's highest Active team at that team's next boundary; an
Active team leaves at a boundary after 4096 clk without a break when another is Pending-ready, unless it is to be Stalled; a Retiring team whose work has drained
is Retired. The clk are those of the team's column (R69). No register changes. -/
def Claims.TeamsChangePlaces : Prop :=
  ∀ (s : State) (u : Nat) (t : Team), s.arg = .id u → s.team? u = some t → s.Keyed →
    let c := s.colOf t
    let takes := fun (v : Nat) (w : Team) => Does s .teamExchange fun s' =>
      s'.team? u = some { t with st := .active, since := s.now, activeSince := s.now, maskAt := none } ∧ s'.store = s.store ∧
      s'.team? v = some { w with st := if s.isStalled v w then .pendingWait else .pendingReady, since := s.now } ∧
      ∀ k, k ≠ u → k ≠ v → s'.team? k = s.team? k
    (t.st = .active → t.free = true → (s.longWait u t = true ∨ (s.maskWait u t = true ∧ ∃ n, t.maskAt = some n ∧ colClk c n + 24 ≤ colClk c s.now)) →
      Moves s u .stallThreshold fun t' => t' = { t with st := .stalled, stallAt := s.now }) ∧
    (t.free = false ∨ (s.longWait u t = false ∧ (s.maskWait u t = false ∨ ∀ n, t.maskAt = some n → colClk c s.now < colClk c n + 24)) →
      exec .stallThreshold s = .next s) ∧
    (t.st = .pendingWait → s.pendingReady u t = true → Moves s u .teamExchange fun t' => t' = { t with st := .pendingReady, since := s.now }) ∧
    (t.st = .pendingReady → (∀ e ∈ s.teamsIn c, e.2.st = .pendingWait → s.pendingReady e.1 e.2 = false) → s.incoming c = some u →
      (∀ e ∈ s.teamsIn c, e.2.st = .pendingReady → e.2.called = true → t.called = true ∧ t.causeSince ≤ e.2.causeSince) ∧
      (t.called = false →
        (s.detFirst c u t = true ∧ ∀ e ∈ s.teamsIn c, e.2.st = .pendingReady → s.detFirst c e.1 e.2 = true → t.since ≤ e.2.since) ∨
        ((∀ e ∈ s.teamsIn c, e.2.st = .pendingReady → s.detFirst c e.1 e.2 = false) ∧ s.mayEnter c t = true ∧
          ∀ e ∈ s.teamsIn c, e.2.st = .pendingReady → s.mayEnter c e.2 = true → t.since ≤ e.2.since)) ∧
      ((s.activeTeams c).length < 8 →
        Moves s u .teamExchange fun t' => t' = { t with st := .active, since := s.now, activeSince := s.now, maskAt := none }) ∧
      (∀ v w, 8 ≤ (s.activeTeams c).length → s.outgoing c = some v → v ≠ u → s.team? v = some w →
        w.st = .stalled ∧ w.free = true ∧ s.couldStart v w = false ∧ takes v w)) ∧
    (∀ v w, t.st = .pendingReady → (∀ e ∈ s.teamsIn c, e.2.st = .pendingWait → s.pendingReady e.1 e.2 = false) →
      s.incoming c ≠ some u ∨ s.outgoing c = none → s.displaced c u t = some v → s.team? v = some w →
      (s.isDet t.wg = true ∧ s.runnable u t = true ∧ ∀ e ∈ s.teamsIn c, s.runnable e.1 e.2 = true → s.lowerIn t e.2 = false) ∧
      8 ≤ (s.activeTeams c).length ∧ s.lowerIn w t = true ∧ w.free = true ∧ s.stallDue v w = false ∧
      ((∀ e ∈ s.activeTeams c, s.idTeam e.2 < 2 ^ 40) →
        ∀ e ∈ s.activeTeams c, (e.2.st = .active ∨ e.2.st = .stalled) → s.lowerIn e.2 t = true → s.idTeam e.2 ≤ s.idTeam w) ∧ takes v w) ∧
    (t.st = .active → t.free = true → s.stallDue u t = false → s.isDet t.wg = false → colClk c t.activeSince + 4096 ≤ colClk c s.now →
      (∃ e ∈ s.teamsIn c, s.pendingReady e.1 e.2 = true) → Moves s u .timeSliceExpiry fun t' => t' = { t with st := .pendingReady, since := s.now }) ∧
    (t.free = false ∨ s.stallDue u t = true ∨ colClk c s.now < colClk c t.activeSince + 4096 → exec .timeSliceExpiry s = .next s) ∧
    (t.st = .retiring → t.called = false → t.issueTrap = none → s.drained u t = true → Does s .teamRetire fun s' =>
      ∃ t', s'.team? u = some t' ∧ t'.st = .retired ∧ t.SameRegs t' ∧ (u ∉ (s.column c).mxWaiters → (s'.column c).mxHolder ≠ some u) ∧ s'.store = s.store) ∧
    (t.st ≠ .retiring → exec .teamRetire s = .next s)

/-- R57 to R61, R94 to R97: clauses start, and teams change places.
What the spec leaves open or to inference in it is the model's choice: logs 1, 2, 28, 29, 41 and 42. -/
def Obligations.TeamsTakeTurns : Prop :=
  Claims.ClausesStart ∧ Claims.TeamsChangePlaces

/-- R349, R350, R352: TRAP_ENTRY. A trap taken at issue is entered once all that the team has issued has settled; otherwise the first pending cause at a
clause boundary is, in the order CNCL, PREE, an engine's cause, an error response's, GABS, FPEN, with the next clause's header, pads skipped, in
TRAP_RPC, and in RSLOT the slot at which that clause would start; CNCL also stops the team's streams (R292, R309). An open speculative window is
first rolled back to its checkpoint (R329, R330).
What the spec leaves open or to inference in it is the model's choice: logs 28 and 30. -/
def Obligations.TrapsAreEntered : Prop :=
  ∀ (s : State) (u : Nat) (t : Team), s.arg = .id u → s.team? u = some t →
    (∀ it, t.issueTrap = some it →
      (s.settled u = true → Moves s u .trapEntry fun t' =>
        t' = t.enterTrap (s.tvecOf t) s.now it.cause it.slot it.rslot 0 it.addr t.pc it.arg it.laddr it.lanes) ∧
      (s.settled u = false → exec .trapEntry s = .next s)) ∧
    (t.issueTrap = none → t.priv = false → t.started = false → (t.st = .active ∨ t.st = .stalled ∨ t.st = .retiring) →
      (∀ sp, t.spec = some sp → t.boundaryCause ≠ none → s.Keyed → Does s .trapEntry fun s' => s'.store = s.store ∧ (∀ v, v ≠ u → s'.team? v = s.team? v) ∧
        ∃ t', s'.team? u = some t' ∧ t'.spec = none ∧ t'.sregs = sp.sregs ∧ t'.vregs = sp.vregs ∧ t'.masks = sp.masks ∧ t'.live = sp.live ∧ t'.ra = sp.ra ∧
          t'.pc = sp.pc ∧ t'.started = false ∧ t'.fell = sp.fell ∧ t'.rslot = (if sp.started then sp.slot else 0) ∧ t'.st = t.st ∧ t'.boundaryCause = t.boundaryCause) ∧
      (t.spec = none → s.settled u = false → exec .trapEntry s = .next s) ∧
      (t.spec = none → s.settled u = true →
      let place := fun (c : Cause) (t' : Team) => t'.st = .handler ∧ t'.priv = true ∧ t'.pc = s.tvecOf t ∧ t'.trapRpc = s.headerAt t ∧
        t'.trapCause.toNat % 2 ^ 8 = c.code.toNat ∧ t'.trapCause.toNat / 2 ^ 12 % 2 ^ 5 = t.rslot % 2 ^ 5 ∧ t'.trapArg = 0
      let enters := fun (c : Cause) (P : Team → Prop) => Moves s u .trapEntry fun t' => place c t' ∧ P t'
      (t.pendCncl = true → s.Keyed → Does s .trapEntry fun s' => s'.store = s.store ∧ ∃ t', s'.team? u = some t' ∧ place .cncl t' ∧ t'.pendCncl = false ∧
        t'.pendPree = t.pendPree ∧ t'.trapAddr = s.headerAt t ∧ t'.forks = [] ∧ t'.dying = true ∧
        ∀ x, t'.copy = some x ∨ t'.mtx = some x → x.ended = true) ∧
      (t.pendCncl = false → t.pendPree = true → enters .pree fun t' => t'.pendPree = false ∧ t'.trapAddr = s.headerAt t) ∧
      (t.pendCncl = false → t.pendPree = false → t.st ≠ .retiring →
        (∀ e, t.pendCopy = some e → e.cause ≠ .cncl → e.cause ≠ .pree → enters e.cause fun t' => t'.pendCopy = none ∧ t'.trapAddr = e.addr ∧
          t'.pendMtx = t.pendMtx) ∧
        (t.pendCopy = none → (∀ e, t.pendMtx = some e → e.cause ≠ .cncl → e.cause ≠ .pree → enters e.cause fun t' => t'.pendMtx = none ∧
            t'.trapAddr = e.addr ∧ t'.pendErr = t.pendErr) ∧
          (t.pendMtx = none →
            (∀ e, t.pendErr = some e → e.cause ≠ .cncl → e.cause ≠ .pree → enters e.cause fun t' => t'.pendErr = none ∧ t'.trapAddr = s.headerAt t ∧
              t'.pendGabs = t.pendGabs) ∧
            (t.pendErr = none → (t.pendGabs = true → enters .gabs fun t' => t'.pendGabs = false ∧ t'.pendFpen = t.pendFpen) ∧
              (t.pendGabs = false → t.pendFpen = true → enters .fpen fun t' => t'.pendFpen = false))))))) ∧
    (t.issueTrap = none → t.started = true → exec .trapEntry s = .next s)

/-- R126, R128, R131, R289, R360: the ends of waits. WAITK ends when none of its flags is set, RDV when the streams of its classes have ended, releasing the
matrix unit if it covers the matrix class, WFI when one of its flags is clear, the team has been woken, or CNCL or PREE is pending; BAR opens for
every team when each team has arrived or is Retiring and its T-path accesses are performed. -/
def Claims.WaitsEnd : Prop :=
  (∀ (s : State) (u : Nat) (t : Team), s.arg = .id u → s.team? u = some t →
    let woken := fun (t' : Team) => t'.wait = .none ∧ t'.st = (if t.st = .stalled then .active else t.st) ∧ t.SameRegs t' ∧ t'.pc = t.pc
    (∀ fl, t.priv = false → t.wait = .waitk fl →
      ((∀ k < 12, fl.getLsbD k = true → s.flag u k = false) → Moves s u .waitkComplete woken) ∧
      ((∃ k < 12, fl.getLsbD k = true ∧ s.flag u k = true) → exec .waitkComplete s = .next s)) ∧
    (∀ cls, t.priv = false → t.wait = .rdv cls →
      (s.rdvReady u cls = true → s.Keyed → Does s .rdvComplete fun s' => ∃ t', s'.team? u = some t' ∧ t'.wait = .none ∧ t.SameRegs t' ∧ s'.store = s.store ∧
        s'.ops = s.ops ∧ (cls ≠ 1 → (s'.column (s.colOf t)).mxHolder ≠ some u)) ∧
      (s.rdvReady u cls = false → exec .rdvComplete s = .next s)) ∧
    (∀ fl, t.hwait = .wfi fl →
      let ends := (∃ k < 12, fl.getLsbD k = true ∧ s.flag u k = false) ∨ t.wake = true ∨ t.pendCncl = true ∨ t.pendPree = true
      (ends → Moves s u .wfiWake fun t' => t'.hwait = .none ∧ t'.wake = false ∧ t.SameRegs t') ∧ (¬ends → exec .wfiWake s = .next s))) ∧
  (∀ (s : State) (w : Nat) (g : Workgroup), s.arg = .id w → s.wg? w = some g →
    ((∀ u ∈ g.teams, ∀ t, s.team? u = some t → (t.barArr = true ∨ t.st = .retiring ∨ t.st = .retired) ∧ s.performedAt u .T s.seq 1 false = true) →
      Does s .barOpen fun s' => s'.store = s.store ∧ s'.ops = s.ops ∧ (∀ u, u ∉ g.teams → s'.team? u = s.team? u) ∧
        ∀ u ∈ g.teams, ∀ t, s.team? u = some t → ∃ t', s'.team? u = some t' ∧ t'.barArr = false ∧ t.SameRegs t' ∧
          (t.barArr = true → t.wait = .bar → t'.wait = .none ∧ (t.st = .stalled → t'.st = .active))) ∧
    ((∃ u ∈ g.teams, ∃ t, s.team? u = some t ∧ t.barArr = false ∧ t.st ≠ .retiring ∧ t.st ≠ .retired) → exec .barOpen s = .next s))

/-- R71, R72, R78, R130, R277, R307, R401: PENDING_FORK_START starts the stream of the first FORK that waits, at its target with its snapshot; STREAM_END ends
a stream that has issued its last command once all its commands have completed; ITER_ANSWER answers the first waiting ITER of a workgroup with the
next piece of its range: tile, first k, count and fix-up code, or all ones in the tile and a count of 0 when the range is exhausted. -/
def Claims.StreamsAndIterations : Prop :=
  (∀ (s : State) (u : Nat) (t : Team) (mtx : Bool), s.team? u = some t →
    (∀ g, s.arg = .fork u mtx → t.forks.find? (fun f => f.mtx == mtx) = some g → Stream.running (t.stream mtx) = false →
      (mtx = true → (s.column (s.colOf t)).mxHolder = some u) →
      Moves s u .pendingForkStart fun t' => t'.stream mtx = some (Stream.fresh g.target g.snap) ∧ t'.stream (!mtx) = t.stream (!mtx) ∧ t.SameRegs t') ∧
    (s.arg = .fork u mtx → Stream.running (t.stream mtx) = true → exec .pendingForkStart s = .next s) ∧
    (∀ x, s.arg = .agent (if mtx then .matrix u else .copy u) → t.stream mtx = some x → x.halted = true → x.ended = false →
      let mine : Agent := if mtx then .matrix u else .copy u
      ((∀ o ∈ s.ops, o.agent ≠ mine) → (mtx = true → (s.column (s.colOf t)).mx.busy = none ∧ (s.column (s.colOf t)).mx.follow = []) →
        Moves s u .streamEnd fun t' => t' = t.setStream mtx (some { x with ended := true })) ∧
      ((∃ o ∈ s.ops, o.agent = mine) → exec .streamEnd s = .next s))) ∧
  (∀ (s : State) (n d : Nat) (o : Op) (t : Team) (g : Workgroup) (l : Launch), s.arg = .id n → s.op? n = some o → o.kind = .iter d →
    s.team? o.team = some t → s.wg? t.wg = some g → s.launchOf t.wg = some l →
    (∀ p ∈ s.ops, (∃ e, p.kind = .iter e) → p.seq < o.seq → ∀ v, s.team? p.team = some v → v.wg ≠ t.wg) →
    let total := l.p * l.q
    let i := g.idx * total / l.g + g.iterPos
    let e := (g.idx + 1) * total / l.g
    let k := i % l.q
    let count := min (l.q - k) (e - i)
    (0 < l.p → i < e → Does s .iterAnswer fun s' =>
      Finishes s s' o [.s d (BitVec.ofNat 64 (i / l.q)), .s (d + 1) (BitVec.ofNat 64 k), .s (d + 2) (BitVec.ofNat 64 count),
        .s (d + 3) (if count = l.q then 0 else if k = 0 then 2 else 1)] o.raises ∧
      ∃ g', s'.wg? t.wg = some g' ∧ g'.iterPos = g.iterPos + count) ∧
    (l.p = 0 ∨ e ≤ i → Does s .iterAnswer fun s' => ∃ a b,
      Finishes s s' o [.s d 0xFFFFFFFF, .s (d + 1) a, .s (d + 2) 0, .s (d + 3) b] o.raises ∧ s'.wg? t.wg = some g))

/-- R71, R72, R126 to R131, R277, R289, R307, R401: what ends a wait, starts and ends a stream, and answers ITER.
What the spec leaves open or to inference in it is the model's choice: logs 37 and 38. -/
def Obligations.WaitsAndStreamsEnd : Prop :=
  Claims.WaitsEnd ∧ Claims.StreamsAndIterations

/-- R325, R328, R329: FENCE_COMPLETE completes a fence once the accesses before it are performed at its scope: a pending or replaying one clears its flag;
a speculating one whose window had no conflict releases the window's stores, which in a deterministic launch are staged then, and lands its held
flags. SPECULATION_CONFLICT returns the team to
the checkpoint, where a team that has left the active set resumes when it comes back, discards what the window issued, and leaves the fence Replaying. -/
def Claims.FencesComplete : Prop :=
  (∀ (s : State) (n : Nat) (o : Op) (p q : Path) (scope : Nat) (st : FState) (t : Team), s.arg = .id n → s.op? n = some o →
    o.kind = .fence p q scope st → s.team? o.team = some t →
    (s.performedAt o.team p o.seq scope (p == q) = false → exec .fenceComplete s = .next s) ∧
    (s.performedAt o.team p o.seq scope (p == q) = true → st ≠ .speculating → Does s .fenceComplete fun s' => Finishes s s' o o.writes o.raises ∧ s'.bufs = s.bufs) ∧
    (∀ sp, s.performedAt o.team p o.seq scope (p == q) = true → st = .speculating → t.spec = some sp → o.writes = [] → o.later = [] → o.raises = 0 →
      (sp.conflict = false → sp.errs = [] → Does s .fenceComplete fun s' => s'.op? n = none ∧ s'.store = s.store ∧
        (s.isDet t.wg = false → s'.bufs = s.bufs.map fun b => if b.team == o.team then { b with spec := false } else b) ∧
        (∀ b ∈ s'.bufs, b.team = o.team → b.spec = false) ∧
        ∃ t', s'.team? o.team = some t' ∧ t'.spec = none ∧ t'.fstat = t.fstat ||| sp.raises ∧ t.SameRegs t' ∧ t'.pc = t.pc) ∧
      (sp.conflict = true → exec .fenceComplete s = .next s))) ∧
  (∀ (s : State) (u : Nat) (t : Team) (sp : Spec), s.arg = .id u → s.team? u = some t → t.spec = some sp →
    (sp.conflict = true → Does s .speculationConflict fun s' => s'.store = s.store ∧ (∀ v, v ≠ u → s'.team? v = s.team? v) ∧
      (∃ t', s'.team? u = some t' ∧ t'.spec = none ∧ t'.sregs = sp.sregs ∧ t'.vregs = sp.vregs ∧ t'.masks = sp.masks ∧ t'.live = sp.live ∧ t'.ra = sp.ra ∧
        t'.pc = sp.pc ∧ t'.fell = sp.fell ∧ t'.started = (sp.started && t.inActiveSet) ∧
        (sp.started = true → if t.inActiveSet then t'.slot = sp.slot else t'.rslot = sp.slot) ∧ t'.fstat = t.fstat ∧ t'.elogInfo = t.elogInfo) ∧
      (∀ b, b ∈ s'.bufs ↔ b ∈ s.bufs ∧ ¬(b.agent = .team u ∧ sp.seq < b.seq)) ∧
      (∀ o ∈ s'.ops, o.agent = .team u → o.seq ≤ sp.seq) ∧
      (∀ o ∈ s.ops, o.id = sp.op → o.seq ≤ sp.seq → ∀ p q c st, o.kind = .fence p q c st →
        ∃ o' ∈ s'.ops, o'.id = o.id ∧ o'.kind = .fence p q c .replaying)) ∧
    (sp.conflict = false → exec .speculationConflict s = .next s))

/-- R262, R264, R265, R325: GPOST_TAKES_EFFECT, once the team's earlier T-path accesses are performed at dev scope, no earlier post of it is pending and no
fence whose later path is F holds it: the
workgroup holds the empty slot with no arrivals; a withdrawal empties the slot that it holds; a slot that another workgroup holds makes the post
wait. GBAR_COMPLETE, once the workgroup has arrived, which has raised its A to k, and every member column counts as arrived at k, ends the waits of the
workgroup's teams. -/
def Claims.PostsAndGroupBarriers : Prop :=
  (∀ (s : State) (n : Nat) (o : Op) (g : Nat) (wd : Bool) (t : Team), s.arg = .id n → s.op? n = some o → o.kind = .gpost g wd → s.team? o.team = some t →
    let x := s.ctxOf t
    let col := s.colOf t
    let p := s.postSlot x g col
    let free := s.performedAt o.team .T o.seq 4 false = true ∧ s.fenceHolds o.team .F o.seq = false ∧ ∀ q ∈ s.ops, q.team = o.team → q.seq < o.seq → ∀ h w, q.kind ≠ .gpost h w
    (free → wd = false → p.holder = none → Does s .gpostTakesEffect fun s' => s'.op? n = none ∧ s'.store = s.store ∧ s'.teams = s.teams ∧
      s'.postSlot x g col = { ctx := x, g := g, holder := some t.wg, a := 0, withdrawn := false } ∧
      ∀ h, h ≠ g → s'.postSlot x h col = s.postSlot x h col) ∧
    (free → wd = false → p.holder = some t.wg → Does s .gpostTakesEffect fun s' => s'.op? n = none ∧ s'.store = s.store ∧ s'.columns = s.columns) ∧
    (∀ w, wd = false → p.holder = some w → w ≠ t.wg → exec .gpostTakesEffect s = .next s) ∧
    (free → wd = true → p.holder = some t.wg → Does s .gpostTakesEffect fun s' => s'.op? n = none ∧ s'.store = s.store ∧
      s'.postSlot x g col = { ctx := x, g := g, holder := none, a := 0, withdrawn := true }) ∧
    (¬free → exec .gpostTakesEffect s = .next s)) ∧
  (∀ (s : State) (w : Nat) (wg : Workgroup) (g : Nat), s.arg = .id w → s.wg? w = some wg → wg.gbarK = some g →
    let x := s.ctxOfWg w
    let p := s.postSlot x g wg.col
    (p.holder = some w → wg.gbarUp = true →
      (∀ i < 128, (s.group x g).has i = true → s.arrivedAt x g i (wg.col % 4) p.a = true) → Does s .gbarComplete fun s' => s'.store = s.store ∧
      s'.ops = s.ops ∧ s'.postSlot x g wg.col = p ∧ s'.wg? w = some { wg with gbarK := none, gbarUp := false } ∧
      (∀ u, u ∉ wg.teams → s'.team? u = s.team? u) ∧
      ∀ u ∈ wg.teams, ∀ t, s.team? u = some t → t.gbarArr = some g → t.wait = .gbar g →
        ∃ t', s'.team? u = some t' ∧ t'.gbarArr = none ∧ t'.wait = .none ∧ (t.st = .stalled → t'.st = .active) ∧ t.SameRegs t') ∧
    (wg.gbarUp = false ∨ (∃ i < 128, (s.group x g).has i = true ∧ s.arrivedAt x g i (wg.col % 4) p.a = false) → exec .gbarComplete s = .next s))

/-- R335 to R337: REGISTRAR_RELEASE. Once a workgroup of a deterministic launch is over and those of lower index have been released, its staged accesses
are performed one after another in ticket order (team, path, place in issue order, element), and then the workgroup is released. What is left of the same
store notes the words that a write has covered (R410). A write that crosses dies enters its die's send list, with a number and a stamp (R320). -/
def Claims.RegistrarReleases : Prop :=
  ∀ (s : State) (w : Nat) (g : Workgroup), s.Canonical → s.arg = .id w → s.wg? w = some g → (g.st = .retired ∨ g.st = .dropped) → s.isDet w = true →
    g.released = false → s.chainDone g = true → (∀ b ∈ s.bufs, b.op = 0 → b.team / 8 ≠ w) →
    (g.staged = [] → Does s .registrarRelease fun s' => s'.store = s.store ∧ s'.wg? w = some { g with released := true } ∧ s'.teams = s.teams) ∧
    (∀ e x col v k bs, e ∈ g.staged → (∀ q ∈ g.staged, e.twg < q.twg ∨ e.twg = q.twg ∧ (e.rank < q.rank ∨ e.rank = q.rank ∧
        (e.seq < q.seq ∨ e.seq = q.seq ∧ e.el ≤ q.el))) →
      (∀ q ∈ g.staged, q ≠ e → q.twg ≠ e.twg ∨ q.rank ≠ e.rank ∨ q.seq ≠ e.seq ∨ q.el ≠ e.el) →
      (∀ q ∈ g.staged, q.rank < 4 ∧ q.seq < 2 ^ 64 ∧ q.el < 2 ^ 26) →
      e.space = .slice x col v → e.act = .write bs → s.sharedPage e.space e.addr e.lower = false → s.physAt e.space e.addr e.lower = some k →
      let u := w * 8 + e.twg
      let left := { g with staged := (g.staged.filter (· != e)).map (s.noteReleased e) }
      (∀ f, { s.noteReleased e f with before := f.before } = f) ∧
      (s.crossing u e.space = none → Does s .registrarRelease fun s' => s'.wg? w = some left ∧
        ∀ key, s'.byteAt key = if k ≤ key ∧ key < k + bs.length then bs.getD (key - k) 0 else s.byteAt key) ∧
      (∀ d a, s.crossing u e.space = some (d, a) → Does s .registrarRelease fun s' => s'.store.1 = s.mem ∧ s'.dram = s.dram ∧
        s'.wg? w = some left ∧ ∃ b, s'.bufs = s.bufs ++ [b] ∧ b.stage = 1 ∧ b.die = d ∧ b.space = e.space ∧
          b.addr = e.addr ∧ b.lower = e.lower ∧ b.act = .write bs ∧ b.num = (s.vclk.getD d []).getD d 0 + 1))

/-- R262 to R266, R272, R325 to R330, R336: fences complete, group posts and barriers are answered, staged accesses are released.
What the spec leaves open or to inference in it is the model's choice: logs 35 and 48. -/
def Obligations.FencesAndGroupsComplete : Prop :=
  Claims.FencesComplete ∧ Claims.PostsAndGroupBarriers ∧ Claims.RegistrarReleases

/-- R207: LOAN_LEND lends a free unit, other than unit 0, that has been free for 256 clk of its column while no entry of the slot table waits for scratchpad;
LOAN_RECLAIM_COMPLETE allocates a unit that has been reclaimed. -/
def Claims.Loan : Prop :=
  ∀ (s : State) (c i : Nat), s.arg = .pair c i →
    let others := fun (s' : State) => s'.store = s.store ∧ s'.teams = s.teams ∧ s'.wgs = s.wgs ∧ (∀ d, d ≠ c → s'.column d = s.column d) ∧
      ∀ j, j ≠ i → (s'.column c).loan[j]? = (s.column c).loan[j]?
    (∀ since, (s.column c).loan[i]? = some (.free, since) →
      (i ≠ 0 → colClk c since + 256 ≤ colClk c s.now → s.spadWanted c = false → Does s .loanLend fun s' => s'.loanState c i = .lent ∧ others s') ∧
      (i = 0 ∨ colClk c s.now < colClk c since + 256 ∨ s.spadWanted c = true → exec .loanLend s = .next s)) ∧
    (∀ st since, (s.column c).loan[i]? = some (st, since) → st ≠ .free → exec .loanLend s = .next s) ∧
    (s.loanState c i = .reclaiming → Does s .loanReclaimComplete fun s' => s'.loanState c i = .allocated ∧ others s') ∧
    (s.loanState c i ≠ .reclaiming → exec .loanReclaimComplete s = .next s)

/-- R50, R62, R63, R114, R341, R374, R399, R400: CURATOR_BIND writes a workgroup's entry in an empty place of its column's slot table; DISPATCH makes the next
entry's workgroup resident once its column can grant all that it needs, and its teams start Pending-ready, or Active where a slot is free, with every
lane running at the kernel's address, their scalars holding the launch's parameters and zero, and every other register zero. -/
def Claims.WorkgroupsStart : Prop :=
  (∀ (s : State) (col k i : Nat) (c : Completion) (l : Launch), s.arg = .bind col (wgKey k i) false → i < 2 ^ 32 → s.unit? k = some c → c.launch = some l →
    c.begun = true → c.done = false → c.dropped = false → i < l.g → s.wg? (wgKey k i) = none → s.mayBind c.ctx l k i col = true →
    (∃ e ∈ (s.column col).slots, e.valid = false) → Does s .curatorBind fun s' => s'.store = s.store ∧ s'.teams = s.teams ∧
      (∃ g, s'.wg? (wgKey k i) = some g ∧ g.launch = k ∧ g.idx = i ∧ g.col = col ∧ g.st = .bound ∧ g.teams.length = l.shape.twg ∧ g.iterPos = 0) ∧
      (∃ e ∈ (s'.column col).slots, e.valid = true ∧ e.rst = false ∧ e.w = wgKey k i ∧ e.lid = c.ident ∧ e.wgIdx.toNat = i ∧ e.seqNo = (s.column col).seqNo) ∧
      (s'.column col).slots.length = (s.column col).slots.length ∧
      (s'.column col).seqNo = (s.column col).seqNo + 1 ∧ (∀ d, d ≠ col → s'.column d = s.column d) ∧ ∀ v, v ≠ wgKey k i → s'.wg? v = s.wg? v) ∧
  (∀ (s : State) (col w : Nat) (g : Workgroup), s.arg = .bind col w true → s.wg? w = some g → g.st = .saved →
    (∀ e ∈ (s.column g.col).slots, e.valid = true → e.w ≠ w) → (∃ e ∈ (s.column g.col).slots, e.valid = false) → s.gangTurn (s.preemptSet w) = true →
    (s.coreUp (g.col / 4) = true → (s.isDet w = true → s.lowerPlaced g.launch g.idx = true) → (s.isDet w = false → s.entryFree g.col = true) →
      Does s .curatorBind fun s' => s'.store = s.store ∧
        s'.teams = s.teams ∧ s'.wgs = s.wgs ∧ ∃ e ∈ (s'.column g.col).slots, e.valid = true ∧ e.rst = true ∧ e.w = w) ∧
    (s.coreUp (g.col / 4) = false ∨ (s.isDet w = true ∧ s.lowerPlaced g.launch g.idx = false) → exec .curatorBind s = .next s)) ∧
  (∀ (s : State) (c w u n : Nat) (e : SlotEntry) (g : Workgroup) (l : Launch), s.arg = .id c → s.nextEntry c = some e → e.rst = false → e.w = w →
    s.wg? w = some g → s.launchOf w = some l → g.st = .bound → g.col = c → l.p = 0 → l.group = none → l.gang = false → l.shape.spad = 0 → g.teams.Nodup →
    s.coreUp (c / 4) = true →
    (s.teamsUsed c + g.teams.length ≤ 32 → s.vregsUsed c + l.shape.twg * l.shape.nv * l.shape.lanes ≤ Config.columnVregs → g.teams[n]? = some u →
      Does s .dispatch fun s' => s'.ops = s.ops ∧ s'.mem = s.mem ∧ (∃ g', s'.wg? w = some g' ∧ g'.st = .resident ∧ g'.teams = g.teams ∧ g'.spad = []) ∧
        ∃ t, s'.team? u = some t ∧ t.wg = w ∧ t.twg = n ∧ t.lanes = l.shape.lanes ∧ t.nv = l.shape.nv ∧ t.ns = l.shape.ns ∧ (t.st = .pendingReady ∨ t.st = .active) ∧
          t.pc = l.kaddr ∧ t.mask 0 = lanesBelow l.shape.lanes ∧ t.live = lanesBelow l.shape.lanes ∧ (∀ k, 0 < k → t.mask k = 0) ∧
          (∀ k, t.scal k = (l.params.reverse.find? (·.1 == k)).elim 0 (·.2)) ∧ (∀ k j, t.elem k j = 0) ∧
          (∀ j < l.shape.lanes, Store.get t.ra j = l.kaddr) ∧ t.fstat = 0 ∧ t.fctl = 0 ∧ t.pstat = 0 ∧ t.elogInfo = 0 ∧ t.holds = 0) ∧
    ((32 < s.teamsUsed c + g.teams.length ∧ ∀ v ∈ g.teams, s.team? v = none) ∨ Config.columnVregs < s.vregsUsed c + l.shape.twg * l.shape.nv * l.shape.lanes → exec .dispatch s = .next s))

/-- R58, R65, R66, R80, R291, R309, R363, R364: PREEMPT makes PREE pending for every team of a resident workgroup; CONTEXT_SAVE, once each team has reached the
RTE of its PREE handler, leaves them Saved with their registers and frees their slot; RESTORE makes a saved workgroup resident again, its
teams resuming as RTE has them resume, their streams once the causes that wait have been taken; WORKGROUP_RETIRE ends a workgroup whose teams are all Retired. -/
def Claims.WorkgroupsLeave : Prop :=
  ∀ (s : State) (w : Nat) (g : Workgroup), s.arg = .id w → s.wg? w = some g → g.teams.Nodup → s.preemptSet w = [w] →
    (g.st = .resident → g.preempted = false → s.mayPreempt w = true → Does s .preempt fun s' => s'.store = s.store ∧ s'.ops = s.ops ∧
      s'.wg? w = some { g with preempted := true } ∧ (∀ u, u ∉ g.teams → s'.team? u = s.team? u) ∧
      ∀ u ∈ g.teams, ∀ t, s.team? u = some t → t.st ≠ .retired → ∃ t', s'.team? u = some t' ∧ t'.pendPree = true ∧ t.SameRegs t' ∧ t'.st = t.st) ∧
    (g.st = .resident → g.preempted = true → (∀ u ∈ g.teams, s.atRte u = true) →
      (∃ u ∈ g.teams, ∃ t, s.team? u = some t ∧ t.st ≠ .retired) →
      Does s .contextSave fun s' => s'.store = s.store ∧ (∃ g', s'.wg? w = some g' ∧ g'.st = .saved ∧ g'.spad = g.spad ∧ g'.iterPos = g.iterPos ∧ g'.staged = g.staged) ∧
        (∀ e ∈ (s'.column g.col).slots, e.valid = true → e.w ≠ w) ∧
        ∀ u ∈ g.teams, ∀ t, s.team? u = some t → ∃ t', s'.team? u = some t' ∧ t.SameRegs t' ∧ t'.bank = t.bank ∧ t'.fstat = t.fstat ∧ t'.vit = t.vit ∧
          (t.st ≠ .retired → t'.st = .saved)) ∧
    ((∃ u ∈ g.teams, s.atRte u = false) → exec .contextSave s = .next s) ∧
    (∀ e l, g.st = .saved → s.nextEntry g.col = some e → e.w = w → e.rst = true → s.launchOf w = some l → l.shape.spad = 0 → s.coreUp (g.col / 4) = true →
      s.teamsUsed g.col + g.teams.length ≤ 32 → s.vregsUsed g.col + l.shape.twg * l.shape.nv * l.shape.lanes ≤ Config.columnVregs → g.savedMx = none →
      Does s .restore fun s' => s'.store = s.store ∧ (∃ g', s'.wg? w = some g' ∧ g'.st = .resident ∧ g'.preempted = false ∧ g'.spad = g.spad) ∧
        ∀ u ∈ g.teams, ∀ t, s.team? u = some t → ∃ t', s'.team? u = some t' ∧ (t.st = .retired → t' = t) ∧ (t.st ≠ .retired →
          (t'.st = .pendingReady ∨ t'.st = .active) ∧ t'.resuming = true ∧ (t.leaveTrap s.now).SameRegs t' ∧ t'.pc = t.trapRpc)) ∧
    (g.st = .resident → (∀ u ∈ g.teams, ∃ t, s.team? u = some t ∧ t.st = .retired) → Does s .workgroupRetire fun s' => s'.mem = s.mem ∧
      (∃ g', s'.wg? w = some g' ∧ g'.st = .retired ∧ g'.spad = [] ∧ g'.staged = g.staged) ∧
      (∀ e ∈ (s'.column g.col).slots, e.valid = true → e.w ≠ w) ∧
      ∀ k < 64, (s.group (s.ctxOfWg w) k).has (g.col / 4) = true → (s.postSlot (s.ctxOfWg w) k g.col).holder = some w →
        (s'.postSlot (s.ctxOfWg w) k g.col).holder = none ∧ (s'.postSlot (s.ctxOfWg w) k g.col).withdrawn = true) ∧
    ((∃ u ∈ g.teams, ∃ t, s.team? u = some t ∧ t.st ≠ .retired) → exec .workgroupRetire s = .next s)

/-- R54, R63 to R66, R207, R360 to R363, R399 to R402: Loan, and the life of a workgroup.
What the spec leaves open or to inference in it is the model's choice: logs 4, 48, 56, 57, 58 and 75. -/
def Obligations.WorkgroupsComeAndGo : Prop :=
  Claims.Loan ∧ Claims.WorkgroupsStart ∧ Claims.WorkgroupsLeave

/-- R52, R53, R66, R395, R402: UNIT_BEGIN begins a unit whose parts and predecessors are there, and sets its counter; COUNTER_DECREMENT counts a workgroup
that is over, whose stores are performed at dev scope, in its launch's counter, or a complete unit in its parent's, once; a unit whose counter reaches
zero is complete. -/
def Claims.CountersFall : Prop :=
  (∀ (s : State) (k : Nat) (c : Completion), s.arg = .id k → s.unit? k = some c →
    (s.mayBegin c = true → Does s .unitBegin fun s' => s'.store = s.store ∧ s'.teams = s.teams ∧ s'.wgs = s.wgs ∧
      s'.unit? k = some { c with begun := true, counter := c.launch.elim c.want (·.g) } ∧ ∀ j, j ≠ k → s'.unit? j = s.unit? j) ∧
    (c.begun = true → exec .unitBegin s = .next s) ∧
    (c.level = .launch → c.begun = false → (∃ q p, c.parent = some p ∧ s.unit? p = some q ∧ (q.begun = false ∨
        ∃ i < 32, ∃ l, c.launch = some l ∧ l.pred.getLsbD i = true ∧ s.nodeDone q i = false)) → exec .unitBegin s = .next s)) ∧
  (∀ (s : State) (w : Nat) (g : Workgroup) (c : Completion), s.arg = .part (.workgroup w) → s.wg? w = some g → s.unit? g.launch = some c → c.level = .launch →
    (s.wgCounts w g = true → c.begun = true → c.done = false → 0 < c.counter → Does s .counterDecrement fun s' => s'.store = s.store ∧ s'.teams = s.teams ∧
      s'.wg? w = some { g with counted := true } ∧ s'.unit? g.launch = some { c with counter := c.counter - 1, done := decide (c.counter = 1) } ∧
      ∀ j, j ≠ g.launch → s'.unit? j = s.unit? j) ∧
    (g.counted = true ∨ (g.st ≠ .retired ∧ g.st ≠ .dropped) ∨ s.wgPerformed g = false → exec .counterDecrement s = .next s)) ∧
  (∀ (s : State) (k p : Nat) (c q : Completion), s.arg = .part (.unit k) → s.unit? k = some c → c.parent = some p → p ≠ k → s.unit? p = some q →
    (c.done = true → c.counted = false → q.begun = true → q.done = false → 0 < q.counter → q.level ≠ .phase → Does s .counterDecrement fun s' =>
      s'.store = s.store ∧ s'.unit? k = some { c with counted := true } ∧ s'.unit? p = some { q with counter := q.counter - 1, done := decide (q.counter = 1) } ∧
      ∀ j, j ≠ k → j ≠ p → s'.unit? j = s.unit? j) ∧
    (c.done = false ∨ c.counted = true → exec .counterDecrement s = .next s))

/-- R134, R391, R392, R395: the head of the intake, a record of KIND 1, 2 or 3 that a LNCH issued, once the team's earlier T-path stores are performed at
dev scope. A new graph is attached to a phase that has not begun and lacks parts, a new phase to a job that is not complete; the query gives the
handle of the issuer's launch or graph; the LNCH writes the handle to its scalar. A record whose parent is no such unit gets a handle of a unit
that is complete and cancelled. (Fewer than 2^32 - 2 units stand for the identifiers that there are.) A record that has entered in this clk waits (R391). -/
def Claims.RecordsMakeUnits : Prop :=
  ∀ (s : State) (x n d : Nat) (o : Op) (sent : Bool) (t : Team) (ws : List Word) (a : Arrival) (rest : List Arrival), s.Orderly →
    s.units.length < 2 ^ 32 - 2 → s.intake = a :: rest → a.entry = .record x (some n) ws none → s.op? n = some o → o.kind = .lnch d sent → s.team? o.team = some t →
    let kind := recField ws 5 33 32
    let g := recField ws 2 31 0
    let forms : List (Instr × Nat × Level × Level) := [(.recordNewGraph, 1, .graph, .phase), (.recordNewPhase, 2, .phase, .job)]
    (∀ i ∈ ([.recordLaunch, .recordNewGraph, .recordNewPhase, .recordQuery] : List Instr), s.recordReady (some n) = false ∨ s.now ≤ a.clk →
      exec i s = .next s) ∧
    (∀ e ∈ forms, kind ≠ e.2.1 → exec e.1 s = .next s) ∧
    (∀ e ∈ forms, kind = e.2.1 → a.clk < s.now → s.recordReady (some n) = true → recSpare ws = true → recField ws 5 35 34 = 0 → ws.getD 6 0 ≠ 0 →
      (∀ p c, s.handleUnit x (ws.getD 6 0) = some p → s.unit? p = some c → c.level = e.2.2.2 → 1 ≤ g → c.parts.length < c.want →
        (e.2.1 = 1 → g ≤ 32 ∧ c.begun = false) → (e.2.1 = 2 → c.done = false) → Does s e.1 fun s' => s'.intake = rest ∧
        (∃ q, s'.unit? s.nextId = some q ∧ q.level = e.2.2.1 ∧ q.ctx = x ∧ q.counter = g ∧ q.want = g ∧ q.parts = [] ∧ q.parent = some p ∧
          q.begun = false ∧ q.done = false ∧ q.order = c.parts.length ∧ q.ident ≠ 0 ∧ (∀ k c', s.unit? k = some c' → c'.ident ≠ q.ident) ∧
          Finishes s s' o [.s d q.handle] o.raises) ∧
        s'.unit? p = some { c with parts := c.parts ++ [s.nextId] } ∧ ∀ k, k ≠ p → k ≠ s.nextId → s'.unit? k = s.unit? k) ∧
      (s.handleUnit x (ws.getD 6 0) = none → Does s e.1 fun s' => s'.intake = rest ∧ (∀ k, k ≠ s.nextId → s'.unit? k = s.unit? k) ∧
        ∃ q, s'.unit? s.nextId = some q ∧ q.level = e.2.2.1 ∧ q.counter = 0 ∧ q.cancelled = true ∧ q.done = true ∧ Finishes s s' o [.s d q.handle] o.raises)) ∧
    (kind = 3 → a.clk < s.now → s.recordReady (some n) = true → recSpare ws = true → g = 0 → ws.getD 6 0 = 0 → ∀ c, s.unit? (s.launchKey t.wg) = some c → c.level = .launch →
      (recField ws 5 35 34 = 0 → Does s .recordQuery fun s' => s'.intake = rest ∧ s'.units = s.units ∧ Finishes s s' o [.s d c.handle] o.raises) ∧
      (∀ p q, recField ws 5 35 34 = 1 → c.parent = some p → s.unit? p = some q → q.level = .graph →
        Does s .recordQuery fun s' => s'.intake = rest ∧ s'.units = s.units ∧ Finishes s s' o [.s d q.handle] o.raises))

/-- R134, R392, R394, R396, R397: RECORD_LAUNCH, for a free launch without reservations whose fields, kernel descriptor and binding are admitted and whose
parameters can be read: the launch is as its record and descriptor say, its counter is its number of workgroups, it belongs to the workgroup that
issued it, and the LNCH writes its handle. A record whose kernel is not one is rejected, and so is one that names arguments for a kernel without
parameters. -/
def Claims.RecordsMakeLaunches : Prop :=
  ∀ (s : State) (x n r : Nat) (o : Op) (sent : Bool) (t : Team) (w : Workgroup) (ws : List Word) (a : Arrival) (rest : List Arrival), s.Orderly →
    s.intake = a :: rest → a.entry = .record x (some n) ws none → s.op? n = some o → o.kind = .lnch r sent → s.team? o.team = some t → s.wg? t.wg = some w →
    recField ws 5 33 32 = 0 → a.clk < s.now → s.recordReady (some n) = true → ws.getD 6 0 = 0 → launchFieldsOk ws = true → s.resvDone = [] →
    (∀ (d ps : List Word) (c : Completion), s.kernelDesc x (s.colOf t) (ws.getD 0 0) = some d → descOk d = true → recField d 1 8 8 = recField ws 5 41 41 →
      (recField d 1 22 17 = 0 → objId (ws.getD 1 0) = 0xFFFF) →
      s.bindable x (descShape d) (recField ws 2 31 0) (recField ws 2 63 32) (recField d 1 9 9 == 1)
        (if recField d 1 10 10 = 1 then some (recField d 1 16 11) else none) = true →
      (∀ j < recField d 1 22 17, s.readArg x (some n) (ws.getD 1 0) (8 * j) = .word (ps.getD j 0)) → ps.length = recField d 1 22 17 →
      recField ws 5 44 42 = 0 → s.unit? w.launch = some c → c.dropped = false → Does s .recordLaunch fun s' => s'.intake = rest ∧ s'.store = s.store ∧
        s'.wg? t.wg = some { w with children := w.children ++ [s.nextId] } ∧ (∀ k, k ≠ s.nextId → s'.unit? k = s.unit? k) ∧
        ∃ q l, s'.unit? s.nextId = some q ∧ q.level = .launch ∧ q.ctx = x ∧ q.begun = false ∧ q.done = false ∧ q.cancelled = false ∧ q.launch = some l ∧
          q.counter = recField ws 2 31 0 ∧ q.parent = none ∧ l.g = recField ws 2 31 0 ∧ l.p = recField ws 2 63 32 ∧ l.q = recField ws 3 31 0 ∧
          l.priv = recField ws 3 63 32 ∧ l.seed = ws.getD 4 0 ∧ l.kaddr = ws.getD 0 0 ∧ l.shape = descShape d ∧ l.det = (recField ws 5 41 41 == 1) ∧
          l.params = ps.zipIdx.map (fun p => (pmapByte d p.2, p.1)) ∧ l.creator = some t.wg ∧ l.free = true ∧ l.resv = [] ∧
          Finishes s s' o [.s r q.handle] o.raises) ∧
    (s.kernelDesc x (s.colOf t) (ws.getD 0 0) = none ∨ (∃ d, s.kernelDesc x (s.colOf t) (ws.getD 0 0) = some d ∧ recField d 1 22 17 = 0 ∧
      objId (ws.getD 1 0) ≠ 0xFFFF) → Does s .recordLaunch fun s' => s'.intake = rest ∧ s'.store = s.store ∧ s'.wgs = s.wgs ∧
      ∃ q, s'.unit? s.nextId = some q ∧ q.level = .launch ∧ q.counter = 0 ∧ q.cancelled = true ∧ q.done = true ∧ Finishes s s' o [.s r q.handle] o.raises)

/-- R53, R54, R402: CANCEL_REQUEST takes the head of the intake: a handle that names no unit, or a unit that is complete or was cancelled before, has no
effect; a launch is cancelled: its workgroups that are bound never run, those resident have CNCL to be delivered to each team that is not Retired,
at once to one that has started no clause, and its counter counts those that never run. CNCL_DELIVERY makes CNCL pending. -/
def Claims.CancelsReach : Prop :=
  (∀ (s : State) (x : Nat) (h : Word) (a : Arrival) (rest : List Arrival), s.Orderly → s.intake = a :: rest → a.entry = .cancel x h →
    (s.now ≤ a.clk → exec .cancelRequest s = .next s) ∧
    (a.clk < s.now → s.handleUnit x h = none → exec .cancelRequest s = .next { s with intake := rest }) ∧
    (∀ k c, a.clk < s.now → s.handleUnit x h = some k → s.unit? k = some c →
      (c.done = true ∨ c.dropped = true → exec .cancelRequest s = .next { s with intake := rest }) ∧
      (∀ l, c.done = false → c.dropped = false → c.level = .launch → c.launch = some l →
        (∀ e ∈ s.units, e.1 ≠ k → s.beneath k (s.units.length + 1) e.1 = false) → s.above c = none → Does s .cancelRequest fun s' => s'.intake = rest ∧
        s'.store = s.store ∧ (∀ j, j ≠ k → s'.unit? j = s.unit? j) ∧
        (let mine := s.wgs.filter fun e => e.2.launch == k
         let bound := mine.filter fun e => e.2.st == .bound
         ∃ c', s'.unit? k = some c' ∧ c'.cancelled = true ∧ c'.dropped = true ∧ c'.begun = true ∧ c'.done = decide (c'.counter = 0) ∧
           c'.counter = if c.begun then c.counter - bound.length - (l.g - mine.length) else 0) ∧
        ∀ w g, s.wg? w = some g →
          (g.launch ≠ k → s'.wg? w = some g) ∧
          (g.launch = k → g.st = .bound → ∃ g', s'.wg? w = some g' ∧ g'.st = .dropped ∧ g'.counted = true ∧
            ∀ e ∈ (s'.column g.col).slots, e.valid = true → e.w ≠ w) ∧
          (g.launch = k → g.st = .saved → ∃ g', s'.wg? w = some g' ∧ g'.st = .dropped ∧ g'.savedMx = none) ∧
          (g.launch = k → g.st = .resident → ∃ g', s'.wg? w = some g' ∧ g'.st = .resident ∧ g'.staged = [] ∧ g'.cancelled = true ∧ ∀ u t,
            s.team? u = some t → (∀ v h, s.wg? v = some h → v ≠ w → u ∉ h.teams) → t.trapCause.toNat % 2 ^ 8 ≠ Cause.cncl.code.toNat →
            (u ∈ g'.cncl ↔ u ∈ g.teams ∧ t.st ≠ .retired ∧ t.pendCncl = false ∧ (t.started = true ∨ t.hdr ≠ 0)) ∧
            (u ∈ g.teams → t.st ≠ .retired → t.started = false → t.hdr = 0 → ∃ t', s'.team? u = some t' ∧ t'.pendCncl = true))))) ∧
  (∀ (s : State) (u : Nat) (t : Team) (g : Workgroup), s.arg = .id u → s.team? u = some t → s.wg? t.wg = some g →
    (g.st = .resident → u ∈ g.cncl → t.st ≠ .retired → Does s .cnclDelivery fun s' => s'.store = s.store ∧
      s'.wg? t.wg = some { g with cncl := g.cncl.filter (· != u) } ∧ (∀ v, v ≠ u → s'.team? v = s.team? v) ∧
      ∃ t', s'.team? u = some t' ∧ t'.pendCncl = true ∧ t.SameRegs t' ∧ t'.st = t.st) ∧
    (u ∉ g.cncl → exec .cnclDelivery s = .next s))

/-- R52, R53, R132 to R136, R391 to R398: records become units, counters fall, and cancels reach what they name.
What the spec leaves open or to inference in it is the model's choice: logs 9, 15, 50, 51, 53, 54 and 55. -/
def Obligations.UnitsOfWork : Prop :=
  Claims.CountersFall ∧ Claims.RecordsMakeUnits ∧ Claims.RecordsMakeLaunches ∧ Claims.CancelsReach

/-- R370 to R372, R381, R405: FAR_FIRST_TOUCH_MAP maps a first-touch page that a far access has met to the first frame of its column's pool, filled with zeros;
COPY_ON_WRITE gives a page
that shares its frame, when a write waits for it, a frame of the pool with the same contents; with no frame in the pool neither changes anything.
POOL_REFILL adds free frames of the context's reserve to a pool of its partition, as many as the reserve has left, and wakes the column's teams
that wait in WFI. -/
def Claims.PagesAreMapped : Prop :=
  (∀ (s : State) (r : PageRef) (tier : BitVec 2) (fr : Nat) (o : Obj), s.Canonical → s.arg = .page r tier fr → s.obj? r.ctx r.obj r.col = some o →
    let e := s.pte r o
    let pool := (s.column r.col).pool r.lower
    (∀ f rest, r.obj ≠ 0 → r.team = 0 → e.p = false → e.ft = true → e.col = r.col → s.inOwnPart r.ctx r.col = true → r.page < (o.bound + 65535) / 65536 → (r.lower = true → o.split = true) →
      r ∈ s.farPages → pool = f :: rest → Does s .farFirstTouchMap fun s' => s'.teams = s.teams ∧ s'.ops = s.ops ∧ (s'.column r.col).pool r.lower = rest ∧
        s'.pte r o = { p := true, ft := false, w := o.w, x := false, tier := if r.lower then 1 else 0, sh := false, col := r.col, frame := f } ∧
        (∀ q, q ≠ r → s'.pte q o = s.pte q o) ∧
        ∀ key, s'.byteAt key = if inFrame (frameKey (if r.lower then 1 else 0) r.col f) key then 0 else s.byteAt key) ∧
    (r ∉ s.farPages ∨ e.p = true ∨ e.ft = false ∨ s.inOwnPart r.ctx r.col = false ∨ pool = [] → exec .farFirstTouchMap s = .next s) ∧
    (∀ f rest, o.snap = false → s.copyWanted r = true → e.p = true → e.sh = true → pool = f :: rest →
      e.key ≠ frameKey (if r.lower then 1 else 0) r.col f → Does s .copyOnWrite fun s' => s'.teams = s.teams ∧ s'.ops = s.ops ∧ (s'.column r.col).pool r.lower = rest ∧
        (let new := frameKey (if r.lower then 1 else 0) r.col f
         s'.pte r o = { e with sh := false, ft := false, x := false, tier := if r.lower then 1 else 0, col := r.col, frame := f } ∧
         (∀ i < 65536, s'.byteAt (new + i) = s.byteAt (e.key + i)) ∧ ∀ key, inFrame new key = false → s'.byteAt key = s.byteAt key)) ∧
    (o.snap = true ∨ s.copyWanted r = false ∨ e.sh = false ∨ pool = [] → exec .copyOnWrite s = .next s)) ∧
  (∀ (s : State) (x : Nat) (c : Context) (col : Nat) (second : Bool) (frames : List Nat), s.arg = .refill x col second frames → s.ctx? x = some c → s.Keyed →
    let given := (assoc c.given col).getD 0
    (frames ≠ [] → frames.Nodup → (∀ f ∈ frames, s.frameFree (if second then 1 else 0) col f = true) → s.inOwnPart x col = true →
      given + frames.length ≤ 16 * c.reserve → Does s .poolRefill fun s' => s'.store = s.store ∧
      (∃ c', s'.ctx? x = some c' ∧ assoc c'.given col = some (given + frames.length) ∧ c'.reserve = c.reserve ∧ c'.pages = c.pages) ∧
      (s'.column col).pool second = (s.column col).pool second ++ frames ∧ (s'.column col).pool (!second) = (s.column col).pool (!second) ∧
      (∀ d, d ≠ col → s'.column d = s.column d) ∧
      ∀ u t, s.team? u = some t → ∃ t', s'.team? u = some t' ∧ t.SameRegs t' ∧
        ((u, t) ∈ s.teamsIn col → (∃ w, t.hwait = .wfi w) → t'.wake = true) ∧ ((u, t) ∉ s.teamsIn col ∨ (∀ w, t.hwait ≠ .wfi w) → t' = t)) ∧
    (s.inOwnPart x col = false ∨ 16 * c.reserve < given + frames.length ∧ frames ≠ [] ∨ (∃ f ∈ frames, s.frameFree (if second then 1 else 0) col f = false) → exec .poolRefill s = .next s))

/-- R382, R384: PAGE_MIGRATION moves a page, with every entry that shares its frame, to a free frame of its column that then holds its contents;
PAGE_DUPLICATION adds a replica, an entry of TIER 2 that reads and never writes, of a page of a read-only DUP object, in another column; neither
copies a frame past the capacity that is fitted (R5). LIVE_MIGRATION takes a context, with its workgroups, units and bytes, to
another device, whose address the machine then keeps, or brings it back, when nothing of it runs. -/
def Claims.PagesMove : Prop :=
  (∀ (s : State) (r : PageRef) (tier : BitVec 2) (fr : Nat) (c : Context) (e : Pte), s.Canonical → s.arg = .page r tier fr → s.ctx? r.ctx = some c →
    pageFind c.pages r = some e →
    let new := frameKey tier.toNat e.col fr
    (e.p = true → s.pastFitted e = false → tier.toNat < 2 → s.frameFree tier.toNat e.col fr = true → Does s .pageMigration fun s' => s'.teams = s.teams ∧
      (∃ c', s'.ctx? r.ctx = some c' ∧ c'.objs = c.objs ∧ ∀ q p, pageFind c.pages q = some p →
        pageFind c'.pages q = some (if p.p = true ∧ p.key = e.key then { p with tier := tier, frame := fr } else p)) ∧
      (e.key ≠ new → (∀ i < 65536, s'.byteAt (new + i) = s.byteAt (e.key + i)) ∧ ∀ key, inFrame new key = false → s'.byteAt key = s.byteAt key)) ∧
    (e.p = false ∨ s.pastFitted e = true ∨ 2 ≤ tier.toNat ∨ s.frameFree tier.toNat e.col fr = false → exec .pageMigration s = .next s)) ∧
  (∀ (s : State) (r : PageRef) (col fr : Nat) (o : Obj) (c : Context), s.Canonical → s.arg = .dup r col fr → s.obj? r.ctx r.obj r.col = some o →
    s.ctx? r.ctx = some c → r.obj ≠ 0 →
    (o.dup = true → o.w = false → (s.pte r o).p = true → s.pastFitted (s.pte r o) = false → col ≠ (s.pte r o).col → s.frameFree 0 col fr = true → (s.pte r o).key ≠ frameKey 0 col fr → Does s .pageDuplication fun s' =>
      s'.teams = s.teams ∧ s'.obj? r.ctx r.obj r.col = some { o with replicas := o.replicas ++ [(r, col,
        { p := true, ft := false, w := false, x := (s.pte r o).x, tier := 2, sh := false, col := (s.pte r o).col, frame := fr })] } ∧
      (∀ i < 65536, s'.byteAt (frameKey 0 col fr + i) = s.byteAt ((s.pte r o).key + i)) ∧
      ∀ key, inFrame (frameKey 0 col fr) key = false → s'.byteAt key = s.byteAt key) ∧
    (o.dup = false ∨ o.w = true ∨ (s.pte r o).p = false ∨ s.pastFitted (s.pte r o) = true ∨ col = (s.pte r o).col ∨ s.frameFree 0 col fr = false → exec .pageDuplication s = .next s)) ∧
  (∀ (s : State) (x : Nat) (c : Context) (mac : BitVec 48), s.Canonical → s.arg = .migrate x false mac → s.ctx? x = some c →
    (s.mayLeave x = true → Does s .liveMigration fun s' => s'.ctx? x = none ∧ assoc s'.moved x = some mac ∧ (∀ w g, s'.wg? w = some g → s.ctxOfWg w ≠ x) ∧
      (∀ u t, s'.team? u = some t → s.ctxOf t ≠ x) ∧
      (∃ m, s'.elsewhere = s.elsewhere ++ [m] ∧ m.ctx = x ∧ m.body = c ∧ (∀ e, e ∈ m.wgs ↔ e ∈ s.wgs ∧ s.ctxOfWg e.1 = x) ∧
        (∀ e, e ∈ m.teams ↔ e ∈ s.teams ∧ s.ctxOf e.2 = x) ∧ (∀ e, e ∈ m.units ↔ e ∈ s.units ∧ e.2.ctx = x) ∧
        ∀ e ∈ c.pages, e.2.p = true → ∀ i < 65536, Store.get (w := 8) m.mem (e.2.key + i) = s.byteAt (e.2.key + i)) ∧
      ∀ e ∈ c.pages, e.2.p = true → ∀ i < 65536, s'.byteAt (e.2.key + i) = 0) ∧
    (s.mayLeave x = false → exec .liveMigration s = .next s)) ∧
  (∀ (s : State) (x : Nat) (m : Migrated) (mac : BitVec 48), s.Canonical → s.arg = .migrate x true mac → s.elsewhere.find? (fun m => m.ctx == x) = some m →
    (s.stage = .stage2 → s.ctx? x = none → s.roomFor m = true → (∀ e ∈ m.body.pages, e.2.p = true → inPartition s.nPart m.body.part e.2.col = true ∧
        s.frameFree e.2.level e.2.col e.2.frame = true) →
      Does s .liveMigration fun s' => s'.ctx? x = some m.body ∧ s'.wgs = s.wgs ++ m.wgs ∧ s'.units = s.units ++ m.units ∧
        (∀ m' ∈ s'.elsewhere, m'.ctx ≠ x) ∧ assoc s'.moved x = none ∧ (∀ u t, assoc m.teams u = some t → ∃ t', s'.team? u = some t' ∧ t.SameRegs t' ∧ t'.st = t.st) ∧
        ∀ e ∈ m.body.pages, e.2.p = true → ∀ i < 65536, s'.byteAt (e.2.key + i) = Store.get (w := 8) m.mem (e.2.key + i)) ∧
    (s.stage ≠ .stage2 ∨ s.ctx? x ≠ none ∨ (∃ e ∈ m.body.pages, e.2.p = true ∧ s.frameFree e.2.level e.2.col e.2.frame = false) → exec .liveMigration s = .next s))

/-- R369 to R371, R381 to R384: pages are mapped, shared, copied, moved and duplicated.
What the spec leaves open or to inference in it is the model's choice: logs 60 and 61. -/
def Obligations.PagesComeAndGo : Prop :=
  Claims.PagesAreMapped ∧ Claims.PagesMove

/-- R406: the base-die controller's packets. READ_PACKET changes no byte and replies with the sector and its poison bits; WRITE_PACKET makes DRAM hold
the bytes of the coherent memory that its mask names; ATOMIC_PACKET performs an atomic, makes DRAM hold the new value, and replies with the old
one. -/
def Claims.Packets : Prop :=
  (∀ (s : State) (tag n x id : Nat) (b : EccBeyond),
    s.arg = .readPkt tag n { flips := [], beyond := b } ∨ s.arg = .readBy tag n x id { flips := [], beyond := b } → ∃ p : BitVec 32,
    exec .readPacket s = .next { s with reply := some { tag := tag, bytes := Memory.bytes s.mem (n * 128) 128, poison := p } } ∧
    ∀ i < 32, p.getLsbD i = true ↔ n * 32 + i ∈ s.poison) ∧
  (∀ (s : State) (tag n : Nat) (mask : BitVec 128), s.Canonical → s.arg = .writePkt tag n mask → Does s .writePacket fun s' =>
    s'.mem = s.mem ∧ s'.poison = s.poison ∧ s'.teams = s.teams ∧ s'.ops = s.ops ∧ s'.reply = some { tag := tag, bytes := [], poison := 0 } ∧
    ∀ key, Store.get (w := 8) s'.dram key = if n * 128 ≤ key ∧ key < n * 128 + 128 ∧ mask.getLsbD (key - n * 128) = true then s.byteAt key
      else Store.get (w := 8) s.dram key) ∧
  ∀ (s : State) (tag n el : Nat) (o : Op) (a : Access) (aop : AOp) (ty : Ty) (x cmp : List Byte) (k : Nat),
    s.Canonical → s.arg = .atomPkt tag n (some el) → s.op? n = some o → o.kind = .mem → o.acc.find? (fun y => y.el == el) = some a → o.queued = true →
    s.inOrder o a = true → s.fenceHolds o.team a.path o.seq = false → s.checkAccess o.team a = .ok → a.act = .atomic aop ty x cmp →
    (∃ v col w, a.space = .slice v col w) → a.lower = false → a.size = x.length → o.errLanes.getLsbD a.lane = false →
    s.stages o.team a.space a.addr a.act = false →
    (∀ b ∈ s.bufs, b.agent = issuerOf o.team a.path → b.path = a.path → b.stage = 0 → b.hits a.space a.lower a.addr a.size = false) →
    s.crossing o.team a.space = none → s.physAt a.space a.addr false = some k → s.sharedPage a.space a.addr false = false →
    s.poisonedAt a.space a.addr false a.size = false → (∀ j, a.land ≠ .data j) →
    let old := Memory.bytes s.mem k x.length
    let new := atomNew aop ty old x cmp
    Does s .atomicPacket fun s' => s'.reply = some { tag := tag, bytes := old, poison := 0 } ∧
      (∀ key, s'.byteAt key = if k ≤ key ∧ key < k + new.1.length then new.1.getD (key - k) 0 else s.byteAt key) ∧
      (∀ key, Store.get (w := 8) s'.dram key = if k / 128 * 128 ≤ key ∧ key < k / 128 * 128 + 128 then s'.byteAt key else Store.get (w := 8) s.dram key) ∧
      s'.ops = s.ops.map fun p => if p.id == n then
        { o with acc := o.acc.filter (fun y => y.el != el), writes := o.writes ++ landing a.land a.lane old, raises := o.raises ||| new.2 } else p

/-- R408 to R413, R422: what check bits show. Errors in one symbol of a granule, or up to four in the protected bits of a tolerant one, are corrected and
merged; errors in two or three symbols poison the granule; a bit that a tolerant object leaves unprotected is delivered as it stands; an error that
is detected in a word being evicted poisons that word alone. What is wrong in DRAM leaves a newer value in a cache as it is (R408). A scrub skips a poisoned granule, and retires the frame of one that nothing maps. The
merged record of a frame is written once. -/
def Claims.ErrorsAreFound : Prop :=
  let plain := fun (s : State) (key : Nat) => s.byteAt key = Store.get (w := 8) s.dram key
  (∀ (s : State) (tag n g : Nat) (obs : EccObs), s.Canonical → s.arg = .readPkt tag n obs → ((keyParts (n * 128)).1 = 1 → cxlTier = false) → g < 4 → obs.flips ≠ [] → (∀ b ∈ obs.flips, b / 256 = g) →
    let k := n * 128
    let scheme := s.schemeAt (k + 32 * g)
    let symbols := (obs.flips.map (· / 8)).dedup.length
    let corrected := Does s .readPacket fun s' => s'.store = s.store ∧ s'.poison = s.poison ∧ s'.teams = s.teams ∧
      ∃ e ∈ s'.corrected, e.key / 65536 = k / 65536 ∧ 1 ≤ e.count
    (scheme = .whole → symbols = 1 → corrected) ∧
    (scheme = .whole → 2 ≤ symbols → symbols ≤ 3 → Does s .readPacket fun s' => s'.store = s.store ∧ s'.teams = s.teams ∧
      ∀ w, w ∈ s'.poison ↔ w ∈ s.poison ∨ (n * 32 + 8 * g ≤ w ∧ w < n * 32 + 8 * g + 8 ∧ ∀ i < 4, plain s (4 * w + i))) ∧
    (∀ w lo, scheme = .bits w lo → (∀ b ∈ obs.flips, lo ≤ b % 256 % w) → obs.flips.dedup.length ≤ 4 → corrected) ∧
    (∀ b, obs.flips = [b] → scheme.covers (b % 256) = false → Does s .readPacket fun s' => s'.poison = s.poison ∧ s'.corrected = s.corrected ∧
      s'.devMb = s.devMb ∧ ∀ key,
        Store.get (w := 8) s'.dram key = Store.get (w := 8) s.dram key ^^^ (if key = k + b / 8 then BitVec.twoPow 8 (b % 8) else 0) ∧
        s'.byteAt key = s.byteAt key ^^^ (if key = k + b / 8 ∧ plain s key then BitVec.twoPow 8 (b % 8) else 0))) ∧
  (∀ (s : State) (tag n i trig loc b1 b2 : Nat) (mask : BitVec 128) (b : EccBeyond), s.arg = .evict tag n mask trig loc { flips := [b1, b2], beyond := b } →
    2 ≤ loc → loc ≤ 4 → i < 32 → b1 / 32 = i → b2 / 32 = i → b1 ≠ b2 → Does s .writePacket fun s' => s'.mem = s.mem ∧ s'.teams = s.teams ∧
      ∀ w, w ∈ s'.poison ↔ w ∈ s.poison ∨ w = n * 32 + i) ∧
  (∀ (s : State) (n : Nat) (obs : EccObs), s.arg = .ecc n obs →
    let k := n * 32
    let p := keyParts k
    let symbols := (obs.flips.map (· / 8)).dedup.length
    (s.poisoned k 32 = true ∨ s.frameExists p.1 p.2.1 p.2.2.1 = false ∨ obs.flips = [] → exec .scrubGranule s = .next s) ∧
    (s.poisoned k 32 = false → (p.1 = 1 → cxlTier = false) → s.frameExists p.1 p.2.1 p.2.2.1 = true → (∀ b ∈ obs.flips, b < 256) → 2 ≤ symbols → symbols ≤ 3 →
      ((s.ownerOf k).isSome = true → s.schemeAt k = .whole → Does s .scrubGranule fun s' => s'.store = s.store ∧ s'.badFrames = s.badFrames ∧
        ∀ w, w ∈ s'.poison ↔ w ∈ s.poison ∨ (n * 8 ≤ w ∧ w < n * 8 + 8 ∧ ∀ i < 4, plain s (4 * w + i))) ∧
      (s.ownerOf k = none → Does s .scrubGranule fun s' => s'.store = s.store ∧ s'.poison = s.poison ∧
        s'.badFrames = s.badFrames ++ [(p.1, p.2.1, p.2.2.1)]))) ∧
  (∀ (s : State) (n : Nat) (g : BitVec 4), s.arg = .cxl n g →
    ((keyParts (n * 128)).1 ≠ 1 → exec .cxlPoisonReport s = .next s) ∧
    ((keyParts (n * 128)).1 = 1 → if cxlTier = true then Does s .cxlPoisonReport fun s' => s'.store = s.store ∧ ∀ w, w ∈ s'.poison ↔ w ∈ s.poison ∨
        ∃ i < 4, g.getLsbD i = true ∧ n * 32 + 8 * i ≤ w ∧ w < n * 32 + 8 * i + 8 ∧ ∀ j < 4, plain s (4 * w + j)
      else exec .cxlPoisonReport s = .next s)) ∧
  ∀ (s : State) (k : Nat), s.arg = .id k →
    (∀ e, s.corrected.find? (fun e => e.key / 65536 == k / 65536) = some e → Does s .errorRecordMergeFlush fun s' => s'.store = s.store ∧
      s'.corrected = s.corrected.filter (· != e) ∧ ∃ r, s'.devMb = s.devMb.push r ∧ (r.getD 0 0).toNat % 2 ^ 4 = 0 ∧ (r.getD 3 0).toNat = min e.count (2 ^ 32 - 1)) ∧
    ((∀ e ∈ s.corrected, e.key / 65536 ≠ k / 65536) → exec .errorRecordMergeFlush s = .next s)

/-- R5, R323, R383, R418, R422: DMA_WRITE changes DRAM and the sectors that it touches take DRAM's bytes; DMA_READ takes DRAM's; neither reaches a frame that
the column does not have. CXL_HOT_REMOVE takes capacity from the second tier of every column and tells every context. -/
def Claims.DmaAndCxl : Prop :=
  (∀ (s : State) (a n : Nat) (data : List Byte), s.Canonical →
    (s.arg = .bytes a data → data ≠ [] → if s.exposedRange a data.length = true then Does s .dmaWrite fun s' =>
      (∀ u t, s.team? u = some t → ∃ t', s'.team? u = some t' ∧ t.SameRegs t') ∧
      (∀ key, Store.get (w := 8) s'.dram key = if a ≤ key ∧ key < a + data.length then data.getD (key - a) 0 else Store.get (w := 8) s.dram key) ∧
      ∀ key, s'.byteAt key = if a / 128 * 128 ≤ key ∧ key < (a + data.length + 127) / 128 * 128 then Store.get (w := 8) s'.dram key else s.byteAt key
      else exec .dmaWrite s = .next s) ∧
    (s.arg = .pair a n → exec .dmaRead s = .next (if s.exposedRange a n = true then { s with dmaOut := Memory.bytes s.dram a n } else s)) ∧
    (s.exposedRange a n = true → ∀ i < n, let p := keyParts (a + i)
      p.2.1 < 512 ∧ (p.1 ≠ 0 → p.2.2.1 < 16 * (Config.fittedMiB - s.cxlLost)))) ∧
  (∀ (s : State) (n : Nat), s.arg = .id n → if cxlTier = true then Does s .cxlHotRemove fun s' => s'.store = s.store ∧ s'.teams = s.teams ∧
      s'.cxlLost = min Config.fittedMiB (s.cxlLost + 64 * n) ∧ (∀ c f, f ∈ (s'.column c).poolSec → f ∈ (s.column c).poolSec ∧ f < 16 * (Config.fittedMiB - s'.cxlLost)) ∧
      ∀ x c, s.ctx? x = some c → s'.ctx? x = some { c with events := c.events + 1 }
    else exec .cxlHotRemove s = .next s)

/-- R5, R323, R383, R406 to R413, R418, R422: packets, the errors that check bits show, DMA and CXL. -/
def Claims.PacketsAndErrors : Prop :=
  Claims.Packets ∧ Claims.ErrorsAreFound ∧ Claims.DmaAndCxl

/-- R353, R410, R414, R415, R417: REGISTER_UNCORRECTABLE makes a resident workgroup fatal: its teams lose every lane and are Retiring. DRAM_DIE_REMOVAL
leaves no page and no pool frame on the die, and tells the contexts of the stack. CORE_FAILURE makes the logical core that the physical core
serves unavailable, its resident workgroups fatal, and those bound to it unbound; no entry of a saved one stays in its slot tables. -/
def Claims.FailuresAreContained : Prop :=
  (∀ (s : State) (u : Nat) (t : Team) (g : Workgroup), s.arg = .id u → s.team? u = some t → s.wg? t.wg = some g →
    (g.st = .resident → Does s .registerUncorrectable fun s' => s'.store = s.store ∧ (∃ g', s'.wg? t.wg = some g' ∧ g'.fatal = true ∧ g'.st = .resident ∧ g'.staged = [] ∧ g'.cancelled = true) ∧
      (∀ v ∈ g.teams, ∀ x, s.team? v = some x → x.st ≠ .retired → ∃ x', s'.team? v = some x' ∧ x'.st = .retiring ∧ x'.live = 0 ∧ (x.Stored → x'.mask 0 = 0)) ∧
      (∀ v x, v ∉ g.teams → s.team? v = some x → ∃ x', s'.team? v = some x' ∧ x.SameRegs x' ∧ x'.pc = x.pc ∧ x'.st = x.st) ∧ ∃ r, s'.devMb = s.devMb.push r ∧ (r.getD 0 0).toNat % 2 ^ 4 = 1) ∧
    (g.st ≠ .resident → exec .registerUncorrectable s = .next s)) ∧
  (∀ (s : State) (stack ddie : Nat), s.arg = .die stack ddie →
    (stack < 8 → ddie < 12 → (stack, ddie) ∉ s.removed → Does s .dramDieRemoval fun s' => s'.removed = s.removed ++ [(stack, ddie)] ∧ (stack, ddie) ∈ s'.recorded ∧
      s'.teams = s.teams ∧
      (∀ c f, c / 64 = stack → f ∈ (s'.column c).poolHbm → f / 1024 ≠ ddie) ∧
      (∀ x c r e, s'.ctx? x = some c → r.ctx = x → pageFind c.pages r = some e → e.onDie stack ddie = false) ∧
      ∀ x c, s.ctx? x = some c → ∃ c', s'.ctx? x = some c' ∧ c'.events = c.events + if inPartition s.nPart c.part (64 * stack) then 1 else 0) ∧
    (8 ≤ stack ∨ 12 ≤ ddie ∨ (stack, ddie) ∈ s.removed → exec .dramDieRemoval s = .next s)) ∧
  (∀ (s : State) (die phys : Nat) (e : Nat × Nat), s.arg = .pair die phys → s.remap.find? (fun e => e.1 / 16 == die && e.2 == phys) = some e →
    (s.wgs.map (·.1)).Nodup →
    (e.1 ∉ s.unavail → Does s .coreFailure fun s' => s'.unavail = s.unavail ++ [e.1] ∧ s'.crem = s.crem + 1 ∧ s'.mem = s.mem ∧
      (∀ w g, s.wg? w = some g → g.col / 4 = e.1 → (g.st = .bound → s'.wg? w = none) ∧
        (g.st = .saved → (∃ g', s'.wg? w = some g' ∧ g'.st = .saved) ∧ ∀ e ∈ (s'.column g.col).slots, e.valid = true → e.w ≠ w) ∧
        (g.st = .resident → g.teams ≠ [] → (∀ v ∈ g.teams.head?, ∃ t, s.team? v = some t ∧ t.wg = w) → ∃ g', s'.wg? w = some g' ∧ g'.fatal = true ∧ g'.st = .resident)) ∧
      ∃ r, s'.devMb = s.devMb.push r ∧ (r.getD 0 0).toNat % 2 ^ 4 = 4) ∧
    (e.1 ∈ s.unavail → exec .coreFailure s = .next s))

/-- R198, R370, R381, R382, R384, R406, R417, R423, R424: SCALEOUT_FRAME_RECEIVE serves a request of another device that comes in a frame: a read is
answered with the bytes, a write or an atomic changes memory and is answered, one that fails its checks is answered with its cause; one that meets
a first-touch or shared page waits; one for a context that has moved goes on to its new place; each access that arrives is counted at its page and
source, one that fails its checks too; a request for checks 1 to 5 of a range is answered with the first that fails; and a read's answer lands at its operation. PORT_FAILURE takes the
port out; DELIVERY_TIMEOUT gives the request's issuer MNUL and makes the device unreachable. -/
def Claims.ScaleOut : Prop :=
  (∀ (s : State) (port tag x col : Nat) (a : Addr) (n : Nat) (bs : List Byte) (f : EtherFrame), s.Canonical → port < 16 → port ∉ s.portsDown →
    f.etherType = 0x88B5 → s.arg = .pkt port f → behind s.inbox port f = false → (s.ctx? x = none → assoc s.moved x = none) →
    let sp : Space := .slice x col 0
    let reply := fun (p : FarPacket) => (port, ({ dst := f.src, src := f.dst, etherType := 0x88B5, pkt := p } : EtherFrame))
    let waits := exec .scaleoutFrameReceive s = .next { s with inbox := s.inbox ++ [(port, f)] }
    let r := (pageRef x (objId a) 0 col (offOf a) false, f.src)
    let counted := fun (s' : State) => s'.farCounts.find? (fun e => e.1 == r) = some (r, ((s.farCounts.find? fun e => e.1 == r).elim 0 (·.2)) + 1)
    let fails := fun (c : Cause) => Does s .scaleoutFrameReceive fun s' => s'.egress = s.egress ++ [reply (.answerErr tag c.code a)] ∧ counted s' ∧
      s'.store = s.store ∧ s'.teams = s.teams ∧ s'.inbox = s.inbox
    (f.pkt = .read tag x col a n →
      (∀ c, s.checkFar x col a n false = .err c → fails c) ∧ (∀ c, s.checkFar x col a n false = .precise c → waits) ∧
      (s.checkFar x col a n false = .ok → s.poisonedAt sp a false n = false → Does s .scaleoutFrameReceive fun s' => s'.store = s.store ∧
        s'.teams = s.teams ∧ s'.inbox = s.inbox ∧ counted s' ∧ s'.egress = s.egress ++ [reply (.answer tag (s.readMem sp a false n))])) ∧
    (f.pkt = .write tag x col a bs →
      (∀ c, s.checkFar x col a bs.length true = .err c → fails c) ∧
      ((∃ c, s.checkFar x col a bs.length true = .precise c) ∨ (s.checkFar x col a bs.length true = .ok ∧ s.sharedPage sp a false = true) → waits) ∧
      (∀ k, s.checkFar x col a bs.length true = .ok → s.sharedPage sp a false = false → s.physAt sp a false = some k →
        Does s .scaleoutFrameReceive fun s' => s'.egress = s.egress ++ [reply (.answer tag [])] ∧ counted s' ∧
          ∀ key, s'.byteAt key = if k ≤ key ∧ key < k + bs.length then bs.getD (key - k) 0 else s.byteAt key)) ∧
    (∀ num write atomic c, f.pkt = .check tag x col a n num write atomic → num ≠ 0 → s.ctx? x = some c → objId a ≠ 0 → col < 512 →
      inPartition s.nPart c.part col = true → exec .scaleoutFrameReceive s = .next { s with egress := s.egress ++ [reply
        (match s.sliceRange x col 0 (fun i => farAddr a (BitVec.ofNat 64 (i * n))) num n write with
          | some e => .answerErr tag e.1.code e.2
          | none => .answer tag [])] }) ∧
    (∀ aop ty v cmp c, f.pkt = .atomic tag x col a aop ty v cmp → s.checkFar x col a v.length true = .err c → fails c) ∧
    (∀ aop ty v cmp k, f.pkt = .atomic tag x col a aop ty v cmp → s.checkFar x col a v.length true = .ok → s.sharedPage sp a false = false →
      s.physAt sp a false = some k → s.poisonedAt sp a false v.length = false →
      let old := Memory.bytes s.mem k v.length
      let new := (atomNew aop ty old v cmp).1
      Does s .scaleoutFrameReceive fun s' => s'.egress = s.egress ++ [reply (.answer tag old)] ∧ counted s' ∧
        ∀ key, s'.byteAt key = if k ≤ key ∧ key < k + new.length then new.getD (key - k) 0 else s.byteAt key) ∧
    (∀ b o, f.pkt = .answer tag bs → s.inFlight tag = some b → b.act = .read → b.probe = false → s.op? b.op = some o → o.kind = .mem →
      (∀ j, b.land ≠ .data j) → Does s .scaleoutFrameReceive fun s' => s'.store = s.store ∧ s'.bufs = s.bufs.filter (fun c => c.id != b.id) ∧
        s'.ops = s.ops.map fun p => if p.id == o.id then { o with writes := o.writes ++ landing b.land b.lane bs } else p)) ∧
  (∀ (s : State) (port x : Nat) (f : EtherFrame) (mac : BitVec 48), port < 16 → port ∉ s.portsDown → f.etherType = 0x88B5 → s.arg = .pkt port f →
    behind s.inbox port f = false → farCtx f.pkt = some x → s.ctx? x = none → assoc s.moved x = some mac →
    exec .scaleoutFrameReceive s = .next { s with egress := s.egress ++ [(port, { f with dst := mac })] }) ∧
  (∀ (s : State) (port : Nat), s.arg = .id port →
    (port < 16 → port ∉ s.portsDown → Does s .portFailure fun s' => s'.portsDown = s.portsDown ++ [port] ∧ s'.store = s.store ∧ s'.bufs = s.bufs ∧
      (∀ e ∈ s'.egress, e ∈ s.egress ∨ e.1 ≠ port) ∧ ∀ e ∈ s.egress, e.1 ≠ port → e ∈ s'.egress) ∧
    (16 ≤ port ∨ port ∈ s.portsDown → exec .portFailure s = .next s)) ∧
  (∀ (s : State) (tag dev col x : Nat) (b : BufWrite), s.arg = .id tag →
    (s.inFlight tag = some b → b.space = .remote dev col x → b.op ≠ 0 → s.op? b.op = none → Does s .deliveryTimeout fun s' => s'.store = s.store ∧
      (∀ c, c ∈ s'.bufs ↔ c ∈ s.bufs ∧ c.id ≠ b.id) ∧ (∀ e ∈ s'.install, e.1 = dev → e.2.unreachable = true) ∧
      ∀ t, s.team? b.team = some t → t.spec = none → ∃ t', s'.team? b.team = some t' ∧ t'.elogInfo.getLsbD 0 = true ∧ t.SameRegs t') ∧
    (s.inFlight tag = none → exec .deliveryTimeout s = .next s))

/-- R406 to R415, R422 to R424: packets, errors, removals, and other devices.
What the spec leaves open or to inference in it is the model's choice: logs 10, 12, 16, 22, 33, 52, 61, 62 and 63. -/
def Obligations.FailuresAreContained : Prop :=
  Claims.PacketsAndErrors ∧ Claims.FailuresAreContained ∧ Claims.ScaleOut

/-- R403, R405, R419, R420: the mailboxes. Word 0 written to a mailbox that is done starts a command that it accepts, and rejects any other; written before
DONE it sets OVR and starts nothing; the other words and the head of the error queue take what is written. A response holds DONE, the status and the
result. A command that waits when the stage no longer accepts it is rejected. The host reads the command slot, the response slot, STAT, the error
queue's head, tail and dropped count, and its records, at their offsets; a page whose context does not exist has a mailbox that rejects every command. -/
def Claims.Mailboxes : Prop :=
  (∀ (m : Mailbox) (status : Nat) (result : Word), m.resp.length = 8 → status < 2 ^ 8 →
    let r := (m.respond status result).resp
    (r.getD 0 0).getLsbD 0 = true ∧ (r.getD 0 0).toNat / 2 ^ 8 % 2 ^ 8 = status ∧ (r.getD 0 0).getLsbD 1 = (m.resp.getD 0 0).getLsbD 1 ∧ r.getD 1 0 = result ∧
      (m.respond status result).cmd = m.cmd ∧ (m.respond status result).queue = m.queue) ∧
  (∀ (s : State) (off : Nat) (v : Word) (who : Option Nat) (m : Mailbox),
    (who = none ∧ s.arg = .hostw off v ∧ off < 2 ^ 16 ∨ ∃ x, who = some x ∧ s.arg = .hostw (2 ^ 20 + x * 2 ^ 16 + off) v ∧ off < 2 ^ 16) →
    s.mailbox who = some m →
    let after := fun (m' : Mailbox) => Does s .hostRegisterWrite fun s' => s'.mailbox who = some m' ∧ s'.store = s.store ∧ s'.teams = s.teams ∧
      ∀ w, w ≠ who → s'.mailbox w = s.mailbox w
    (off = 0 → s.stage ≠ .reset → m.done = true → s.accepts who v = true → after { m with cmd := m.cmd.set 0 v, resp := List.replicate 8 0 }) ∧
    (off = 0 → s.stage ≠ .reset → m.done = true → s.accepts who v = false → after (({ m with cmd := m.cmd.set 0 v, resp := List.replicate 8 0 } : Mailbox).respond 1 0)) ∧
    (off = 0 → s.stage ≠ .reset → m.done = false → after { m with resp := m.resp.set 0 (m.resp.getD 0 0 ||| 2) }) ∧
    (∀ k, 1 ≤ k → k < 8 → off = 8 * k → after { m with cmd := m.cmd.set k v }) ∧
    (off = 0x88 → after { m with head := v }) ∧
    (64 ≤ off → off ≠ 0x88 → exec .hostRegisterWrite s = .next s)) ∧
  (∀ (s : State) (who : Option Nat) (m : Mailbox), s.arg = .mb who → s.mailbox who = some m → m.done = false →
    Does s .mailboxOverrun fun s' => s'.mailbox who = some { m with resp := m.resp.set 0 (m.resp.getD 0 0 ||| 2) } ∧ s'.store = s.store ∧ s'.teams = s.teams) ∧
  (∀ s : State, (∀ v, s.accepts none v = true ↔ (s.stage = .stage2 ∧ 0x80 ≤ v.toNat ∧ v.toNat ≤ 0x86) ∨
      ((s.stage = .stage0 ∨ s.stage = .stage1 ∨ s.stage = .recovery) ∧ (v.toNat = 0x84 ∨ v.toNat = 0x85))) ∧
    ∀ x v, s.accepts (some x) v = true ↔
      s.stage = .stage2 ∧ (s.ctx? x).isSome = true ∧ (v.toNat = 1 ∨ v.toNat = 2 ∨ v.toNat = 3 ∨ v.toNat = 0x10 ∨ v.toNat = 0x11)) ∧
  (∀ (s : State) (x : Nat), x < 256 → ∃ m, s.mailbox (some x) = some m) ∧
  (∀ (s : State) (who : Option Nat) (m : Mailbox) (b : Nat), (who = none ∧ b = 0 ∨ ∃ x, x < 256 ∧ who = some x ∧ b = 2 ^ 20 + x * 2 ^ 16) →
    s.mailbox who = some m →
    (∀ k < 8, s.windowWord (b + 8 * k) = m.cmd.getD k 0 ∧ s.windowWord (b + 0x40 + 8 * k) = m.resp.getD k 0) ∧
    s.windowWord (b + 0x80) = (if who = none then s.statWord else 0) ∧ s.windowWord (b + 0x88) = m.head ∧ s.windowWord (b + 0x90) = m.tail ∧
    s.windowWord (b + 0x98) = m.dropped ∧
    ∀ n < 2040, ∀ k < 4, s.windowWord (b + 0x100 + 32 * n + 8 * k) = ((assoc m.queue n).getD []).getD k 0) ∧
  (∀ (s : State) (i : Instr) (who : Option Nat) (code : Nat) (m : Mailbox),
    ((i, code) ∈ ([(.setPartitions, 0x80), (.setInstallationEntry, 0x81), (.createContext, 0x82), (.destroyContext, 0x83), (.attest, 0x84),
        (.stageFirmware, 0x85), (.setPowerLimit, 0x86)] : List (Instr × Nat)) ∧ who = none ∧
        (i = .createContext → ∃ ws, s.arg = .handler ws) ∧ (i = .attest → ∃ b n, s.arg = .attest b n) ∧ (i = .stageFirmware → ∃ img, s.arg = .fw img) ∨
      ∃ x, who = some x ∧ ((i = .startJob ∧ code = 0x01 ∧ ∃ d, s.arg = .job x d) ∨ (i = .createObject ∧ code = 0x10 ∧ ∃ img, s.arg = .obj x img) ∨
        (i, code) ∈ ([(.mbCancel, 0x02), (.mbStatus, 0x03), (.deleteObject, 0x11)] : List (Instr × Nat)) ∧ s.arg = .mb (some x))) →
    s.mailbox who = some m → m.pending code = true → s.accepts who (m.cmd.getD 0 0) = false →
    Does s i fun s' => s'.mailbox who = some (m.respond 1 0) ∧ s'.store = s.store ∧ s'.teams = s.teams ∧ s'.units = s.units ∧ s'.nPart = s.nPart)

/-- R135, R259, R367, R369, R379, R391, R395, R403, R404: a context's commands. START_JOB, with a description that is admitted, begins the job with its phases,
puts its root record in the intake, and answers with the job's handle; MB_CANCEL enters its request in the intake; MB_STATUS answers with the unit's
status, where the stage accepts them; CREATE_OBJECT adds an object with its entries and answers with its identifier; DELETE_OBJECT removes one that is no snapshot. -/
def Claims.ContextCommands : Prop :=
  ∀ (s : State) (x : Nat) (c : Context), s.ctx? x = some c → s.accepts (some x) (c.mb.cmd.getD 0 0) = true →
    let m := c.mb
    let answers := fun (s' : State) (status : Nat) (v : Word) => ∃ c', s'.ctx? x = some c' ∧ c'.mb = m.respond status v
    (∀ d, s.arg = .job x d → m.pending 0x01 = true →
      (s.jobOk c d = false → Does s .startJob fun s' => answers s' 1 0 ∧ s'.units = s.units ∧ s'.intake = s.intake) ∧
      (s.jobOk c d = true → s.groupsFree x c d = false → exec .startJob s = .next s) ∧
      (s.Orderly → s.jobOk c d = true → s.groupsFree x c d = true → s.intake.length < 512 → Does s .startJob fun s' => s'.store = s.store ∧ s'.teams = s.teams ∧
        ∃ j p g r, s'.unit? s.nextId = some j ∧ s'.unit? (s.nextId + 1) = some p ∧ s'.unit? (s.nextId + 2) = some g ∧
          j.level = .job ∧ j.counter = d.phases.toNat ∧ j.begun = true ∧ j.parts = [s.nextId + 1] ∧
          p.level = .phase ∧ p.counter = 1 ∧ p.begun = true ∧ p.parent = some s.nextId ∧ p.parts = [s.nextId + 2] ∧
          g.level = .graph ∧ g.want = 1 ∧ g.begun = false ∧ g.parent = some (s.nextId + 1) ∧
          Enters s s' 512 (.record x none r (some d)) ∧ (∃ c', s'.ctx? x = some c' ∧ c'.reserve = d.reserve.toNat) ∧ (∀ k, k ≠ 6 → r.getD k 0 = d.record.getD k 0) ∧ (6 < d.record.length → r.getD 6 0 = g.handle) ∧
          answers s' 0 j.handle ∧ ∀ k < 64, s'.group x k = groupOfWords (d.groups.getD k []))) ∧
    (s.arg = .mb (some x) → m.pending 0x02 = true →
      (s.intake.length < 512 → Does s .mbCancel fun s' => Enters s s' 512 (.cancel x (m.cmd.getD 1 0)) ∧ answers s' 0 0 ∧ s'.store = s.store) ∧
      (512 ≤ s.intake.length → exec .mbCancel s = .next s)) ∧
    (s.arg = .mb (some x) → m.pending 0x03 = true → Does s .mbStatus fun s' => answers s' 0 (s.statusOf x (m.cmd.getD 1 0)) ∧ s'.units = s.units ∧ s'.store = s.store) ∧
    (∀ img, s.arg = .obj x img → m.pending 0x10 = true →
      let o := objOfImage img
      (s.freeIds x 1 = none → Does s .createObject fun s' => answers s' 1 0 ∧ ∃ c', s'.ctx? x = some c' ∧ c'.objs = c.objs) ∧
      (∀ id, s.freeIds x 1 = some [id] → o.distOk = false → Does s .createObject fun s' => answers s' 1 0 ∧ ∃ c', s'.ctx? x = some c' ∧ c'.objs = c.objs) ∧
      (∀ id, s.freeIds x 1 = some [id] → o.distOk = true → s.entriesOk x o (imageEntries id img o x) = true → Does s .createObject fun s' => s'.store = s.store ∧
        answers s' 0 (BitVec.ofNat 64 id) ∧ assoc c.objs id = none ∧ id ≠ 0 ∧ id ≠ 0xFFFF ∧ ∃ c', s'.ctx? x = some c' ∧ assoc c'.objs id = some o ∧
          (∀ k, k ≠ id → assoc c'.objs k = assoc c.objs k) ∧ c'.pages = c.pages ++ imageEntries id img o x)) ∧
    (s.arg = .mb (some x) → m.pending 0x11 = true →
      let id := (m.cmd.getD 1 0).toNat
      (∀ o, assoc c.objs id = some o → o.snap = false → Does s .deleteObject fun s' => answers s' 0 0 ∧ s'.store = s.store ∧ ∃ c', s'.ctx? x = some c' ∧
        assoc c'.objs id = none ∧ (∀ k, k ≠ id → assoc c'.objs k = assoc c.objs k) ∧ ∀ e ∈ c'.pages, e.1.obj ≠ id) ∧
      ((∀ o, assoc c.objs id = some o → o.snap = true) → Does s .deleteObject fun s' => answers s' 1 0 ∧ ∃ c', s'.ctx? x = some c' ∧ c'.objs = c.objs ∧ c'.pages = c.pages)) ∧
    (∀ i ∈ ([.startJob, .mbCancel, .mbStatus, .createObject, .deleteObject] : List Instr), m.done = true →
      (s.arg = .mb (some x) ∨ (∃ d, s.arg = .job x d) ∨ ∃ img, s.arg = .obj x img) → exec i s = .next s)

/-- R366, R374, R385, R416, R417, R420, R424, R428: the device's commands. SET_PARTITIONS, while no context exists; SET_INSTALLATION_ENTRY, one number for a
partition; CREATE_CONTEXT, in the lowest free number, with its supervisor code object, which M2 measures; DESTROY_CONTEXT, once its jobs are
complete and nothing of it is resident; SET_POWER_LIMIT, within 1000 to 2800 W. Each answers; one that its conditions do not admit is rejected. -/
def Claims.DeviceCommands : Prop :=
  ∀ (s : State), s.accepts none (s.devMb.cmd.getD 0 0) = true →
    let m := s.devMb
    let a := fun k => (m.cmd.getD k 0).toNat
    let rejects := fun (i : Instr) => Does s i fun s' => s'.devMb = m.respond 1 0 ∧ s'.contexts = s.contexts ∧ s'.nPart = s.nPart ∧ s'.install = s.install ∧
      s'.power = s.power ∧ s'.store = s.store
    (m.pending 0x80 = true →
      let n := a 1 % 2 ^ 4
      (s.contexts = [] → (n = 1 ∨ n = 2 ∨ n = 4 ∨ n = 8) → exec .setPartitions s = .next { s with nPart := n, devMb := m.respond 0 0 }) ∧
      (s.contexts ≠ [] ∨ (n ≠ 1 ∧ n ≠ 2 ∧ n ≠ 4 ∧ n ≠ 8) → rejects .setPartitions)) ∧
    (m.pending 0x81 = true →
      let dev := a 1 % 2 ^ 12
      let p := a 1 / 2 ^ 12 % 2 ^ 4
      (p = 15 → (∀ e, assoc s.install dev = some e → e.part = none) → Does s .setInstallationEntry fun s' => s'.devMb = m.respond 0 0 ∧ s'.contexts = s.contexts ∧
        (∃ e, assoc s'.install dev = some e ∧ e.part = none ∧ e.mac = (m.cmd.getD 2 0).setWidth 48 ∧ e.unreachable = false) ∧
        ∀ d, d ≠ dev → assoc s'.install d = assoc s.install d) ∧
      (p < s.nPart → p ≠ 15 → (∀ e, assoc s.install dev = some e → e.part = none ∨ e.part = some p) → Does s .setInstallationEntry fun s' =>
        s'.devMb = m.respond 0 0 ∧ (∃ e, assoc s'.install dev = some e ∧ e.part = some p ∧ e.unreachable = false) ∧
        ∀ d, d ≠ dev → ∀ e, assoc s'.install d = some e → e.part ≠ some p) ∧
      (s.nPart ≤ p → p ≠ 15 → rejects .setInstallationEntry)) ∧
    (∀ ws, s.arg = .handler ws → m.pending 0x82 = true →
      let p := a 1 % 2 ^ 4
      let bound := a 2
      (s.deviceOf p = none ∨ s.nPart ≤ p → rejects .createContext) ∧
      (∀ dev x, s.deviceOf p = some dev → (List.range 256).find? (fun x => (s.ctx? x).isNone) = some x →
        (bound % 65536 ≠ 0 ∨ 2 ^ 48 ≤ bound → rejects .createContext) ∧
        (∀ id s3, bound % 65536 = 0 → bound < 2 ^ 48 → p < s.nPart →
          let s1 : State := { s with contexts := s.contexts ++ [(x, s.newContext p dev bound (addrOf 0xFFFF 0))], idleMb := assocDel s.idleMb x }
          s1.freeIds x 1 = some [id] →
          (s1.modCtx x fun c => { c with tvec := addrOf id 0, objs := [(id, supervisorObj s p ws.length)] }).loadSupervisor x id p ws = some s3 →
          Does s .createContext fun s' => s'.devMb = m.respond 0 (BitVec.ofNat 64 x) ∧ s'.teams = s.teams ∧ s'.m2 = extendM s.m2 (wordBytes ws) ∧
            (∀ y, y ≠ x → s'.ctx? y = s.ctx? y) ∧ ∃ c, s'.ctx? x = some c ∧ c.part = p ∧ c.dev = dev ∧ c.privBound = bound ∧ c.tvec = addrOf id 0 ∧
              (∃ o, assoc c.objs id = some o ∧ o.sup = true ∧ o.code = true ∧ o.w = false ∧ o.bound = 8 * ws.length) ∧ ∀ k, (s'.group x k).v = false))) ∧
    (m.pending 0x83 = true →
      let x := a 1
      (∀ k c, s.unit? k = some c → c.ctx = x → c.level = .job → c.done = false → c.dropped = false → (s.units.map (·.1)).Nodup → Does s .destroyContext fun s' =>
        s'.store = s.store ∧ s'.devMb = m ∧ ∃ c', s'.unit? k = some c' ∧ c'.cancelled = true) ∧
      ((∀ e ∈ s.units, e.2.ctx = x → e.2.level = .job → e.2.done = true) → (∀ e ∈ s.wgs, s.ctxOfWg e.1 = x → e.2.st ≠ .resident) →
        Does s .destroyContext fun s' => s'.devMb = m.respond 0 0 ∧ s'.ctx? x = none ∧ (∀ y, y ≠ x → s'.ctx? y = s.ctx? y) ∧ s'.mem = s.mem ∧
          (∀ e ∈ s'.units, e.2.ctx ≠ x) ∧ ∀ i ∈ s'.intake, (∀ o w d, i.entry ≠ .record x o w d) ∧ ∀ h, i.entry ≠ .cancel x h)) ∧
    (m.pending 0x86 = true →
      (1000 ≤ a 1 → a 1 ≤ 2800 → exec .setPowerLimit s = .next { s with power := a 1, devMb := m.respond 0 0 }) ∧
      (a 1 < 1000 ∨ 2800 < a 1 → rejects .setPowerLimit)) ∧
    (∀ i ∈ ([.setPartitions, .setInstallationEntry, .destroyContext, .setPowerLimit] : List Instr), m.done = true → exec i s = .next s)

/-- R403, R404, R416 to R420: mailboxes, and the commands of contexts and of the device.
What the spec leaves open or to inference in it is the model's choice: logs 9, 27, 64 and 65. -/
def Obligations.HostCommands : Prop :=
  Claims.Mailboxes ∧ Claims.ContextCommands ∧ Claims.DeviceCommands

/-- R33, R35, R410, R415, R420, R421, R425 to R428: bring-up. POWER_GOOD starts the device with the image staged before, if there is one, and runs stage 0, which M0 measures; STAGE0_COMPLETE
runs stage 1 with an image that passes R427, a staged one raising the rollback counter, and goes to recovery otherwise; STAGE1_COMPLETE runs stage 2 with memory of zeros, the
removals that the package records and the remap that the Curator has written, the cores that nothing serves or whose stack failed being unavailable. CRITICAL_TEMPERATURE halts; DEVICE_RESET
is Reset, where DREM is 0, and the record of the removals, the rollback counter and the staged image stay. -/
def Claims.BringUp : Prop :=
  ∀ s : State,
    let passes := fun (i : FwImage) => Config.slhVerify Config.romKey (i.bytes ++ [i.version.setWidth 8]) i.sig = true ∧ s.rollback.toNat ≤ i.version.toNat
    (s.stage = .reset → exec .powerGood s = .next { s with stage := .stage0, m0 := extendM s.m0 Config.stage0Image, boot := s.staged, staged := none }) ∧
    (s.stage ≠ .reset → exec .powerGood s = .next s) ∧
    (∀ img, s.arg = .fw img → s.stage = .stage0 →
      let run := s.boot.getD img
      (passes run → Does s .stage0Complete fun s' => s'.stage = .stage1 ∧ s'.m1 = extendM s.m1 run.bytes ∧
        s'.fwver.toNat = run.version.toNat ∧ s'.boot = none ∧ s'.staged = s.staged ∧
        (s.boot.isSome = true → s'.rollback.toNat = max s.rollback.toNat run.version.toNat) ∧
        (s.boot = none → s'.rollback = s.rollback) ∧ s'.store = s.store ∧ s'.removed = s.removed) ∧
      (¬passes run → Does s .stage0Complete fun s' => s'.stage = .recovery ∧ s'.boot = none ∧ s'.staged = s.staged ∧ s'.m1 = s.m1 ∧ s'.rollback = s.rollback)) ∧
    (∀ r, s.arg = .bringUp r → s.stage = .stage1 → remapOk r.badCores r.remap = true → passes r.firmware → Does s .stage1Complete fun s' => s'.stage = .stage2 ∧ s'.remap = r.remap ∧ (∀ key, s'.byteAt key = 0) ∧
        s'.poison = [] ∧ s'.m1 = extendM s.m1 Config.trainingConfig ∧ s'.m2 = extendM s.m2 r.firmware.bytes ∧ s'.removed = s.recorded ∧
        ∀ i, i ∈ s'.unavail ↔ i < 128 ∧ (assoc r.remap i = none ∨ i / 16 ∈ r.badStacks)) ∧
    (∀ r, s.arg = .bringUp r → s.stage ≠ .stage1 ∨ remapOk r.badCores r.remap = false ∨ ¬passes r.firmware → exec .stage1Complete s = .next s) ∧
    (Does s .criticalTemperature fun s' => s'.stage = .halted ∧ s'.mem = s.mem ∧ (∃ r, s'.devMb = s.devMb.push r ∧ (r.getD 0 0).toNat % 2 ^ 4 = 4) ∧
      ∀ w g, s.wg? w = some g → g.st = .resident → (∃ u t, g.teams.head? = some u ∧ s.team? u = some t ∧ t.wg = w) → ∃ g', s'.wg? w = some g' ∧ g'.fatal = true) ∧
    (Does s .deviceReset fun s' => s'.stage = .reset ∧ s'.teams = [] ∧ s'.contexts = [] ∧ s'.wgs = [] ∧ s'.units = [] ∧ s'.ops = [] ∧ s'.nPart = 1 ∧
      s'.m0 = 0 ∧ s'.m1 = 0 ∧ s'.m2 = 0 ∧ s'.removed = [] ∧ s'.recorded = s.recorded ∧ s'.rollback = s.rollback ∧ s'.staged = s.staged.or s.boot ∧ s'.boot = none ∧ s'.devMb = Mailbox.initial) ∧
    (∀ b, s.arg = .onOff b → exec .powerOrThermalLimiting s = .next { s with throt := b })

/-- R421, R425, R427 to R429: STAGE_FIRMWARE stages an image that passes R427, and from recovery takes the device to Reset; ATTEST writes the 60016 bytes of
the report at the address given: its first 352 bytes hold the version, STAT, the rollback counter, the feature words, the number of removed dies, the
three measurements, the nonce and the public key, then the signature over them and the certificate: the public key, a serial number, and the root
signature over both. Signatures, keys and the serial number are free values (log 11). -/
def Claims.FirmwareAndAttestation : Prop :=
  ∀ s : State,
    let m := s.devMb
    let passes := fun (i : FwImage) => Config.slhVerify Config.romKey (i.bytes ++ [i.version.setWidth 8]) i.sig = true ∧ s.rollback.toNat ≤ i.version.toNat
    (∀ img, s.arg = .fw img → m.pending 0x85 = true → s.accepts none (m.cmd.getD 0 0) = true →
      (passes img → Does s .stageFirmware fun s' => s'.staged = some img ∧ s'.rollback = s.rollback ∧
        (s.stage = .recovery → s'.stage = .reset) ∧ (s.stage ≠ .recovery → s'.stage = s.stage ∧ s'.devMb = m.respond 0 0 ∧ s'.store = s.store)) ∧
      (¬passes img → Does s .stageFirmware fun s' => s'.staged = s.staged ∧ s'.stage = s.stage ∧ s'.devMb = m.respond 1 0)) ∧
    (∀ mapped nonce, s.arg = .attest mapped nonce → m.pending 0x84 = true → s.accepts none (m.cmd.getD 0 0) = true →
      (mapped = false → Does s .attest fun s' => s'.hostMem = s.hostMem ∧ s'.devMb = m.respond 1 0) ∧
      (mapped = true → Memory.wf s.hostMem = true → m.resp.length = 8 → Does s .attest fun s' => s'.store = s.store ∧ s'.teams = s.teams ∧ s'.m0 = s.m0 ∧
        s'.devMb.resp.getD 2 0 = 60016 ∧ (s'.devMb.resp.getD 0 0).getLsbD 0 = true ∧
        (let a := (m.cmd.getD 1 0).toNat
         let non := (([2, 3, 4, 5] : List Nat).map fun k => m.cmd.getD k 0).flatMap fun w => bytesOfNat w.toNat 8
         let stat : Nat := (match s.stage with | .reset | .stage0 => 0 | .stage1 => 1 | .stage2 => 2 | .recovery => 3 | .halted => 4) + 2 ^ 3 * s.nPart +
           (if s.throt then 2 ^ 7 else 0) + 2 ^ 8 * (s.removed.length % 2 ^ 8) + 2 ^ 16 * (s.crem % 2 ^ 4) + 2 ^ 20 * s.fwver.toNat
         let head := bytesOfNat 1 8 ++ bytesOfNat (stat % 2 ^ 64) 8 ++ bytesOfNat s.rollback.toNat 8 ++ bytesOfNat 0x1F01 8 ++
           bytesOfNat Config.sfRevision.toNat 8 ++ bytesOfNat (s.removed.length % 2 ^ 64) 8 ++ List.replicate 16 0 ++
           bytesOfNat s.m0.toNat 64 ++ bytesOfNat s.m1.toNat 64 ++ bytesOfNat s.m2.toNat 64 ++ non ++ (List.range 64).map Config.devicePublicKey
         head.length = 352 ∧ ∀ k, Store.get (w := 8) s'.hostMem k =
           if k < a ∨ a + 60016 ≤ k then Store.get (w := 8) s.hostMem k
           else if k < a + 352 then head.getD (k - a) 0
           else if k < a + 30144 then Config.attestSignature head (k - a - 352)
           else if k < a + 30208 then Config.devicePublicKey (k - a - 30144)
           else if k < a + 30224 then Config.serialNumber (k - a - 30208)
           else Config.rootSignature ((List.range 64).map Config.devicePublicKey ++ (List.range 16).map Config.serialNumber) (k - a - 30224))))

/-- R420, R421, R425 to R429: bring-up, firmware and attestation.
What the spec leaves open or to inference in it is the model's choice: logs 11, 65 and 67. -/
def Obligations.BringUpAndAttestation : Prop :=
  Claims.BringUp ∧ Claims.FirmwareAndAttestation

/-- R93, R95, R97, R103, R109, R113, R425: a step. What comes about at once comes first, and changes no register and no memory. At the turn of a team in stage 2
whose clause runs, when the eight bytes at its slot, in an executable and present page of an object in its column, decode to a well-formed
instruction, the step is that instruction's execution, the clk and the schedule moved on; when they do not decode, the team meets IINS. A stream's
words are those that were fetched when its clause started. A step of the machine is its own execution.
What the spec leaves open or to inference in it is the model's choice: logs 1 and 2. -/
def Obligations.StepRunsDecoded : Prop :=
  (∀ (s : State) (u : Nat) (t : Team) (o : Obj), s.turn = .issue (.team u) →
    let z := s.tidy
    z.stage = .stage2 → z.team? u = some t → t.started = true → (z.column (z.colOf t)).dp = some u → z.fenceHolds u .I z.seq = false →
    let at_ := t.pc + BitVec.ofNat 64 (8 * (t.slot + 1))
    let off := at_.toNat % 2 ^ 48
    let e := z.pte { ctx := z.ctxOf t, obj := at_.toNat / 2 ^ 48, team := 0, col := z.colOf t, page := off / 65536, lower := false } o
    let k := physKey (if e.tier = 1 then 1 else 0) e.col e.frame (off % 65536)
    at_.toNat / 2 ^ 48 ≠ 0 → z.obj? (z.ctxOf t) (at_.toNat / 2 ^ 48) (z.colOf t) = some o → (o.sup = true → t.priv = true) → off + 8 ≤ o.bound →
    e.p = true → e.x = true → e.col = z.colOf t → (e.tier = 1 → e.frame < 16 * z.secondMiB) → (∀ w ∈ z.poison, w * 4 + 4 ≤ k ∨ k + 8 ≤ w * 4) →
    let word : Word := BitVec.ofNat 64 (((List.range 8).map fun j => (z.byteAt (k + j)).toNat * 2 ^ (8 * j)).sum)
    (∀ i, decodeWord word = some i → step s = exec i { z.tickOver with cur := .team u }) ∧
    (decodeWord word = none → step s = .next (z.tickOver.badWord (.team u)))) ∧
  (∀ (s : State) (u : Nat) (t : Team) (mtx : Bool) (x : Stream), s.turn = .issue (if mtx then .matrix u else .copy u) →
    let z := s.tidy
    z.stage = .stage2 → z.team? u = some t → t.stream mtx = some x → x.started = true → x.halted = false → x.stopped = false → z.streamsRun t = true →
    (∀ k < 12, x.cwait.getLsbD k = true → z.flag u k = false) → (mtx = true → (z.column (z.colOf t)).mxHolder = some u) →
    (∀ i, decodeWord (x.words.getD x.slot 0) = some i → step s = exec i { z.tickOver with cur := if mtx then .matrix u else .copy u }) ∧
    (decodeWord (x.words.getD x.slot 0) = none → step s = .next (z.tickOver.badWord (if mtx then .matrix u else .copy u)))) ∧
  (∀ (s : State) (i : Instr) (arg : EvArg), s.turn = .ev i arg →
    (i.isStep = true → step s = exec i { s.tidy.tickOver with arg := arg }) ∧ (i.isStep = false → step s = .fault .notAStep)) ∧
  (∀ s : State, s.Orderly → s.tidy.store = s.store ∧ s.tidy.now = s.now ∧ s.tidy.stage = s.stage ∧ s.tidy.contexts = s.contexts ∧ s.tidy.units = s.units ∧
    s.tidy.poison = s.poison ∧ s.tidy.bufs = s.bufs ∧ (s.stage ≠ .stage2 → s.tidy = s) ∧
    ∀ u t, s.team? u = some t → ∃ t', s.tidy.team? u = some t' ∧ t.SameRegs t' ∧ t'.pc = t.pc ∧ t'.slot = t.slot ∧ t'.started = t.started ∧ t'.fstat = t.fstat) ∧
  (∀ s : State, s.tickOver.tick = s.tick + 1 ∧ s.tickOver.sched = s.sched.tail ∧ s.tickOver.teams = s.teams ∧ s.tickOver.store = s.store ∧
    s.tickOver.ops = s.ops)

/-- R14, R77, R99, R101, R108, R113, R278, R301: an instruction that fails a check of R113, that its agent does not have, or that names a flag which its
clause's header does not give raises IINS and does nothing else; one whose operand has a write pending does not issue: the team stays where it is,
and PSTAT.ST_HAZ is set. -/
def Obligations.ChecksComeFirst : Prop :=
  (∀ (i : Instr) (s : State) (u : Nat) (t : Team), i.isStep = false → s.cur = .team u → s.team? u = some t → t.started = true →
    t.priv = false → t.spec = none →
    let se := i.flagSel.1
    let fs := i.flagSel.2
    (t.admits i se fs = false → TrapsAtIssue s u t i .iins t.slot 0 [] (t.mask 0)) ∧
    (se = true → t.hdr.getLsbD (if fs then 38 else 43) = false → TrapsAtIssue s u t i .iins t.slot 0 [] (t.mask 0)) ∧
    (t.admits i se fs = true → s.portHeld u = true → exec i s = .next s) ∧
    (t.admits i se fs = true → s.portHeld u = false → (∃ x ∈ i.rule.uses, ∃ d, useSource x = some d ∧ s.pendingDest u d = true) →
      ∃ s', exec i s = .next s' ∧ s'.team? u = some { t with pstat := t.pstat ||| 1 } ∧ s.SameBut s' u ∧ s'.ops = s.ops)) ∧
  ∀ (i : Instr) (s : State) (u : Nat) (mtx : Bool) (t : Team) (x : Stream), i.isStep = false → s.cur = (if mtx then .matrix u else .copy u) →
    s.team? u = some t → t.stream mtx = some x → x.started = true → x.halted = false → x.stopped = false → x.admits t i mtx i.flagSel.1 i.flagSel.2 = false →
    (if mtx then t.pendMtx else t.pendCopy) = none → t.st ≠ .retiring → t.dying = false →
    ∃ s' t', exec i s = .next s' ∧ s'.team? u = some t' ∧ s.SameBut s' u ∧ t.SameRegs t' ∧
      (∃ y, t'.stream mtx = some y ∧ y.halted = true ∧ y.started = false) ∧
      (∃ e, (if mtx then t'.pendMtx else t'.pendCopy) = some e ∧ e.cause = .iins ∧ e.slot = x.slot) ∧
      (∀ o ∈ s'.ops, o ∈ s.ops) ∧ ∀ o ∈ s.ops, (∀ w k a, o.kind ≠ .cmx w k a false) →
        (mtx = true → (s.column (s.colOf t)).mxHolder = some u → ∀ f ∈ (s.column (s.colOf t)).mx.follow, f.op ≠ o.id) → o ∈ s'.ops

/-- R105, R109: words written out from the encodings decode to the instructions that they stand for. -/
def Obligations.DecodedWords : Prop :=
  decodeTableWord 64 0x40E830201018C400 = some (.ffma
    { ty := .f32, d := 12, a := 8, b := 4, c := 6, m := 3, fs := false, se := false, rnd := .rz, sat := false, sub := 0 }) ∧
  decodeTableWord 64 0xB000008000000002 = some (.bra { creg := 0, cond := 0, m := 1, res := 0, imm := 2 }) ∧
  decodeTableWord 64 0xC3C0000000000000 = some .cend ∧ decodeTableWord 64 0xE040000000000000 = some .rte

/-- R14, R105, R106, R109: encoding and decoding agree: every well-formed instruction has a word, and that word decodes to it, with every operand that it
has. -/
def Obligations.DecodingUndoesEncoding : Prop :=
  ∀ i : Instr, i.wellFormed = true → ∃ w, encode i = some w ∧ decodeWord w = some i

/-- R14, R105, R106, R109: no bit of a word is lost: a word that decodes to an instruction is the word of that instruction. -/
def Obligations.EncodingUndoesDecoding : Prop :=
  ∀ (w : Word) (i : Instr), decodeWord w = some i → encode i = some w

/-- Every step keeps the memories' canonical form: addresses rising, no entry that equals what an unlisted address reads as. That memory has such a form is
the model's choice (log 3). -/
def Obligations.MemoryStaysCanonical : Prop :=
  ∀ s s' : State, s.Canonical → step s = .next s' → s'.Canonical

/-- Every step keeps the numbers of teams, workgroups and units apart (R133), and the registers of every team, the matrix units' accumulators and the host's
memory in their canonical form, which is the model's choice (log 3). -/
def Obligations.StateStaysOrderly : Prop :=
  ∀ s s' : State, s.Orderly → step s = .next s' → s'.Orderly

/-- R33, R320, R410, R416, R428: the state after reset: nothing runs, M0 to M2 and every clock are zero, the device is one partition, every logical core is
served by a core of its own die, no word is poisoned; memory and registers have their canonical form.
What the spec leaves open or to inference in it is the model's choice: logs 3, 5 and 6. -/
def Obligations.ResetState : Prop :=
  let s := State.reset
  s.stage = .reset ∧ s.m0 = 0 ∧ s.m1 = 0 ∧ s.m2 = 0 ∧ s.nPart = 1 ∧ s.contexts = [] ∧ s.teams = [] ∧ s.wgs = [] ∧ s.units = [] ∧ s.ops = [] ∧ s.bufs = [] ∧
    s.intake = [] ∧ s.poison = [] ∧ (∀ key, s.byteAt key = 0) ∧ (∀ d < 8, s.vclk.getD d [] = List.replicate 8 0) ∧ (∀ b < 4, s.pclk.getD b [] = List.replicate 8 0) ∧
    (∀ i < 128, ∃ p, assoc s.remap i = some p ∧ p < 17 ∧ ∀ j < 128, j / 16 = i / 16 → assoc s.remap j = some p → j = i) ∧ s.Canonical ∧ s.Orderly

/-- R97, R113: no instruction and no step of the machine stops: in every state it has a next state. A step of the model stops only at a turn that names no
step of the machine, which the machine does not have.
What the spec leaves open or to inference in it is the model's choice: log 1. -/
def Obligations.EveryInstructionHasANextState : Prop :=
  (∀ (i : Instr) (s : State), ∃ s', exec i s = .next s') ∧
  ∀ s : State, (∃ s', step s = .next s') ∨ ∃ i arg, s.turn = .ev i arg ∧ i.isStep = false ∧ step s = .fault .notAStep
end

