-- ==== Sys2Proof/Laws/Store.lean ====
section
/-!
SUPPORT. The laws of sparse data: a read after a write, and that every operation keeps the canonical form (R23, log 3).
-/

namespace Sys2Proof.Machine

/-! ### Reading after writing -/

/-- A canonical store lists no key below its bound. -/
theorem Store.get_below {w : Nat} {st : Store w} {lo k : Nat} (h : Store.wfFrom lo st = true) (hk : k < lo) : Store.get st k = 0 := by
  cases st with
  | nil => rfl
  | cons e r =>
    obtain ⟨j, x⟩ := e
    simp only [Store.wfFrom, Bool.and_eq_true, decide_eq_true_eq] at h
    have hjk : ¬ j = k := by omega
    have hlt : k < j := by omega
    simp only [Store.get, if_neg hjk, if_pos hlt]

/-- A lower bound may be weakened. -/
theorem Store.wfFrom_mono {w : Nat} {st : Store w} {lo lo' : Nat} (h : Store.wfFrom lo st = true) (hl : lo' ≤ lo) :
    Store.wfFrom lo' st = true := by
  cases st with
  | nil => rfl
  | cons e r =>
    simp only [Store.wfFrom, Bool.and_eq_true, decide_eq_true_eq] at h ⊢
    exact ⟨⟨by omega, h.1.2⟩, h.2⟩

/-- A write keeps the canonical form from any bound that the key meets. -/
theorem Store.wfFrom_set {w : Nat} {st : Store w} {lo k : Nat} {v : BitVec w} (h : Store.wfFrom lo st = true) (hk : lo ≤ k) :
    Store.wfFrom lo (Store.set st k v) = true := by
  induction st generalizing lo with
  | nil =>
    simp only [Store.set]
    split
    · rfl
    · rename_i hv
      simp only [Store.wfFrom, Bool.and_eq_true, decide_eq_true_eq]
      exact ⟨⟨hk, hv⟩, trivial⟩
  | cons e r ih =>
    obtain ⟨j, x⟩ := e
    simp only [Store.wfFrom, Bool.and_eq_true, decide_eq_true_eq] at h
    simp only [Store.set]
    split
    · rename_i hlt
      split
      · simp only [Store.wfFrom, Bool.and_eq_true, decide_eq_true_eq]
        exact h
      · rename_i hv
        simp only [Store.wfFrom, Bool.and_eq_true, decide_eq_true_eq]
        exact ⟨⟨hk, hv⟩, ⟨hlt, h.1.2⟩, h.2⟩
    · split
      · split
        · exact Store.wfFrom_mono h.2 (by omega)
        · rename_i hv
          have hk' : k = j := by assumption
          subst hk'
          simp only [Store.wfFrom, Bool.and_eq_true, decide_eq_true_eq]
          exact ⟨⟨hk, hv⟩, h.2⟩
      · have hj : j + 1 ≤ k := by omega
        simp only [Store.wfFrom, Bool.and_eq_true, decide_eq_true_eq]
        exact ⟨h.1, ih h.2 hj⟩

/-- A write keeps the canonical form. -/
theorem Store.wf_set {w : Nat} {st : Store w} {k : Nat} {v : BitVec w} (h : Store.wf st = true) : Store.wf (Store.set st k v) = true :=
  Store.wfFrom_set h (Nat.zero_le k)

/-- A read of the key just written gives the value written. -/
theorem Store.get_set_self {w : Nat} {st : Store w} {lo k : Nat} {v : BitVec w} (h : Store.wfFrom lo st = true) :
    Store.get (Store.set st k v) k = v := by
  induction st generalizing lo with
  | nil =>
    simp only [Store.set]
    split
    · simp_all [Store.get]
    · simp [Store.get]
  | cons e r ih =>
    obtain ⟨j, x⟩ := e
    simp only [Store.wfFrom, Bool.and_eq_true, decide_eq_true_eq] at h
    simp only [Store.set]
    split
    · rename_i hlt
      split
      · rename_i hv
        have : ¬ j = k := by omega
        simp [Store.get, this, hlt, hv]
      · simp [Store.get]
    · split
      · split
        · rename_i hv
          rw [Store.get_below h.2 (by omega), hv]
        · simp [Store.get]
      · rename_i h1 h2
        have : ¬ j = k := fun e => h2 e.symm
        simp only [Store.get, if_neg this, if_neg h1]
        exact ih h.2

/-- A read of another key is unchanged by a write. -/
theorem Store.get_set_other {w : Nat} {st : Store w} {lo k a : Nat} {v : BitVec w} (h : Store.wfFrom lo st = true) (ha : a ≠ k) :
    Store.get (Store.set st k v) a = Store.get st a := by
  induction st generalizing lo with
  | nil =>
    simp only [Store.set]
    split
    · rfl
    · have : ¬ k = a := fun e => ha e.symm
      simp [Store.get, this]
  | cons e r ih =>
    obtain ⟨j, x⟩ := e
    simp only [Store.wfFrom, Bool.and_eq_true, decide_eq_true_eq] at h
    have hka : ¬ k = a := fun e => ha e.symm
    simp only [Store.set]
    split
    · rename_i hlt
      split
      · rfl
      · simp only [Store.get, if_neg hka]
        split
        · have : ¬ j = a := by omega
          have : a < j := by omega
          simp [*]
        · rfl
    · split
      · rename_i h2
        split
        · simp only [Store.get, if_neg (h2 ▸ hka : ¬ j = a)]
          split
          · exact Store.get_below h.2 (by omega)
          · rfl
        · simp only [Store.get, if_neg (h2 ▸ hka : ¬ j = a), h2]
      · simp only [Store.get, ih h.2]

/-- The read-over-write law of a canonical store. -/
theorem Store.get_set {w : Nat} {st : Store w} {k a : Nat} {v : BitVec w} (h : Store.wf st = true) :
    Store.get (Store.set st k v) a = if a = k then v else Store.get st a := by
  split
  · rename_i e
    rw [e, Store.get_set_self h]
  · rename_i e
    exact Store.get_set_other h e

/-! ### The other operations keep the canonical form -/

/-- A selection of entries of a canonical store is canonical. -/
theorem Store.wfFrom_filter {w : Nat} {st : Store w} {lo : Nat} (p : Nat × BitVec w → Bool) (h : Store.wfFrom lo st = true) :
    Store.wfFrom lo (st.filter p) = true := by
  induction st generalizing lo with
  | nil => rfl
  | cons e r ih =>
    obtain ⟨j, x⟩ := e
    simp only [Store.wfFrom, Bool.and_eq_true, decide_eq_true_eq] at h
    have h2 := ih h.2
    by_cases hp : p (j, x) = true
    · simp only [List.filter_cons, hp, if_true, Store.wfFrom, Bool.and_eq_true, decide_eq_true_eq]
      exact ⟨h.1, h2⟩
    · simp only [List.filter_cons, hp, Bool.false_eq_true, if_false]
      exact Store.wfFrom_mono h2 (by omega)

/-- Keeping the entries of some keys keeps the canonical form. -/
theorem Store.wf_keep {w : Nat} {st : Store w} (p : Nat → Bool) (h : Store.wf st = true) : Store.wf (Store.keep st p) = true :=
  Store.wfFrom_filter _ h

/-- Writing a list of entries keeps the canonical form. -/
theorem Store.wf_merge {w : Nat} {dst : Store w} (src : Store w) (h : Store.wf dst = true) : Store.wf (Store.merge dst src) = true := by
  unfold Store.merge
  induction src generalizing dst with
  | nil => exact h
  | cons e r ih => exact ih (Store.wf_set h)

/-- Replacing the entries of some keys keeps the canonical form. -/
theorem Store.wf_restore {w : Nat} {dst : Store w} (src : Store w) (p : Nat → Bool) (h : Store.wf dst = true) :
    Store.wf (Store.restore dst src p) = true :=
  Store.wf_merge src (Store.wfFrom_filter _ h)

/-- Reading what a selection of keys keeps. -/
theorem Store.get_filter {w : Nat} {st : Store w} {lo a : Nat} (p : Nat → Bool) (h : Store.wfFrom lo st = true) :
    Store.get (st.filter fun e => p e.1) a = if p a then Store.get st a else 0 := by
  induction st generalizing lo with
  | nil => simp [Store.get]
  | cons e r ih =>
    obtain ⟨j, x⟩ := e
    simp only [Store.wfFrom, Bool.and_eq_true, decide_eq_true_eq] at h
    have h2 := ih h.2
    have hr : a < j → Store.get r a = 0 := fun hl => Store.get_below h.2 (by omega)
    by_cases hp : p j = true
    · simp only [List.filter_cons, hp, if_true, Store.get]
      by_cases hja : j = a
      · subst hja
        simp [hp]
      · simp only [if_neg hja, h2]
        split <;> simp_all
    · simp only [List.filter_cons, hp, Bool.false_eq_true, if_false, h2, Store.get]
      by_cases hja : j = a
      · subst hja
        simp [hp]
      · simp only [if_neg hja]
        split <;> simp_all

/-! ### Bytes -/

/-- Writing bytes keeps the canonical form of a memory. -/
theorem Memory.wf_setBytes {m : Memory} {a : Nat} (bs : List Byte) (h : m.wf = true) : (Memory.setBytes m a bs).wf = true := by
  induction bs generalizing m a with
  | nil => exact h
  | cons b bs ih => exact ih (Store.wf_set h)

/-- A byte outside the bytes written reads as before. -/
theorem Memory.get_setBytes_other {m : Memory} {a k : Nat} (bs : List Byte) (h : m.wf = true) (hk : k < a ∨ a + bs.length ≤ k) :
    Store.get (w := 8) (Memory.setBytes m a bs) k = Store.get (w := 8) m k := by
  induction bs generalizing m a with
  | nil => rfl
  | cons b bs ih =>
    simp only [List.length_cons] at hk
    rw [Memory.setBytes, ih (Store.wf_set h) (by omega), Store.get_set_other h (by omega)]

/-- The bytes read are those written. -/
theorem Memory.bytes_setBytes {m : Memory} {a : Nat} (bs : List Byte) (h : m.wf = true) :
    Memory.bytes (Memory.setBytes m a bs) a bs.length = bs := by
  induction bs generalizing m a with
  | nil => rfl
  | cons b bs ih =>
    have hw := Store.wf_set (k := a) (v := b) h
    rw [Memory.setBytes, List.length_cons, Memory.bytes, ih hw, Memory.get_setBytes_other bs hw (by omega), Store.get_set_self h]

/-- The number of bytes read. -/
@[simp] theorem Memory.length_bytes (m : Memory) (a n : Nat) : (Memory.bytes m a n).length = n := by
  induction n generalizing a with
  | zero => rfl
  | succ n ih => simp [Memory.bytes, ih]

/-- A number has the number of bytes asked for. -/
@[simp] theorem length_bytesOfNat (x n : Nat) : (bytesOfNat x n).length = n := by
  induction n generalizing x with
  | zero => rfl
  | succ n ih => simp [bytesOfNat, ih]

/-- The bytes of a number give it back (R23). -/
theorem natOfBytes_bytesOfNat (x n : Nat) : natOfBytes (bytesOfNat x n) = x % 256 ^ n := by
  induction n generalizing x with
  | zero => simp [bytesOfNat, natOfBytes, Nat.mod_one]
  | succ n ih =>
    have h8 : (2 : Nat) ^ 8 = 256 := rfl
    rw [bytesOfNat, natOfBytes, ih, BitVec.toNat_ofNat, h8, Nat.pow_succ, Nat.mul_comm (256 ^ n) 256, Nat.mod_mul]

/-! ### Associations -/

/-- The value of the key just set. -/
@[simp] theorem assoc_assocSet_self {α : Type} (l : List (Nat × α)) (k : Nat) (v : α) : assoc (assocSet l k v) k = some v := by
  induction l with
  | nil => simp [assocSet, assoc]
  | cons e r ih =>
    obtain ⟨j, x⟩ := e
    by_cases h : j = k <;> simp [assocSet, assoc, h, ih]

/-- The value of another key. -/
theorem assoc_assocSet_other {α : Type} (l : List (Nat × α)) {k a : Nat} (v : α) (h : a ≠ k) :
    assoc (assocSet l k v) a = assoc l a := by
  have hk : ¬ k = a := fun e => h e.symm
  induction l with
  | nil => simp [assocSet, assoc, hk]
  | cons e r ih =>
    obtain ⟨j, x⟩ := e
    by_cases hj : j = k
    · subst hj
      simp [assocSet, assoc, hk]
    · simp only [assocSet, if_neg hj, assoc, ih]

end Sys2Proof.Machine
end

