-- ==== Sys2Proof/Laws/State.lean ====
section
/-!
SUPPORT. The small lemmas of the state: what each update of it leaves unchanged, field by field, and what it writes. Written by a script
of the model's from the field list of `State`.
-/

namespace Sys2Proof.Machine

/-! ### Replacing a team (`State.setTeam`) -/

@[simp] theorem State.setTeam_sched (s : State) (u : Nat) (t : Team) : (s.setTeam u t).sched = s.sched := rfl

@[simp] theorem State.setTeam_tick (s : State) (u : Nat) (t : Team) : (s.setTeam u t).tick = s.tick := rfl

@[simp] theorem State.setTeam_now (s : State) (u : Nat) (t : Team) : (s.setTeam u t).now = s.now := rfl

@[simp] theorem State.setTeam_seq (s : State) (u : Nat) (t : Team) : (s.setTeam u t).seq = s.seq := rfl

@[simp] theorem State.setTeam_nextId (s : State) (u : Nat) (t : Team) : (s.setTeam u t).nextId = s.nextId := rfl

@[simp] theorem State.setTeam_free (s : State) (u : Nat) (t : Team) : (s.setTeam u t).free = s.free := rfl

@[simp] theorem State.setTeam_cur (s : State) (u : Nat) (t : Team) : (s.setTeam u t).cur = s.cur := rfl

@[simp] theorem State.setTeam_arg (s : State) (u : Nat) (t : Team) : (s.setTeam u t).arg = s.arg := rfl

@[simp] theorem State.setTeam_stage (s : State) (u : Nat) (t : Team) : (s.setTeam u t).stage = s.stage := rfl

@[simp] theorem State.setTeam_nPart (s : State) (u : Nat) (t : Team) : (s.setTeam u t).nPart = s.nPart := rfl

@[simp] theorem State.setTeam_throt (s : State) (u : Nat) (t : Team) : (s.setTeam u t).throt = s.throt := rfl

@[simp] theorem State.setTeam_crem (s : State) (u : Nat) (t : Team) : (s.setTeam u t).crem = s.crem := rfl

@[simp] theorem State.setTeam_removed (s : State) (u : Nat) (t : Team) : (s.setTeam u t).removed = s.removed := rfl

@[simp] theorem State.setTeam_recorded (s : State) (u : Nat) (t : Team) : (s.setTeam u t).recorded = s.recorded := rfl

@[simp] theorem State.setTeam_fwver (s : State) (u : Nat) (t : Team) : (s.setTeam u t).fwver = s.fwver := rfl

@[simp] theorem State.setTeam_rollback (s : State) (u : Nat) (t : Team) : (s.setTeam u t).rollback = s.rollback := rfl

@[simp] theorem State.setTeam_staged (s : State) (u : Nat) (t : Team) : (s.setTeam u t).staged = s.staged := rfl

@[simp] theorem State.setTeam_boot (s : State) (u : Nat) (t : Team) : (s.setTeam u t).boot = s.boot := rfl

@[simp] theorem State.setTeam_power (s : State) (u : Nat) (t : Team) : (s.setTeam u t).power = s.power := rfl

@[simp] theorem State.setTeam_m0 (s : State) (u : Nat) (t : Team) : (s.setTeam u t).m0 = s.m0 := rfl

@[simp] theorem State.setTeam_m1 (s : State) (u : Nat) (t : Team) : (s.setTeam u t).m1 = s.m1 := rfl

@[simp] theorem State.setTeam_m2 (s : State) (u : Nat) (t : Team) : (s.setTeam u t).m2 = s.m2 := rfl

@[simp] theorem State.setTeam_remap (s : State) (u : Nat) (t : Team) : (s.setTeam u t).remap = s.remap := rfl

@[simp] theorem State.setTeam_unavail (s : State) (u : Nat) (t : Team) : (s.setTeam u t).unavail = s.unavail := rfl

@[simp] theorem State.setTeam_install (s : State) (u : Nat) (t : Team) : (s.setTeam u t).install = s.install := rfl

@[simp] theorem State.setTeam_portsDown (s : State) (u : Nat) (t : Team) : (s.setTeam u t).portsDown = s.portsDown := rfl

@[simp] theorem State.setTeam_devMb (s : State) (u : Nat) (t : Team) : (s.setTeam u t).devMb = s.devMb := rfl

@[simp] theorem State.setTeam_idleMb (s : State) (u : Nat) (t : Team) : (s.setTeam u t).idleMb = s.idleMb := rfl

@[simp] theorem State.setTeam_hostMem (s : State) (u : Nat) (t : Team) : (s.setTeam u t).hostMem = s.hostMem := rfl

@[simp] theorem State.setTeam_contexts (s : State) (u : Nat) (t : Team) : (s.setTeam u t).contexts = s.contexts := rfl

@[simp] theorem State.setTeam_columns (s : State) (u : Nat) (t : Team) : (s.setTeam u t).columns = s.columns := rfl

@[simp] theorem State.setTeam_wgs (s : State) (u : Nat) (t : Team) : (s.setTeam u t).wgs = s.wgs := rfl

@[simp] theorem State.setTeam_units (s : State) (u : Nat) (t : Team) : (s.setTeam u t).units = s.units := rfl

@[simp] theorem State.setTeam_intake (s : State) (u : Nat) (t : Team) : (s.setTeam u t).intake = s.intake := rfl

@[simp] theorem State.setTeam_ops (s : State) (u : Nat) (t : Team) : (s.setTeam u t).ops = s.ops := rfl

@[simp] theorem State.setTeam_bufs (s : State) (u : Nat) (t : Team) : (s.setTeam u t).bufs = s.bufs := rfl

@[simp] theorem State.setTeam_vclk (s : State) (u : Nat) (t : Team) : (s.setTeam u t).vclk = s.vclk := rfl

@[simp] theorem State.setTeam_pclk (s : State) (u : Nat) (t : Team) : (s.setTeam u t).pclk = s.pclk := rfl

@[simp] theorem State.setTeam_mem (s : State) (u : Nat) (t : Team) : (s.setTeam u t).mem = s.mem := rfl

@[simp] theorem State.setTeam_dram (s : State) (u : Nat) (t : Team) : (s.setTeam u t).dram = s.dram := rfl

@[simp] theorem State.setTeam_poison (s : State) (u : Nat) (t : Team) : (s.setTeam u t).poison = s.poison := rfl

@[simp] theorem State.setTeam_dmaOut (s : State) (u : Nat) (t : Team) : (s.setTeam u t).dmaOut = s.dmaOut := rfl

@[simp] theorem State.setTeam_egress (s : State) (u : Nat) (t : Team) : (s.setTeam u t).egress = s.egress := rfl

@[simp] theorem State.setTeam_inbox (s : State) (u : Nat) (t : Team) : (s.setTeam u t).inbox = s.inbox := rfl

@[simp] theorem State.setTeam_farCounts (s : State) (u : Nat) (t : Team) : (s.setTeam u t).farCounts = s.farCounts := rfl

@[simp] theorem State.setTeam_moved (s : State) (u : Nat) (t : Team) : (s.setTeam u t).moved = s.moved := rfl

@[simp] theorem State.setTeam_reply (s : State) (u : Nat) (t : Team) : (s.setTeam u t).reply = s.reply := rfl

@[simp] theorem State.setTeam_corrected (s : State) (u : Nat) (t : Team) : (s.setTeam u t).corrected = s.corrected := rfl

@[simp] theorem State.setTeam_elsewhere (s : State) (u : Nat) (t : Team) : (s.setTeam u t).elsewhere = s.elsewhere := rfl

@[simp] theorem State.setTeam_badFrames (s : State) (u : Nat) (t : Team) : (s.setTeam u t).badFrames = s.badFrames := rfl

@[simp] theorem State.setTeam_cxlLost (s : State) (u : Nat) (t : Team) : (s.setTeam u t).cxlLost = s.cxlLost := rfl

@[simp] theorem State.setTeam_resvDone (s : State) (u : Nat) (t : Team) : (s.setTeam u t).resvDone = s.resvDone := rfl

@[simp] theorem State.setTeam_resvAsk (s : State) (u : Nat) (t : Team) : (s.setTeam u t).resvAsk = s.resvAsk := rfl

@[simp] theorem State.setTeam_resvWant (s : State) (u : Nat) (t : Team) : (s.setTeam u t).resvWant = s.resvWant := rfl

/-! ### Changing a team (`State.modTeam`) -/

@[simp] theorem State.modTeam_sched (s : State) (u : Nat) (f : Team → Team) : (s.modTeam u f).sched = s.sched := by unfold State.modTeam; split <;> rfl

@[simp] theorem State.modTeam_tick (s : State) (u : Nat) (f : Team → Team) : (s.modTeam u f).tick = s.tick := by unfold State.modTeam; split <;> rfl

@[simp] theorem State.modTeam_now (s : State) (u : Nat) (f : Team → Team) : (s.modTeam u f).now = s.now := by unfold State.modTeam; split <;> rfl

@[simp] theorem State.modTeam_seq (s : State) (u : Nat) (f : Team → Team) : (s.modTeam u f).seq = s.seq := by unfold State.modTeam; split <;> rfl

@[simp] theorem State.modTeam_nextId (s : State) (u : Nat) (f : Team → Team) : (s.modTeam u f).nextId = s.nextId := by unfold State.modTeam; split <;> rfl

@[simp] theorem State.modTeam_free (s : State) (u : Nat) (f : Team → Team) : (s.modTeam u f).free = s.free := by unfold State.modTeam; split <;> rfl

@[simp] theorem State.modTeam_cur (s : State) (u : Nat) (f : Team → Team) : (s.modTeam u f).cur = s.cur := by unfold State.modTeam; split <;> rfl

@[simp] theorem State.modTeam_arg (s : State) (u : Nat) (f : Team → Team) : (s.modTeam u f).arg = s.arg := by unfold State.modTeam; split <;> rfl

@[simp] theorem State.modTeam_stage (s : State) (u : Nat) (f : Team → Team) : (s.modTeam u f).stage = s.stage := by unfold State.modTeam; split <;> rfl

@[simp] theorem State.modTeam_nPart (s : State) (u : Nat) (f : Team → Team) : (s.modTeam u f).nPart = s.nPart := by unfold State.modTeam; split <;> rfl

@[simp] theorem State.modTeam_throt (s : State) (u : Nat) (f : Team → Team) : (s.modTeam u f).throt = s.throt := by unfold State.modTeam; split <;> rfl

@[simp] theorem State.modTeam_crem (s : State) (u : Nat) (f : Team → Team) : (s.modTeam u f).crem = s.crem := by unfold State.modTeam; split <;> rfl

@[simp] theorem State.modTeam_removed (s : State) (u : Nat) (f : Team → Team) : (s.modTeam u f).removed = s.removed := by unfold State.modTeam; split <;> rfl

@[simp] theorem State.modTeam_recorded (s : State) (u : Nat) (f : Team → Team) : (s.modTeam u f).recorded = s.recorded := by unfold State.modTeam; split <;> rfl

@[simp] theorem State.modTeam_fwver (s : State) (u : Nat) (f : Team → Team) : (s.modTeam u f).fwver = s.fwver := by unfold State.modTeam; split <;> rfl

@[simp] theorem State.modTeam_rollback (s : State) (u : Nat) (f : Team → Team) : (s.modTeam u f).rollback = s.rollback := by unfold State.modTeam; split <;> rfl

@[simp] theorem State.modTeam_staged (s : State) (u : Nat) (f : Team → Team) : (s.modTeam u f).staged = s.staged := by unfold State.modTeam; split <;> rfl

@[simp] theorem State.modTeam_boot (s : State) (u : Nat) (f : Team → Team) : (s.modTeam u f).boot = s.boot := by unfold State.modTeam; split <;> rfl

@[simp] theorem State.modTeam_power (s : State) (u : Nat) (f : Team → Team) : (s.modTeam u f).power = s.power := by unfold State.modTeam; split <;> rfl

@[simp] theorem State.modTeam_m0 (s : State) (u : Nat) (f : Team → Team) : (s.modTeam u f).m0 = s.m0 := by unfold State.modTeam; split <;> rfl

@[simp] theorem State.modTeam_m1 (s : State) (u : Nat) (f : Team → Team) : (s.modTeam u f).m1 = s.m1 := by unfold State.modTeam; split <;> rfl

@[simp] theorem State.modTeam_m2 (s : State) (u : Nat) (f : Team → Team) : (s.modTeam u f).m2 = s.m2 := by unfold State.modTeam; split <;> rfl

@[simp] theorem State.modTeam_remap (s : State) (u : Nat) (f : Team → Team) : (s.modTeam u f).remap = s.remap := by unfold State.modTeam; split <;> rfl

@[simp] theorem State.modTeam_unavail (s : State) (u : Nat) (f : Team → Team) : (s.modTeam u f).unavail = s.unavail := by unfold State.modTeam; split <;> rfl

@[simp] theorem State.modTeam_install (s : State) (u : Nat) (f : Team → Team) : (s.modTeam u f).install = s.install := by unfold State.modTeam; split <;> rfl

@[simp] theorem State.modTeam_portsDown (s : State) (u : Nat) (f : Team → Team) : (s.modTeam u f).portsDown = s.portsDown := by unfold State.modTeam; split <;> rfl

@[simp] theorem State.modTeam_devMb (s : State) (u : Nat) (f : Team → Team) : (s.modTeam u f).devMb = s.devMb := by unfold State.modTeam; split <;> rfl

@[simp] theorem State.modTeam_idleMb (s : State) (u : Nat) (f : Team → Team) : (s.modTeam u f).idleMb = s.idleMb := by unfold State.modTeam; split <;> rfl

@[simp] theorem State.modTeam_hostMem (s : State) (u : Nat) (f : Team → Team) : (s.modTeam u f).hostMem = s.hostMem := by unfold State.modTeam; split <;> rfl

@[simp] theorem State.modTeam_contexts (s : State) (u : Nat) (f : Team → Team) : (s.modTeam u f).contexts = s.contexts := by unfold State.modTeam; split <;> rfl

@[simp] theorem State.modTeam_columns (s : State) (u : Nat) (f : Team → Team) : (s.modTeam u f).columns = s.columns := by unfold State.modTeam; split <;> rfl

@[simp] theorem State.modTeam_wgs (s : State) (u : Nat) (f : Team → Team) : (s.modTeam u f).wgs = s.wgs := by unfold State.modTeam; split <;> rfl

@[simp] theorem State.modTeam_units (s : State) (u : Nat) (f : Team → Team) : (s.modTeam u f).units = s.units := by unfold State.modTeam; split <;> rfl

@[simp] theorem State.modTeam_intake (s : State) (u : Nat) (f : Team → Team) : (s.modTeam u f).intake = s.intake := by unfold State.modTeam; split <;> rfl

@[simp] theorem State.modTeam_ops (s : State) (u : Nat) (f : Team → Team) : (s.modTeam u f).ops = s.ops := by unfold State.modTeam; split <;> rfl

@[simp] theorem State.modTeam_bufs (s : State) (u : Nat) (f : Team → Team) : (s.modTeam u f).bufs = s.bufs := by unfold State.modTeam; split <;> rfl

@[simp] theorem State.modTeam_vclk (s : State) (u : Nat) (f : Team → Team) : (s.modTeam u f).vclk = s.vclk := by unfold State.modTeam; split <;> rfl

@[simp] theorem State.modTeam_pclk (s : State) (u : Nat) (f : Team → Team) : (s.modTeam u f).pclk = s.pclk := by unfold State.modTeam; split <;> rfl

@[simp] theorem State.modTeam_mem (s : State) (u : Nat) (f : Team → Team) : (s.modTeam u f).mem = s.mem := by unfold State.modTeam; split <;> rfl

@[simp] theorem State.modTeam_dram (s : State) (u : Nat) (f : Team → Team) : (s.modTeam u f).dram = s.dram := by unfold State.modTeam; split <;> rfl

@[simp] theorem State.modTeam_poison (s : State) (u : Nat) (f : Team → Team) : (s.modTeam u f).poison = s.poison := by unfold State.modTeam; split <;> rfl

@[simp] theorem State.modTeam_dmaOut (s : State) (u : Nat) (f : Team → Team) : (s.modTeam u f).dmaOut = s.dmaOut := by unfold State.modTeam; split <;> rfl

@[simp] theorem State.modTeam_egress (s : State) (u : Nat) (f : Team → Team) : (s.modTeam u f).egress = s.egress := by unfold State.modTeam; split <;> rfl

@[simp] theorem State.modTeam_inbox (s : State) (u : Nat) (f : Team → Team) : (s.modTeam u f).inbox = s.inbox := by unfold State.modTeam; split <;> rfl

@[simp] theorem State.modTeam_farCounts (s : State) (u : Nat) (f : Team → Team) : (s.modTeam u f).farCounts = s.farCounts := by unfold State.modTeam; split <;> rfl

@[simp] theorem State.modTeam_moved (s : State) (u : Nat) (f : Team → Team) : (s.modTeam u f).moved = s.moved := by unfold State.modTeam; split <;> rfl

@[simp] theorem State.modTeam_reply (s : State) (u : Nat) (f : Team → Team) : (s.modTeam u f).reply = s.reply := by unfold State.modTeam; split <;> rfl

@[simp] theorem State.modTeam_corrected (s : State) (u : Nat) (f : Team → Team) : (s.modTeam u f).corrected = s.corrected := by unfold State.modTeam; split <;> rfl

@[simp] theorem State.modTeam_elsewhere (s : State) (u : Nat) (f : Team → Team) : (s.modTeam u f).elsewhere = s.elsewhere := by unfold State.modTeam; split <;> rfl

@[simp] theorem State.modTeam_badFrames (s : State) (u : Nat) (f : Team → Team) : (s.modTeam u f).badFrames = s.badFrames := by unfold State.modTeam; split <;> rfl

@[simp] theorem State.modTeam_cxlLost (s : State) (u : Nat) (f : Team → Team) : (s.modTeam u f).cxlLost = s.cxlLost := by unfold State.modTeam; split <;> rfl

@[simp] theorem State.modTeam_resvDone (s : State) (u : Nat) (f : Team → Team) : (s.modTeam u f).resvDone = s.resvDone := by unfold State.modTeam; split <;> rfl

@[simp] theorem State.modTeam_resvAsk (s : State) (u : Nat) (f : Team → Team) : (s.modTeam u f).resvAsk = s.resvAsk := by unfold State.modTeam; split <;> rfl

@[simp] theorem State.modTeam_resvWant (s : State) (u : Nat) (f : Team → Team) : (s.modTeam u f).resvWant = s.resvWant := by unfold State.modTeam; split <;> rfl

/-! ### Changing a workgroup (`State.modWg`) -/

@[simp] theorem State.modWg_sched (s : State) (w : Nat) (f : Workgroup → Workgroup) : (s.modWg w f).sched = s.sched := by unfold State.modWg; split <;> rfl

@[simp] theorem State.modWg_tick (s : State) (w : Nat) (f : Workgroup → Workgroup) : (s.modWg w f).tick = s.tick := by unfold State.modWg; split <;> rfl

@[simp] theorem State.modWg_now (s : State) (w : Nat) (f : Workgroup → Workgroup) : (s.modWg w f).now = s.now := by unfold State.modWg; split <;> rfl

@[simp] theorem State.modWg_seq (s : State) (w : Nat) (f : Workgroup → Workgroup) : (s.modWg w f).seq = s.seq := by unfold State.modWg; split <;> rfl

@[simp] theorem State.modWg_nextId (s : State) (w : Nat) (f : Workgroup → Workgroup) : (s.modWg w f).nextId = s.nextId := by unfold State.modWg; split <;> rfl

@[simp] theorem State.modWg_free (s : State) (w : Nat) (f : Workgroup → Workgroup) : (s.modWg w f).free = s.free := by unfold State.modWg; split <;> rfl

@[simp] theorem State.modWg_cur (s : State) (w : Nat) (f : Workgroup → Workgroup) : (s.modWg w f).cur = s.cur := by unfold State.modWg; split <;> rfl

@[simp] theorem State.modWg_arg (s : State) (w : Nat) (f : Workgroup → Workgroup) : (s.modWg w f).arg = s.arg := by unfold State.modWg; split <;> rfl

@[simp] theorem State.modWg_stage (s : State) (w : Nat) (f : Workgroup → Workgroup) : (s.modWg w f).stage = s.stage := by unfold State.modWg; split <;> rfl

@[simp] theorem State.modWg_nPart (s : State) (w : Nat) (f : Workgroup → Workgroup) : (s.modWg w f).nPart = s.nPart := by unfold State.modWg; split <;> rfl

@[simp] theorem State.modWg_throt (s : State) (w : Nat) (f : Workgroup → Workgroup) : (s.modWg w f).throt = s.throt := by unfold State.modWg; split <;> rfl

@[simp] theorem State.modWg_crem (s : State) (w : Nat) (f : Workgroup → Workgroup) : (s.modWg w f).crem = s.crem := by unfold State.modWg; split <;> rfl

@[simp] theorem State.modWg_removed (s : State) (w : Nat) (f : Workgroup → Workgroup) : (s.modWg w f).removed = s.removed := by unfold State.modWg; split <;> rfl

@[simp] theorem State.modWg_recorded (s : State) (w : Nat) (f : Workgroup → Workgroup) : (s.modWg w f).recorded = s.recorded := by unfold State.modWg; split <;> rfl

@[simp] theorem State.modWg_fwver (s : State) (w : Nat) (f : Workgroup → Workgroup) : (s.modWg w f).fwver = s.fwver := by unfold State.modWg; split <;> rfl

@[simp] theorem State.modWg_rollback (s : State) (w : Nat) (f : Workgroup → Workgroup) : (s.modWg w f).rollback = s.rollback := by unfold State.modWg; split <;> rfl

@[simp] theorem State.modWg_staged (s : State) (w : Nat) (f : Workgroup → Workgroup) : (s.modWg w f).staged = s.staged := by unfold State.modWg; split <;> rfl

@[simp] theorem State.modWg_boot (s : State) (w : Nat) (f : Workgroup → Workgroup) : (s.modWg w f).boot = s.boot := by unfold State.modWg; split <;> rfl

@[simp] theorem State.modWg_power (s : State) (w : Nat) (f : Workgroup → Workgroup) : (s.modWg w f).power = s.power := by unfold State.modWg; split <;> rfl

@[simp] theorem State.modWg_m0 (s : State) (w : Nat) (f : Workgroup → Workgroup) : (s.modWg w f).m0 = s.m0 := by unfold State.modWg; split <;> rfl

@[simp] theorem State.modWg_m1 (s : State) (w : Nat) (f : Workgroup → Workgroup) : (s.modWg w f).m1 = s.m1 := by unfold State.modWg; split <;> rfl

@[simp] theorem State.modWg_m2 (s : State) (w : Nat) (f : Workgroup → Workgroup) : (s.modWg w f).m2 = s.m2 := by unfold State.modWg; split <;> rfl

@[simp] theorem State.modWg_remap (s : State) (w : Nat) (f : Workgroup → Workgroup) : (s.modWg w f).remap = s.remap := by unfold State.modWg; split <;> rfl

@[simp] theorem State.modWg_unavail (s : State) (w : Nat) (f : Workgroup → Workgroup) : (s.modWg w f).unavail = s.unavail := by unfold State.modWg; split <;> rfl

@[simp] theorem State.modWg_install (s : State) (w : Nat) (f : Workgroup → Workgroup) : (s.modWg w f).install = s.install := by unfold State.modWg; split <;> rfl

@[simp] theorem State.modWg_portsDown (s : State) (w : Nat) (f : Workgroup → Workgroup) : (s.modWg w f).portsDown = s.portsDown := by unfold State.modWg; split <;> rfl

@[simp] theorem State.modWg_devMb (s : State) (w : Nat) (f : Workgroup → Workgroup) : (s.modWg w f).devMb = s.devMb := by unfold State.modWg; split <;> rfl

@[simp] theorem State.modWg_idleMb (s : State) (w : Nat) (f : Workgroup → Workgroup) : (s.modWg w f).idleMb = s.idleMb := by unfold State.modWg; split <;> rfl

@[simp] theorem State.modWg_hostMem (s : State) (w : Nat) (f : Workgroup → Workgroup) : (s.modWg w f).hostMem = s.hostMem := by unfold State.modWg; split <;> rfl

@[simp] theorem State.modWg_contexts (s : State) (w : Nat) (f : Workgroup → Workgroup) : (s.modWg w f).contexts = s.contexts := by unfold State.modWg; split <;> rfl

@[simp] theorem State.modWg_columns (s : State) (w : Nat) (f : Workgroup → Workgroup) : (s.modWg w f).columns = s.columns := by unfold State.modWg; split <;> rfl

@[simp] theorem State.modWg_teams (s : State) (w : Nat) (f : Workgroup → Workgroup) : (s.modWg w f).teams = s.teams := by unfold State.modWg; split <;> rfl

@[simp] theorem State.modWg_units (s : State) (w : Nat) (f : Workgroup → Workgroup) : (s.modWg w f).units = s.units := by unfold State.modWg; split <;> rfl

@[simp] theorem State.modWg_intake (s : State) (w : Nat) (f : Workgroup → Workgroup) : (s.modWg w f).intake = s.intake := by unfold State.modWg; split <;> rfl

@[simp] theorem State.modWg_ops (s : State) (w : Nat) (f : Workgroup → Workgroup) : (s.modWg w f).ops = s.ops := by unfold State.modWg; split <;> rfl

@[simp] theorem State.modWg_bufs (s : State) (w : Nat) (f : Workgroup → Workgroup) : (s.modWg w f).bufs = s.bufs := by unfold State.modWg; split <;> rfl

@[simp] theorem State.modWg_vclk (s : State) (w : Nat) (f : Workgroup → Workgroup) : (s.modWg w f).vclk = s.vclk := by unfold State.modWg; split <;> rfl

@[simp] theorem State.modWg_pclk (s : State) (w : Nat) (f : Workgroup → Workgroup) : (s.modWg w f).pclk = s.pclk := by unfold State.modWg; split <;> rfl

@[simp] theorem State.modWg_mem (s : State) (w : Nat) (f : Workgroup → Workgroup) : (s.modWg w f).mem = s.mem := by unfold State.modWg; split <;> rfl

@[simp] theorem State.modWg_dram (s : State) (w : Nat) (f : Workgroup → Workgroup) : (s.modWg w f).dram = s.dram := by unfold State.modWg; split <;> rfl

@[simp] theorem State.modWg_poison (s : State) (w : Nat) (f : Workgroup → Workgroup) : (s.modWg w f).poison = s.poison := by unfold State.modWg; split <;> rfl

@[simp] theorem State.modWg_dmaOut (s : State) (w : Nat) (f : Workgroup → Workgroup) : (s.modWg w f).dmaOut = s.dmaOut := by unfold State.modWg; split <;> rfl

@[simp] theorem State.modWg_egress (s : State) (w : Nat) (f : Workgroup → Workgroup) : (s.modWg w f).egress = s.egress := by unfold State.modWg; split <;> rfl

@[simp] theorem State.modWg_inbox (s : State) (w : Nat) (f : Workgroup → Workgroup) : (s.modWg w f).inbox = s.inbox := by unfold State.modWg; split <;> rfl

@[simp] theorem State.modWg_farCounts (s : State) (w : Nat) (f : Workgroup → Workgroup) : (s.modWg w f).farCounts = s.farCounts := by unfold State.modWg; split <;> rfl

@[simp] theorem State.modWg_moved (s : State) (w : Nat) (f : Workgroup → Workgroup) : (s.modWg w f).moved = s.moved := by unfold State.modWg; split <;> rfl

@[simp] theorem State.modWg_reply (s : State) (w : Nat) (f : Workgroup → Workgroup) : (s.modWg w f).reply = s.reply := by unfold State.modWg; split <;> rfl

@[simp] theorem State.modWg_corrected (s : State) (w : Nat) (f : Workgroup → Workgroup) : (s.modWg w f).corrected = s.corrected := by unfold State.modWg; split <;> rfl

@[simp] theorem State.modWg_elsewhere (s : State) (w : Nat) (f : Workgroup → Workgroup) : (s.modWg w f).elsewhere = s.elsewhere := by unfold State.modWg; split <;> rfl

@[simp] theorem State.modWg_badFrames (s : State) (w : Nat) (f : Workgroup → Workgroup) : (s.modWg w f).badFrames = s.badFrames := by unfold State.modWg; split <;> rfl

@[simp] theorem State.modWg_cxlLost (s : State) (w : Nat) (f : Workgroup → Workgroup) : (s.modWg w f).cxlLost = s.cxlLost := by unfold State.modWg; split <;> rfl

@[simp] theorem State.modWg_resvDone (s : State) (w : Nat) (f : Workgroup → Workgroup) : (s.modWg w f).resvDone = s.resvDone := by unfold State.modWg; split <;> rfl

@[simp] theorem State.modWg_resvAsk (s : State) (w : Nat) (f : Workgroup → Workgroup) : (s.modWg w f).resvAsk = s.resvAsk := by unfold State.modWg; split <;> rfl

@[simp] theorem State.modWg_resvWant (s : State) (w : Nat) (f : Workgroup → Workgroup) : (s.modWg w f).resvWant = s.resvWant := by unfold State.modWg; split <;> rfl

/-! ### Changing a completion unit (`State.modUnit`) -/

@[simp] theorem State.modUnit_sched (s : State) (n : Nat) (f : Completion → Completion) : (s.modUnit n f).sched = s.sched := by unfold State.modUnit; split <;> rfl

@[simp] theorem State.modUnit_tick (s : State) (n : Nat) (f : Completion → Completion) : (s.modUnit n f).tick = s.tick := by unfold State.modUnit; split <;> rfl

@[simp] theorem State.modUnit_now (s : State) (n : Nat) (f : Completion → Completion) : (s.modUnit n f).now = s.now := by unfold State.modUnit; split <;> rfl

@[simp] theorem State.modUnit_seq (s : State) (n : Nat) (f : Completion → Completion) : (s.modUnit n f).seq = s.seq := by unfold State.modUnit; split <;> rfl

@[simp] theorem State.modUnit_nextId (s : State) (n : Nat) (f : Completion → Completion) : (s.modUnit n f).nextId = s.nextId := by unfold State.modUnit; split <;> rfl

@[simp] theorem State.modUnit_free (s : State) (n : Nat) (f : Completion → Completion) : (s.modUnit n f).free = s.free := by unfold State.modUnit; split <;> rfl

@[simp] theorem State.modUnit_cur (s : State) (n : Nat) (f : Completion → Completion) : (s.modUnit n f).cur = s.cur := by unfold State.modUnit; split <;> rfl

@[simp] theorem State.modUnit_arg (s : State) (n : Nat) (f : Completion → Completion) : (s.modUnit n f).arg = s.arg := by unfold State.modUnit; split <;> rfl

@[simp] theorem State.modUnit_stage (s : State) (n : Nat) (f : Completion → Completion) : (s.modUnit n f).stage = s.stage := by unfold State.modUnit; split <;> rfl

@[simp] theorem State.modUnit_nPart (s : State) (n : Nat) (f : Completion → Completion) : (s.modUnit n f).nPart = s.nPart := by unfold State.modUnit; split <;> rfl

@[simp] theorem State.modUnit_throt (s : State) (n : Nat) (f : Completion → Completion) : (s.modUnit n f).throt = s.throt := by unfold State.modUnit; split <;> rfl

@[simp] theorem State.modUnit_crem (s : State) (n : Nat) (f : Completion → Completion) : (s.modUnit n f).crem = s.crem := by unfold State.modUnit; split <;> rfl

@[simp] theorem State.modUnit_removed (s : State) (n : Nat) (f : Completion → Completion) : (s.modUnit n f).removed = s.removed := by unfold State.modUnit; split <;> rfl

@[simp] theorem State.modUnit_recorded (s : State) (n : Nat) (f : Completion → Completion) : (s.modUnit n f).recorded = s.recorded := by unfold State.modUnit; split <;> rfl

@[simp] theorem State.modUnit_fwver (s : State) (n : Nat) (f : Completion → Completion) : (s.modUnit n f).fwver = s.fwver := by unfold State.modUnit; split <;> rfl

@[simp] theorem State.modUnit_rollback (s : State) (n : Nat) (f : Completion → Completion) : (s.modUnit n f).rollback = s.rollback := by unfold State.modUnit; split <;> rfl

@[simp] theorem State.modUnit_staged (s : State) (n : Nat) (f : Completion → Completion) : (s.modUnit n f).staged = s.staged := by unfold State.modUnit; split <;> rfl

@[simp] theorem State.modUnit_boot (s : State) (n : Nat) (f : Completion → Completion) : (s.modUnit n f).boot = s.boot := by unfold State.modUnit; split <;> rfl

@[simp] theorem State.modUnit_power (s : State) (n : Nat) (f : Completion → Completion) : (s.modUnit n f).power = s.power := by unfold State.modUnit; split <;> rfl

@[simp] theorem State.modUnit_m0 (s : State) (n : Nat) (f : Completion → Completion) : (s.modUnit n f).m0 = s.m0 := by unfold State.modUnit; split <;> rfl

@[simp] theorem State.modUnit_m1 (s : State) (n : Nat) (f : Completion → Completion) : (s.modUnit n f).m1 = s.m1 := by unfold State.modUnit; split <;> rfl

@[simp] theorem State.modUnit_m2 (s : State) (n : Nat) (f : Completion → Completion) : (s.modUnit n f).m2 = s.m2 := by unfold State.modUnit; split <;> rfl

@[simp] theorem State.modUnit_remap (s : State) (n : Nat) (f : Completion → Completion) : (s.modUnit n f).remap = s.remap := by unfold State.modUnit; split <;> rfl

@[simp] theorem State.modUnit_unavail (s : State) (n : Nat) (f : Completion → Completion) : (s.modUnit n f).unavail = s.unavail := by unfold State.modUnit; split <;> rfl

@[simp] theorem State.modUnit_install (s : State) (n : Nat) (f : Completion → Completion) : (s.modUnit n f).install = s.install := by unfold State.modUnit; split <;> rfl

@[simp] theorem State.modUnit_portsDown (s : State) (n : Nat) (f : Completion → Completion) : (s.modUnit n f).portsDown = s.portsDown := by unfold State.modUnit; split <;> rfl

@[simp] theorem State.modUnit_devMb (s : State) (n : Nat) (f : Completion → Completion) : (s.modUnit n f).devMb = s.devMb := by unfold State.modUnit; split <;> rfl

@[simp] theorem State.modUnit_idleMb (s : State) (n : Nat) (f : Completion → Completion) : (s.modUnit n f).idleMb = s.idleMb := by unfold State.modUnit; split <;> rfl

@[simp] theorem State.modUnit_hostMem (s : State) (n : Nat) (f : Completion → Completion) : (s.modUnit n f).hostMem = s.hostMem := by unfold State.modUnit; split <;> rfl

@[simp] theorem State.modUnit_contexts (s : State) (n : Nat) (f : Completion → Completion) : (s.modUnit n f).contexts = s.contexts := by unfold State.modUnit; split <;> rfl

@[simp] theorem State.modUnit_columns (s : State) (n : Nat) (f : Completion → Completion) : (s.modUnit n f).columns = s.columns := by unfold State.modUnit; split <;> rfl

@[simp] theorem State.modUnit_teams (s : State) (n : Nat) (f : Completion → Completion) : (s.modUnit n f).teams = s.teams := by unfold State.modUnit; split <;> rfl

@[simp] theorem State.modUnit_wgs (s : State) (n : Nat) (f : Completion → Completion) : (s.modUnit n f).wgs = s.wgs := by unfold State.modUnit; split <;> rfl

@[simp] theorem State.modUnit_intake (s : State) (n : Nat) (f : Completion → Completion) : (s.modUnit n f).intake = s.intake := by unfold State.modUnit; split <;> rfl

@[simp] theorem State.modUnit_ops (s : State) (n : Nat) (f : Completion → Completion) : (s.modUnit n f).ops = s.ops := by unfold State.modUnit; split <;> rfl

@[simp] theorem State.modUnit_bufs (s : State) (n : Nat) (f : Completion → Completion) : (s.modUnit n f).bufs = s.bufs := by unfold State.modUnit; split <;> rfl

@[simp] theorem State.modUnit_vclk (s : State) (n : Nat) (f : Completion → Completion) : (s.modUnit n f).vclk = s.vclk := by unfold State.modUnit; split <;> rfl

@[simp] theorem State.modUnit_pclk (s : State) (n : Nat) (f : Completion → Completion) : (s.modUnit n f).pclk = s.pclk := by unfold State.modUnit; split <;> rfl

@[simp] theorem State.modUnit_mem (s : State) (n : Nat) (f : Completion → Completion) : (s.modUnit n f).mem = s.mem := by unfold State.modUnit; split <;> rfl

@[simp] theorem State.modUnit_dram (s : State) (n : Nat) (f : Completion → Completion) : (s.modUnit n f).dram = s.dram := by unfold State.modUnit; split <;> rfl

@[simp] theorem State.modUnit_poison (s : State) (n : Nat) (f : Completion → Completion) : (s.modUnit n f).poison = s.poison := by unfold State.modUnit; split <;> rfl

@[simp] theorem State.modUnit_dmaOut (s : State) (n : Nat) (f : Completion → Completion) : (s.modUnit n f).dmaOut = s.dmaOut := by unfold State.modUnit; split <;> rfl

@[simp] theorem State.modUnit_egress (s : State) (n : Nat) (f : Completion → Completion) : (s.modUnit n f).egress = s.egress := by unfold State.modUnit; split <;> rfl

@[simp] theorem State.modUnit_inbox (s : State) (n : Nat) (f : Completion → Completion) : (s.modUnit n f).inbox = s.inbox := by unfold State.modUnit; split <;> rfl

@[simp] theorem State.modUnit_farCounts (s : State) (n : Nat) (f : Completion → Completion) : (s.modUnit n f).farCounts = s.farCounts := by unfold State.modUnit; split <;> rfl

@[simp] theorem State.modUnit_moved (s : State) (n : Nat) (f : Completion → Completion) : (s.modUnit n f).moved = s.moved := by unfold State.modUnit; split <;> rfl

@[simp] theorem State.modUnit_reply (s : State) (n : Nat) (f : Completion → Completion) : (s.modUnit n f).reply = s.reply := by unfold State.modUnit; split <;> rfl

@[simp] theorem State.modUnit_corrected (s : State) (n : Nat) (f : Completion → Completion) : (s.modUnit n f).corrected = s.corrected := by unfold State.modUnit; split <;> rfl

@[simp] theorem State.modUnit_elsewhere (s : State) (n : Nat) (f : Completion → Completion) : (s.modUnit n f).elsewhere = s.elsewhere := by unfold State.modUnit; split <;> rfl

@[simp] theorem State.modUnit_badFrames (s : State) (n : Nat) (f : Completion → Completion) : (s.modUnit n f).badFrames = s.badFrames := by unfold State.modUnit; split <;> rfl

@[simp] theorem State.modUnit_cxlLost (s : State) (n : Nat) (f : Completion → Completion) : (s.modUnit n f).cxlLost = s.cxlLost := by unfold State.modUnit; split <;> rfl

@[simp] theorem State.modUnit_resvDone (s : State) (n : Nat) (f : Completion → Completion) : (s.modUnit n f).resvDone = s.resvDone := by unfold State.modUnit; split <;> rfl

@[simp] theorem State.modUnit_resvAsk (s : State) (n : Nat) (f : Completion → Completion) : (s.modUnit n f).resvAsk = s.resvAsk := by unfold State.modUnit; split <;> rfl

@[simp] theorem State.modUnit_resvWant (s : State) (n : Nat) (f : Completion → Completion) : (s.modUnit n f).resvWant = s.resvWant := by unfold State.modUnit; split <;> rfl

/-! ### Changing a column (`State.modCol`) -/

@[simp] theorem State.modCol_sched (s : State) (c : Nat) (f : Column → Column) : (s.modCol c f).sched = s.sched := rfl

@[simp] theorem State.modCol_tick (s : State) (c : Nat) (f : Column → Column) : (s.modCol c f).tick = s.tick := rfl

@[simp] theorem State.modCol_now (s : State) (c : Nat) (f : Column → Column) : (s.modCol c f).now = s.now := rfl

@[simp] theorem State.modCol_seq (s : State) (c : Nat) (f : Column → Column) : (s.modCol c f).seq = s.seq := rfl

@[simp] theorem State.modCol_nextId (s : State) (c : Nat) (f : Column → Column) : (s.modCol c f).nextId = s.nextId := rfl

@[simp] theorem State.modCol_free (s : State) (c : Nat) (f : Column → Column) : (s.modCol c f).free = s.free := rfl

@[simp] theorem State.modCol_cur (s : State) (c : Nat) (f : Column → Column) : (s.modCol c f).cur = s.cur := rfl

@[simp] theorem State.modCol_arg (s : State) (c : Nat) (f : Column → Column) : (s.modCol c f).arg = s.arg := rfl

@[simp] theorem State.modCol_stage (s : State) (c : Nat) (f : Column → Column) : (s.modCol c f).stage = s.stage := rfl

@[simp] theorem State.modCol_nPart (s : State) (c : Nat) (f : Column → Column) : (s.modCol c f).nPart = s.nPart := rfl

@[simp] theorem State.modCol_throt (s : State) (c : Nat) (f : Column → Column) : (s.modCol c f).throt = s.throt := rfl

@[simp] theorem State.modCol_crem (s : State) (c : Nat) (f : Column → Column) : (s.modCol c f).crem = s.crem := rfl

@[simp] theorem State.modCol_removed (s : State) (c : Nat) (f : Column → Column) : (s.modCol c f).removed = s.removed := rfl

@[simp] theorem State.modCol_recorded (s : State) (c : Nat) (f : Column → Column) : (s.modCol c f).recorded = s.recorded := rfl

@[simp] theorem State.modCol_fwver (s : State) (c : Nat) (f : Column → Column) : (s.modCol c f).fwver = s.fwver := rfl

@[simp] theorem State.modCol_rollback (s : State) (c : Nat) (f : Column → Column) : (s.modCol c f).rollback = s.rollback := rfl

@[simp] theorem State.modCol_staged (s : State) (c : Nat) (f : Column → Column) : (s.modCol c f).staged = s.staged := rfl

@[simp] theorem State.modCol_boot (s : State) (c : Nat) (f : Column → Column) : (s.modCol c f).boot = s.boot := rfl

@[simp] theorem State.modCol_power (s : State) (c : Nat) (f : Column → Column) : (s.modCol c f).power = s.power := rfl

@[simp] theorem State.modCol_m0 (s : State) (c : Nat) (f : Column → Column) : (s.modCol c f).m0 = s.m0 := rfl

@[simp] theorem State.modCol_m1 (s : State) (c : Nat) (f : Column → Column) : (s.modCol c f).m1 = s.m1 := rfl

@[simp] theorem State.modCol_m2 (s : State) (c : Nat) (f : Column → Column) : (s.modCol c f).m2 = s.m2 := rfl

@[simp] theorem State.modCol_remap (s : State) (c : Nat) (f : Column → Column) : (s.modCol c f).remap = s.remap := rfl

@[simp] theorem State.modCol_unavail (s : State) (c : Nat) (f : Column → Column) : (s.modCol c f).unavail = s.unavail := rfl

@[simp] theorem State.modCol_install (s : State) (c : Nat) (f : Column → Column) : (s.modCol c f).install = s.install := rfl

@[simp] theorem State.modCol_portsDown (s : State) (c : Nat) (f : Column → Column) : (s.modCol c f).portsDown = s.portsDown := rfl

@[simp] theorem State.modCol_devMb (s : State) (c : Nat) (f : Column → Column) : (s.modCol c f).devMb = s.devMb := rfl

@[simp] theorem State.modCol_idleMb (s : State) (c : Nat) (f : Column → Column) : (s.modCol c f).idleMb = s.idleMb := rfl

@[simp] theorem State.modCol_hostMem (s : State) (c : Nat) (f : Column → Column) : (s.modCol c f).hostMem = s.hostMem := rfl

@[simp] theorem State.modCol_contexts (s : State) (c : Nat) (f : Column → Column) : (s.modCol c f).contexts = s.contexts := rfl

@[simp] theorem State.modCol_teams (s : State) (c : Nat) (f : Column → Column) : (s.modCol c f).teams = s.teams := rfl

@[simp] theorem State.modCol_wgs (s : State) (c : Nat) (f : Column → Column) : (s.modCol c f).wgs = s.wgs := rfl

@[simp] theorem State.modCol_units (s : State) (c : Nat) (f : Column → Column) : (s.modCol c f).units = s.units := rfl

@[simp] theorem State.modCol_intake (s : State) (c : Nat) (f : Column → Column) : (s.modCol c f).intake = s.intake := rfl

@[simp] theorem State.modCol_ops (s : State) (c : Nat) (f : Column → Column) : (s.modCol c f).ops = s.ops := rfl

@[simp] theorem State.modCol_bufs (s : State) (c : Nat) (f : Column → Column) : (s.modCol c f).bufs = s.bufs := rfl

@[simp] theorem State.modCol_vclk (s : State) (c : Nat) (f : Column → Column) : (s.modCol c f).vclk = s.vclk := rfl

@[simp] theorem State.modCol_pclk (s : State) (c : Nat) (f : Column → Column) : (s.modCol c f).pclk = s.pclk := rfl

@[simp] theorem State.modCol_mem (s : State) (c : Nat) (f : Column → Column) : (s.modCol c f).mem = s.mem := rfl

@[simp] theorem State.modCol_dram (s : State) (c : Nat) (f : Column → Column) : (s.modCol c f).dram = s.dram := rfl

@[simp] theorem State.modCol_poison (s : State) (c : Nat) (f : Column → Column) : (s.modCol c f).poison = s.poison := rfl

@[simp] theorem State.modCol_dmaOut (s : State) (c : Nat) (f : Column → Column) : (s.modCol c f).dmaOut = s.dmaOut := rfl

@[simp] theorem State.modCol_egress (s : State) (c : Nat) (f : Column → Column) : (s.modCol c f).egress = s.egress := rfl

@[simp] theorem State.modCol_inbox (s : State) (c : Nat) (f : Column → Column) : (s.modCol c f).inbox = s.inbox := rfl

@[simp] theorem State.modCol_farCounts (s : State) (c : Nat) (f : Column → Column) : (s.modCol c f).farCounts = s.farCounts := rfl

@[simp] theorem State.modCol_moved (s : State) (c : Nat) (f : Column → Column) : (s.modCol c f).moved = s.moved := rfl

@[simp] theorem State.modCol_reply (s : State) (c : Nat) (f : Column → Column) : (s.modCol c f).reply = s.reply := rfl

@[simp] theorem State.modCol_corrected (s : State) (c : Nat) (f : Column → Column) : (s.modCol c f).corrected = s.corrected := rfl

@[simp] theorem State.modCol_elsewhere (s : State) (c : Nat) (f : Column → Column) : (s.modCol c f).elsewhere = s.elsewhere := rfl

@[simp] theorem State.modCol_badFrames (s : State) (c : Nat) (f : Column → Column) : (s.modCol c f).badFrames = s.badFrames := rfl

@[simp] theorem State.modCol_cxlLost (s : State) (c : Nat) (f : Column → Column) : (s.modCol c f).cxlLost = s.cxlLost := rfl

@[simp] theorem State.modCol_resvDone (s : State) (c : Nat) (f : Column → Column) : (s.modCol c f).resvDone = s.resvDone := rfl

@[simp] theorem State.modCol_resvAsk (s : State) (c : Nat) (f : Column → Column) : (s.modCol c f).resvAsk = s.resvAsk := rfl

@[simp] theorem State.modCol_resvWant (s : State) (c : Nat) (f : Column → Column) : (s.modCol c f).resvWant = s.resvWant := rfl

/-! ### Changing a context (`State.modCtx`) -/

@[simp] theorem State.modCtx_sched (s : State) (x : Nat) (f : Context → Context) : (s.modCtx x f).sched = s.sched := by unfold State.modCtx; split <;> rfl

@[simp] theorem State.modCtx_tick (s : State) (x : Nat) (f : Context → Context) : (s.modCtx x f).tick = s.tick := by unfold State.modCtx; split <;> rfl

@[simp] theorem State.modCtx_now (s : State) (x : Nat) (f : Context → Context) : (s.modCtx x f).now = s.now := by unfold State.modCtx; split <;> rfl

@[simp] theorem State.modCtx_seq (s : State) (x : Nat) (f : Context → Context) : (s.modCtx x f).seq = s.seq := by unfold State.modCtx; split <;> rfl

@[simp] theorem State.modCtx_nextId (s : State) (x : Nat) (f : Context → Context) : (s.modCtx x f).nextId = s.nextId := by unfold State.modCtx; split <;> rfl

@[simp] theorem State.modCtx_free (s : State) (x : Nat) (f : Context → Context) : (s.modCtx x f).free = s.free := by unfold State.modCtx; split <;> rfl

@[simp] theorem State.modCtx_cur (s : State) (x : Nat) (f : Context → Context) : (s.modCtx x f).cur = s.cur := by unfold State.modCtx; split <;> rfl

@[simp] theorem State.modCtx_arg (s : State) (x : Nat) (f : Context → Context) : (s.modCtx x f).arg = s.arg := by unfold State.modCtx; split <;> rfl

@[simp] theorem State.modCtx_stage (s : State) (x : Nat) (f : Context → Context) : (s.modCtx x f).stage = s.stage := by unfold State.modCtx; split <;> rfl

@[simp] theorem State.modCtx_nPart (s : State) (x : Nat) (f : Context → Context) : (s.modCtx x f).nPart = s.nPart := by unfold State.modCtx; split <;> rfl

@[simp] theorem State.modCtx_throt (s : State) (x : Nat) (f : Context → Context) : (s.modCtx x f).throt = s.throt := by unfold State.modCtx; split <;> rfl

@[simp] theorem State.modCtx_crem (s : State) (x : Nat) (f : Context → Context) : (s.modCtx x f).crem = s.crem := by unfold State.modCtx; split <;> rfl

@[simp] theorem State.modCtx_removed (s : State) (x : Nat) (f : Context → Context) : (s.modCtx x f).removed = s.removed := by unfold State.modCtx; split <;> rfl

@[simp] theorem State.modCtx_recorded (s : State) (x : Nat) (f : Context → Context) : (s.modCtx x f).recorded = s.recorded := by unfold State.modCtx; split <;> rfl

@[simp] theorem State.modCtx_fwver (s : State) (x : Nat) (f : Context → Context) : (s.modCtx x f).fwver = s.fwver := by unfold State.modCtx; split <;> rfl

@[simp] theorem State.modCtx_rollback (s : State) (x : Nat) (f : Context → Context) : (s.modCtx x f).rollback = s.rollback := by unfold State.modCtx; split <;> rfl

@[simp] theorem State.modCtx_staged (s : State) (x : Nat) (f : Context → Context) : (s.modCtx x f).staged = s.staged := by unfold State.modCtx; split <;> rfl

@[simp] theorem State.modCtx_boot (s : State) (x : Nat) (f : Context → Context) : (s.modCtx x f).boot = s.boot := by unfold State.modCtx; split <;> rfl

@[simp] theorem State.modCtx_power (s : State) (x : Nat) (f : Context → Context) : (s.modCtx x f).power = s.power := by unfold State.modCtx; split <;> rfl

@[simp] theorem State.modCtx_m0 (s : State) (x : Nat) (f : Context → Context) : (s.modCtx x f).m0 = s.m0 := by unfold State.modCtx; split <;> rfl

@[simp] theorem State.modCtx_m1 (s : State) (x : Nat) (f : Context → Context) : (s.modCtx x f).m1 = s.m1 := by unfold State.modCtx; split <;> rfl

@[simp] theorem State.modCtx_m2 (s : State) (x : Nat) (f : Context → Context) : (s.modCtx x f).m2 = s.m2 := by unfold State.modCtx; split <;> rfl

@[simp] theorem State.modCtx_remap (s : State) (x : Nat) (f : Context → Context) : (s.modCtx x f).remap = s.remap := by unfold State.modCtx; split <;> rfl

@[simp] theorem State.modCtx_unavail (s : State) (x : Nat) (f : Context → Context) : (s.modCtx x f).unavail = s.unavail := by unfold State.modCtx; split <;> rfl

@[simp] theorem State.modCtx_install (s : State) (x : Nat) (f : Context → Context) : (s.modCtx x f).install = s.install := by unfold State.modCtx; split <;> rfl

@[simp] theorem State.modCtx_portsDown (s : State) (x : Nat) (f : Context → Context) : (s.modCtx x f).portsDown = s.portsDown := by unfold State.modCtx; split <;> rfl

@[simp] theorem State.modCtx_devMb (s : State) (x : Nat) (f : Context → Context) : (s.modCtx x f).devMb = s.devMb := by unfold State.modCtx; split <;> rfl

@[simp] theorem State.modCtx_idleMb (s : State) (x : Nat) (f : Context → Context) : (s.modCtx x f).idleMb = s.idleMb := by unfold State.modCtx; split <;> rfl

@[simp] theorem State.modCtx_hostMem (s : State) (x : Nat) (f : Context → Context) : (s.modCtx x f).hostMem = s.hostMem := by unfold State.modCtx; split <;> rfl

@[simp] theorem State.modCtx_columns (s : State) (x : Nat) (f : Context → Context) : (s.modCtx x f).columns = s.columns := by unfold State.modCtx; split <;> rfl

@[simp] theorem State.modCtx_teams (s : State) (x : Nat) (f : Context → Context) : (s.modCtx x f).teams = s.teams := by unfold State.modCtx; split <;> rfl

@[simp] theorem State.modCtx_wgs (s : State) (x : Nat) (f : Context → Context) : (s.modCtx x f).wgs = s.wgs := by unfold State.modCtx; split <;> rfl

@[simp] theorem State.modCtx_units (s : State) (x : Nat) (f : Context → Context) : (s.modCtx x f).units = s.units := by unfold State.modCtx; split <;> rfl

@[simp] theorem State.modCtx_intake (s : State) (x : Nat) (f : Context → Context) : (s.modCtx x f).intake = s.intake := by unfold State.modCtx; split <;> rfl

@[simp] theorem State.modCtx_ops (s : State) (x : Nat) (f : Context → Context) : (s.modCtx x f).ops = s.ops := by unfold State.modCtx; split <;> rfl

@[simp] theorem State.modCtx_bufs (s : State) (x : Nat) (f : Context → Context) : (s.modCtx x f).bufs = s.bufs := by unfold State.modCtx; split <;> rfl

@[simp] theorem State.modCtx_vclk (s : State) (x : Nat) (f : Context → Context) : (s.modCtx x f).vclk = s.vclk := by unfold State.modCtx; split <;> rfl

@[simp] theorem State.modCtx_pclk (s : State) (x : Nat) (f : Context → Context) : (s.modCtx x f).pclk = s.pclk := by unfold State.modCtx; split <;> rfl

@[simp] theorem State.modCtx_mem (s : State) (x : Nat) (f : Context → Context) : (s.modCtx x f).mem = s.mem := by unfold State.modCtx; split <;> rfl

@[simp] theorem State.modCtx_dram (s : State) (x : Nat) (f : Context → Context) : (s.modCtx x f).dram = s.dram := by unfold State.modCtx; split <;> rfl

@[simp] theorem State.modCtx_poison (s : State) (x : Nat) (f : Context → Context) : (s.modCtx x f).poison = s.poison := by unfold State.modCtx; split <;> rfl

@[simp] theorem State.modCtx_dmaOut (s : State) (x : Nat) (f : Context → Context) : (s.modCtx x f).dmaOut = s.dmaOut := by unfold State.modCtx; split <;> rfl

@[simp] theorem State.modCtx_egress (s : State) (x : Nat) (f : Context → Context) : (s.modCtx x f).egress = s.egress := by unfold State.modCtx; split <;> rfl

@[simp] theorem State.modCtx_inbox (s : State) (x : Nat) (f : Context → Context) : (s.modCtx x f).inbox = s.inbox := by unfold State.modCtx; split <;> rfl

@[simp] theorem State.modCtx_farCounts (s : State) (x : Nat) (f : Context → Context) : (s.modCtx x f).farCounts = s.farCounts := by unfold State.modCtx; split <;> rfl

@[simp] theorem State.modCtx_moved (s : State) (x : Nat) (f : Context → Context) : (s.modCtx x f).moved = s.moved := by unfold State.modCtx; split <;> rfl

@[simp] theorem State.modCtx_reply (s : State) (x : Nat) (f : Context → Context) : (s.modCtx x f).reply = s.reply := by unfold State.modCtx; split <;> rfl

@[simp] theorem State.modCtx_corrected (s : State) (x : Nat) (f : Context → Context) : (s.modCtx x f).corrected = s.corrected := by unfold State.modCtx; split <;> rfl

@[simp] theorem State.modCtx_elsewhere (s : State) (x : Nat) (f : Context → Context) : (s.modCtx x f).elsewhere = s.elsewhere := by unfold State.modCtx; split <;> rfl

@[simp] theorem State.modCtx_badFrames (s : State) (x : Nat) (f : Context → Context) : (s.modCtx x f).badFrames = s.badFrames := by unfold State.modCtx; split <;> rfl

@[simp] theorem State.modCtx_cxlLost (s : State) (x : Nat) (f : Context → Context) : (s.modCtx x f).cxlLost = s.cxlLost := by unfold State.modCtx; split <;> rfl

@[simp] theorem State.modCtx_resvDone (s : State) (x : Nat) (f : Context → Context) : (s.modCtx x f).resvDone = s.resvDone := by unfold State.modCtx; split <;> rfl

@[simp] theorem State.modCtx_resvAsk (s : State) (x : Nat) (f : Context → Context) : (s.modCtx x f).resvAsk = s.resvAsk := by unfold State.modCtx; split <;> rfl

@[simp] theorem State.modCtx_resvWant (s : State) (x : Nat) (f : Context → Context) : (s.modCtx x f).resvWant = s.resvWant := by unfold State.modCtx; split <;> rfl

/-! ### Writing a page entry (`State.setPte`) -/

@[simp] theorem State.setPte_sched (s : State) (r : PageRef) (e : Pte) : (s.setPte r e).sched = s.sched := State.modCtx_sched s _ _

@[simp] theorem State.setPte_tick (s : State) (r : PageRef) (e : Pte) : (s.setPte r e).tick = s.tick := State.modCtx_tick s _ _

@[simp] theorem State.setPte_now (s : State) (r : PageRef) (e : Pte) : (s.setPte r e).now = s.now := State.modCtx_now s _ _

@[simp] theorem State.setPte_seq (s : State) (r : PageRef) (e : Pte) : (s.setPte r e).seq = s.seq := State.modCtx_seq s _ _

@[simp] theorem State.setPte_nextId (s : State) (r : PageRef) (e : Pte) : (s.setPte r e).nextId = s.nextId := State.modCtx_nextId s _ _

@[simp] theorem State.setPte_free (s : State) (r : PageRef) (e : Pte) : (s.setPte r e).free = s.free := State.modCtx_free s _ _

@[simp] theorem State.setPte_cur (s : State) (r : PageRef) (e : Pte) : (s.setPte r e).cur = s.cur := State.modCtx_cur s _ _

@[simp] theorem State.setPte_arg (s : State) (r : PageRef) (e : Pte) : (s.setPte r e).arg = s.arg := State.modCtx_arg s _ _

@[simp] theorem State.setPte_stage (s : State) (r : PageRef) (e : Pte) : (s.setPte r e).stage = s.stage := State.modCtx_stage s _ _

@[simp] theorem State.setPte_nPart (s : State) (r : PageRef) (e : Pte) : (s.setPte r e).nPart = s.nPart := State.modCtx_nPart s _ _

@[simp] theorem State.setPte_throt (s : State) (r : PageRef) (e : Pte) : (s.setPte r e).throt = s.throt := State.modCtx_throt s _ _

@[simp] theorem State.setPte_crem (s : State) (r : PageRef) (e : Pte) : (s.setPte r e).crem = s.crem := State.modCtx_crem s _ _

@[simp] theorem State.setPte_removed (s : State) (r : PageRef) (e : Pte) : (s.setPte r e).removed = s.removed := State.modCtx_removed s _ _

@[simp] theorem State.setPte_recorded (s : State) (r : PageRef) (e : Pte) : (s.setPte r e).recorded = s.recorded := State.modCtx_recorded s _ _

@[simp] theorem State.setPte_fwver (s : State) (r : PageRef) (e : Pte) : (s.setPte r e).fwver = s.fwver := State.modCtx_fwver s _ _

@[simp] theorem State.setPte_rollback (s : State) (r : PageRef) (e : Pte) : (s.setPte r e).rollback = s.rollback := State.modCtx_rollback s _ _

@[simp] theorem State.setPte_staged (s : State) (r : PageRef) (e : Pte) : (s.setPte r e).staged = s.staged := State.modCtx_staged s _ _

@[simp] theorem State.setPte_boot (s : State) (r : PageRef) (e : Pte) : (s.setPte r e).boot = s.boot := State.modCtx_boot s _ _

@[simp] theorem State.setPte_power (s : State) (r : PageRef) (e : Pte) : (s.setPte r e).power = s.power := State.modCtx_power s _ _

@[simp] theorem State.setPte_m0 (s : State) (r : PageRef) (e : Pte) : (s.setPte r e).m0 = s.m0 := State.modCtx_m0 s _ _

@[simp] theorem State.setPte_m1 (s : State) (r : PageRef) (e : Pte) : (s.setPte r e).m1 = s.m1 := State.modCtx_m1 s _ _

@[simp] theorem State.setPte_m2 (s : State) (r : PageRef) (e : Pte) : (s.setPte r e).m2 = s.m2 := State.modCtx_m2 s _ _

@[simp] theorem State.setPte_remap (s : State) (r : PageRef) (e : Pte) : (s.setPte r e).remap = s.remap := State.modCtx_remap s _ _

@[simp] theorem State.setPte_unavail (s : State) (r : PageRef) (e : Pte) : (s.setPte r e).unavail = s.unavail := State.modCtx_unavail s _ _

@[simp] theorem State.setPte_install (s : State) (r : PageRef) (e : Pte) : (s.setPte r e).install = s.install := State.modCtx_install s _ _

@[simp] theorem State.setPte_portsDown (s : State) (r : PageRef) (e : Pte) : (s.setPte r e).portsDown = s.portsDown := State.modCtx_portsDown s _ _

@[simp] theorem State.setPte_devMb (s : State) (r : PageRef) (e : Pte) : (s.setPte r e).devMb = s.devMb := State.modCtx_devMb s _ _

@[simp] theorem State.setPte_idleMb (s : State) (r : PageRef) (e : Pte) : (s.setPte r e).idleMb = s.idleMb := State.modCtx_idleMb s _ _

@[simp] theorem State.setPte_hostMem (s : State) (r : PageRef) (e : Pte) : (s.setPte r e).hostMem = s.hostMem := State.modCtx_hostMem s _ _

@[simp] theorem State.setPte_columns (s : State) (r : PageRef) (e : Pte) : (s.setPte r e).columns = s.columns := State.modCtx_columns s _ _

@[simp] theorem State.setPte_teams (s : State) (r : PageRef) (e : Pte) : (s.setPte r e).teams = s.teams := State.modCtx_teams s _ _

@[simp] theorem State.setPte_wgs (s : State) (r : PageRef) (e : Pte) : (s.setPte r e).wgs = s.wgs := State.modCtx_wgs s _ _

@[simp] theorem State.setPte_units (s : State) (r : PageRef) (e : Pte) : (s.setPte r e).units = s.units := State.modCtx_units s _ _

@[simp] theorem State.setPte_intake (s : State) (r : PageRef) (e : Pte) : (s.setPte r e).intake = s.intake := State.modCtx_intake s _ _

@[simp] theorem State.setPte_ops (s : State) (r : PageRef) (e : Pte) : (s.setPte r e).ops = s.ops := State.modCtx_ops s _ _

@[simp] theorem State.setPte_bufs (s : State) (r : PageRef) (e : Pte) : (s.setPte r e).bufs = s.bufs := State.modCtx_bufs s _ _

@[simp] theorem State.setPte_vclk (s : State) (r : PageRef) (e : Pte) : (s.setPte r e).vclk = s.vclk := State.modCtx_vclk s _ _

@[simp] theorem State.setPte_pclk (s : State) (r : PageRef) (e : Pte) : (s.setPte r e).pclk = s.pclk := State.modCtx_pclk s _ _

@[simp] theorem State.setPte_mem (s : State) (r : PageRef) (e : Pte) : (s.setPte r e).mem = s.mem := State.modCtx_mem s _ _

@[simp] theorem State.setPte_dram (s : State) (r : PageRef) (e : Pte) : (s.setPte r e).dram = s.dram := State.modCtx_dram s _ _

@[simp] theorem State.setPte_poison (s : State) (r : PageRef) (e : Pte) : (s.setPte r e).poison = s.poison := State.modCtx_poison s _ _

@[simp] theorem State.setPte_dmaOut (s : State) (r : PageRef) (e : Pte) : (s.setPte r e).dmaOut = s.dmaOut := State.modCtx_dmaOut s _ _

@[simp] theorem State.setPte_egress (s : State) (r : PageRef) (e : Pte) : (s.setPte r e).egress = s.egress := State.modCtx_egress s _ _

@[simp] theorem State.setPte_inbox (s : State) (r : PageRef) (e : Pte) : (s.setPte r e).inbox = s.inbox := State.modCtx_inbox s _ _

@[simp] theorem State.setPte_farCounts (s : State) (r : PageRef) (e : Pte) : (s.setPte r e).farCounts = s.farCounts := State.modCtx_farCounts s _ _

@[simp] theorem State.setPte_moved (s : State) (r : PageRef) (e : Pte) : (s.setPte r e).moved = s.moved := State.modCtx_moved s _ _

@[simp] theorem State.setPte_reply (s : State) (r : PageRef) (e : Pte) : (s.setPte r e).reply = s.reply := State.modCtx_reply s _ _

@[simp] theorem State.setPte_corrected (s : State) (r : PageRef) (e : Pte) : (s.setPte r e).corrected = s.corrected := State.modCtx_corrected s _ _

@[simp] theorem State.setPte_elsewhere (s : State) (r : PageRef) (e : Pte) : (s.setPte r e).elsewhere = s.elsewhere := State.modCtx_elsewhere s _ _

@[simp] theorem State.setPte_badFrames (s : State) (r : PageRef) (e : Pte) : (s.setPte r e).badFrames = s.badFrames := State.modCtx_badFrames s _ _

@[simp] theorem State.setPte_cxlLost (s : State) (r : PageRef) (e : Pte) : (s.setPte r e).cxlLost = s.cxlLost := State.modCtx_cxlLost s _ _

@[simp] theorem State.setPte_resvDone (s : State) (r : PageRef) (e : Pte) : (s.setPte r e).resvDone = s.resvDone := State.modCtx_resvDone s _ _

@[simp] theorem State.setPte_resvAsk (s : State) (r : PageRef) (e : Pte) : (s.setPte r e).resvAsk = s.resvAsk := State.modCtx_resvAsk s _ _

@[simp] theorem State.setPte_resvWant (s : State) (r : PageRef) (e : Pte) : (s.setPte r e).resvWant = s.resvWant := State.modCtx_resvWant s _ _

/-! ### Replacing an operation (`State.setOp`) -/

@[simp] theorem State.setOp_sched (s : State) (o : Op) : (s.setOp o).sched = s.sched := rfl

@[simp] theorem State.setOp_tick (s : State) (o : Op) : (s.setOp o).tick = s.tick := rfl

@[simp] theorem State.setOp_now (s : State) (o : Op) : (s.setOp o).now = s.now := rfl

@[simp] theorem State.setOp_seq (s : State) (o : Op) : (s.setOp o).seq = s.seq := rfl

@[simp] theorem State.setOp_nextId (s : State) (o : Op) : (s.setOp o).nextId = s.nextId := rfl

@[simp] theorem State.setOp_free (s : State) (o : Op) : (s.setOp o).free = s.free := rfl

@[simp] theorem State.setOp_cur (s : State) (o : Op) : (s.setOp o).cur = s.cur := rfl

@[simp] theorem State.setOp_arg (s : State) (o : Op) : (s.setOp o).arg = s.arg := rfl

@[simp] theorem State.setOp_stage (s : State) (o : Op) : (s.setOp o).stage = s.stage := rfl

@[simp] theorem State.setOp_nPart (s : State) (o : Op) : (s.setOp o).nPart = s.nPart := rfl

@[simp] theorem State.setOp_throt (s : State) (o : Op) : (s.setOp o).throt = s.throt := rfl

@[simp] theorem State.setOp_crem (s : State) (o : Op) : (s.setOp o).crem = s.crem := rfl

@[simp] theorem State.setOp_removed (s : State) (o : Op) : (s.setOp o).removed = s.removed := rfl

@[simp] theorem State.setOp_recorded (s : State) (o : Op) : (s.setOp o).recorded = s.recorded := rfl

@[simp] theorem State.setOp_fwver (s : State) (o : Op) : (s.setOp o).fwver = s.fwver := rfl

@[simp] theorem State.setOp_rollback (s : State) (o : Op) : (s.setOp o).rollback = s.rollback := rfl

@[simp] theorem State.setOp_staged (s : State) (o : Op) : (s.setOp o).staged = s.staged := rfl

@[simp] theorem State.setOp_boot (s : State) (o : Op) : (s.setOp o).boot = s.boot := rfl

@[simp] theorem State.setOp_power (s : State) (o : Op) : (s.setOp o).power = s.power := rfl

@[simp] theorem State.setOp_m0 (s : State) (o : Op) : (s.setOp o).m0 = s.m0 := rfl

@[simp] theorem State.setOp_m1 (s : State) (o : Op) : (s.setOp o).m1 = s.m1 := rfl

@[simp] theorem State.setOp_m2 (s : State) (o : Op) : (s.setOp o).m2 = s.m2 := rfl

@[simp] theorem State.setOp_remap (s : State) (o : Op) : (s.setOp o).remap = s.remap := rfl

@[simp] theorem State.setOp_unavail (s : State) (o : Op) : (s.setOp o).unavail = s.unavail := rfl

@[simp] theorem State.setOp_install (s : State) (o : Op) : (s.setOp o).install = s.install := rfl

@[simp] theorem State.setOp_portsDown (s : State) (o : Op) : (s.setOp o).portsDown = s.portsDown := rfl

@[simp] theorem State.setOp_devMb (s : State) (o : Op) : (s.setOp o).devMb = s.devMb := rfl

@[simp] theorem State.setOp_idleMb (s : State) (o : Op) : (s.setOp o).idleMb = s.idleMb := rfl

@[simp] theorem State.setOp_hostMem (s : State) (o : Op) : (s.setOp o).hostMem = s.hostMem := rfl

@[simp] theorem State.setOp_contexts (s : State) (o : Op) : (s.setOp o).contexts = s.contexts := rfl

@[simp] theorem State.setOp_columns (s : State) (o : Op) : (s.setOp o).columns = s.columns := rfl

@[simp] theorem State.setOp_teams (s : State) (o : Op) : (s.setOp o).teams = s.teams := rfl

@[simp] theorem State.setOp_wgs (s : State) (o : Op) : (s.setOp o).wgs = s.wgs := rfl

@[simp] theorem State.setOp_units (s : State) (o : Op) : (s.setOp o).units = s.units := rfl

@[simp] theorem State.setOp_intake (s : State) (o : Op) : (s.setOp o).intake = s.intake := rfl

@[simp] theorem State.setOp_bufs (s : State) (o : Op) : (s.setOp o).bufs = s.bufs := rfl

@[simp] theorem State.setOp_vclk (s : State) (o : Op) : (s.setOp o).vclk = s.vclk := rfl

@[simp] theorem State.setOp_pclk (s : State) (o : Op) : (s.setOp o).pclk = s.pclk := rfl

@[simp] theorem State.setOp_mem (s : State) (o : Op) : (s.setOp o).mem = s.mem := rfl

@[simp] theorem State.setOp_dram (s : State) (o : Op) : (s.setOp o).dram = s.dram := rfl

@[simp] theorem State.setOp_poison (s : State) (o : Op) : (s.setOp o).poison = s.poison := rfl

@[simp] theorem State.setOp_dmaOut (s : State) (o : Op) : (s.setOp o).dmaOut = s.dmaOut := rfl

@[simp] theorem State.setOp_egress (s : State) (o : Op) : (s.setOp o).egress = s.egress := rfl

@[simp] theorem State.setOp_inbox (s : State) (o : Op) : (s.setOp o).inbox = s.inbox := rfl

@[simp] theorem State.setOp_farCounts (s : State) (o : Op) : (s.setOp o).farCounts = s.farCounts := rfl

@[simp] theorem State.setOp_moved (s : State) (o : Op) : (s.setOp o).moved = s.moved := rfl

@[simp] theorem State.setOp_reply (s : State) (o : Op) : (s.setOp o).reply = s.reply := rfl

@[simp] theorem State.setOp_corrected (s : State) (o : Op) : (s.setOp o).corrected = s.corrected := rfl

@[simp] theorem State.setOp_elsewhere (s : State) (o : Op) : (s.setOp o).elsewhere = s.elsewhere := rfl

@[simp] theorem State.setOp_badFrames (s : State) (o : Op) : (s.setOp o).badFrames = s.badFrames := rfl

@[simp] theorem State.setOp_cxlLost (s : State) (o : Op) : (s.setOp o).cxlLost = s.cxlLost := rfl

@[simp] theorem State.setOp_resvDone (s : State) (o : Op) : (s.setOp o).resvDone = s.resvDone := rfl

@[simp] theorem State.setOp_resvAsk (s : State) (o : Op) : (s.setOp o).resvAsk = s.resvAsk := rfl

@[simp] theorem State.setOp_resvWant (s : State) (o : Op) : (s.setOp o).resvWant = s.resvWant := rfl

/-! ### Removing an operation (`State.delOp`) -/

@[simp] theorem State.delOp_sched (s : State) (n : Nat) : (s.delOp n).sched = s.sched := rfl

@[simp] theorem State.delOp_tick (s : State) (n : Nat) : (s.delOp n).tick = s.tick := rfl

@[simp] theorem State.delOp_now (s : State) (n : Nat) : (s.delOp n).now = s.now := rfl

@[simp] theorem State.delOp_seq (s : State) (n : Nat) : (s.delOp n).seq = s.seq := rfl

@[simp] theorem State.delOp_nextId (s : State) (n : Nat) : (s.delOp n).nextId = s.nextId := rfl

@[simp] theorem State.delOp_free (s : State) (n : Nat) : (s.delOp n).free = s.free := rfl

@[simp] theorem State.delOp_cur (s : State) (n : Nat) : (s.delOp n).cur = s.cur := rfl

@[simp] theorem State.delOp_arg (s : State) (n : Nat) : (s.delOp n).arg = s.arg := rfl

@[simp] theorem State.delOp_stage (s : State) (n : Nat) : (s.delOp n).stage = s.stage := rfl

@[simp] theorem State.delOp_nPart (s : State) (n : Nat) : (s.delOp n).nPart = s.nPart := rfl

@[simp] theorem State.delOp_throt (s : State) (n : Nat) : (s.delOp n).throt = s.throt := rfl

@[simp] theorem State.delOp_crem (s : State) (n : Nat) : (s.delOp n).crem = s.crem := rfl

@[simp] theorem State.delOp_removed (s : State) (n : Nat) : (s.delOp n).removed = s.removed := rfl

@[simp] theorem State.delOp_recorded (s : State) (n : Nat) : (s.delOp n).recorded = s.recorded := rfl

@[simp] theorem State.delOp_fwver (s : State) (n : Nat) : (s.delOp n).fwver = s.fwver := rfl

@[simp] theorem State.delOp_rollback (s : State) (n : Nat) : (s.delOp n).rollback = s.rollback := rfl

@[simp] theorem State.delOp_staged (s : State) (n : Nat) : (s.delOp n).staged = s.staged := rfl

@[simp] theorem State.delOp_boot (s : State) (n : Nat) : (s.delOp n).boot = s.boot := rfl

@[simp] theorem State.delOp_power (s : State) (n : Nat) : (s.delOp n).power = s.power := rfl

@[simp] theorem State.delOp_m0 (s : State) (n : Nat) : (s.delOp n).m0 = s.m0 := rfl

@[simp] theorem State.delOp_m1 (s : State) (n : Nat) : (s.delOp n).m1 = s.m1 := rfl

@[simp] theorem State.delOp_m2 (s : State) (n : Nat) : (s.delOp n).m2 = s.m2 := rfl

@[simp] theorem State.delOp_remap (s : State) (n : Nat) : (s.delOp n).remap = s.remap := rfl

@[simp] theorem State.delOp_unavail (s : State) (n : Nat) : (s.delOp n).unavail = s.unavail := rfl

@[simp] theorem State.delOp_install (s : State) (n : Nat) : (s.delOp n).install = s.install := rfl

@[simp] theorem State.delOp_portsDown (s : State) (n : Nat) : (s.delOp n).portsDown = s.portsDown := rfl

@[simp] theorem State.delOp_devMb (s : State) (n : Nat) : (s.delOp n).devMb = s.devMb := rfl

@[simp] theorem State.delOp_idleMb (s : State) (n : Nat) : (s.delOp n).idleMb = s.idleMb := rfl

@[simp] theorem State.delOp_hostMem (s : State) (n : Nat) : (s.delOp n).hostMem = s.hostMem := rfl

@[simp] theorem State.delOp_contexts (s : State) (n : Nat) : (s.delOp n).contexts = s.contexts := rfl

@[simp] theorem State.delOp_columns (s : State) (n : Nat) : (s.delOp n).columns = s.columns := rfl

@[simp] theorem State.delOp_teams (s : State) (n : Nat) : (s.delOp n).teams = s.teams := rfl

@[simp] theorem State.delOp_wgs (s : State) (n : Nat) : (s.delOp n).wgs = s.wgs := rfl

@[simp] theorem State.delOp_units (s : State) (n : Nat) : (s.delOp n).units = s.units := rfl

@[simp] theorem State.delOp_intake (s : State) (n : Nat) : (s.delOp n).intake = s.intake := rfl

@[simp] theorem State.delOp_bufs (s : State) (n : Nat) : (s.delOp n).bufs = s.bufs := rfl

@[simp] theorem State.delOp_vclk (s : State) (n : Nat) : (s.delOp n).vclk = s.vclk := rfl

@[simp] theorem State.delOp_pclk (s : State) (n : Nat) : (s.delOp n).pclk = s.pclk := rfl

@[simp] theorem State.delOp_mem (s : State) (n : Nat) : (s.delOp n).mem = s.mem := rfl

@[simp] theorem State.delOp_dram (s : State) (n : Nat) : (s.delOp n).dram = s.dram := rfl

@[simp] theorem State.delOp_poison (s : State) (n : Nat) : (s.delOp n).poison = s.poison := rfl

@[simp] theorem State.delOp_dmaOut (s : State) (n : Nat) : (s.delOp n).dmaOut = s.dmaOut := rfl

@[simp] theorem State.delOp_egress (s : State) (n : Nat) : (s.delOp n).egress = s.egress := rfl

@[simp] theorem State.delOp_inbox (s : State) (n : Nat) : (s.delOp n).inbox = s.inbox := rfl

@[simp] theorem State.delOp_farCounts (s : State) (n : Nat) : (s.delOp n).farCounts = s.farCounts := rfl

@[simp] theorem State.delOp_moved (s : State) (n : Nat) : (s.delOp n).moved = s.moved := rfl

@[simp] theorem State.delOp_reply (s : State) (n : Nat) : (s.delOp n).reply = s.reply := rfl

@[simp] theorem State.delOp_corrected (s : State) (n : Nat) : (s.delOp n).corrected = s.corrected := rfl

@[simp] theorem State.delOp_elsewhere (s : State) (n : Nat) : (s.delOp n).elsewhere = s.elsewhere := rfl

@[simp] theorem State.delOp_badFrames (s : State) (n : Nat) : (s.delOp n).badFrames = s.badFrames := rfl

@[simp] theorem State.delOp_cxlLost (s : State) (n : Nat) : (s.delOp n).cxlLost = s.cxlLost := rfl

@[simp] theorem State.delOp_resvDone (s : State) (n : Nat) : (s.delOp n).resvDone = s.resvDone := rfl

@[simp] theorem State.delOp_resvAsk (s : State) (n : Nat) : (s.delOp n).resvAsk = s.resvAsk := rfl

@[simp] theorem State.delOp_resvWant (s : State) (n : Nat) : (s.delOp n).resvWant = s.resvWant := rfl

/-! ### Adding an operation (`State.addOp`) -/

@[simp] theorem State.addOp_sched (s : State) (u : Nat) (k : OpKind) (f : Op → Op) : (s.addOp u k f).sched = s.sched := rfl

@[simp] theorem State.addOp_tick (s : State) (u : Nat) (k : OpKind) (f : Op → Op) : (s.addOp u k f).tick = s.tick := rfl

@[simp] theorem State.addOp_now (s : State) (u : Nat) (k : OpKind) (f : Op → Op) : (s.addOp u k f).now = s.now := rfl

@[simp] theorem State.addOp_free (s : State) (u : Nat) (k : OpKind) (f : Op → Op) : (s.addOp u k f).free = s.free := rfl

@[simp] theorem State.addOp_cur (s : State) (u : Nat) (k : OpKind) (f : Op → Op) : (s.addOp u k f).cur = s.cur := rfl

@[simp] theorem State.addOp_arg (s : State) (u : Nat) (k : OpKind) (f : Op → Op) : (s.addOp u k f).arg = s.arg := rfl

@[simp] theorem State.addOp_stage (s : State) (u : Nat) (k : OpKind) (f : Op → Op) : (s.addOp u k f).stage = s.stage := rfl

@[simp] theorem State.addOp_nPart (s : State) (u : Nat) (k : OpKind) (f : Op → Op) : (s.addOp u k f).nPart = s.nPart := rfl

@[simp] theorem State.addOp_throt (s : State) (u : Nat) (k : OpKind) (f : Op → Op) : (s.addOp u k f).throt = s.throt := rfl

@[simp] theorem State.addOp_crem (s : State) (u : Nat) (k : OpKind) (f : Op → Op) : (s.addOp u k f).crem = s.crem := rfl

@[simp] theorem State.addOp_removed (s : State) (u : Nat) (k : OpKind) (f : Op → Op) : (s.addOp u k f).removed = s.removed := rfl

@[simp] theorem State.addOp_recorded (s : State) (u : Nat) (k : OpKind) (f : Op → Op) : (s.addOp u k f).recorded = s.recorded := rfl

@[simp] theorem State.addOp_fwver (s : State) (u : Nat) (k : OpKind) (f : Op → Op) : (s.addOp u k f).fwver = s.fwver := rfl

@[simp] theorem State.addOp_rollback (s : State) (u : Nat) (k : OpKind) (f : Op → Op) : (s.addOp u k f).rollback = s.rollback := rfl

@[simp] theorem State.addOp_staged (s : State) (u : Nat) (k : OpKind) (f : Op → Op) : (s.addOp u k f).staged = s.staged := rfl

@[simp] theorem State.addOp_boot (s : State) (u : Nat) (k : OpKind) (f : Op → Op) : (s.addOp u k f).boot = s.boot := rfl

@[simp] theorem State.addOp_power (s : State) (u : Nat) (k : OpKind) (f : Op → Op) : (s.addOp u k f).power = s.power := rfl

@[simp] theorem State.addOp_m0 (s : State) (u : Nat) (k : OpKind) (f : Op → Op) : (s.addOp u k f).m0 = s.m0 := rfl

@[simp] theorem State.addOp_m1 (s : State) (u : Nat) (k : OpKind) (f : Op → Op) : (s.addOp u k f).m1 = s.m1 := rfl

@[simp] theorem State.addOp_m2 (s : State) (u : Nat) (k : OpKind) (f : Op → Op) : (s.addOp u k f).m2 = s.m2 := rfl

@[simp] theorem State.addOp_remap (s : State) (u : Nat) (k : OpKind) (f : Op → Op) : (s.addOp u k f).remap = s.remap := rfl

@[simp] theorem State.addOp_unavail (s : State) (u : Nat) (k : OpKind) (f : Op → Op) : (s.addOp u k f).unavail = s.unavail := rfl

@[simp] theorem State.addOp_install (s : State) (u : Nat) (k : OpKind) (f : Op → Op) : (s.addOp u k f).install = s.install := rfl

@[simp] theorem State.addOp_portsDown (s : State) (u : Nat) (k : OpKind) (f : Op → Op) : (s.addOp u k f).portsDown = s.portsDown := rfl

@[simp] theorem State.addOp_devMb (s : State) (u : Nat) (k : OpKind) (f : Op → Op) : (s.addOp u k f).devMb = s.devMb := rfl

@[simp] theorem State.addOp_idleMb (s : State) (u : Nat) (k : OpKind) (f : Op → Op) : (s.addOp u k f).idleMb = s.idleMb := rfl

@[simp] theorem State.addOp_hostMem (s : State) (u : Nat) (k : OpKind) (f : Op → Op) : (s.addOp u k f).hostMem = s.hostMem := rfl

@[simp] theorem State.addOp_contexts (s : State) (u : Nat) (k : OpKind) (f : Op → Op) : (s.addOp u k f).contexts = s.contexts := rfl

@[simp] theorem State.addOp_columns (s : State) (u : Nat) (k : OpKind) (f : Op → Op) : (s.addOp u k f).columns = s.columns := rfl

@[simp] theorem State.addOp_teams (s : State) (u : Nat) (k : OpKind) (f : Op → Op) : (s.addOp u k f).teams = s.teams := rfl

@[simp] theorem State.addOp_wgs (s : State) (u : Nat) (k : OpKind) (f : Op → Op) : (s.addOp u k f).wgs = s.wgs := rfl

@[simp] theorem State.addOp_units (s : State) (u : Nat) (k : OpKind) (f : Op → Op) : (s.addOp u k f).units = s.units := rfl

@[simp] theorem State.addOp_intake (s : State) (u : Nat) (k : OpKind) (f : Op → Op) : (s.addOp u k f).intake = s.intake := rfl

@[simp] theorem State.addOp_bufs (s : State) (u : Nat) (k : OpKind) (f : Op → Op) : (s.addOp u k f).bufs = s.bufs := rfl

@[simp] theorem State.addOp_vclk (s : State) (u : Nat) (k : OpKind) (f : Op → Op) : (s.addOp u k f).vclk = s.vclk := rfl

@[simp] theorem State.addOp_pclk (s : State) (u : Nat) (k : OpKind) (f : Op → Op) : (s.addOp u k f).pclk = s.pclk := rfl

@[simp] theorem State.addOp_mem (s : State) (u : Nat) (k : OpKind) (f : Op → Op) : (s.addOp u k f).mem = s.mem := rfl

@[simp] theorem State.addOp_dram (s : State) (u : Nat) (k : OpKind) (f : Op → Op) : (s.addOp u k f).dram = s.dram := rfl

@[simp] theorem State.addOp_poison (s : State) (u : Nat) (k : OpKind) (f : Op → Op) : (s.addOp u k f).poison = s.poison := rfl

@[simp] theorem State.addOp_dmaOut (s : State) (u : Nat) (k : OpKind) (f : Op → Op) : (s.addOp u k f).dmaOut = s.dmaOut := rfl

@[simp] theorem State.addOp_egress (s : State) (u : Nat) (k : OpKind) (f : Op → Op) : (s.addOp u k f).egress = s.egress := rfl

@[simp] theorem State.addOp_inbox (s : State) (u : Nat) (k : OpKind) (f : Op → Op) : (s.addOp u k f).inbox = s.inbox := rfl

@[simp] theorem State.addOp_farCounts (s : State) (u : Nat) (k : OpKind) (f : Op → Op) : (s.addOp u k f).farCounts = s.farCounts := rfl

@[simp] theorem State.addOp_moved (s : State) (u : Nat) (k : OpKind) (f : Op → Op) : (s.addOp u k f).moved = s.moved := rfl

@[simp] theorem State.addOp_reply (s : State) (u : Nat) (k : OpKind) (f : Op → Op) : (s.addOp u k f).reply = s.reply := rfl

@[simp] theorem State.addOp_corrected (s : State) (u : Nat) (k : OpKind) (f : Op → Op) : (s.addOp u k f).corrected = s.corrected := rfl

@[simp] theorem State.addOp_elsewhere (s : State) (u : Nat) (k : OpKind) (f : Op → Op) : (s.addOp u k f).elsewhere = s.elsewhere := rfl

@[simp] theorem State.addOp_badFrames (s : State) (u : Nat) (k : OpKind) (f : Op → Op) : (s.addOp u k f).badFrames = s.badFrames := rfl

@[simp] theorem State.addOp_cxlLost (s : State) (u : Nat) (k : OpKind) (f : Op → Op) : (s.addOp u k f).cxlLost = s.cxlLost := rfl

@[simp] theorem State.addOp_resvDone (s : State) (u : Nat) (k : OpKind) (f : Op → Op) : (s.addOp u k f).resvDone = s.resvDone := rfl

@[simp] theorem State.addOp_resvAsk (s : State) (u : Nat) (k : OpKind) (f : Op → Op) : (s.addOp u k f).resvAsk = s.resvAsk := rfl

@[simp] theorem State.addOp_resvWant (s : State) (u : Nat) (k : OpKind) (f : Op → Op) : (s.addOp u k f).resvWant = s.resvWant := rfl

/-! ### Starting a step (`State.tickOver`) -/

@[simp] theorem State.tickOver_seq (s : State) : (s.tickOver).seq = s.seq := rfl

@[simp] theorem State.tickOver_nextId (s : State) : (s.tickOver).nextId = s.nextId := rfl

@[simp] theorem State.tickOver_free (s : State) : (s.tickOver).free = s.free := rfl

@[simp] theorem State.tickOver_cur (s : State) : (s.tickOver).cur = s.cur := rfl

@[simp] theorem State.tickOver_arg (s : State) : (s.tickOver).arg = s.arg := rfl

@[simp] theorem State.tickOver_stage (s : State) : (s.tickOver).stage = s.stage := rfl

@[simp] theorem State.tickOver_nPart (s : State) : (s.tickOver).nPart = s.nPart := rfl

@[simp] theorem State.tickOver_throt (s : State) : (s.tickOver).throt = s.throt := rfl

@[simp] theorem State.tickOver_crem (s : State) : (s.tickOver).crem = s.crem := rfl

@[simp] theorem State.tickOver_removed (s : State) : (s.tickOver).removed = s.removed := rfl

@[simp] theorem State.tickOver_recorded (s : State) : (s.tickOver).recorded = s.recorded := rfl

@[simp] theorem State.tickOver_fwver (s : State) : (s.tickOver).fwver = s.fwver := rfl

@[simp] theorem State.tickOver_rollback (s : State) : (s.tickOver).rollback = s.rollback := rfl

@[simp] theorem State.tickOver_staged (s : State) : (s.tickOver).staged = s.staged := rfl

@[simp] theorem State.tickOver_boot (s : State) : (s.tickOver).boot = s.boot := rfl

@[simp] theorem State.tickOver_power (s : State) : (s.tickOver).power = s.power := rfl

@[simp] theorem State.tickOver_m0 (s : State) : (s.tickOver).m0 = s.m0 := rfl

@[simp] theorem State.tickOver_m1 (s : State) : (s.tickOver).m1 = s.m1 := rfl

@[simp] theorem State.tickOver_m2 (s : State) : (s.tickOver).m2 = s.m2 := rfl

@[simp] theorem State.tickOver_remap (s : State) : (s.tickOver).remap = s.remap := rfl

@[simp] theorem State.tickOver_unavail (s : State) : (s.tickOver).unavail = s.unavail := rfl

@[simp] theorem State.tickOver_install (s : State) : (s.tickOver).install = s.install := rfl

@[simp] theorem State.tickOver_portsDown (s : State) : (s.tickOver).portsDown = s.portsDown := rfl

@[simp] theorem State.tickOver_devMb (s : State) : (s.tickOver).devMb = s.devMb := rfl

@[simp] theorem State.tickOver_idleMb (s : State) : (s.tickOver).idleMb = s.idleMb := rfl

@[simp] theorem State.tickOver_hostMem (s : State) : (s.tickOver).hostMem = s.hostMem := rfl

@[simp] theorem State.tickOver_contexts (s : State) : (s.tickOver).contexts = s.contexts := rfl

@[simp] theorem State.tickOver_columns (s : State) : (s.tickOver).columns = s.columns := rfl

@[simp] theorem State.tickOver_teams (s : State) : (s.tickOver).teams = s.teams := rfl

@[simp] theorem State.tickOver_wgs (s : State) : (s.tickOver).wgs = s.wgs := rfl

@[simp] theorem State.tickOver_units (s : State) : (s.tickOver).units = s.units := rfl

@[simp] theorem State.tickOver_intake (s : State) : (s.tickOver).intake = s.intake := rfl

@[simp] theorem State.tickOver_ops (s : State) : (s.tickOver).ops = s.ops := rfl

@[simp] theorem State.tickOver_bufs (s : State) : (s.tickOver).bufs = s.bufs := rfl

@[simp] theorem State.tickOver_vclk (s : State) : (s.tickOver).vclk = s.vclk := rfl

@[simp] theorem State.tickOver_pclk (s : State) : (s.tickOver).pclk = s.pclk := rfl

@[simp] theorem State.tickOver_mem (s : State) : (s.tickOver).mem = s.mem := rfl

@[simp] theorem State.tickOver_dram (s : State) : (s.tickOver).dram = s.dram := rfl

@[simp] theorem State.tickOver_poison (s : State) : (s.tickOver).poison = s.poison := rfl

@[simp] theorem State.tickOver_dmaOut (s : State) : (s.tickOver).dmaOut = s.dmaOut := rfl

@[simp] theorem State.tickOver_egress (s : State) : (s.tickOver).egress = s.egress := rfl

@[simp] theorem State.tickOver_inbox (s : State) : (s.tickOver).inbox = s.inbox := rfl

@[simp] theorem State.tickOver_farCounts (s : State) : (s.tickOver).farCounts = s.farCounts := rfl

@[simp] theorem State.tickOver_moved (s : State) : (s.tickOver).moved = s.moved := rfl

@[simp] theorem State.tickOver_reply (s : State) : (s.tickOver).reply = s.reply := rfl

@[simp] theorem State.tickOver_corrected (s : State) : (s.tickOver).corrected = s.corrected := rfl

@[simp] theorem State.tickOver_elsewhere (s : State) : (s.tickOver).elsewhere = s.elsewhere := rfl

@[simp] theorem State.tickOver_badFrames (s : State) : (s.tickOver).badFrames = s.badFrames := rfl

@[simp] theorem State.tickOver_cxlLost (s : State) : (s.tickOver).cxlLost = s.cxlLost := rfl

@[simp] theorem State.tickOver_resvDone (s : State) : (s.tickOver).resvDone = s.resvDone := rfl

@[simp] theorem State.tickOver_resvAsk (s : State) : (s.tickOver).resvAsk = s.resvAsk := rfl

@[simp] theorem State.tickOver_resvWant (s : State) : (s.tickOver).resvWant = s.resvWant := rfl

/-! ### What the updates write -/

/-- The teams after one is replaced. -/
@[simp] theorem State.setTeam_teams (s : State) (u : Nat) (t : Team) : (s.setTeam u t).teams = assocSet s.teams u t := rfl

/-- The team just written. -/
@[simp] theorem State.team?_setTeam_self (s : State) (u : Nat) (t : Team) : (s.setTeam u t).team? u = some t := assoc_assocSet_self _ _ _

/-- Another team. -/
theorem State.team?_setTeam_other (s : State) {u v : Nat} (t : Team) (h : v ≠ u) : (s.setTeam u t).team? v = s.team? v :=
  assoc_assocSet_other _ _ h

/-- A team that is there, changed. -/
theorem State.modTeam_of (s : State) {u : Nat} {t : Team} (f : Team → Team) (h : s.team? u = some t) : s.modTeam u f = s.setTeam u (f t) := by
  simp [State.modTeam, h]

/-- A team that is not there stays absent. -/
theorem State.modTeam_none (s : State) {u : Nat} (f : Team → Team) (h : s.team? u = none) : s.modTeam u f = s := by simp [State.modTeam, h]

/-- Another team, when one is changed. -/
theorem State.team?_modTeam_other (s : State) {u v : Nat} (f : Team → Team) (h : v ≠ u) : (s.modTeam u f).team? v = s.team? v := by
  unfold State.modTeam
  split
  · exact State.team?_setTeam_other s _ h
  · rfl

/-- The column just written. -/
@[simp] theorem State.column_modCol_self (s : State) (c : Nat) (f : Column → Column) : (s.modCol c f).column c = f (s.column c) := by
  simp [State.modCol, State.column]

/-- Another column. -/
theorem State.column_modCol_other (s : State) {c d : Nat} (f : Column → Column) (h : d ≠ c) : (s.modCol c f).column d = s.column d := by
  simp [State.modCol, State.column, assoc_assocSet_other _ _ h]

/-- The operations after one is added: it stands last. -/
@[simp] theorem State.addOp_ops (s : State) (u : Nat) (k : OpKind) (f : Op → Op) :
    (s.addOp u k f).ops = s.ops ++ [f { Op.blank s.nextId s.cur u s.seq k with sup := s.cur == .team u && s.inHandler u }] := rfl

/-- The next place in issue order after an operation is added. -/
@[simp] theorem State.addOp_seq (s : State) (u : Nat) (k : OpKind) (f : Op → Op) : (s.addOp u k f).seq = s.seq + 1 := rfl

/-- The next identifier after an operation is added. -/
@[simp] theorem State.addOp_nextId (s : State) (u : Nat) (k : OpKind) (f : Op → Op) : (s.addOp u k f).nextId = s.nextId + 1 := rfl

/-- The operations after one is removed. -/
@[simp] theorem State.delOp_ops (s : State) (n : Nat) : (s.delOp n).ops = s.ops.filter fun o => o.id != n := rfl

/-- The tick after a step has begun. -/
@[simp] theorem State.tickOver_tick (s : State) : s.tickOver.tick = s.tick + 1 := rfl

/-! ### Lookups that an update leaves unchanged -/


@[simp] theorem State.wg?_setTeam (s : State) (u : Nat) (t : Team) (key : Nat) : (s.setTeam u t).wg? key = s.wg? key := rfl

@[simp] theorem State.unit?_setTeam (s : State) (u : Nat) (t : Team) (key : Nat) : (s.setTeam u t).unit? key = s.unit? key := rfl

@[simp] theorem State.column_setTeam (s : State) (u : Nat) (t : Team) (key : Nat) : (s.setTeam u t).column key = s.column key := rfl

@[simp] theorem State.ctx?_setTeam (s : State) (u : Nat) (t : Team) (key : Nat) : (s.setTeam u t).ctx? key = s.ctx? key := rfl

@[simp] theorem State.wg?_modTeam (s : State) (u : Nat) (f : Team → Team) (key : Nat) : (s.modTeam u f).wg? key = s.wg? key := congrArg (fun x => assoc x key) (State.modTeam_wgs s _ _)

@[simp] theorem State.unit?_modTeam (s : State) (u : Nat) (f : Team → Team) (key : Nat) : (s.modTeam u f).unit? key = s.unit? key := congrArg (fun x => assoc x key) (State.modTeam_units s _ _)

@[simp] theorem State.column_modTeam (s : State) (u : Nat) (f : Team → Team) (key : Nat) : (s.modTeam u f).column key = s.column key := congrArg (fun x => (assoc x key).getD Column.initial) (State.modTeam_columns s _ _)

@[simp] theorem State.ctx?_modTeam (s : State) (u : Nat) (f : Team → Team) (key : Nat) : (s.modTeam u f).ctx? key = s.ctx? key := congrArg (fun x => assoc x key) (State.modTeam_contexts s _ _)

@[simp] theorem State.team?_modWg (s : State) (w : Nat) (f : Workgroup → Workgroup) (key : Nat) : (s.modWg w f).team? key = s.team? key := congrArg (fun x => assoc x key) (State.modWg_teams s _ _)

@[simp] theorem State.unit?_modWg (s : State) (w : Nat) (f : Workgroup → Workgroup) (key : Nat) : (s.modWg w f).unit? key = s.unit? key := congrArg (fun x => assoc x key) (State.modWg_units s _ _)

@[simp] theorem State.column_modWg (s : State) (w : Nat) (f : Workgroup → Workgroup) (key : Nat) : (s.modWg w f).column key = s.column key := congrArg (fun x => (assoc x key).getD Column.initial) (State.modWg_columns s _ _)

@[simp] theorem State.ctx?_modWg (s : State) (w : Nat) (f : Workgroup → Workgroup) (key : Nat) : (s.modWg w f).ctx? key = s.ctx? key := congrArg (fun x => assoc x key) (State.modWg_contexts s _ _)

@[simp] theorem State.team?_modUnit (s : State) (n : Nat) (f : Completion → Completion) (key : Nat) : (s.modUnit n f).team? key = s.team? key := congrArg (fun x => assoc x key) (State.modUnit_teams s _ _)

@[simp] theorem State.wg?_modUnit (s : State) (n : Nat) (f : Completion → Completion) (key : Nat) : (s.modUnit n f).wg? key = s.wg? key := congrArg (fun x => assoc x key) (State.modUnit_wgs s _ _)

@[simp] theorem State.column_modUnit (s : State) (n : Nat) (f : Completion → Completion) (key : Nat) : (s.modUnit n f).column key = s.column key := congrArg (fun x => (assoc x key).getD Column.initial) (State.modUnit_columns s _ _)

@[simp] theorem State.ctx?_modUnit (s : State) (n : Nat) (f : Completion → Completion) (key : Nat) : (s.modUnit n f).ctx? key = s.ctx? key := congrArg (fun x => assoc x key) (State.modUnit_contexts s _ _)

@[simp] theorem State.team?_modCol (s : State) (c : Nat) (f : Column → Column) (key : Nat) : (s.modCol c f).team? key = s.team? key := rfl

@[simp] theorem State.wg?_modCol (s : State) (c : Nat) (f : Column → Column) (key : Nat) : (s.modCol c f).wg? key = s.wg? key := rfl

@[simp] theorem State.unit?_modCol (s : State) (c : Nat) (f : Column → Column) (key : Nat) : (s.modCol c f).unit? key = s.unit? key := rfl

@[simp] theorem State.ctx?_modCol (s : State) (c : Nat) (f : Column → Column) (key : Nat) : (s.modCol c f).ctx? key = s.ctx? key := rfl

@[simp] theorem State.team?_modCtx (s : State) (x : Nat) (f : Context → Context) (key : Nat) : (s.modCtx x f).team? key = s.team? key := congrArg (fun x => assoc x key) (State.modCtx_teams s _ _)

@[simp] theorem State.wg?_modCtx (s : State) (x : Nat) (f : Context → Context) (key : Nat) : (s.modCtx x f).wg? key = s.wg? key := congrArg (fun x => assoc x key) (State.modCtx_wgs s _ _)

@[simp] theorem State.unit?_modCtx (s : State) (x : Nat) (f : Context → Context) (key : Nat) : (s.modCtx x f).unit? key = s.unit? key := congrArg (fun x => assoc x key) (State.modCtx_units s _ _)

@[simp] theorem State.column_modCtx (s : State) (x : Nat) (f : Context → Context) (key : Nat) : (s.modCtx x f).column key = s.column key := congrArg (fun x => (assoc x key).getD Column.initial) (State.modCtx_columns s _ _)

@[simp] theorem State.team?_setPte (s : State) (r : PageRef) (e : Pte) (key : Nat) : (s.setPte r e).team? key = s.team? key := congrArg (fun x => assoc x key) (State.setPte_teams s _ _)

@[simp] theorem State.wg?_setPte (s : State) (r : PageRef) (e : Pte) (key : Nat) : (s.setPte r e).wg? key = s.wg? key := congrArg (fun x => assoc x key) (State.setPte_wgs s _ _)

@[simp] theorem State.unit?_setPte (s : State) (r : PageRef) (e : Pte) (key : Nat) : (s.setPte r e).unit? key = s.unit? key := congrArg (fun x => assoc x key) (State.setPte_units s _ _)

@[simp] theorem State.column_setPte (s : State) (r : PageRef) (e : Pte) (key : Nat) : (s.setPte r e).column key = s.column key := congrArg (fun x => (assoc x key).getD Column.initial) (State.setPte_columns s _ _)

@[simp] theorem State.team?_setOp (s : State) (o : Op) (key : Nat) : (s.setOp o).team? key = s.team? key := rfl

@[simp] theorem State.wg?_setOp (s : State) (o : Op) (key : Nat) : (s.setOp o).wg? key = s.wg? key := rfl

@[simp] theorem State.unit?_setOp (s : State) (o : Op) (key : Nat) : (s.setOp o).unit? key = s.unit? key := rfl

@[simp] theorem State.column_setOp (s : State) (o : Op) (key : Nat) : (s.setOp o).column key = s.column key := rfl

@[simp] theorem State.ctx?_setOp (s : State) (o : Op) (key : Nat) : (s.setOp o).ctx? key = s.ctx? key := rfl

@[simp] theorem State.team?_delOp (s : State) (n : Nat) (key : Nat) : (s.delOp n).team? key = s.team? key := rfl

@[simp] theorem State.wg?_delOp (s : State) (n : Nat) (key : Nat) : (s.delOp n).wg? key = s.wg? key := rfl

@[simp] theorem State.unit?_delOp (s : State) (n : Nat) (key : Nat) : (s.delOp n).unit? key = s.unit? key := rfl

@[simp] theorem State.column_delOp (s : State) (n : Nat) (key : Nat) : (s.delOp n).column key = s.column key := rfl

@[simp] theorem State.ctx?_delOp (s : State) (n : Nat) (key : Nat) : (s.delOp n).ctx? key = s.ctx? key := rfl

@[simp] theorem State.team?_addOp (s : State) (u : Nat) (k : OpKind) (f : Op → Op) (key : Nat) : (s.addOp u k f).team? key = s.team? key := rfl

@[simp] theorem State.wg?_addOp (s : State) (u : Nat) (k : OpKind) (f : Op → Op) (key : Nat) : (s.addOp u k f).wg? key = s.wg? key := rfl

@[simp] theorem State.unit?_addOp (s : State) (u : Nat) (k : OpKind) (f : Op → Op) (key : Nat) : (s.addOp u k f).unit? key = s.unit? key := rfl

@[simp] theorem State.column_addOp (s : State) (u : Nat) (k : OpKind) (f : Op → Op) (key : Nat) : (s.addOp u k f).column key = s.column key := rfl

@[simp] theorem State.ctx?_addOp (s : State) (u : Nat) (k : OpKind) (f : Op → Op) (key : Nat) : (s.addOp u k f).ctx? key = s.ctx? key := rfl

@[simp] theorem State.team?_tickOver (s : State) (key : Nat) : (s.tickOver).team? key = s.team? key := rfl

@[simp] theorem State.wg?_tickOver (s : State) (key : Nat) : (s.tickOver).wg? key = s.wg? key := rfl

@[simp] theorem State.unit?_tickOver (s : State) (key : Nat) : (s.tickOver).unit? key = s.unit? key := rfl

@[simp] theorem State.column_tickOver (s : State) (key : Nat) : (s.tickOver).column key = s.column key := rfl

@[simp] theorem State.ctx?_tickOver (s : State) (key : Nat) : (s.tickOver).ctx? key = s.ctx? key := rfl

end Sys2Proof.Machine
end

