-- ==== Sys2Proof/Laws/Frame.lean ====
section
/-!
SUPPORT. What the memory of the machine is (the coherent memory, the DRAM behind it, every workgroup's scratchpad), that the updates of the
other parts leave it as it is, and its canonical form.
-/

namespace Sys2Proof.Machine

/-- The canonical form is a matter of the stored bytes alone. -/
theorem State.Canonical.of_store {s t : State} (h : t.store = s.store) (hs : s.Canonical) : t.Canonical := by
  simp only [State.store, Prod.mk.injEq] at h
  obtain ⟨h1, h2, h3, h4⟩ := h
  refine ⟨h1 ▸ hs.mem, h2 ▸ hs.dram, fun e he => ?_, h4 ▸ hs.moved⟩
  have hm : (e.1, e.2.spad) ∈ s.wgs.map fun e => (e.1, e.2.spad) := h3 ▸ List.mem_map_of_mem he
  obtain ⟨e', he', heq⟩ := List.mem_map.1 hm
  have : e'.2.spad = e.2.spad := (Prod.mk.injEq _ _ _ _ ▸ heq).2
  exact this ▸ hs.spads e' he'

/-- Where two states have the same memory fields their stored bytes are the same. -/
theorem State.store_congr {s t : State} (hm : t.mem = s.mem) (hd : t.dram = s.dram) (hw : t.wgs = s.wgs)
    (he : t.elsewhere = s.elsewhere) : t.store = s.store := by
  simp only [State.store, hm, hd, hw, he]

/-- The stored bytes of a state written out by its fields. -/
@[simp] theorem State.store_mk (a1 a2 a3 a4 a5 a6 a7 a8 a9 a10 a11 a12 a13 a14 a15 a16 a17 a18 a19 a20 a21 a22 a23 a24 a25 a26 a27 a28 a29 a30
    a31 a32 wgs a34 a35 a36 a37 a38 a39 mem dram a42 a43 a44 a45 a46 a47 a48 a49 elsewhere a51 a52 a53 a54 a55) :
    (State.mk a1 a2 a3 a4 a5 a6 a7 a8 a9 a10 a11 a12 a13 a14 a15 a16 a17 a18 a19 a20 a21 a22 a23 a24 a25 a26 a27 a28 a29 a30 a31 a32 wgs a34 a35
    a36 a37 a38 a39 mem dram a42 a43 a44 a45 a46 a47 a48 a49 elsewhere a51 a52 a53 a54 a55).store = (mem, dram, wgs.map (fun e => (e.1, e.2.spad)), elsewhere) := rfl

/-- The stored bytes written out are the stored bytes. -/
@[simp] theorem State.store_fold (s : State) : (s.mem, s.dram, s.wgs.map (fun e => (e.1, e.2.spad)), s.elsewhere) = s.store := rfl

/-- Setting a key of an association to the value it has changes nothing. -/
theorem assocSet_same {α : Type} {l : List (Nat × α)} {k : Nat} {v : α} (h : assoc l k = some v) : assocSet l k v = l := by
  induction l with
  | nil => simp [assoc] at h
  | cons e r ih =>
    obtain ⟨j, x⟩ := e
    by_cases hj : j = k
    · simp only [assoc, if_pos hj, Option.some.injEq] at h
      simp only [assocSet, if_pos hj, h]
    · simp only [assoc, if_neg hj] at h
      simp only [assocSet, if_neg hj, ih h]

/-- An association with its values mapped, after a key is set. -/
theorem map_assocSet {α β : Type} (g : α → β) (l : List (Nat × α)) (k : Nat) (v : α) :
    (assocSet l k v).map (fun e => (e.1, g e.2)) = assocSet (l.map fun e => (e.1, g e.2)) k (g v) := by
  induction l with
  | nil => rfl
  | cons e r ih =>
    obtain ⟨j, x⟩ := e
    by_cases hj : j = k <;> simp [assocSet, hj, ih]

/-- The value of a key of an association with its values mapped. -/
theorem assoc_map {α β : Type} (g : α → β) (l : List (Nat × α)) (k : Nat) :
    assoc (l.map fun e => (e.1, g e.2)) k = (assoc l k).map g := by
  induction l with
  | nil => rfl
  | cons e r ih =>
    obtain ⟨j, x⟩ := e
    by_cases hj : j = k <;> simp [assoc, hj, ih]

/-- A workgroup replaced by one with the same scratchpad leaves the scratchpads as they are. -/
theorem map_spad_assocSet {l : List (Nat × Workgroup)} {w : Nat} {g g' : Workgroup} (h : assoc l w = some g) (hs : g'.spad = g.spad) :
    (assocSet l w g').map (fun e => (e.1, e.2.spad)) = l.map fun e => (e.1, e.2.spad) := by
  have hm : assoc (l.map fun e => (e.1, e.2.spad)) w = some g'.spad :=
    (assoc_map (fun g : Workgroup => g.spad) l w).trans (by rw [h, hs]; rfl)
  exact (map_assocSet (fun g : Workgroup => g.spad) l w g').trans (assocSet_same hm)

/-- Changing a workgroup without its scratchpad. -/
@[simp] theorem State.modWg_store (s : State) (w : Nat) (f : Workgroup → Workgroup) (h : ∀ g, (f g).spad = g.spad) :
    (s.modWg w f).store = s.store := by
  unfold State.modWg
  split
  · rename_i g hg
    rw [State.store_mk, map_spad_assocSet hg (h g), State.store_fold]
  · rfl

/-- A fold whose every step leaves the stored bytes as they are. -/
@[simp] theorem foldl_store {α : Type} (l : List α) (f : State → α → State) (s : State) (h : ∀ s a, (f s a).store = s.store) :
    (l.foldl f s).store = s.store := by
  induction l generalizing s with
  | nil => rfl
  | cons a r ih => rw [List.foldl_cons, ih, h]

/-- A fold of a state with something beside it, whose every step leaves the stored bytes as they are. -/
theorem foldl_store1 {α β : Type} (l : List α) (f : State × β → α → State × β) (p : State × β) (h : ∀ p a, (f p a).1.store = p.1.store) :
    (l.foldl f p).1.store = p.1.store := by
  induction l generalizing p with
  | nil => rfl
  | cons a r ih => rw [List.foldl_cons, ih, h]

/-- A fold whose every step keeps the canonical form. -/
theorem foldl_canonical {α : Type} {l : List α} {f : State → α → State} {s : State} (h : ∀ s a, s.Canonical → (f s a).Canonical) (hs : s.Canonical) :
    (l.foldl f s).Canonical := by
  induction l generalizing s with
  | nil => exact hs
  | cons a r ih => exact ih (h s a hs)



/-- If the outcome is a next state, its stored bytes are those of `s`. -/
def Keeps (s : State) (o : Out) : Prop := ∀ t, o = .next t → t.store = s.store

/-- A next state keeps the stored bytes exactly when it has them. -/
@[simp] theorem keeps_next (s t : State) : Keeps s (.next t) ↔ t.store = s.store :=
  ⟨fun h => h t rfl, fun h _ e => Host.Outcome.next.inj e ▸ h⟩




/-! ### Updates of the other parts -/

@[simp] theorem State.setTeam_store (s : State) (u : Nat) (t : Team) : (s.setTeam u t).store = s.store := State.store_congr (by simp) (by simp) (by simp) (by simp)

@[simp] theorem State.modTeam_store (s : State) (u : Nat) (f : Team → Team) : (s.modTeam u f).store = s.store := State.store_congr (by simp) (by simp) (by simp) (by simp)

@[simp] theorem State.modUnit_store (s : State) (n : Nat) (f : Completion → Completion) : (s.modUnit n f).store = s.store := State.store_congr (by simp) (by simp) (by simp) (by simp)

@[simp] theorem State.modCol_store (s : State) (c : Nat) (f : Column → Column) : (s.modCol c f).store = s.store := State.store_congr (by simp) (by simp) (by simp) (by simp)

@[simp] theorem State.modCtx_store (s : State) (x : Nat) (f : Context → Context) : (s.modCtx x f).store = s.store := State.store_congr (by simp) (by simp) (by simp) (by simp)

@[simp] theorem State.setPte_store (s : State) (r : PageRef) (e : Pte) : (s.setPte r e).store = s.store := State.store_congr (by simp) (by simp) (by simp) (by simp)

@[simp] theorem State.setOp_store (s : State) (o : Op) : (s.setOp o).store = s.store := State.store_congr (by simp) (by simp) (by simp) (by simp)

@[simp] theorem State.delOp_store (s : State) (n : Nat) : (s.delOp n).store = s.store := State.store_congr (by simp) (by simp) (by simp) (by simp)

@[simp] theorem State.addOp_store (s : State) (u : Nat) (k : OpKind) (f : Op → Op) : (s.addOp u k f).store = s.store := State.store_congr (by simp) (by simp) (by simp) (by simp)

@[simp] theorem State.tickOver_store (s : State) : (s.tickOver).store = s.store := State.store_congr (by simp) (by simp) (by simp) (by simp)

end Sys2Proof.Machine
end

