-- ==== Sys2Proof/Laws/FrameRegs.lean ====
section
/-!
SUPPORT. What the functions of Machine/Regs.lean leave unchanged: every stored byte (`State.store`), but for those that write memory.
-/

namespace Sys2Proof.Machine

@[simp] theorem State.giveErr_store (s : State) (u : Nat) (p : Path) (lane : Nat) (c : Cause) (a : Addr) (slot sq : Nat) :
    (State.giveErr s u p lane c a slot sq).store = s.store := by simp [State.giveErr]

@[simp] theorem State.giveRaise_store (s : State) (u : Nat) (f : BitVec 5) (sq : Nat) : (State.giveRaise s u f sq).store = s.store := by simp [State.giveRaise]

@[simp] theorem State.writeRegs_store (s : State) (u sq : Nat) (sup : Bool) (ws : List RegWr) (later : List LaterWr) :
    (State.writeRegs s u sq sup ws later).store = s.store := by simp [State.writeRegs]

@[simp] theorem State.completeOp_store (s : State) (o : Op) : (State.completeOp s o).store = s.store := by
  unfold State.completeOp
  split <;> simp

end Sys2Proof.Machine
end

