-- ==== Sys2Proof/Laws/FrameOps.lean ====
section
/-!
SUPPORT. What the functions of Machine/Ops.lean leave unchanged: every stored byte (`State.store`), but for those that write memory.
-/

namespace Sys2Proof.Machine

@[simp] theorem State.logError_store (s : State) (owner : Option Nat) (r : List Word) : (State.logError s owner r).store = s.store := by
  unfold State.logError
  split <;> simp

@[simp] theorem State.logPoison_store (s : State) (x : Nat) (sp : Space) (a : Addr) (lower : Bool) :
    (State.logPoison s x sp a lower).store = s.store := by
  unfold State.logPoison
  repeat' split
  all_goals simp

@[simp] theorem State.logFetch_store (s : State) (x col : Nat) (c : Cause) (a : Addr) : (State.logFetch s x col c a).store = s.store := by
  unfold State.logFetch
  split <;> simp

@[simp] theorem State.clearCovered_store (s : State) (sp : Space) (lower : Bool) (ws : List (Addr × Nat)) :
    (State.clearCovered s sp lower ws).store = s.store := by
  unfold State.clearCovered
  split <;> simp

@[simp] theorem State.freeDp_store (s : State) (u : Nat) : (State.freeDp s u).store = s.store := by
  unfold State.freeDp
  dsimp only
  repeat' split
  all_goals simp

@[simp] theorem State.endClause_store (s : State) (u : Nat) : (State.endClause s u).store = s.store := by
  unfold State.endClause
  split <;> simp

@[simp] theorem State.advance_store (s : State) (u : Nat) : (State.advance s u).store = s.store := by
  unfold State.advance
  repeat' split
  all_goals simp

@[simp] theorem State.transfer_store (s : State) (u : Nat) (t : Team) : (State.transfer s u t).store = s.store := by simp [State.transfer]

@[simp] theorem State.lastExit_store (s : State) (u : Nat) : (State.lastExit s u).store = s.store := by simp [State.lastExit]

@[simp] theorem State.grantMx_store (s : State) (c : Nat) : (State.grantMx s c).store = s.store := by
  unfold State.grantMx
  dsimp only
  repeat' split
  all_goals simp

@[simp] theorem State.releaseMx_store (s : State) (u : Nat) : (State.releaseMx s u).store = s.store := by
  unfold State.releaseMx
  dsimp only
  repeat' split
  all_goals simp

@[simp] theorem State.unwind_store (s : State) (u : Nat) : (State.unwind s u).store = s.store := by
  unfold State.unwind
  dsimp only
  repeat' split
  all_goals simp

@[simp] theorem State.dropFollow_store (s : State) (c : Nat) : (State.dropFollow s c).store = s.store := by simp [State.dropFollow]

@[simp] theorem State.dropMx_store (s : State) (c : Nat) : (State.dropMx s c).store = s.store := by
  unfold State.dropMx
  dsimp only
  repeat' split
  all_goals simp

@[simp] theorem State.settleDying_store (s : State) (u : Nat) : (State.settleDying s u).store = s.store := by
  unfold State.settleDying
  dsimp only
  repeat' split
  all_goals simp

@[simp] theorem State.completeUser_store (s : State) (o : Op) : (State.completeUser s o).store = s.store := by
  unfold State.completeUser
  repeat' split
  all_goals simp

@[simp] theorem State.completeWait_store (s : State) (o : Op) (w : Wait) : (State.completeWait s o w).store = s.store := by
  unfold State.completeWait
  repeat' split
  all_goals simp

@[simp] theorem State.endXcol_store (s : State) (o : Op) : (State.endXcol s o).store = s.store := by
  unfold State.endXcol
  split <;> simp

@[simp] theorem State.performFirst_store (s : State) (u : Nat) : (State.performFirst s u).store = s.store := by
  unfold State.performFirst
  repeat' (first | (simp; done) | rw [keeps_next] | (refine State.execute_store _ _ _ _ fun m => ?_) | (refine foldl_store _ _ _ fun s a => ?_) | split | dsimp only)

@[simp] theorem State.killTeam_store (s : State) (u : Nat) : (State.killTeam s u).store = s.store := by
  unfold State.killTeam
  dsimp only
  repeat' split
  all_goals simp

@[simp] theorem State.fatal_store (s : State) (u : Nat) (second : Cause) : (State.fatal s u second).store = s.store := by
  unfold State.fatal
  split <;> simp

@[simp] theorem State.enterIssueTrap_store (s : State) (u : Nat) : (State.enterIssueTrap s u).store = s.store := by
  unfold State.enterIssueTrap
  repeat' split
  all_goals simp

@[simp] theorem State.trap_store (s : State) (u : Nat) (c : Cause) (rskip : Nat) (arg : BitVec 32) (laddr : Store 64) (lanes : Option Lanes) :
    (State.trap s u c rskip arg laddr lanes).store = s.store := by
  unfold State.trap
  dsimp only
  repeat' split
  all_goals simp

@[simp] theorem State.trapAt_store (s : State) (u : Nat) (c : Cause) : (State.trapAt s u c).store = s.store := by simp [State.trapAt]

@[simp] theorem State.preciseFault_store (s : State) (u : Nat) (c : Cause) (lanes : Lanes) (laddr : Store 64) :
    (State.preciseFault s u c lanes laddr).store = s.store := by simp [State.preciseFault]

@[simp] theorem State.haltStream_store (s : State) (u : Nat) (mtx : Bool) (c : Cause) (addr : Addr) (slot : Nat) (laddr : Addr) :
    (State.haltStream s u mtx c addr slot laddr).store = s.store := by
  unfold State.haltStream
  repeat' split
  all_goals simp

@[simp] theorem State.stopStream_store (s : State) (u : Nat) (mtx : Bool) (c : Cause) (addr : Addr) (slot : Nat) (laddr : Addr) (op : Nat) :
    (State.stopStream s u mtx c addr slot laddr op).store = s.store := by
  unfold State.stopStream
  split <;> simp

@[simp] theorem State.setPost_store (s : State) (col : Nat) (p : PostSlot) : (State.setPost s col p).store = s.store := by simp [State.setPost]

@[simp] theorem State.gbarArrive_store (s : State) (w : Nat) (g : Workgroup) : (State.gbarArrive s w g).store = s.store := by
  unfold State.gbarArrive
  dsimp only
  repeat' split
  all_goals simp

@[simp] theorem State.hazard_store (s : State) (u : Nat) : (State.hazard s u).store = s.store := by simp [State.hazard]

@[simp] theorem State.issue_store (s : State) (i : Instr) (se fs : Bool) (body : State → Nat → Team → State)
    (h : ∀ s u t, (body s u t).store = s.store) : Keeps s (s.issue i se fs body) := by
  unfold State.issue
  repeat' (first | (simp [h]; done) | split)

@[simp] theorem State.emit_store (s : State) (u : Nat) (t : Team) (se fs : Bool) (dests : List Dest) (ws : List RegWr) (raises : BitVec 5) (raiser : Bool) :
    (State.emit s u t se fs dests ws raises raiser).store = s.store := by simp [State.emit]

@[simp] theorem State.done_store (s : State) (u : Nat) : (State.done s u).store = s.store := by simp [State.done]

end Sys2Proof.Machine
end

