-- ==== Sys2Proof/Laws/FrameMemSys.lean ====
section
/-!
SUPPORT. What the functions of Machine/MemSys.lean leave unchanged: every stored byte (`State.store`), but for those that write memory.
-/

namespace Sys2Proof.Machine

@[simp] theorem State.noteConflict_store (s : State) (ag : Agent) (p : Path) (secs : List Nat) (only : Option Nat) :
    (State.noteConflict s ag p secs only).store = s.store := by simp [State.noteConflict]

@[simp] theorem State.mergeV_store (s : State) (d : Nat) (t : List Nat) : (State.mergeV s d t).store = s.store := by simp [State.mergeV]

@[simp] theorem State.crossBack_store (s : State) (d e : Nat) : (State.crossBack s d e).store = s.store := by simp [State.crossBack]

/-- Entering the order of a die writes no byte. -/
@[simp] theorem State.enterSend_store (s : State) (b : BufWrite) (d : Nat) : (s.enterSend b d).1.store = s.store := by simp [State.enterSend]

@[simp] theorem State.notePoison_store (s : State) (u : Nat) (sp : Space) (a : Addr) (lower : Bool) :
    (State.notePoison s u sp a lower).store = s.store := by
  unfold State.notePoison
  split <;> simp

@[simp] theorem State.failAccess_store (s : State) (o : Op) (a : Access) (c : Cause) : (State.failAccess s o a c).store = s.store := by
  unfold State.failAccess
  repeat' split
  all_goals simp

@[simp] theorem State.finishAccess_store (s : State) (o : Op) (el : Nat) (ld : Land) (lane : Nat) (bs : List Byte) :
    (State.finishAccess s o el ld lane bs).store = s.store := by simp [State.finishAccess]

/-- A staged access writes no byte. -/
theorem State.stage1_store {s s1 : State} {u : Nat} {t : Team} {p : Path} {e : Staged} (h : s.stage1 u t p e = some s1) : s1.store = s.store := by
  unfold State.stage1 at h
  dsimp only at h
  repeat' split at h
  all_goals (try simp at h)
  all_goals (subst h; simp)

@[simp] theorem State.stageAccess_store (s : State) (o : Op) (a : Access) : (State.stageAccess s o a).store = s.store := by
  unfold State.stageAccess
  split
  · rfl
  · split
    · rename_i h
      simp [State.stage1_store h]
    · simp

@[simp] theorem State.sendRemote_store (s : State) (b : BufWrite) : (State.sendRemote s b).store = s.store := by
  unfold State.sendRemote
  dsimp only
  repeat' split
  all_goals simp

@[simp] theorem State.fresh_store (s : State) : (State.fresh s).store = s.store := by simp [State.fresh]

@[simp] theorem State.performRead_store (s : State) (o : Op) (a : Access) : (State.performRead s o a).store = s.store := by
  unfold State.performRead
  dsimp only
  repeat' split
  all_goals simp

@[simp] theorem State.performWrite_store (s : State) (o : Op) (a : Access) : (State.performWrite s o a).store = s.store := by
  unfold State.performWrite
  dsimp only
  repeat' split
  all_goals simp

@[simp] theorem State.delBuf_store (s : State) (id : Nat) : (State.delBuf s id).store = s.store := by simp [State.delBuf]

@[simp] theorem State.setBuf_store (s : State) (b : BufWrite) : (State.setBuf s b).store = s.store := by simp [State.setBuf]

@[simp] theorem State.delBufs_store (s : State) (ms : List BufWrite) : (State.delBufs s ms).store = s.store := by simp [State.delBufs]

@[simp] theorem State.noteStored_store (s : State) (b : BufWrite) (ps : List (Addr × Nat)) : (State.noteStored s b ps).store = s.store := by simp [State.noteStored]

@[simp] theorem State.advanceP_store (s : State) (d n : Nat) : (State.advanceP s d n).store = s.store := by simp [State.advanceP]

end Sys2Proof.Machine
end

