-- ==== Sys2Proof/Laws/FrameFrames.lean ====
section
/-!
SUPPORT. What the functions of Machine/Frames.lean leave unchanged: every stored byte (`State.store`), but for those that write memory.
-/

namespace Sys2Proof.Machine

@[simp] theorem State.takeFrame_store (s : State) (col : Nat) (lower : Bool) : (State.takeFrame s col lower).store = s.store := by simp [State.takeFrame]

end Sys2Proof.Machine
end

