-- ==== Sys2Proof/Laws/FrameOperands.lean ====
section
/-!
SUPPORT. What the functions of Machine/Operands.lean leave unchanged: every stored byte (`State.store`), but for those that write memory.
-/

namespace Sys2Proof.Machine

@[simp] theorem scalarV_store (i : Instr) (f : VForm) (op : Team → Word) (s : State) : Keeps s (scalarV i f op s) := by simp [scalarV]

@[simp] theorem scalarI_store (i : Instr) (f : IForm) (op : Team → Word) (s : State) : Keeps s (scalarI i f op s) := by simp [scalarI]

@[simp] theorem vectorV_store (i : Instr) (f : VForm) (ty : Ty) (raiser : Bool) (op : Team → Nat → Word × Sticky) (s : State) :
    Keeps s (vectorV i f ty raiser op s) := by simp [vectorV]

@[simp] theorem vectorI_store (i : Instr) (f : IForm) (raiser : Bool) (op : Team → Nat → Word × Sticky) (s : State) :
    Keeps s (vectorI i f raiser op s) := by simp [vectorI]

@[simp] theorem maskV_store (i : Instr) (f : VForm) (raiser : Bool) (op : Team → Nat → Bool × Sticky) (s : State) :
    Keeps s (maskV i f raiser op s) := by simp [maskV]

end Sys2Proof.Machine
end

