-- ==== Sys2Proof/Laws/FrameMemory.lean ====
section
/-!
SUPPORT. What the functions of Machine/Memory.lean leave unchanged: every stored byte (`State.store`), but for those that write memory.
-/

namespace Sys2Proof.Machine

@[simp] theorem State.addAccesses_store (s : State) (u : Nat) (t : Team) (se fs : Bool) (dests : List Dest) (acc : List Access) (raiser : Bool) :
    (State.addAccesses s u t se fs dests acc raiser).store = s.store := by simp [State.addAccesses]

@[simp] theorem spadT_store (i : Instr) (f : MForm) (dests : List Dest) (mk : Team → Nat → Act × Land) (s : State) :
    Keeps s (spadT i f dests mk s) := by simp [spadT]

@[simp] theorem execLds_store (f : MForm) (s : State) : Keeps s (execLds f s) := by simp [execLds]

@[simp] theorem execSts_store (f : MForm) (s : State) : Keeps s (execSts f s) := by simp [execSts]

@[simp] theorem execPref_store (f : MForm) (s : State) : Keeps s (execPref f s) := by simp [execPref]

@[simp] theorem atomF_store (i : Instr) (f : MForm) (aop : AOp) (s : State) : Keeps s (atomF i f aop s) := by simp [atomF]

@[simp] theorem execAtomfAdd_store (f : MForm) (s : State) : Keeps s (execAtomfAdd f s) := by simp [execAtomfAdd]

@[simp] theorem execAtomfSub_store (f : MForm) (s : State) : Keeps s (execAtomfSub f s) := by simp [execAtomfSub]

@[simp] theorem execAtomfMin_store (f : MForm) (s : State) : Keeps s (execAtomfMin f s) := by simp [execAtomfMin]

@[simp] theorem execAtomfMax_store (f : MForm) (s : State) : Keeps s (execAtomfMax f s) := by simp [execAtomfMax]

@[simp] theorem execAtomfAnd_store (f : MForm) (s : State) : Keeps s (execAtomfAnd f s) := by simp [execAtomfAnd]

@[simp] theorem execAtomfOr_store (f : MForm) (s : State) : Keeps s (execAtomfOr f s) := by simp [execAtomfOr]

@[simp] theorem execAtomfXor_store (f : MForm) (s : State) : Keeps s (execAtomfXor f s) := by simp [execAtomfXor]

@[simp] theorem execAtomfXchg_store (f : MForm) (s : State) : Keeps s (execAtomfXchg f s) := by simp [execAtomfXchg]

@[simp] theorem execAtomfCas_store (f : MForm) (s : State) : Keeps s (execAtomfCas f s) := by simp [execAtomfCas]

@[simp] theorem execAtomfFadd_store (f : MForm) (s : State) : Keeps s (execAtomfFadd f s) := by simp [execAtomfFadd]

@[simp] theorem execAtomfMaxi_store (f : MForm) (s : State) : Keeps s (execAtomfMaxi f s) := by simp [execAtomfMaxi]

@[simp] theorem execAtomfMini_store (f : MForm) (s : State) : Keeps s (execAtomfMini f s) := by simp [execAtomfMini]

@[simp] theorem execAtomrAdd_store (f : MForm) (s : State) : Keeps s (execAtomrAdd f s) := by
  unfold execAtomrAdd
  refine State.issue_store _ _ _ _ _ fun s u t => ?_
  split <;> simp

end Sys2Proof.Machine
end

