-- ==== Sys2Proof/Laws/FrameUnits.lean ====
section
/-!
SUPPORT. What the functions of Machine/Units.lean leave unchanged: every stored byte (`State.store`), but for those that write memory.
-/

namespace Sys2Proof.Machine

@[simp] theorem State.enterIntake_store (s : State) (col : Nat) (e : Intake) : (State.enterIntake s col e).store = s.store := by simp [State.enterIntake]

end Sys2Proof.Machine
end

