-- ==== Sys2Proof/Laws/FrameTurn.lean ====
section
/-!
SUPPORT. What the functions of Machine/Turn.lean leave unchanged: every stored byte (`State.store`), but for those that write memory.
-/

namespace Sys2Proof.Machine

@[simp] theorem State.streamFetchFail_store (s : State) (u : Nat) (mtx : Bool) (c : Cause) (pc : Addr) (slot : Nat) (a : Addr) :
    (State.streamFetchFail s u mtx c pc slot a).store = s.store := by
  unfold State.streamFetchFail
  repeat' split
  all_goals simp

end Sys2Proof.Machine
end

