-- ==== Sys2Proof/Laws/FrameClauses.lean ====
section
/-!
SUPPORT. What the functions of Machine/Clauses.lean leave unchanged: every stored byte (`State.store`), but for those that write memory.
-/

namespace Sys2Proof.Machine

@[simp] theorem State.startClause_store (s : State) (u : Nat) (t : Team) : (State.startClause s u t).store = s.store := by
  unfold State.startClause
  repeat' split
  all_goals simp

@[simp] theorem State.startStream_store (s : State) (u : Nat) (mtx : Bool) (t : Team) (x : Stream) :
    (State.startStream s u mtx t x).store = s.store := by
  unfold State.startStream
  dsimp only
  repeat' split
  all_goals simp

@[simp] theorem execClauseStart_store (s : State) : Keeps s (execClauseStart s) := by
  unfold execClauseStart
  repeat' split
  all_goals simp

@[simp] theorem State.enterBoundary_store (s : State) (u : Nat) (t : Team) (c : Cause) : (State.enterBoundary s u t c).store = s.store := by
  unfold State.enterBoundary
  repeat' split
  all_goals simp

@[simp] theorem State.parkWindow_store (s : State) (u : Nat) : (State.parkWindow s u).store = s.store := by simp [State.parkWindow]

@[simp] theorem execTrapEntry_store (s : State) : Keeps s (execTrapEntry s) := by
  unfold execTrapEntry
  repeat' split
  all_goals simp

@[simp] theorem execStallThreshold_store (s : State) : Keeps s (execStallThreshold s) := by
  unfold execStallThreshold
  repeat' split
  all_goals simp

@[simp] theorem State.activate_store (s : State) (u : Nat) : (State.activate s u).store = s.store := by simp [State.activate]

@[simp] theorem State.swap_store (s : State) (u v : Nat) : (State.swap s u v).store = s.store := by simp [State.swap]

@[simp] theorem execTeamExchange_store (s : State) : Keeps s (execTeamExchange s) := by
  unfold execTeamExchange
  dsimp only
  repeat' split
  all_goals simp

@[simp] theorem execTimeSliceExpiry_store (s : State) : Keeps s (execTimeSliceExpiry s) := by
  unfold execTimeSliceExpiry
  repeat' split
  all_goals simp

@[simp] theorem State.fillSlot_store (s : State) (c : Nat) : (State.fillSlot s c).store = s.store := by
  unfold State.fillSlot
  repeat' split
  all_goals simp

@[simp] theorem State.fillColumn_store (s : State) (c : Nat) : (State.fillColumn s c).store = s.store := by
  unfold State.fillColumn
  dsimp only
  split <;> simp

@[simp] theorem State.tidy_store (s : State) : (State.tidy s).store = s.store := by
  unfold State.tidy
  dsimp only
  split <;> simp

@[simp] theorem execTeamRetire_store (s : State) : Keeps s (execTeamRetire s) := by
  unfold execTeamRetire
  repeat' split
  all_goals simp

end Sys2Proof.Machine
end

