-- ==== Sys2Proof/Laws/FrameGenerator.lean ====
section
/-!
SUPPORT. What the functions of Machine/Generator.lean leave unchanged: every stored byte (`State.store`), but for those that write memory.
-/

namespace Sys2Proof.Machine

@[simp] theorem genPhase_store (ph : Phase) (body : State → Nat → Team → State) (s : State) (u : Nat) (t : Team)
    (h : (body s u t).store = s.store) : (genPhase ph body s u t).store = s.store := by
  unfold genPhase
  split <;> simp [h]

@[simp] theorem State.goTo_store (s : State) (u : Nat) (t : Team) : (State.goTo s u t).store = s.store := by simp [State.goTo]

@[simp] theorem execGen_store (f : BForm) (s : State) : Keeps s (execGen f s) := by
  unfold execGen
  refine State.issue_store _ _ _ _ _ fun s u t => genPhase_store _ _ _ _ _ ?_
  repeat' (first | (simp; done) | split | dsimp only)

@[simp] theorem State.switchCheck_store (s : State) (u least : Nat) : (State.switchCheck s u least).store = s.store := by
  unfold State.switchCheck
  repeat' split
  all_goals simp

@[simp] theorem execYield_store (f : VForm) (s : State) : Keeps s (execYield f s) := by
  unfold execYield
  refine State.issue_store _ _ _ _ _ fun s u t => genPhase_store _ _ _ _ _ ?_
  repeat' (first | (simp; done) | split | dsimp only)

@[simp] theorem execGsw_store (s : State) : Keeps s (execGsw s) := by simp [execGsw]

@[simp] theorem execGdone_store (f : VForm) (s : State) : Keeps s (execGdone f s) := by
  unfold execGdone
  refine State.issue_store _ _ _ _ _ fun s u t => genPhase_store _ _ _ _ _ ?_
  repeat' (first | (simp; done) | split | dsimp only)

@[simp] theorem execGcon_store (f : BForm) (s : State) : Keeps s (execGcon f s) := by
  unfold execGcon
  refine State.issue_store _ _ _ _ _ fun s u t => genPhase_store _ _ _ _ _ ?_
  repeat' (first | (simp; done) | split | dsimp only)

@[simp] theorem execGfr_store (f : VForm) (s : State) : Keeps s (execGfr f s) := by
  unfold execGfr
  refine State.issue_store _ _ _ _ _ fun s u t => genPhase_store _ _ _ _ _ ?_
  repeat' (first | (simp; done) | split | dsimp only)

@[simp] theorem execGfrInfo_store (f : VForm) (s : State) : Keeps s (execGfrInfo f s) := by simp [execGfrInfo]

end Sys2Proof.Machine
end

