-- ==== Sys2Proof/Laws/FrameControl.lean ====
section
/-!
SUPPORT. What the functions of Machine/Control.lean leave unchanged: every stored byte (`State.store`), but for those that write memory.
-/

namespace Sys2Proof.Machine

@[simp] theorem branch_store (i : Instr) (m : BitVec 4) (taken : Team → Bool) (target : Team → Nat → Addr) (link : Option Nat) (s : State) :
    Keeps s (branch i m taken target link s) := by
  unfold branch
  refine State.issue_store _ _ _ _ _ fun s u t => ?_
  repeat' (first | (simp; done) | split | dsimp only)

@[simp] theorem execBra_store (f : BForm) (s : State) : Keeps s (execBra f s) := by simp [execBra]

@[simp] theorem execBrac_store (f : BForm) (s : State) : Keeps s (execBrac f s) := by simp [execBrac]

@[simp] theorem execBrav_store (f : BForm) (s : State) : Keeps s (execBrav f s) := by simp [execBrav]

@[simp] theorem execCall_store (f : BForm) (s : State) : Keeps s (execCall f s) := by simp [execCall]

@[simp] theorem execCallReg_store (f : BForm) (s : State) : Keeps s (execCallReg f s) := by simp [execCallReg]

@[simp] theorem execRet_store (f : BForm) (s : State) : Keeps s (execRet f s) := by simp [execRet]

@[simp] theorem execExit_store (f : BForm) (s : State) : Keeps s (execExit f s) := by simp [execExit]

@[simp] theorem execKill_store (s : State) : Keeps s (execKill s) := by simp [execKill]

@[simp] theorem execSetk_store (f : VForm) (s : State) : Keeps s (execSetk f s) := by simp [execSetk]

@[simp] theorem execClrk_store (f : VForm) (s : State) : Keeps s (execClrk f s) := by simp [execClrk]

@[simp] theorem execWaitk_store (f : VForm) (s : State) : Keeps s (execWaitk f s) := by
  unfold execWaitk
  refine State.issue_store _ _ _ _ _ fun s u t => ?_
  split <;> simp

@[simp] theorem State.endWaitk_store (s : State) (u : Nat) (w : Wait) : (State.endWaitk s u w).store = s.store := by
  unfold State.endWaitk
  repeat' split
  all_goals simp

@[simp] theorem execWaitkComplete_store (s : State) : Keeps s (execWaitkComplete s) := by
  unfold execWaitkComplete
  repeat' split
  all_goals simp

@[simp] theorem nopOf_store (i : Instr) (se fs : Bool) (s : State) : Keeps s (nopOf i se fs s) := by simp [nopOf]

@[simp] theorem execNop_store (s : State) : Keeps s (execNop s) := by simp [execNop]

@[simp] theorem execNopSet0_store (s : State) : Keeps s (execNopSet0 s) := by simp [execNopSet0]

@[simp] theorem execNopSet1_store (s : State) : Keeps s (execNopSet1 s) := by simp [execNopSet1]

@[simp] theorem execYld_store (s : State) : Keeps s (execYld s) := by
  unfold execYld
  refine State.issue_store _ _ _ _ _ fun s u t => ?_
  split <;> simp

@[simp] theorem State.openBar_store (s : State) (g : Workgroup) : (State.openBar s g).store = s.store := by simp [State.openBar]

@[simp] theorem execBar_store (s : State) : Keeps s (execBar s) := by
  unfold execBar
  refine State.issue_store _ _ _ _ _ fun s u t => ?_
  repeat' (first | (simp; done) | split | dsimp only)

@[simp] theorem execBarOpen_store (s : State) : Keeps s (execBarOpen s) := by
  unfold execBarOpen
  repeat' split
  all_goals simp

@[simp] theorem State.tryFork_store (s : State) (u : Nat) (mtx : Bool) : (State.tryFork s u mtx).store = s.store := by
  unfold State.tryFork
  repeat' split
  all_goals simp

@[simp] theorem fork_store (i : Instr) (mtx : Bool) (target : Team → Addr) (s : State) : Keeps s (fork i mtx target s) := by
  unfold fork
  refine State.issue_store _ _ _ _ _ fun s u t => ?_
  repeat' (first | (simp; done) | split)

@[simp] theorem execForkCopy_store (f : BForm) (s : State) : Keeps s (execForkCopy f s) := by simp [execForkCopy]

@[simp] theorem execForkMatrix_store (f : BForm) (s : State) : Keeps s (execForkMatrix f s) := by simp [execForkMatrix]

@[simp] theorem execForkReg_store (f : BForm) (s : State) : Keeps s (execForkReg f s) := by simp [execForkReg]

@[simp] theorem execPendingForkStart_store (s : State) : Keeps s (execPendingForkStart s) := by
  unfold execPendingForkStart
  split <;> simp

@[simp] theorem execIter_store (f : VForm) (s : State) : Keeps s (execIter f s) := by simp [execIter]

@[simp] theorem execIterAnswer_store (s : State) : Keeps s (execIterAnswer s) := by
  unfold execIterAnswer
  dsimp only
  repeat' split
  all_goals simp

@[simp] theorem execLnch_store (f : VForm) (s : State) : Keeps s (execLnch f s) := by
  unfold execLnch
  refine State.issue_store _ _ _ _ _ fun s u t => ?_
  repeat' (first | (simp; done) | split | dsimp only)

@[simp] theorem execCntw_store (f : VForm) (s : State) : Keeps s (execCntw f s) := by
  unfold execCntw
  refine State.issue_store _ _ _ _ _ fun s u t => ?_
  repeat' (first | (simp; done) | split | dsimp only)

@[simp] theorem execCntwQuery_store (f : VForm) (s : State) : Keeps s (execCntwQuery f s) := by simp [execCntwQuery]

@[simp] theorem execCancel_store (f : VForm) (s : State) : Keeps s (execCancel f s) := by
  unfold execCancel
  refine State.issue_store _ _ _ _ _ fun s u t => ?_
  repeat' (first | (simp; done) | split | dsimp only)

@[simp] theorem State.sendIntake_store (s : State) (o : Op) : (State.sendIntake s o).store = s.store := by
  unfold State.sendIntake
  repeat' split
  all_goals simp

@[simp] theorem State.endCntw_store (s : State) (o : Op) (d : Nat) (h : Word) : (State.endCntw s o d h).store = s.store := by
  unfold State.endCntw
  dsimp only
  repeat' split
  all_goals simp

end Sys2Proof.Machine
end

