-- ==== Sys2Proof/Laws/FrameEngine.lean ====
section
/-!
SUPPORT. What the functions of Machine/Engine.lean leave unchanged: every stored byte (`State.store`), but for those that write memory.
-/

namespace Sys2Proof.Machine

@[simp] theorem State.advanceEng_store (s : State) (u : Nat) (mtx : Bool) (k : Nat) : (State.advanceEng s u mtx k).store = s.store := by simp [State.advanceEng]

@[simp] theorem State.issueEng_store (s : State) (mtx : Bool) (i : Instr) (se fs : Bool) (body : State → Nat → Team → Stream → State)
    (h : ∀ s u t x, (body s u t x).store = s.store) : Keeps s (s.issueEng mtx i se fs body) := by
  unfold State.issueEng
  repeat' (first | (simp [h]; done) | split | dsimp only)

@[simp] theorem State.addEng_store (s : State) (u : Nat) (x : Stream) (se fs : Bool) (k : OpKind) :
    (State.addEng s u x se fs k).store = s.store := by simp [State.addEng]

@[simp] theorem State.endStream_store (s : State) (u : Nat) (mtx : Bool) : (State.endStream s u mtx).store = s.store := by
  unfold State.endStream
  dsimp only
  repeat' split
  all_goals simp

@[simp] theorem execStreamEnd_store (s : State) : Keeps s (execStreamEnd s) := by
  unfold execStreamEnd
  split <;> simp

@[simp] theorem State.endRdv_store (s : State) (u cls : Nat) : (State.endRdv s u cls).store = s.store := by
  unfold State.endRdv
  split <;> simp

@[simp] theorem execRdv_store (f : VForm) (s : State) : Keeps s (execRdv f s) := by
  unfold execRdv
  refine State.issue_store _ _ _ _ _ fun s u t => ?_
  repeat' (first | (simp; done) | split | dsimp only)

@[simp] theorem execRdvComplete_store (s : State) : Keeps s (execRdvComplete s) := by
  unfold execRdvComplete
  repeat' split
  all_goals simp

end Sys2Proof.Machine
end

