-- ==== Sys2Proof/Laws/FrameFloat.lean ====
section
/-!
SUPPORT. What the functions of Machine/Float.lean leave unchanged: every stored byte (`State.store`), but for those that write memory.
-/

namespace Sys2Proof.Machine

@[simp] theorem float2_store (i : Instr) (f : VForm) (op : Fmt → RMode → Bool → Val → Val → Rounded) (s : State) :
    Keeps s (float2 i f op s) := by simp [float2]

@[simp] theorem float2I_store (i : Instr) (f : IForm) (op : Fmt → RMode → Bool → Val → Val → Rounded) (s : State) :
    Keeps s (float2I i f op s) := by simp [float2I]

@[simp] theorem execFadd_store (f : VForm) (s : State) : Keeps s (execFadd f s) := by simp [execFadd]

@[simp] theorem execFaddImm_store (f : IForm) (s : State) : Keeps s (execFaddImm f s) := by simp [execFaddImm]

@[simp] theorem execFsub_store (f : VForm) (s : State) : Keeps s (execFsub f s) := by simp [execFsub]

@[simp] theorem execFsubImm_store (f : IForm) (s : State) : Keeps s (execFsubImm f s) := by simp [execFsubImm]

@[simp] theorem execFmul_store (f : VForm) (s : State) : Keeps s (execFmul f s) := by simp [execFmul]

@[simp] theorem execFmulImm_store (f : IForm) (s : State) : Keeps s (execFmulImm f s) := by simp [execFmulImm]

@[simp] theorem execFdiv_store (f : VForm) (s : State) : Keeps s (execFdiv f s) := by simp [execFdiv]

@[simp] theorem execFfma_store (f : VForm) (s : State) : Keeps s (execFfma f s) := by simp [execFfma]

@[simp] theorem execFsqrt_store (f : VForm) (s : State) : Keeps s (execFsqrt f s) := by simp [execFsqrt]

@[simp] theorem execFrnd_store (f : VForm) (s : State) : Keeps s (execFrnd f s) := by simp [execFrnd]

@[simp] theorem execFscl_store (f : VForm) (s : State) : Keeps s (execFscl f s) := by simp [execFscl]

@[simp] theorem execFdot2_store (f : VForm) (s : State) : Keeps s (execFdot2 f s) := by simp [execFdot2]

@[simp] theorem fminmax_store (i : Instr) (f : VForm) (isMax : Bool) (s : State) : Keeps s (fminmax i f isMax s) := by simp [fminmax]

@[simp] theorem fminmaxI_store (i : Instr) (f : IForm) (isMax : Bool) (s : State) : Keeps s (fminmaxI i f isMax s) := by simp [fminmaxI]

@[simp] theorem execFmin_store (f : VForm) (s : State) : Keeps s (execFmin f s) := by simp [execFmin]

@[simp] theorem execFminImm_store (f : IForm) (s : State) : Keeps s (execFminImm f s) := by simp [execFminImm]

@[simp] theorem execFmax_store (f : VForm) (s : State) : Keeps s (execFmax f s) := by simp [execFmax]

@[simp] theorem execFmaxImm_store (f : IForm) (s : State) : Keeps s (execFmaxImm f s) := by simp [execFmaxImm]

@[simp] theorem fmaxi_store (i : Instr) (f : VForm) (isMax : Bool) (s : State) : Keeps s (fmaxi i f isMax s) := by simp [fmaxi]

@[simp] theorem execFmaxi_store (f : VForm) (s : State) : Keeps s (execFmaxi f s) := by simp [execFmaxi]

@[simp] theorem execFmini_store (f : VForm) (s : State) : Keeps s (execFmini f s) := by simp [execFmini]

@[simp] theorem execFabs_store (f : VForm) (s : State) : Keeps s (execFabs f s) := by simp [execFabs]

@[simp] theorem execFneg_store (f : VForm) (s : State) : Keeps s (execFneg f s) := by simp [execFneg]

@[simp] theorem execFcmp_store (f : VForm) (s : State) : Keeps s (execFcmp f s) := by simp [execFcmp]

@[simp] theorem execFclass_store (f : VForm) (s : State) : Keeps s (execFclass f s) := by simp [execFclass]

@[simp] theorem execFcvt_store (f : VForm) (s : State) : Keeps s (execFcvt f s) := by simp [execFcvt]

@[simp] theorem execFcvti_store (f : VForm) (s : State) : Keeps s (execFcvti f s) := by simp [execFcvti]

@[simp] theorem execIcvtf_store (f : VForm) (s : State) : Keeps s (execIcvtf f s) := by simp [execIcvtf]

@[simp] theorem execNcvt_store (f : VForm) (s : State) : Keeps s (execNcvt f s) := by simp [execNcvt]

@[simp] theorem execRnenc_store (f : VForm) (s : State) : Keeps s (execRnenc f s) := by simp [execRnenc]

@[simp] theorem execRndec_store (f : VForm) (s : State) : Keeps s (execRndec f s) := by simp [execRndec]

@[simp] theorem execRnadd_store (f : VForm) (s : State) : Keeps s (execRnadd f s) := by simp [execRnadd]

@[simp] theorem execRnmul_store (f : VForm) (s : State) : Keeps s (execRnmul f s) := by simp [execRnmul]

@[simp] theorem execRng_store (f : VForm) (s : State) : Keeps s (execRng f s) := by simp [execRng]

end Sys2Proof.Machine
end

