-- ==== Sys2Proof/Laws/FrameExchange.lean ====
section
/-!
SUPPORT. What the functions of Machine/Exchange.lean leave unchanged: every stored byte (`State.store`), but for those that write memory.
-/

namespace Sys2Proof.Machine

@[simp] theorem permX_store (f : XForm) (src : Team → Nat → Nat × Int) (s : State) (u : Nat) (t : Team) :
    (permX f src s u t).store = s.store := by simp [permX]

@[simp] theorem execXlane_store (f : XForm) (s : State) : Keeps s (execXlane f s) := by
  unfold execXlane
  refine State.issue_store _ _ _ _ _ fun s u t => ?_
  repeat' (first | (simp; done) | split | dsimp only)

@[simp] theorem execXshuf_store (f : XForm) (s : State) : Keeps s (execXshuf f s) := by
  unfold execXshuf
  dsimp only
  repeat' split
  all_goals simp

@[simp] theorem segX_store (i : Instr) (f : XForm) (res : Nat → List (Option CElem) → List (Option CElem × Sticky)) (s : State) :
    Keeps s (segX i f res s) := by
  unfold segX
  refine State.issue_store _ _ _ _ _ fun s u t => ?_
  repeat' (first | (simp; done) | split | dsimp only)

@[simp] theorem execXred_store (f : XForm) (s : State) : Keeps s (execXred f s) := by
  unfold execXred
  repeat' (first | (simp; done) | split | dsimp only)

@[simp] theorem execXscan_store (f : XForm) (s : State) : Keeps s (execXscan f s) := by
  unfold execXscan
  split <;> simp

@[simp] theorem execXvote_store (f : XForm) (s : State) : Keeps s (execXvote f s) := by simp [execXvote]

@[simp] theorem execXcol_store (f : XForm) (s : State) : Keeps s (execXcol f s) := by
  unfold execXcol
  refine State.issue_store _ _ _ _ _ fun s u t => ?_
  split <;> simp

@[simp] theorem execXcolComplete_store (s : State) : Keeps s (execXcolComplete s) := by
  unfold execXcolComplete
  repeat' split
  all_goals simp

end Sys2Proof.Machine
end

