-- ==== Sys2Proof/Laws/FrameSystem.lean ====
section
/-!
SUPPORT. What the functions of Machine/System.lean leave unchanged: every stored byte (`State.store`), but for those that write memory.
-/

namespace Sys2Proof.Machine

@[simp] theorem execTrap_store (f : IForm) (s : State) : Keeps s (execTrap f s) := by
  unfold execTrap
  refine State.issue_store _ _ _ _ _ fun s u t => ?_
  split <;> simp

@[simp] theorem State.resumeStream_store (s : State) (u eng : Nat) : (State.resumeStream s u eng).store = s.store := by
  unfold State.resumeStream
  dsimp only
  repeat' split
  all_goals simp

@[simp] theorem execRte_store (s : State) : Keeps s (execRte s) := by
  unfold execRte
  refine State.issue_store _ _ _ _ _ fun s u t => ?_
  repeat' (first | (simp; done) | split | dsimp only)

@[simp] theorem execCsrr_store (f : IForm) (s : State) : Keeps s (execCsrr f s) := by
  unfold execCsrr
  refine State.issue_store _ _ _ _ _ fun s u t => ?_
  repeat' (first | (simp; done) | split | dsimp only)

@[simp] theorem execCsrw_store (f : IForm) (s : State) : Keeps s (execCsrw f s) := by
  unfold execCsrw
  refine State.issue_store _ _ _ _ _ fun s u t => ?_
  split <;> simp

@[simp] theorem execCsrwFstat_store (f : IForm) (s : State) : Keeps s (execCsrwFstat f s) := by
  unfold execCsrwFstat
  refine State.issue_store _ _ _ _ _ fun s u t => ?_
  split <;> simp

@[simp] theorem execCsrwFctl_store (f : IForm) (s : State) : Keeps s (execCsrwFctl f s) := by
  unfold execCsrwFctl
  refine State.issue_store _ _ _ _ _ fun s u t => ?_
  split <;> simp

@[simp] theorem execCsrwElogInfo_store (f : IForm) (s : State) : Keeps s (execCsrwElogInfo f s) := by
  unfold execCsrwElogInfo
  refine State.issue_store _ _ _ _ _ fun s u t => ?_
  split <;> simp

@[simp] theorem execCsrwTrapCause_store (f : IForm) (s : State) : Keeps s (execCsrwTrapCause f s) := by
  unfold execCsrwTrapCause
  refine State.issue_store _ _ _ _ _ fun s u t => ?_
  split <;> simp

@[simp] theorem execQfeat_store (f : IForm) (s : State) : Keeps s (execQfeat f s) := by simp [execQfeat]

@[simp] theorem execQphys_store (f : IForm) (s : State) : Keeps s (execQphys f s) := by simp [execQphys]

@[simp] theorem execSfdrn_store (s : State) : Keeps s (execSfdrn s) := by
  unfold execSfdrn
  refine State.issue_store _ _ _ _ _ fun s u t => ?_
  split <;> simp

@[simp] theorem execWfi_store (f : VForm) (s : State) : Keeps s (execWfi f s) := by
  unfold execWfi
  refine State.issue_store _ _ _ _ _ fun s u t => ?_
  repeat' (first | (simp; done) | split | dsimp only)

@[simp] theorem execWfiWake_store (s : State) : Keeps s (execWfiWake s) := by
  unfold execWfiWake
  repeat' split
  all_goals simp

@[simp] theorem ctxImage_store (i : Instr) (f : VForm) (load : Bool) (s : State) : Keeps s (ctxImage i f load s) := by
  unfold ctxImage
  refine State.issue_store _ _ _ _ _ fun s u t => ?_
  repeat' (first | (simp; done) | split | dsimp only)

@[simp] theorem execCtxsv_store (f : VForm) (s : State) : Keeps s (execCtxsv f s) := by simp [execCtxsv]

@[simp] theorem execCtxld_store (f : VForm) (s : State) : Keeps s (execCtxld f s) := by simp [execCtxld]

@[simp] theorem State.finishImage_store (s : State) (o : Op) (load : Bool) : (State.finishImage s o load).store = s.store := by
  unfold State.finishImage
  dsimp only
  repeat' split
  all_goals simp

end Sys2Proof.Machine
end

