-- ==== Sys2Proof/Laws/FrameCopy.lean ====
section
/-!
SUPPORT. What the functions of Machine/Copy.lean leave unchanged: every stored byte (`State.store`), but for those that write memory.
-/

namespace Sys2Proof.Machine

@[simp] theorem State.cpJudge_store (s : State) (o : Op) (c : CopyCmd) : (State.cpJudge s o c).store = s.store := by
  unfold State.cpJudge
  split <;> simp

@[simp] theorem State.askRange_store (s : State) (o : Op) (c : CopyCmd) (e : Nat × CpOperand × Nat × Bool) :
    (State.askRange s o c e).store = s.store := by simp [State.askRange]

@[simp] theorem State.startCopy_store (s : State) (u : Nat) (x : Stream) (se fs : Bool) (c : CopyCmd) :
    (State.startCopy s u x se fs c).store = s.store := by
  unfold State.startCopy
  dsimp only
  split <;> simp

@[simp] theorem copyData_store (i : Instr) (cop : COp) (f : CForm) (s : State) : Keeps s (copyData i cop f s) := by
  unfold copyData
  refine State.issueEng_store _ _ _ _ _ _ fun s u t x => (State.advanceEng_store _ _ _ _).trans ?_
  split
  · rfl
  · split <;> simp

@[simp] theorem execCpy_store (f : CForm) (s : State) : Keeps s (execCpy f s) := by simp [execCpy]

@[simp] theorem execCpym_store (f : CForm) (s : State) : Keeps s (execCpym f s) := by simp [execCpym]

@[simp] theorem execCpyf_store (f : CForm) (s : State) : Keeps s (execCpyf f s) := by simp [execCpyf]

@[simp] theorem execCpyg_store (f : CForm) (s : State) : Keeps s (execCpyg f s) := by simp [execCpyg]

@[simp] theorem execCpys_store (f : CForm) (s : State) : Keeps s (execCpys f s) := by simp [execCpys]

@[simp] theorem State.cpFail_store (s : State) (o : Op) (c : CopyCmd) (i : Nat) (cause : Cause) (a : Addr) :
    (State.cpFail s o c i cause a).store = s.store := by simp [State.cpFail]

@[simp] theorem State.cpStop_store (s : State) (o : Op) (c : CopyCmd) (cause : Cause) (a : Addr) :
    (State.cpStop s o c cause a).store = s.store := by
  unfold State.cpStop
  repeat' split
  all_goals simp

/-- Reading an element of a copy command writes no byte. -/
theorem State.cpRead_store {s : State} {u : Nat} {a : Access} {r : State × List Byte × Bool} (h : s.cpRead u a = some r) :
    r.1.store = s.store := by
  unfold State.cpRead at h
  split at h
  · contradiction
  · rw [← Option.some.inj h]
    dsimp only
    split <;> simp

/-- Reading an index of a copy command writes no byte. -/
theorem State.cpIndex_store {s t : State} {o : Op} {c : CopyCmd} {i : Nat} (h : s.cpIndex o c i = some (.error t)) : t.store = s.store := by
  unfold State.cpIndex at h
  split at h
  · simp at h
  · dsimp only at h
    split at h
    · simp only [Option.some.injEq, Except.error.injEq] at h
      simp [← h]
    · simp only [Option.some.injEq, Except.error.injEq] at h
      simp [← h]
    · split at h
      · contradiction
      · split at h
        · simp only [Option.some.injEq, Except.error.injEq] at h
          simp [← h]
        · simp at h

@[simp] theorem State.askDest_store (s : State) (o : Op) (c : CopyCmd) (i ix : Nat) : (State.askDest s o c i ix).store = s.store := by
  unfold State.askDest
  split <;> simp

@[simp] theorem State.askReserved_store (s : State) (o : Op) (c : CopyCmd) : (State.askReserved s o c).store = s.store := by simp [State.askReserved]

@[simp] theorem State.cpTake_store (s : State) (o : Op) (c0 : CopyCmd) (i : Nat) : (State.cpTake s o c0 i).store = s.store := by
  unfold State.cpTake
  repeat' (first | (simp; done) | (exact State.cpIndex_store (by assumption)) | split | dsimp only)
  all_goals exact (State.setOp_store _ _).trans (State.cpRead_store (by assumption))

@[simp] theorem State.cpStage_store (s : State) (o : Op) (c : CopyCmd) (t : Team) (a : Access) (i : Nat) :
    (State.cpStage s o c t a i).store = s.store := by
  unfold State.cpStage
  dsimp only
  repeat' split
  all_goals simp

@[simp] theorem State.cpPut_store (s : State) (o : Op) (c : CopyCmd) (i ix : Nat) (bs : List Byte) :
    (State.cpPut s o c i ix bs).store = s.store := by
  unfold State.cpPut
  dsimp only
  repeat' split
  all_goals simp

@[simp] theorem State.performCopy_store (s : State) (o : Op) (c : CopyCmd) (i : Nat) : (State.performCopy s o c i).store = s.store := by
  unfold State.performCopy
  repeat' split
  all_goals simp

@[simp] theorem execFifoBytesLand_store (s : State) : Keeps s (execFifoBytesLand s) := by
  unfold execFifoBytesLand
  dsimp only
  repeat' split
  all_goals simp

@[simp] theorem execCpymRequestArrival_store (s : State) : Keeps s (execCpymRequestArrival s) := by
  unfold execCpymRequestArrival
  dsimp only
  repeat' split
  all_goals simp

@[simp] theorem State.cpymTake_store (s : State) (n sector : Nat) : (State.cpymTake s n sector).store = s.store := by
  unfold State.cpymTake
  repeat' (first | (simp; done) | (refine foldl_store _ _ _ fun s a => ?_) | split)

@[simp] theorem execCpymSectorRead_store (s : State) : Keeps s (execCpymSectorRead s) := by
  unfold execCpymSectorRead
  dsimp only
  repeat' split
  all_goals simp

@[simp] theorem execCmx_store (f : KForm) (s : State) : Keeps s (execCmx f s) := by
  unfold execCmx
  refine State.issueEng_store _ _ _ _ _ _ fun s u t x => ?_
  repeat' (first | (simp; done) | split | dsimp only)

@[simp] theorem execFollowOnTrigger_store (s : State) : Keeps s (execFollowOnTrigger s) := by
  unfold execFollowOnTrigger
  dsimp only
  repeat' split
  all_goals simp

@[simp] theorem execCsig_store (f : KForm) (s : State) : Keeps s (execCsig f s) := by simp [execCsig]

@[simp] theorem execCwait_store (f : KForm) (s : State) : Keeps s (execCwait f s) := by simp [execCwait]

@[simp] theorem execCfence_store (f : KForm) (s : State) : Keeps s (execCfence f s) := by simp [execCfence]

@[simp] theorem execCend_store (s : State) : Keeps s (execCend s) := by simp [execCend]

@[simp] theorem State.finishCopy_store (s : State) (o : Op) : (State.finishCopy s o).store = s.store := by
  unfold State.finishCopy
  repeat' split
  all_goals simp

end Sys2Proof.Machine
end

