-- ==== Sys2Proof/Laws/FrameGroupOps.lean ====
section
/-!
SUPPORT. What the functions of Machine/GroupOps.lean leave unchanged: every stored byte (`State.store`), but for those that write memory.
-/

namespace Sys2Proof.Machine

@[simp] theorem State.withdrawPost_store (s : State) (x g col w : Nat) : (State.withdrawPost s x g col w).store = s.store := by
  unfold State.withdrawPost
  repeat' split
  all_goals simp

@[simp] theorem gpost_store (i : Instr) (f : VForm) (wd : Bool) (s : State) : Keeps s (gpost i f wd s) := by
  unfold gpost
  refine State.issue_store _ _ _ _ _ fun s u t => ?_
  split <;> simp

@[simp] theorem execGpost_store (f : VForm) (s : State) : Keeps s (execGpost f s) := by simp [execGpost]

@[simp] theorem execGpostWd_store (f : VForm) (s : State) : Keeps s (execGpostWd f s) := by simp [execGpostWd]

@[simp] theorem State.takeEffect_store (s : State) (o : Op) (g : Nat) (wd : Bool) : (State.takeEffect s o g wd).store = s.store := by
  unfold State.takeEffect
  dsimp only
  repeat' split
  all_goals simp

@[simp] theorem execGpostTakesEffect_store (s : State) : Keeps s (execGpostTakesEffect s) := by
  unfold execGpostTakesEffect
  repeat' split
  all_goals simp

@[simp] theorem execGbar_store (f : VForm) (s : State) : Keeps s (execGbar f s) := by
  unfold execGbar
  refine State.issue_store _ _ _ _ _ fun s u t => ?_
  dsimp only
  repeat' (first | (simp; done) | split)

@[simp] theorem execGbarComplete_store (s : State) : Keeps s (execGbarComplete s) := by
  unfold execGbarComplete
  dsimp only
  repeat' split
  all_goals simp

@[simp] theorem execGqry_store (f : VForm) (s : State) : Keeps s (execGqry f s) := by simp [execGqry]

@[simp] theorem ldg_store (i : Instr) (f : MForm) (code : Nat) (s : State) : Keeps s (ldg i f code s) := by simp [ldg]

@[simp] theorem State.sampleLdg_store (s : State) (o : Op) (t : Team) (grp : Option Nat) (w : Nat) (ls : List (Nat × Addr)) :
    (State.sampleLdg s o t grp w ls).store = s.store := by
  unfold State.sampleLdg
  dsimp only
  rw [State.setOp_store]
  refine foldl_store1 _ _ _ fun p a => ?_
  repeat' (first | (simp; done) | split)

@[simp] theorem State.performLdg_store (s : State) (o : Op) (a : Access) (grp : Option Nat) (code : Nat) (ty : Ty) (ls : List (Nat × Addr)) :
    (State.performLdg s o a grp code ty ls).store = s.store := by
  unfold State.performLdg
  repeat' split
  all_goals simp

@[simp] theorem State.finishLdg_store (s : State) (o : Op) (code : Nat) (ty : Ty) (d : Nat) (ls : List (Nat × Addr)) :
    (State.finishLdg s o code ty d ls).store = s.store := by
  unfold State.finishLdg
  dsimp only
  rw [State.completeOp_store]
  refine foldl_store1 _ _ _ fun p a => ?_
  repeat' (first | (simp; done) | split)

@[simp] theorem execLdgAdd_store (f : MForm) (s : State) : Keeps s (execLdgAdd f s) := by simp [execLdgAdd]

@[simp] theorem execLdgMin_store (f : MForm) (s : State) : Keeps s (execLdgMin f s) := by simp [execLdgMin]

@[simp] theorem execLdgMax_store (f : MForm) (s : State) : Keeps s (execLdgMax f s) := by simp [execLdgMax]

@[simp] theorem execLdgAnd_store (f : MForm) (s : State) : Keeps s (execLdgAnd f s) := by simp [execLdgAnd]

@[simp] theorem execLdgOr_store (f : MForm) (s : State) : Keeps s (execLdgOr f s) := by simp [execLdgOr]

@[simp] theorem execLdgXor_store (f : MForm) (s : State) : Keeps s (execLdgXor f s) := by simp [execLdgXor]

@[simp] theorem execLdgFadd_store (f : MForm) (s : State) : Keeps s (execLdgFadd f s) := by simp [execLdgFadd]

@[simp] theorem execLdgFmin_store (f : MForm) (s : State) : Keeps s (execLdgFmin f s) := by simp [execLdgFmin]

@[simp] theorem execLdgFmax_store (f : MForm) (s : State) : Keeps s (execLdgFmax f s) := by simp [execLdgFmax]

@[simp] theorem execLdgMaxi_store (f : MForm) (s : State) : Keeps s (execLdgMaxi f s) := by simp [execLdgMaxi]

@[simp] theorem execLdgMini_store (f : MForm) (s : State) : Keeps s (execLdgMini f s) := by simp [execLdgMini]

end Sys2Proof.Machine
end

