-- ==== Sys2Proof/Laws/FrameCurator.lean ====
section
/-!
SUPPORT. What the functions of Machine/Curator.lean leave unchanged: every stored byte (`State.store`), but for those that write memory.
-/

namespace Sys2Proof.Machine

@[simp] theorem State.settleUnit_store (s : State) (k : Nat) : (State.settleUnit s k).store = s.store := by
  unfold State.settleUnit
  repeat' split
  all_goals simp

@[simp] theorem State.decrement_store (s : State) (k n : Nat) : (State.decrement s k n).store = s.store := by simp [State.decrement]

@[simp] theorem execCounterDecrement_store (s : State) : Keeps s (execCounterDecrement s) := by
  unfold execCounterDecrement
  repeat' split
  all_goals simp

@[simp] theorem execUnitBegin_store (s : State) : Keeps s (execUnitBegin s) := by
  unfold execUnitBegin
  repeat' split
  all_goals simp

@[simp] theorem State.clearSlot_store (s : State) (col w : Nat) : (State.clearSlot s col w).store = s.store := by simp [State.clearSlot]

@[simp] theorem State.withdrawAll_store (s : State) (col w : Nat) : (State.withdrawAll s col w).store = s.store := by simp [State.withdrawAll]

@[simp] theorem State.cancelWg_store (s : State) (w : Nat) (g : Workgroup) : (State.cancelWg s w g).store = s.store := by
  unfold State.cancelWg
  split <;> simp

@[simp] theorem State.cancelLaunch_store (s : State) (k : Nat) (c : Completion) : (State.cancelLaunch s k c).store = s.store := by simp [State.cancelLaunch]

@[simp] theorem State.cancelUnit_store (s : State) (k : Nat) : (State.cancelUnit s k).store = s.store := by
  unfold State.cancelUnit
  split
  · rfl
  · split
    · rfl
    · dsimp only
      rw [foldl_store _ _ _ fun s a => by simp]
      refine foldl_store _ _ _ fun s a => ?_
      split <;> simp

@[simp] theorem execCancelRequest_store (s : State) : Keeps s (execCancelRequest s) := by
  unfold execCancelRequest
  dsimp only
  repeat' split
  all_goals simp

@[simp] theorem execCnclDelivery_store (s : State) : Keeps s (execCnclDelivery s) := by
  unfold execCnclDelivery
  repeat' split
  all_goals simp

@[simp] theorem State.addUnit_store (s : State) (c : Completion) : (State.addUnit s c).store = s.store := by simp [State.addUnit]

@[simp] theorem State.answerLnch_store (s : State) (op : Option Nat) (h : Word) : (State.answerLnch s op h).store = s.store := by
  unfold State.answerLnch
  repeat' split
  all_goals simp

@[simp] theorem State.rejectRecord_store (s : State) (lv : Level) (x : Nat) (op : Option Nat) (parent : Option Nat) :
    (State.rejectRecord s lv x op parent).store = s.store := by
  unfold State.rejectRecord
  split <;> simp

/-- Processing the head of the intake leaves the stored bytes as they are, when what the record does leaves them so. -/
theorem State.processRecord_store (s : State) (kind : Nat) (body : State → Nat → Option Nat → List Word → Option JobDesc → Processed)
    (hd : ∀ s x op ws d t, body s x op ws d = .done t → t.store = s.store)
    (hl : ∀ s x op ws d t, body s x op ws d = .later t → t.store = s.store) : Keeps s (s.processRecord kind body) := by
  unfold State.processRecord
  rw [keeps_next]
  split
  · split
    · split
      · rfl
      · split
        · rename_i e
          exact (hd _ _ _ _ _ _ e).trans (State.store_congr rfl rfl rfl rfl)
        · rename_i e
          exact (State.store_congr rfl rfl rfl rfl).trans ((hl _ _ _ _ _ _ e).trans (State.store_congr rfl rfl rfl rfl))
    · rfl
  · rfl

@[simp] theorem State.attach_store (s : State) (lv : Level) (x : Nat) (op : Option Nat) (p : Nat) (c : Completion) (want : Nat) :
    (State.attach s lv x op p c want).store = s.store := by simp [State.attach]

@[simp] theorem execRecordNewGraph_store (s : State) : Keeps s (execRecordNewGraph s) := by
  unfold execRecordNewGraph
  refine State.processRecord_store _ _ _ (fun s x op ws d t h => ?_) fun s x op ws d t h => nomatch h
  rw [← Processed.done.inj h]
  repeat' (first | (simp; done) | split | dsimp only)

@[simp] theorem execRecordNewPhase_store (s : State) : Keeps s (execRecordNewPhase s) := by
  unfold execRecordNewPhase
  refine State.processRecord_store _ _ _ (fun s x op ws d t h => ?_) fun s x op ws d t h => nomatch h
  rw [← Processed.done.inj h]
  repeat' (first | (simp; done) | split | dsimp only)

@[simp] theorem execRecordQuery_store (s : State) : Keeps s (execRecordQuery s) := by
  unfold execRecordQuery
  refine State.processRecord_store _ _ _ (fun s x op ws d t h => ?_) fun s x op ws d t h => nomatch h
  rw [← Processed.done.inj h]
  split <;> simp

@[simp] theorem State.askRemote_store (s : State) (sp : Space) (a : Addr) (n : Nat) (act : Act) :
    (State.askRemote s sp a n act).store = s.store := by simp [State.askRemote]

@[simp] theorem State.resvClear_store (s : State) : (State.resvClear s).store = s.store := rfl

@[simp] theorem State.acceptLaunch_store (s : State) (x : Nat) (op : Option Nat) (graph : Option Nat) (l : Launch) (dropped : Bool) :
    (State.acceptLaunch s x op graph l dropped).store = s.store := by
  unfold State.acceptLaunch
  repeat' split
  all_goals simp

end Sys2Proof.Machine
end

