-- ==== Sys2Proof/Laws/FrameResidency.lean ====
section
/-!
SUPPORT. What the functions of Machine/Residency.lean leave unchanged: every stored byte (`State.store`), but for those that write memory.
-/

namespace Sys2Proof.Machine

@[simp] theorem State.setLoan_store (s : State) (c i : Nat) (st : LoanState) : (State.setLoan s c i st).store = s.store := by simp [State.setLoan]

@[simp] theorem State.freeLoan_store (s : State) (c : Nat) : (State.freeLoan s c).store = s.store := by simp [State.freeLoan]

@[simp] theorem execLoanLend_store (s : State) : Keeps s (execLoanLend s) := by
  unfold execLoanLend
  repeat' split
  all_goals simp

@[simp] theorem execLoanReclaimComplete_store (s : State) : Keeps s (execLoanReclaimComplete s) := by
  unfold execLoanReclaimComplete
  repeat' split
  all_goals simp

/-- Writing a slot-table entry writes no byte. -/
theorem State.writeSlot_store {s t : State} {col : Nat} {e : SlotEntry} (h : s.writeSlot col e = some t) : t.store = s.store := by
  unfold State.writeSlot at h
  dsimp only at h
  split at h
  · simp [← Option.some.inj h]
  · contradiction

/-- Writing an entry, if there is a place for it, writes no byte. -/
@[simp] theorem State.writeSlot_getD_store (s : State) (col : Nat) (e : SlotEntry) : ((s.writeSlot col e).getD s).store = s.store := by
  cases h : s.writeSlot col e with
  | none => rfl
  | some t => exact State.writeSlot_store h

@[simp] theorem State.writeRestore_store (s : State) (w : Nat) (g : Workgroup) : (State.writeRestore s w g).store = s.store := by
  unfold State.writeRestore
  dsimp only
  split <;> simp

/-- Taking the room of a workgroup writes no byte. -/
theorem State.takeRoom_store {s t : State} {w : Nat} {rst : Bool} (h : s.takeRoom w rst = some t) : t.store = s.store := by
  unfold State.takeRoom at h
  repeat' (first | contradiction | (rw [← Option.some.inj h]; simp; done) | split at h)

/-- Taking the rooms of several workgroups writes no byte. -/
theorem State.takeRooms_store {s t : State} {rst : Bool} {ws : List Nat} (h : s.takeRooms rst ws = some t) : t.store = s.store := by
  induction ws generalizing s with
  | nil => rw [← Option.some.inj h]
  | cons w ws ih =>
    unfold State.takeRooms at h
    split at h
    · rename_i e
      rw [ih h, State.takeRoom_store e]
    · contradiction

@[simp] theorem State.makeResident_store (s : State) (ws : List Nat) (rst : Bool) (go : State → Nat → State)
    (h : ∀ s w, (go s w).store = s.store) : (s.makeResident ws rst go).store = s.store := by
  unfold State.makeResident
  split
  · rfl
  · rename_i e
    have he := State.takeRooms_store e
    dsimp only
    repeat' (first | (simp [h, he]; done) | (refine foldl_store _ _ _ fun s a => ?_) | split)

@[simp] theorem State.bindLowest_store (s : State) (k : Nat) : (State.bindLowest s k).store = s.store := by
  unfold State.bindLowest
  dsimp only
  repeat' split
  all_goals simp

@[simp] theorem execPreempt_store (s : State) : Keeps s (execPreempt s) := by
  unfold execPreempt
  split
  · rw [keeps_next]
    split
    · rfl
    · refine foldl_store _ _ _ fun s a => ?_
      repeat' (first | (simp; done) | split)
  · simp

@[simp] theorem State.saveTeam_store (s : State) (u : Nat) : (State.saveTeam s u).store = s.store := by
  unfold State.saveTeam
  repeat' split
  all_goals simp

@[simp] theorem State.saveMx_store (s : State) (u : Nat) : (State.saveMx s u).store = s.store := by
  unfold State.saveMx
  dsimp only
  repeat' split
  all_goals simp

@[simp] theorem State.saveWg_store (s : State) (w : Nat) : (State.saveWg s w).store = s.store := by
  unfold State.saveWg
  split <;> simp

@[simp] theorem execContextSave_store (s : State) : Keeps s (execContextSave s) := by
  unfold execContextSave
  dsimp only
  repeat' split
  all_goals simp

@[simp] theorem State.restoreWg_store (s : State) (w : Nat) : (State.restoreWg s w).store = s.store := by
  unfold State.restoreWg
  repeat' split
  all_goals simp

@[simp] theorem execRestore_store (s : State) : Keeps s (execRestore s) := by
  unfold execRestore
  dsimp only
  repeat' split
  all_goals simp

@[simp] theorem State.gatherFl_store (s : State) (w : Nat) (f : Sticky) : (State.gatherFl s w f).store = s.store := by simp [State.gatherFl]

end Sys2Proof.Machine
end

