-- ==== Sys2Proof/Laws/FrameCatalogue.lean ====
section
/-!
SUPPORT. What the functions of Machine/Catalogue.lean leave unchanged: every stored byte (`State.store`), but for those that write memory.
-/

namespace Sys2Proof.Machine

@[simp] theorem State.modObj_store (s : State) (x id : Nat) (f : Obj → Obj) : (State.modObj s x id f).store = s.store := by
  unfold State.modObj
  split <;> simp

@[simp] theorem catIssue_store (i : Instr) (f : VForm) (dests : List Dest) (lanes : Team → List (Nat × Addr)) (s : State) :
    Keeps s (catIssue i f dests lanes s) := by simp [catIssue]

@[simp] theorem execMapft_store (f : VForm) (s : State) : Keeps s (execMapft f s) := by simp [execMapft]

@[simp] theorem execCatld_store (f : VForm) (s : State) : Keeps s (execCatld f s) := by simp [execCatld]

@[simp] theorem execCatsetAccess_store (f : VForm) (s : State) : Keeps s (execCatsetAccess f s) := by simp [execCatsetAccess]

@[simp] theorem execCatsetBound_store (f : VForm) (s : State) : Keeps s (execCatsetBound f s) := by simp [execCatsetBound]

@[simp] theorem execCatsetHwm_store (f : VForm) (s : State) : Keeps s (execCatsetHwm f s) := by
  unfold execCatsetHwm
  refine State.issue_store _ _ _ _ _ fun s u t => ?_
  split <;> simp

@[simp] theorem execCatsetPg_store (f : VForm) (s : State) : Keeps s (execCatsetPg f s) := by simp [execCatsetPg]

@[simp] theorem execCatsnap_store (f : VForm) (s : State) : Keeps s (execCatsnap f s) := by simp [execCatsnap]

@[simp] theorem execCatsnapRel_store (f : VForm) (s : State) : Keeps s (execCatsnapRel f s) := by simp [execCatsnapRel]

@[simp] theorem State.setPage_store (s : State) (x u col : Nat) (a : Addr) (v : Word) (o : Obj) :
    (State.setPage s x u col a v o).store = s.store := by
  unfold State.setPage
  dsimp only
  repeat' split
  all_goals simp

/-- A CATSET that changes no bound writes no byte. -/
theorem State.doCatset_store (s : State) (o : Op) (i : Instr) (x col : Nat) (a b : Word) (h : ∀ f, i ≠ .catsetBound f) :
    (State.doCatset s o i x col a b).store = s.store := by
  unfold State.doCatset
  dsimp only
  repeat' (first | (simp; done) | exact absurd rfl (h _) | split)

/-- A snapshot writes no byte (R383). -/
@[simp] theorem State.doSnap_store (s : State) (x : Nat) (a : Word) : (s.doSnap x a).1.store = s.store := by
  unfold State.doSnap
  repeat' (first | (simp; done) | split | dsimp only)

@[simp] theorem execPoolRefill_store (s : State) : Keeps s (execPoolRefill s) := by
  unfold execPoolRefill
  repeat' split
  all_goals simp

@[simp] theorem State.placeAt_store (s : State) (dev : Nat) (e : Install) : (State.placeAt s dev e).store = s.store := by simp [State.placeAt]

end Sys2Proof.Machine
end

