-- ==== Sys2Proof/Laws/FrameFences.lean ====
section
/-!
SUPPORT. What the functions of Machine/Fences.lean leave unchanged: every stored byte (`State.store`), but for those that write memory.
-/

namespace Sys2Proof.Machine

@[simp] theorem fence_store (i : Instr) (f : VForm) (p q : Path) (s : State) : Keeps s (fence i f p q s) := by simp [fence]

@[simp] theorem execFence_store (f : VForm) (s : State) : Keeps s (execFence f s) := by simp [execFence]

@[simp] theorem execFencex_store (f : VForm) (s : State) : Keeps s (execFencex f s) := by simp [execFencex]

@[simp] theorem State.checkpoint_store (s : State) (u op sq : Nat) : (State.checkpoint s u op sq).store = s.store := by simp [State.checkpoint]

@[simp] theorem execFences_store (f : VForm) (s : State) : Keeps s (execFences f s) := by simp [execFences]

@[simp] theorem State.releaseStore_store (s : State) (u : Nat) (t : Team) (b : BufWrite) : (State.releaseStore s u t b).store = s.store := by
  unfold State.releaseStore
  dsimp only
  repeat' split
  all_goals simp
  exact State.stage1_store (by assumption)

@[simp] theorem State.closeWindow_store (s : State) (u : Nat) : (State.closeWindow s u).store = s.store := by
  unfold State.closeWindow
  repeat' split
  · rfl
  · rfl
  · refine (foldl_store _ _ _ fun s b => ?_).trans (State.setTeam_store _ _ _)
    split <;> simp

@[simp] theorem State.fenceDone_store (s : State) (o : Op) : (State.fenceDone s o).store = s.store := by
  unfold State.fenceDone
  repeat' split
  all_goals simp

@[simp] theorem execFenceComplete_store (s : State) : Keeps s (execFenceComplete s) := by
  unfold execFenceComplete
  repeat' split
  all_goals simp

@[simp] theorem execSpeculationConflict_store (s : State) : Keeps s (execSpeculationConflict s) := by
  unfold execSpeculationConflict
  repeat' split
  all_goals simp

@[simp] theorem execMmIssue_store (s : State) : Keeps s (execMmIssue s) := by
  unfold execMmIssue
  repeat' split
  all_goals simp

@[simp] theorem execMmTransfer_store (s : State) : Keeps s (execMmTransfer s) := by
  unfold execMmTransfer
  repeat' split
  all_goals simp

@[simp] theorem execSfQueueWrite_store (s : State) : Keeps s (execSfQueueWrite s) := by
  unfold execSfQueueWrite
  dsimp only
  repeat' split
  all_goals simp

end Sys2Proof.Machine
end

