-- ==== Sys2Proof/Laws/FrameReliability.lean ====
section
/-!
SUPPORT. What the functions of Machine/Reliability.lean leave unchanged: every stored byte (`State.store`), but for those that write memory.
-/

namespace Sys2Proof.Machine

@[simp] theorem State.recordCharged_store (s : State) (kind : Nat) (e : ErrSite) (k count : Nat) (c : Charge) :
    (State.recordCharged s kind e k count c).store = s.store := by simp [State.recordCharged]

@[simp] theorem State.recordAt_store (s : State) (kind : Nat) (e : ErrSite) (k count : Nat) :
    (State.recordAt s kind e k count).store = s.store := by simp [State.recordAt]

@[simp] theorem State.poisonGranule_store (s : State) (k : Nat) : (State.poisonGranule s k).store = s.store := by simp [State.poisonGranule]

@[simp] theorem State.poisonWord_store (s : State) (k : Nat) : (State.poisonWord s k).store = s.store := rfl

@[simp] theorem State.noteCorrected_store (s : State) (e : ErrSite) (k : Nat) : (State.noteCorrected s e k).store = s.store := by simp [State.noteCorrected]

@[simp] theorem State.recordSpad_store (s : State) (w kind off : Nat) : (State.recordSpad s w kind off).store = s.store := by simp [State.recordSpad]

@[simp] theorem State.replyTo_store (s : State) (tag : Nat) (bs : List Byte) (poison : BitVec 32) : (State.replyTo s tag bs poison).store = s.store := rfl

@[simp] theorem State.retireFrame_store (s : State) (tier col frame : Nat) : (State.retireFrame s tier col frame).store = s.store := by simp [State.retireFrame]

@[simp] theorem execErrorRecordMergeFlush_store (s : State) : Keeps s (execErrorRecordMergeFlush s) := by
  unfold execErrorRecordMergeFlush
  repeat' split
  all_goals simp

@[simp] theorem State.fatalWhere_store (s : State) (cause : Cause) (cols : Nat → Bool) : (State.fatalWhere s cause cols).store = s.store := by
  unfold State.fatalWhere
  refine foldl_store _ _ _ fun s a => ?_
  split <;> simp

@[simp] theorem State.recordReg_store (s : State) (t : Team) (kind : Nat) : (State.recordReg s t kind).store = s.store := by simp [State.recordReg]

@[simp] theorem State.regFatal_store (s : State) (u : Nat) (t : Team) : (State.regFatal s u t).store = s.store := by
  unfold State.regFatal
  repeat' split
  all_goals simp

@[simp] theorem State.observeReg_store (s : State) (u n lane : Nat) (scalar : Bool) (k : Nat) (obs : EccObs) :
    (State.observeReg s u n lane scalar k obs).store = s.store := by
  unfold State.observeReg
  repeat' split
  all_goals simp

@[simp] theorem execRegisterUncorrectable_store (s : State) : Keeps s (execRegisterUncorrectable s) := by
  unfold execRegisterUncorrectable
  repeat' split
  all_goals simp

@[simp] theorem State.leavePool_store (s : State) (col : Nat) (f : BitVec 2 × Nat) : (State.leavePool s col f).store = s.store := by simp [State.leavePool]

@[simp] theorem State.announce_store (s : State) (who : Nat → Context → Bool) : (State.announce s who).store = s.store := by simp [State.announce]

@[simp] theorem execDmaRead_store (s : State) : Keeps s (execDmaRead s) := by
  unfold execDmaRead
  repeat' split
  all_goals simp

@[simp] theorem execCxlPoisonReport_store (s : State) : Keeps s (execCxlPoisonReport s) := by
  unfold execCxlPoisonReport
  repeat' split
  all_goals simp

@[simp] theorem execCxlHotRemove_store (s : State) : Keeps s (execCxlHotRemove s) := by
  unfold execCxlHotRemove
  split
  · rw [keeps_next]
    split
    · exact (State.announce_store _ _).trans (State.store_congr rfl rfl rfl rfl)
    · rfl
  · simp

@[simp] theorem State.send_store (s : State) (port : Nat) (f : EtherFrame) (p : FarPacket) : (State.send s port f p).store = s.store := rfl

@[simp] theorem State.countFar_store (s : State) (r : PageRef) (src : BitVec 48) : (State.countFar s r src).store = s.store := rfl

/-- Checking a request of another device writes no byte. -/
theorem State.serveCheck_store {s t : State} {port : Nat} {f : EtherFrame} {tag x col : Nat} {a : Addr} {n more : Nat} {write atomic : Bool}
    (h : s.serveCheck port f tag x col a n more write atomic = some t) : t.store = s.store := by
  unfold State.serveCheck at h
  repeat' (first | contradiction | (rw [← Option.some.inj h]; simp; done) | split at h)

@[simp] theorem State.cpAnswered_store (s : State) (o : Op) (c : CopyCmd) (b : BufWrite) (r : Option (Cause × Addr)) :
    (State.cpAnswered s o c b r).store = s.store := by simp [State.cpAnswered]

@[simp] theorem State.probed_store (s : State) (b : BufWrite) : (State.probed s b).store = s.store := by
  unfold State.probed
  repeat' (first | (simp; done) | exact State.stage1_store (by assumption) | split)

@[simp] theorem State.resvAnswer_store (s : State) (id : Nat) (r : Option (List Byte)) : (State.resvAnswer s id r).store = s.store := rfl

@[simp] theorem State.answered_store (s : State) (b : BufWrite) (bs : List Byte) : (State.answered s b bs).store = s.store := by
  unfold State.answered
  repeat' split
  all_goals simp

@[simp] theorem State.answeredErr_store (s : State) (b : BufWrite) (c : Cause) (a : Addr) : (State.answeredErr s b c a).store = s.store := by
  unfold State.answeredErr
  repeat' split
  all_goals simp

@[simp] theorem State.reroute_store (s : State) (port : Nat) (f : EtherFrame) : (State.reroute s port f).store = s.store := by
  unfold State.reroute
  dsimp only
  repeat' split
  all_goals simp

@[simp] theorem execPortFailure_store (s : State) : Keeps s (execPortFailure s) := by
  unfold execPortFailure
  split
  · rw [keeps_next]
    split
    · rfl
    · dsimp only
      exact (foldl_store _ _ _ fun s a => State.reroute_store _ _ _).trans (State.store_congr rfl rfl rfl rfl)
  · simp

@[simp] theorem execDeliveryTimeout_store (s : State) : Keeps s (execDeliveryTimeout s) := by
  unfold execDeliveryTimeout
  repeat' split
  all_goals simp

end Sys2Proof.Machine
end

