-- ==== Sys2Proof/Laws/FrameHostSide.lean ====
section
/-!
SUPPORT. What the functions of Machine/HostSide.lean leave unchanged: every stored byte (`State.store`), but for those that write memory.
-/

namespace Sys2Proof.Machine

@[simp] theorem State.modMb_store (s : State) (who : Option Nat) (f : Mailbox → Mailbox) : (State.modMb s who f).store = s.store := by
  unfold State.modMb
  repeat' split
  all_goals simp

@[simp] theorem execMailboxOverrun_store (s : State) : Keeps s (execMailboxOverrun s) := by
  unfold execMailboxOverrun
  split <;> simp

@[simp] theorem State.respond_store (s : State) (who : Option Nat) (status : Nat) (result : Word) :
    (State.respond s who status result).store = s.store := by simp [State.respond]

@[simp] theorem State.command_store (s : State) (who : Option Nat) (m : Mailbox) (w0 : Word) : (State.command s who m w0).store = s.store := by
  unfold State.command
  repeat' split
  all_goals simp

@[simp] theorem State.pageWrite_store (s : State) (who : Option Nat) (off : Nat) (v : Word) :
    (State.pageWrite s who off v).store = s.store := by
  unfold State.pageWrite
  repeat' split
  all_goals simp

@[simp] theorem execHostRegisterWrite_store (s : State) : Keeps s (execHostRegisterWrite s) := by
  unfold execHostRegisterWrite
  repeat' split
  all_goals simp

@[simp] theorem State.execute_store (s : State) (who : Option Nat) (code : Nat) (body : State → Mailbox → State)
    (h : ∀ m, (body s m).store = s.store) : (s.execute who code body).store = s.store := by
  unfold State.execute
  repeat' (first | (simp [h]; done) | split)

@[simp] theorem State.startJob_store (s : State) (x : Nat) (d : JobDesc) : (State.startJob s x d).store = s.store := by simp [State.startJob]

@[simp] theorem execStartJob_store (s : State) : Keeps s (execStartJob s) := by
  unfold execStartJob
  repeat' (first | (simp; done) | rw [keeps_next] | (refine State.execute_store _ _ _ _ fun m => ?_) | (refine foldl_store _ _ _ fun s a => ?_) | split | dsimp only)

@[simp] theorem execMbCancel_store (s : State) : Keeps s (execMbCancel s) := by
  unfold execMbCancel
  repeat' (first | (simp; done) | rw [keeps_next] | (refine State.execute_store _ _ _ _ fun m => ?_) | (refine foldl_store _ _ _ fun s a => ?_) | split)

@[simp] theorem execMbStatus_store (s : State) : Keeps s (execMbStatus s) := by
  unfold execMbStatus
  split <;> simp

@[simp] theorem execCreateObject_store (s : State) : Keeps s (execCreateObject s) := by
  unfold execCreateObject
  repeat' (first | (simp; done) | rw [keeps_next] | (refine State.execute_store _ _ _ _ fun m => ?_) | (refine foldl_store _ _ _ fun s a => ?_) | split | dsimp only)

@[simp] theorem execDeleteObject_store (s : State) : Keeps s (execDeleteObject s) := by
  unfold execDeleteObject
  repeat' (first | (simp; done) | rw [keeps_next] | (refine State.execute_store _ _ _ _ fun m => ?_) | (refine foldl_store _ _ _ fun s a => ?_) | split | dsimp only)

@[simp] theorem execSetPartitions_store (s : State) : Keeps s (execSetPartitions s) := by
  unfold execSetPartitions
  repeat' (first | (simp; done) | rw [keeps_next] | (refine State.execute_store _ _ _ _ fun m => ?_) | (refine foldl_store _ _ _ fun s a => ?_) | split | dsimp only)

@[simp] theorem execSetInstallationEntry_store (s : State) : Keeps s (execSetInstallationEntry s) := by
  unfold execSetInstallationEntry
  repeat' (first | (simp; done) | rw [keeps_next] | (refine State.execute_store _ _ _ _ fun m => ?_) | (refine foldl_store _ _ _ fun s a => ?_) | split | dsimp only)

@[simp] theorem execSetPowerLimit_store (s : State) : Keeps s (execSetPowerLimit s) := by
  unfold execSetPowerLimit
  repeat' (first | (simp; done) | rw [keeps_next] | (refine State.execute_store _ _ _ _ fun m => ?_) | (refine foldl_store _ _ _ fun s a => ?_) | split | dsimp only)

@[simp] theorem execPowerOrThermalLimiting_store (s : State) : Keeps s (execPowerOrThermalLimiting s) := by
  unfold execPowerOrThermalLimiting
  split <;> simp

@[simp] theorem execPowerGood_store (s : State) : Keeps s (execPowerGood s) := by
  unfold execPowerGood
  split <;> simp

@[simp] theorem execStage0Complete_store (s : State) : Keeps s (execStage0Complete s) := by
  unfold execStage0Complete
  dsimp only
  repeat' split
  all_goals simp

@[simp] theorem execCriticalTemperature_store (s : State) : Keeps s (execCriticalTemperature s) := by simp [execCriticalTemperature]

/-- An answer to the device's mailbox after host memory is written. -/
theorem attest_reply_store (s : State) (h : Memory) (f : Mailbox → Mailbox) :
    ((({ s with hostMem := h } : State).respond none 0 0).modMb none f).store = s.store := by simp

@[simp] theorem execAttest_store (s : State) : Keeps s (execAttest s) := by
  unfold execAttest
  split
  · rw [keeps_next]
    refine State.execute_store _ _ _ _ fun m => ?_
    split
    · exact State.respond_store ..
    · exact attest_reply_store s _ _
  · simp

end Sys2Proof.Machine
end

