-- ==== Sys2Proof/Laws/FrameMatrix.lean ====
section
/-!
SUPPORT. What the functions of Machine/Matrix.lean leave unchanged: every stored byte (`State.store`), but for those that write memory.
-/

namespace Sys2Proof.Machine

@[simp] theorem matrixCmd_store (i : Instr) (f : GForm) (s : State) : Keeps s (matrixCmd i f s) := by
  unfold matrixCmd
  refine State.issueEng_store _ _ _ _ _ _ fun s u t x => ?_
  repeat' (first | (simp; done) | split | dsimp only)

@[simp] theorem execMclr_store (f : GForm) (s : State) : Keeps s (execMclr f s) := by simp [execMclr]

@[simp] theorem execMldn_store (f : GForm) (s : State) : Keeps s (execMldn f s) := by simp [execMldn]

@[simp] theorem execMldw_store (f : GForm) (s : State) : Keeps s (execMldw f s) := by simp [execMldw]

@[simp] theorem execMma_store (f : GForm) (s : State) : Keeps s (execMma f s) := by simp [execMma]

@[simp] theorem execMmas_store (f : GForm) (s : State) : Keeps s (execMmas f s) := by simp [execMmas]

@[simp] theorem execMdrn_store (f : GForm) (s : State) : Keeps s (execMdrn f s) := by simp [execMdrn]

@[simp] theorem execMsig_store (f : GForm) (s : State) : Keeps s (execMsig f s) := by
  unfold execMsig
  refine State.issueEng_store _ _ _ _ _ _ fun s u t x => ?_
  repeat' (first | (simp; done) | split)

@[simp] theorem execMend_store (s : State) : Keeps s (execMend s) := by
  unfold execMend
  refine State.issueEng_store _ _ _ _ _ _ fun s u t x => ?_
  repeat' (first | (simp; done) | split)

@[simp] theorem State.finishMsig_store (s : State) (o : Op) : (State.finishMsig s o).store = s.store := by
  unfold State.finishMsig
  repeat' split
  all_goals simp

@[simp] theorem State.endMx_store (s : State) (col op : Nat) : (State.endMx s col op).store = s.store := by simp [State.endMx]

@[simp] theorem State.modMx_store (s : State) (col : Nat) (f : MxState → MxState) : (State.modMx s col f).store = s.store := by simp [State.modMx]

@[simp] theorem State.drain_store (s : State) (col u : Nat) (t : Team) (c : MCmd) (f : GForm) :
    (State.drain s col u t c f).store = s.store := by
  unfold State.drain
  dsimp only
  repeat' split
  all_goals simp

@[simp] theorem State.stepMx_store (s : State) (col u : Nat) (t : Team) (c : MCmd) : (State.stepMx s col u t c).store = s.store := by
  unfold State.stepMx
  dsimp only
  repeat' split
  all_goals simp

@[simp] theorem execMatrixCommandComplete_store (s : State) : Keeps s (execMatrixCommandComplete s) := by
  unfold execMatrixCommandComplete
  repeat' split
  all_goals simp

@[simp] theorem execFollowOnExecute_store (s : State) : Keeps s (execFollowOnExecute s) := by
  unfold execFollowOnExecute
  repeat' split
  all_goals simp

end Sys2Proof.Machine
end

