-- ==== Sys2Proof/Laws/FrameMemEvents.lean ====
section
/-!
SUPPORT. What the functions of Machine/MemEvents.lean leave unchanged: every stored byte (`State.store`), but for those that write memory.
-/

namespace Sys2Proof.Machine

/-- An operation that is no instruction of the Catalogue completes without a change of a stored byte. -/
theorem State.finishOp_store (s : State) (o : Op) (h : ∀ i a b ls, o.kind ≠ .cat i a b ls) : (State.finishOp s o).store = s.store := by
  unfold State.finishOp
  cases hk : o.kind <;> dsimp only <;> first | rfl | exact absurd hk (h _ _ _ _) | (split <;> simp) | simp

/-- WRITE_PERFORMED of such an operation keeps every stored byte. -/
theorem execWritePerformed_store (s : State) (h : ∀ o ∈ s.ops, ∀ i a b ls, o.kind ≠ .cat i a b ls) : Keeps s (execWritePerformed s) := by
  unfold execWritePerformed
  cases s.arg <;> dsimp only <;> first | exact (keeps_next _ _).2 rfl | skip
  rw [keeps_next]
  split
  · next e => exact State.finishOp_store _ _ (h _ (List.mem_of_find?_eq_some e))
  · rfl

end Sys2Proof.Machine
end

