-- ==== Sys2Proof/Laws/FrameScalarInt.lean ====
section
/-!
SUPPORT. What the functions of Machine/ScalarInt.lean leave unchanged: every stored byte (`State.store`), but for those that write memory.
-/

namespace Sys2Proof.Machine

@[simp] theorem scalar2_store (i : Instr) (f : VForm) (op : Ty → Word → Word → Word) (s : State) : Keeps s (scalar2 i f op s) := by simp [scalar2]

@[simp] theorem scalar1_store (i : Instr) (f : VForm) (op : Ty → Word → Word) (s : State) : Keeps s (scalar1 i f op s) := by simp [scalar1]

@[simp] theorem scalar2I_store (i : Instr) (f : IForm) (op : Ty → Word → Word → Word) (s : State) : Keeps s (scalar2I i f op s) := by simp [scalar2I]

@[simp] theorem execSmov_store (f : VForm) (s : State) : Keeps s (execSmov f s) := by simp [execSmov]

@[simp] theorem execSadd_store (f : VForm) (s : State) : Keeps s (execSadd f s) := by simp [execSadd]

@[simp] theorem execSaddImm_store (f : IForm) (s : State) : Keeps s (execSaddImm f s) := by simp [execSaddImm]

@[simp] theorem execSsub_store (f : VForm) (s : State) : Keeps s (execSsub f s) := by simp [execSsub]

@[simp] theorem execSsubImm_store (f : IForm) (s : State) : Keeps s (execSsubImm f s) := by simp [execSsubImm]

@[simp] theorem execSmul_store (f : VForm) (s : State) : Keeps s (execSmul f s) := by simp [execSmul]

@[simp] theorem execSmulImm_store (f : IForm) (s : State) : Keeps s (execSmulImm f s) := by simp [execSmulImm]

@[simp] theorem execSmulh_store (f : VForm) (s : State) : Keeps s (execSmulh f s) := by simp [execSmulh]

@[simp] theorem execSdiv_store (f : VForm) (s : State) : Keeps s (execSdiv f s) := by simp [execSdiv]

@[simp] theorem execSrem_store (f : VForm) (s : State) : Keeps s (execSrem f s) := by simp [execSrem]

@[simp] theorem execSand_store (f : VForm) (s : State) : Keeps s (execSand f s) := by simp [execSand]

@[simp] theorem execSandImm_store (f : IForm) (s : State) : Keeps s (execSandImm f s) := by simp [execSandImm]

@[simp] theorem execSor_store (f : VForm) (s : State) : Keeps s (execSor f s) := by simp [execSor]

@[simp] theorem execSorImm_store (f : IForm) (s : State) : Keeps s (execSorImm f s) := by simp [execSorImm]

@[simp] theorem execSxor_store (f : VForm) (s : State) : Keeps s (execSxor f s) := by simp [execSxor]

@[simp] theorem execSxorImm_store (f : IForm) (s : State) : Keeps s (execSxorImm f s) := by simp [execSxorImm]

@[simp] theorem execSnot_store (f : VForm) (s : State) : Keeps s (execSnot f s) := by simp [execSnot]

@[simp] theorem execSshl_store (f : VForm) (s : State) : Keeps s (execSshl f s) := by simp [execSshl]

@[simp] theorem execSshlImm_store (f : IForm) (s : State) : Keeps s (execSshlImm f s) := by simp [execSshlImm]

@[simp] theorem execSshr_store (f : VForm) (s : State) : Keeps s (execSshr f s) := by simp [execSshr]

@[simp] theorem execSshrImm_store (f : IForm) (s : State) : Keeps s (execSshrImm f s) := by simp [execSshrImm]

@[simp] theorem execSsar_store (f : VForm) (s : State) : Keeps s (execSsar f s) := by simp [execSsar]

@[simp] theorem execSsarImm_store (f : IForm) (s : State) : Keeps s (execSsarImm f s) := by simp [execSsarImm]

@[simp] theorem execSrot_store (f : VForm) (s : State) : Keeps s (execSrot f s) := by simp [execSrot]

@[simp] theorem execSrotImm_store (f : IForm) (s : State) : Keeps s (execSrotImm f s) := by simp [execSrotImm]

@[simp] theorem execScmp_store (f : VForm) (s : State) : Keeps s (execScmp f s) := by simp [execScmp]

@[simp] theorem execSsel_store (f : VForm) (s : State) : Keeps s (execSsel f s) := by simp [execSsel]

@[simp] theorem execSmin_store (f : VForm) (s : State) : Keeps s (execSmin f s) := by simp [execSmin]

@[simp] theorem execSminImm_store (f : IForm) (s : State) : Keeps s (execSminImm f s) := by simp [execSminImm]

@[simp] theorem execSmax_store (f : VForm) (s : State) : Keeps s (execSmax f s) := by simp [execSmax]

@[simp] theorem execSmaxImm_store (f : IForm) (s : State) : Keeps s (execSmaxImm f s) := by simp [execSmaxImm]

@[simp] theorem execSclz_store (f : VForm) (s : State) : Keeps s (execSclz f s) := by simp [execSclz]

@[simp] theorem execSpop_store (f : VForm) (s : State) : Keeps s (execSpop f s) := by simp [execSpop]

@[simp] theorem execSlea_store (f : VForm) (s : State) : Keeps s (execSlea f s) := by simp [execSlea]

@[simp] theorem execSleaImm_store (f : IForm) (s : State) : Keeps s (execSleaImm f s) := by simp [execSleaImm]

@[simp] theorem execSmovi_store (f : IForm) (s : State) : Keeps s (execSmovi f s) := by simp [execSmovi]

end Sys2Proof.Machine
end

