-- ==== Sys2Proof/Laws/FrameSpecial.lean ====
section
/-!
SUPPORT. What the functions of Machine/Special.lean leave unchanged: every stored byte (`State.store`), but for those that write memory.
-/

namespace Sys2Proof.Machine

@[simp] theorem special_store (i : Instr) (f : VForm) (fns : List (SfFn × Nat)) (s : State) : Keeps s (special i f fns s) := by
  unfold special
  refine State.issue_store _ _ _ _ _ fun s u t => ?_
  split <;> simp

@[simp] theorem execQsin_store (f : VForm) (s : State) : Keeps s (execQsin f s) := by simp [execQsin]

@[simp] theorem execQcos_store (f : VForm) (s : State) : Keeps s (execQcos f s) := by simp [execQcos]

@[simp] theorem execQsc_store (f : VForm) (s : State) : Keeps s (execQsc f s) := by simp [execQsc]

@[simp] theorem execQsinp_store (f : VForm) (s : State) : Keeps s (execQsinp f s) := by simp [execQsinp]

@[simp] theorem execQcosp_store (f : VForm) (s : State) : Keeps s (execQcosp f s) := by simp [execQcosp]

@[simp] theorem execQscp_store (f : VForm) (s : State) : Keeps s (execQscp f s) := by simp [execQscp]

@[simp] theorem execQex2_store (f : VForm) (s : State) : Keeps s (execQex2 f s) := by simp [execQex2]

@[simp] theorem execQlg2_store (f : VForm) (s : State) : Keeps s (execQlg2 f s) := by simp [execQlg2]

@[simp] theorem execQtnh_store (f : VForm) (s : State) : Keeps s (execQtnh f s) := by simp [execQtnh]

@[simp] theorem execQrcp_store (f : VForm) (s : State) : Keeps s (execQrcp f s) := by simp [execQrcp]

@[simp] theorem execQrsq_store (f : VForm) (s : State) : Keeps s (execQrsq f s) := by simp [execQrsq]

end Sys2Proof.Machine
end

