-- ==== Sys2Proof/Laws/FrameVectorInt.lean ====
section
/-!
SUPPORT. What the functions of Machine/VectorInt.lean leave unchanged: every stored byte (`State.store`), but for those that write memory.
-/

namespace Sys2Proof.Machine

@[simp] theorem vector2_store (i : Instr) (f : VForm) (op : Ty → Word → Word → Word) (s : State) : Keeps s (vector2 i f op s) := by simp [vector2]

@[simp] theorem vector1_store (i : Instr) (f : VForm) (op : Ty → Word → Word) (s : State) : Keeps s (vector1 i f op s) := by simp [vector1]

@[simp] theorem vector2I_store (i : Instr) (f : IForm) (op : Ty → Word → Word → Word) (s : State) : Keeps s (vector2I i f op s) := by simp [vector2I]

@[simp] theorem execVmov_store (f : VForm) (s : State) : Keeps s (execVmov f s) := by simp [execVmov]

@[simp] theorem execVadd_store (f : VForm) (s : State) : Keeps s (execVadd f s) := by simp [execVadd]

@[simp] theorem execVaddImm_store (f : IForm) (s : State) : Keeps s (execVaddImm f s) := by simp [execVaddImm]

@[simp] theorem execVsub_store (f : VForm) (s : State) : Keeps s (execVsub f s) := by simp [execVsub]

@[simp] theorem execVsubImm_store (f : IForm) (s : State) : Keeps s (execVsubImm f s) := by simp [execVsubImm]

@[simp] theorem execVmul_store (f : VForm) (s : State) : Keeps s (execVmul f s) := by simp [execVmul]

@[simp] theorem execVmulImm_store (f : IForm) (s : State) : Keeps s (execVmulImm f s) := by simp [execVmulImm]

@[simp] theorem execVmulh_store (f : VForm) (s : State) : Keeps s (execVmulh f s) := by simp [execVmulh]

@[simp] theorem execVmad_store (f : VForm) (s : State) : Keeps s (execVmad f s) := by simp [execVmad]

@[simp] theorem execVdiv_store (f : VForm) (s : State) : Keeps s (execVdiv f s) := by simp [execVdiv]

@[simp] theorem execVrem_store (f : VForm) (s : State) : Keeps s (execVrem f s) := by simp [execVrem]

@[simp] theorem execVand_store (f : VForm) (s : State) : Keeps s (execVand f s) := by simp [execVand]

@[simp] theorem execVandImm_store (f : IForm) (s : State) : Keeps s (execVandImm f s) := by simp [execVandImm]

@[simp] theorem execVor_store (f : VForm) (s : State) : Keeps s (execVor f s) := by simp [execVor]

@[simp] theorem execVorImm_store (f : IForm) (s : State) : Keeps s (execVorImm f s) := by simp [execVorImm]

@[simp] theorem execVxor_store (f : VForm) (s : State) : Keeps s (execVxor f s) := by simp [execVxor]

@[simp] theorem execVxorImm_store (f : IForm) (s : State) : Keeps s (execVxorImm f s) := by simp [execVxorImm]

@[simp] theorem execVnot_store (f : VForm) (s : State) : Keeps s (execVnot f s) := by simp [execVnot]

@[simp] theorem execVshl_store (f : VForm) (s : State) : Keeps s (execVshl f s) := by simp [execVshl]

@[simp] theorem execVshlImm_store (f : IForm) (s : State) : Keeps s (execVshlImm f s) := by simp [execVshlImm]

@[simp] theorem execVshr_store (f : VForm) (s : State) : Keeps s (execVshr f s) := by simp [execVshr]

@[simp] theorem execVshrImm_store (f : IForm) (s : State) : Keeps s (execVshrImm f s) := by simp [execVshrImm]

@[simp] theorem execVsar_store (f : VForm) (s : State) : Keeps s (execVsar f s) := by simp [execVsar]

@[simp] theorem execVsarImm_store (f : IForm) (s : State) : Keeps s (execVsarImm f s) := by simp [execVsarImm]

@[simp] theorem execVrot_store (f : VForm) (s : State) : Keeps s (execVrot f s) := by simp [execVrot]

@[simp] theorem execVrotImm_store (f : IForm) (s : State) : Keeps s (execVrotImm f s) := by simp [execVrotImm]

@[simp] theorem execVcmp_store (f : VForm) (s : State) : Keeps s (execVcmp f s) := by simp [execVcmp]

@[simp] theorem execVsel_store (f : VForm) (s : State) : Keeps s (execVsel f s) := by simp [execVsel]

@[simp] theorem execVmin_store (f : VForm) (s : State) : Keeps s (execVmin f s) := by simp [execVmin]

@[simp] theorem execVminImm_store (f : IForm) (s : State) : Keeps s (execVminImm f s) := by simp [execVminImm]

@[simp] theorem execVmax_store (f : VForm) (s : State) : Keeps s (execVmax f s) := by simp [execVmax]

@[simp] theorem execVmaxImm_store (f : IForm) (s : State) : Keeps s (execVmaxImm f s) := by simp [execVmaxImm]

@[simp] theorem execVabs_store (f : VForm) (s : State) : Keeps s (execVabs f s) := by simp [execVabs]

@[simp] theorem execVneg_store (f : VForm) (s : State) : Keeps s (execVneg f s) := by simp [execVneg]

@[simp] theorem execVclz_store (f : VForm) (s : State) : Keeps s (execVclz f s) := by simp [execVclz]

@[simp] theorem execVpop_store (f : VForm) (s : State) : Keeps s (execVpop f s) := by simp [execVpop]

@[simp] theorem execVbrev_store (f : VForm) (s : State) : Keeps s (execVbrev f s) := by simp [execVbrev]

@[simp] theorem execVbfe_store (f : VForm) (s : State) : Keeps s (execVbfe f s) := by simp [execVbfe]

@[simp] theorem execVbfi_store (f : VForm) (s : State) : Keeps s (execVbfi f s) := by simp [execVbfi]

@[simp] theorem execVlea_store (f : VForm) (s : State) : Keeps s (execVlea f s) := by simp [execVlea]

@[simp] theorem execVleaImm_store (f : IForm) (s : State) : Keeps s (execVleaImm f s) := by simp [execVleaImm]

@[simp] theorem execVidx_store (f : VForm) (s : State) : Keeps s (execVidx f s) := by simp [execVidx]

@[simp] theorem execVsplat_store (f : VForm) (s : State) : Keeps s (execVsplat f s) := by simp [execVsplat]

@[simp] theorem execVext_store (f : VForm) (s : State) : Keeps s (execVext f s) := by simp [execVext]

@[simp] theorem execVcvti_store (f : VForm) (s : State) : Keeps s (execVcvti f s) := by simp [execVcvti]

@[simp] theorem execSpk24_store (f : VForm) (s : State) : Keeps s (execSpk24 f s) := by simp [execSpk24]

@[simp] theorem execVmovi_store (f : IForm) (s : State) : Keeps s (execVmovi f s) := by simp [execVmovi]

end Sys2Proof.Machine
end

