-- ==== Sys2Proof/Laws/Canonical.lean ====
section
/-!
SUPPORT. The operations that write memory keep its canonical form: one lemma for each function that `State.store` does not stand still under.
-/

namespace Sys2Proof.Machine

/-- If the outcome is a next state, its memories are canonical when those of `s` are. -/
def KeepsOk (s : State) (o : Out) : Prop := ∀ t, o = .next t → s.Canonical → t.Canonical

/-- An outcome that keeps the stored bytes keeps the canonical form. -/
theorem Keeps.ok {s : State} {o : Out} (h : Keeps s o) : KeepsOk s o := fun t e hs => State.Canonical.of_store (h t e) hs

/-- A next state. -/
theorem keepsOk_next {s t : State} (h : s.Canonical → t.Canonical) : KeepsOk s (.next t) := fun _ e hs => Host.Outcome.next.inj e ▸ h hs

/-- The canonical form through a step that leaves the stored bytes as they are. -/
theorem State.Canonical.same {s t : State} (hs : s.Canonical) (h : t.store = s.store) : t.Canonical := State.Canonical.of_store h hs

/-- The stored bytes are canonical. -/
def Stored (x : Memory × Memory × List (Nat × Memory) × List Migrated) : Prop :=
  x.1.wf = true ∧ x.2.1.wf = true ∧ (∀ e ∈ x.2.2.1, e.2.wf = true) ∧ ∀ m ∈ x.2.2.2, m.mem.wf = true ∧ ∀ e ∈ m.wgs, e.2.spad.wf = true

/-- The canonical form of a state is that of its stored bytes. -/
theorem State.canonical_iff (s : State) : s.Canonical ↔ Stored s.store := by
  constructor
  · intro h
    refine ⟨h.mem, h.dram, fun e he => ?_, h.moved⟩
    obtain ⟨g, hg, rfl⟩ := List.mem_map.1 he
    exact h.spads g hg
  · intro h
    exact ⟨h.1, h.2.1, fun e he => h.2.2.1 (e.1, e.2.spad) (List.mem_map_of_mem he), h.2.2.2⟩

/-- A selection of bytes is canonical. -/
theorem Memory.wf_keep {m : Memory} (p : Nat → Bool) (h : m.wf = true) : Memory.wf (Store.keep (w := 8) m p) = true := Store.wf_keep p h

/-- Bytes replaced within a canonical memory. -/
theorem Memory.wf_restore {m : Memory} (src : Memory) (p : Nat → Bool) (h : m.wf = true) :
    Memory.wf (Store.restore (w := 8) m src p) = true :=
  Store.wf_restore src p h

/-- The canonical form through a step that writes the coherent memory and DRAM alone. -/
theorem State.Canonical.write {s t : State} (hs : s.Canonical) (hm : s.mem.wf = true → t.mem.wf = true)
    (hd : s.dram.wf = true → t.dram.wf = true) (hw : t.wgs = s.wgs) (he : t.elsewhere = s.elsewhere) : t.Canonical :=
  ⟨hm hs.mem, hd hs.dram, hw ▸ hs.spads, he ▸ hs.moved⟩

/-! ### Writes of memory -/

/-- The entry of a key that an association has after a key is set is the new one or was there. -/
theorem mem_assocSet {α : Type} {l : List (Nat × α)} {k : Nat} {v : α} {e : Nat × α} (h : e ∈ assocSet l k v) : e.2 = v ∨ e ∈ l := by
  induction l with
  | nil =>
    simp only [assocSet, List.mem_singleton] at h
    exact .inl (h ▸ rfl)
  | cons a r ih =>
    obtain ⟨j, x⟩ := a
    by_cases hj : j = k
    · simp only [assocSet, if_pos hj, List.mem_cons] at h
      exact h.elim (fun h => .inl (h ▸ rfl)) fun h => .inr (List.mem_cons_of_mem _ h)
    · simp only [assocSet, if_neg hj, List.mem_cons] at h
      refine h.elim (fun h => .inr (h ▸ List.mem_cons_self)) fun h => ?_
      exact (ih h).imp_right (List.mem_cons_of_mem _)

/-- The entry that a lookup finds is in the list. -/
theorem mem_of_assoc {α : Type} {l : List (Nat × α)} {k : Nat} {v : α} (h : assoc l k = some v) : (k, v) ∈ l := by
  induction l with
  | nil => simp [assoc] at h
  | cons a r ih =>
    obtain ⟨j, x⟩ := a
    by_cases hj : j = k
    · simp only [assoc, if_pos hj, Option.some.injEq] at h
      exact h ▸ hj ▸ List.mem_cons_self
    · simp only [assoc, if_neg hj] at h
      exact List.mem_cons_of_mem _ (ih h)

/-- Changing a workgroup to one whose scratchpad is canonical when it was. -/
theorem State.modWg_canonical {s : State} {w : Nat} {f : Workgroup → Workgroup} (hf : ∀ g, g.spad.wf = true → (f g).spad.wf = true)
    (hs : s.Canonical) : (s.modWg w f).Canonical := by
  unfold State.modWg
  split
  · rename_i g hg
    refine ⟨hs.mem, hs.dram, fun e he => ?_, hs.moved⟩
    rcases mem_assocSet he with h | h
    · exact h ▸ hf g (hs.spads _ (mem_of_assoc hg))
    · exact hs.spads e h
  · exact hs

/-- Writing bytes to a place (R314). -/
theorem State.writeMem_canonical {s : State} (sp : Space) (a : Addr) (lower : Bool) (bs : List Byte) (hs : s.Canonical) :
    (s.writeMem sp a lower bs).Canonical := by
  unfold State.writeMem
  split
  · exact State.modWg_canonical (fun g hg => Memory.wf_setBytes bs hg) hs
  · split
    · exact ⟨Memory.wf_setBytes bs hs.mem, hs.dram, hs.spads, hs.moved⟩
    · exact hs
  · exact hs
  · exact hs

/-- Updating memory for an agent. -/
theorem State.update_canonical {s : State} (ag : Agent) (p : Path) (sp : Space) (a : Addr) (lower : Bool) (bs : List Byte) (hs : s.Canonical) :
    (s.update ag p sp a lower bs).Canonical :=
  State.writeMem_canonical sp a lower bs (hs.same (by simp))

/-- The words that writes cover are no longer poisoned (R214). -/
theorem State.clearCovered_canonical {s : State} (sp : Space) (lower : Bool) (ws : List (Addr × Nat)) (hs : s.Canonical) :
    (s.clearCovered sp lower ws).Canonical := by
  unfold State.clearCovered
  split
  · exact State.modWg_canonical (fun _ h => h) hs
  · exact hs.same (by simp)
  · exact hs
  · exact hs

/-- Writes that memory takes at once (R205). -/
theorem State.updateAll_canonical {s : State} (ag : Agent) (p : Path) (sp : Space) (lower : Bool) (ws : List (Addr × List Byte))
    (before : List (Addr × Nat)) (hs : s.Canonical) : (s.updateAll ag p sp lower ws before).Canonical := by
  unfold State.updateAll
  exact State.clearCovered_canonical _ _ _ (foldl_canonical (fun _ _ h => State.update_canonical _ _ _ _ _ _ h) hs)

/-- A store, or a part of one, that memory takes (R205, R410). -/
theorem State.storeAll_canonical {s : State} (b : BufWrite) (ws : List (Addr × List Byte)) (hs : s.Canonical) : (s.storeAll b ws).Canonical :=
  (State.updateAll_canonical _ _ _ _ _ _ hs).same (State.noteStored_store _ _ _)

/-- An atomic operation (R219). -/
theorem State.atomicAt_canonical {s : State} (ag : Agent) (p : Path) (sp : Space) (a : Addr) (aop : AOp) (ty : Ty) (x cmp : List Byte)
    (hs : s.Canonical) : (s.atomicAt ag p sp a aop ty x cmp).1.Canonical :=
  State.update_canonical ag p sp a false _ hs

/-- Performing an atomic access (R316). -/
theorem State.performAtomic_canonical {s : State} (o : Op) (a : Access) (aop : AOp) (ty : Ty) (x cmp : List Byte) (hs : s.Canonical) :
    (s.performAtomic o a aop ty x cmp).Canonical := by
  unfold State.performAtomic
  dsimp only
  repeat' (first
    | exact hs
    | (refine hs.same ?_; simp; done)
    | exact (State.atomicAt_canonical _ _ _ _ aop ty x cmp hs).same (State.setOp_store _ _)
    | split)

/-- Cleaning a line into DRAM (R224). -/
theorem State.cleanLine_canonical {s : State} (key : Nat) (hs : s.Canonical) : (s.cleanLine key).Canonical := by
  unfold State.cleanLine
  exact hs.write (fun h => h) (fun h => by dsimp only; exact Memory.wf_restore _ _ h) rfl rfl

/-- Performing an access (R315). -/
theorem State.performAccess_canonical {s : State} (o : Op) (a : Access) (hs : s.Canonical) : (s.performAccess o a).Canonical := by
  unfold State.performAccess
  split
  · exact hs
  · have hgo : ∀ x, (match a.act with
        | .read => s.performRead o a
        | .pref => s.setOp (o.dropEl a.el)
        | .clean l3 =>
          let s1 := if l3 then (match s.physAt a.space a.addr a.lower with | some k => s.cleanLine k | none => s) else s
          s1.setOp (o.dropEl a.el)
        | .write _ => s.performWrite o a
        | .atomic aop ty x cmp => s.performAtomic o a aop ty x cmp) = x → x.Canonical := by
      intro x e
      subst e
      split
      · exact hs.same (by simp)
      · exact hs.same (by simp)
      · refine State.Canonical.same ?_ (State.setOp_store _ _)
        repeat' (first | exact hs | exact State.cleanLine_canonical _ hs | split)
      · exact hs.same (by simp)
      · exact State.performAtomic_canonical o a _ _ _ _ hs
    dsimp only
    split
    · exact hgo _ rfl
    · exact hs.same (by simp)
    · split
      · exact hgo _ rfl
      · split
        · exact hs.same (by simp)
        · exact hs

/-- A buffered write leaves its buffer whole (R313). -/
theorem State.exportBuf_canonical {s : State} (b : BufWrite) (hs : s.Canonical) : (s.exportBuf b).Canonical := by
  unfold State.exportBuf
  dsimp only
  repeat' (first
    | (refine hs.same ?_; simp; done)
    | exact (State.storeAll_canonical _ _ hs).same (State.delBufs_store _ _)
    | split)

/-- One word of a buffered write leaves its buffer (R313). -/
theorem State.exportWord_canonical {s : State} (b : BufWrite) (k : Nat) (hs : s.Canonical) : (s.exportWord b k).Canonical := by
  unfold State.exportWord
  dsimp only
  split
  · exact State.exportBuf_canonical b hs
  · split
    · exact (State.storeAll_canonical _ _ hs).same (State.store_congr rfl rfl rfl rfl)
    · exact hs

/-- A write that has crossed dies is applied (R320). -/
theorem State.applyBuf_canonical {s : State} (b : BufWrite) (hs : s.Canonical) : (s.applyBuf b).Canonical := by
  unfold State.applyBuf
  dsimp only
  repeat' (first
    | exact hs
    | (refine hs.same ?_; simp; done)
    | (refine (State.canonical_iff _).2 ?_; simp; exact (State.canonical_iff _).1 (State.storeAll_canonical _ _ hs))
    | (refine (State.canonical_iff _).2 ?_; simp; exact (State.canonical_iff _).1 (State.atomicAt_canonical _ _ _ _ _ _ _ _ hs))
    | split)

/-! ### Frames -/

/-- Copying a frame keeps a memory canonical. -/
theorem Memory.copyFrame_wf {m : Memory} (src dst : Nat) (h : m.wf = true) : (Memory.copyFrame m src dst).wf = true := by
  unfold Memory.copyFrame
  exact Memory.wf_restore _ _ h

/-- Copying a frame (R381). -/
theorem State.copyFrame_canonical {s : State} (src dst : Nat) (hs : s.Canonical) : (s.copyFrame src dst).Canonical := by
  unfold State.copyFrame
  exact hs.write (fun h => by dsimp only; exact Memory.copyFrame_wf src dst h) (fun h => by dsimp only; exact Memory.wf_restore _ _ h) rfl rfl

/-- Zeroing a frame (R372). -/
theorem State.zeroFrame_canonical {s : State} (k : Nat) (hs : s.Canonical) : (s.zeroFrame k).Canonical := by
  unfold State.zeroFrame
  exact hs.write (fun h => by dsimp only; exact Memory.wf_keep _ h) (fun h => by dsimp only; exact Memory.wf_keep _ h) rfl rfl

/-- Giving a page a frame (R371, R381). -/
theorem State.mapPage_canonical {s t : State} {r : PageRef} {o : Obj} {e : Pte} (h : s.mapPage r o e = some t) (hs : s.Canonical) : t.Canonical := by
  unfold State.mapPage at h
  split at h
  · contradiction
  · dsimp only at h
    rw [← Option.some.inj h]
    refine State.Canonical.same ?_ (State.setPte_store _ _ _)
    split
    · exact State.copyFrame_canonical _ _ (hs.same (by simp))
    · exact State.zeroFrame_canonical _ (hs.same (by simp))

/-- A shared page parts (R381). -/
theorem State.partPage_canonical {s : State} (r : PageRef) (hs : s.Canonical) : (s.partPage r).Canonical := by
  unfold State.partPage
  split
  · exact hs
  · dsimp only
    split
    · split
      · rename_i e
        (refine (State.canonical_iff _).2 ?_; simp; exact (State.canonical_iff _).1 (State.mapPage_canonical e hs))
      · exact hs
    · exact hs

/-- The shared pages that an instruction's accesses write part (R381). -/
theorem State.partAll_canonical {s : State} (acc : List Access) (hs : s.Canonical) : (s.partAll acc).Canonical :=
  foldl_canonical (fun _ r h => State.partPage_canonical r h) hs

/-! ### Issuing an access on path T -/

/-- An instruction that issues keeps the canonical form when its body does. -/
theorem State.issue_ok {s : State} {i : Instr} {se fs : Bool} {body : State → Nat → Team → State}
    (h : ∀ s u t, s.Canonical → (body s u t).Canonical) : KeepsOk s (s.issue i se fs body) := by
  unfold State.issue
  repeat' (first | (refine keepsOk_next fun hs => hs.same ?_; simp; done) | exact keepsOk_next (h _ _ _) | split)

/-- A load, store, atomic or clean on path T. -/
theorem memT_ok (i : Instr) (f : MForm) (dests : List Dest) (raiser : State → Team → Bool) (mk : State → Nat → Team → List Access)
    (s : State) : KeepsOk s (memT i f dests raiser mk s) := by
  unfold memT
  refine State.issue_ok fun s u t hs => ?_
  dsimp only
  split
  · exact hs.same (by simp)
  · refine State.Canonical.same (State.partAll_canonical _ ?_) (State.addAccesses_store _ _ _ _ _ _ _ _)
    repeat' (first | exact hs | (refine hs.same ?_; simp; done) | split)

/-- An atomic on path T. -/
theorem atomT_ok (i : Instr) (f : MForm) (aop : AOp) (s : State) : KeepsOk s (atomT i f aop s) := by
  unfold atomT
  exact memT_ok _ _ _ _ _ s

/-! ### The Curator, residency and release -/

/-- The state that a reservation step leaves. -/
def ResvStep.state : ResvStep → State
  | .wait t => t
  | .no t => t
  | .ok t _ => t

/-- A reservation whose add is done (R340). -/
@[simp] theorem State.resvDone1_store (s : State) (e : List Word) (old total : Nat) (cs : List Nat) :
    (s.resvDone1 e old total cs).state.store = s.store := by
  unfold State.resvDone1
  split <;> rfl

/-- A reservation in a counter on another device (R341). -/
@[simp] theorem State.reserveFar_store (s : State) (g : Nat) (e : List Word) (sp : Space) : (s.reserveFar g e sp).state.store = s.store := by
  unfold State.reserveFar
  dsimp only
  repeat' (first
    | rfl
    | exact State.askRemote_store _ _ _ _ _
    | exact State.resvDone1_store _ _ _ _ _
    | exact foldl_store _ _ _ fun _ _ => State.askRemote_store _ _ _ _ _
    | split)

/-- A reservation (R340). -/
theorem State.reserve_canonical {s : State} (x g : Nat) (e : List Word) (hs : s.Canonical) : (s.reserve x g e).state.Canonical := by
  unfold State.reserve
  dsimp only
  repeat' (first
    | exact hs
    | exact hs.same (State.reserveFar_store _ _ _ _)
    | exact State.Canonical.same (State.atomicAt_canonical _ _ _ _ _ _ _ _ hs) (State.resvDone1_store _ _ _ _ _)
    | split)

/-- The reservations of a launch, in order (R340). -/
theorem State.reserveAll_canonical {s : State} (x g : Nat) (es : List (List Word)) (hs : s.Canonical) :
    (s.reserveAll x g es).state.Canonical := by
  induction es generalizing s with
  | nil => exact hs
  | cons e es ih =>
    have h1 := State.reserve_canonical x g e hs
    unfold State.reserveAll
    split
    · rename_i hr
      rw [hr] at h1
      exact ih (h1.same (State.store_congr rfl rfl rfl rfl))
    · exact h1

/-- The reservations of a launch, with what they answer named. -/
theorem State.reserveAll_of {s : State} {x g : Nat} {es : List (List Word)} {r : ResvStep} (h : s.reserveAll x g es = r) (hs : s.Canonical) :
    r.state.Canonical :=
  h ▸ State.reserveAll_canonical x g es hs

/-- The state that processing a record leaves. -/
def Processed.state : Processed → State
  | .done t => t
  | .later t => t

/-- Processing a launch record (R392 to R397). -/
theorem State.launchRecord_canonical {s : State} (x : Nat) (op : Option Nat) (ws : List Word) (desc : Option JobDesc) (graph : Option Nat)
    (hs : s.Canonical) : (s.launchRecord x op ws desc graph).state.Canonical := by
  unfold State.launchRecord
  dsimp only
  repeat' (first
    | exact hs
    | (refine hs.same ?_; simp [Processed.state]; done)
    | split)
  all_goals
    refine State.Canonical.same (State.reserveAll_of (by assumption) hs) ?_
    simp [Processed.state, ResvStep.state]

/-- A workgroup's teams start: its scratchpad reads as zero (R12). -/
theorem State.startWg_canonical {s : State} (w : Nat) (hs : s.Canonical) : (s.startWg w).Canonical := by
  unfold State.startWg
  split
  · dsimp only
    refine foldl_canonical (fun s a h => h.same (by simp)) ?_
    exact State.modWg_canonical (fun _ _ => rfl) hs
  · exact hs

/-- Making workgroups resident. -/
theorem State.makeResident_canonical {s : State} (ws : List Nat) (rst : Bool) {go : State → Nat → State}
    (h : ∀ s w, s.Canonical → (go s w).Canonical) (hs : s.Canonical) : (s.makeResident ws rst go).Canonical := by
  unfold State.makeResident
  split
  · exact hs
  · rename_i e
    have he := State.takeRooms_store e
    dsimp only
    split
    · refine hs.same (foldl_store _ _ _ fun s a => ?_)
      split <;> simp
    · split
      · exact hs
      · refine foldl_canonical (fun s w h => h.same (State.fillColumn_store _ _)) (foldl_canonical h (hs.same ?_))
        rw [foldl_store _ _ _ fun s a => by simp, he]

/-- Releasing one staged access (R336). -/
theorem State.releaseOne_canonical {s : State} (w : Nat) (e : Staged) (hs : s.Canonical) : (s.releaseOne w e).Canonical := by
  have h1 : (s.modWg w fun g => { g with staged := (g.staged.filter fun f => f != e).map (s.noteReleased e) }).Canonical :=
    hs.same (State.modWg_store _ _ _ fun _ => rfl)
  unfold State.releaseOne
  dsimp only
  repeat' (first
    | exact hs
    | exact h1
    | (refine hs.same ?_; simp; done)
    | exact State.updateAll_canonical _ _ _ _ _ _ h1
    | (refine (State.canonical_iff _).2 ?_; rw [State.gatherFl_store]
       exact (State.canonical_iff _).1 (State.atomicAt_canonical _ _ _ _ _ _ _ _ h1))
    | split)

/-! ### The Catalogue -/

/-- A fold of an option keeps the canonical form of the state in it. -/
theorem foldl_bind_canonical {α : Type} {l : List α} {f : State → α → Option State} {s t : State}
    (hf : ∀ s a t, f s a = some t → s.Canonical → t.Canonical)
    (h : l.foldl (fun (acc : Option State) e => acc.bind fun s => f s e) (some s) = some t) (hs : s.Canonical) : t.Canonical := by
  induction l generalizing s with
  | nil => exact Option.some.inj h ▸ hs
  | cons a r ih =>
    rw [List.foldl_cons, Option.bind_some] at h
    cases hfa : f s a with
    | none =>
      rw [hfa] at h
      have : ∀ l : List α, l.foldl (fun (acc : Option State) e => acc.bind fun s => f s e) none = none := by
        intro l
        induction l with
        | nil => rfl
        | cons b q ihq => exact ihq
      rw [this] at h
      contradiction
    | some s1 => exact ih (hfa ▸ h) (hf s a s1 hfa hs)

/-- MAPFT in one lane (R376). -/
theorem State.mapftLane_canonical {s : State} (x u col : Nat) (a : Addr) (hs : s.Canonical) : (s.mapftLane x u col a).1.Canonical := by
  unfold State.mapftLane
  dsimp only
  repeat' (first | exact hs | split)
  rename_i h
  exact foldl_bind_canonical (fun s a t e hs => State.mapPage_canonical e hs) h hs

/-- MAPFT (R376). -/
theorem State.doMapft_canonical {s : State} (o : Op) (d x col : Nat) (lanes : List (Nat × Addr)) (hs : s.Canonical) :
    (s.doMapft o d x col lanes).Canonical := by
  unfold State.doMapft
  dsimp only
  refine State.Canonical.same ?_ (State.completeOp_store _ _)
  generalize ([] : List RegWr) = ws
  induction lanes generalizing s ws with
  | nil => exact hs
  | cons la r ih => exact ih (State.mapftLane_canonical x o.team col la.2 hs) _

/-- The dirty data of a frame is discarded (R377). -/
theorem State.discardFrame_canonical {s : State} (k : Nat) (hs : s.Canonical) : (s.discardFrame k).Canonical := by
  unfold State.discardFrame
  exact hs.write (fun h => Memory.wf_restore _ _ h) (fun h => h) rfl rfl

/-- An object's bound is set (R377). -/
theorem State.setBound_canonical {s : State} (x id b : Nat) (hs : s.Canonical) : (s.setBound x id b).Canonical := by
  unfold State.setBound
  split
  · refine foldl_canonical (fun s e h => ?_) (hs.same (State.modCtx_store _ _ _))
    split
    · exact State.discardFrame_canonical _ h
    · exact h
  · exact hs

/-- CATSET (R377). -/
theorem State.doCatset_canonical {s : State} (o : Op) (i : Instr) (x col : Nat) (a b : Word) (hs : s.Canonical) :
    (s.doCatset o i x col a b).Canonical := by
  by_cases hi : ∃ f, i = .catsetBound f
  · obtain ⟨f, rfl⟩ := hi
    unfold State.doCatset
    dsimp only
    repeat' (first | exact hs | exact State.setBound_canonical _ _ _ hs | split)
  · exact hs.same (State.doCatset_store _ _ _ _ _ _ _ fun f e => hi ⟨f, e⟩)

/-- An instruction of the Catalogue takes effect (R376). -/
theorem State.finishCat_canonical {s : State} (o : Op) (i : Instr) (a b : Word) (lanes : List (Nat × Addr)) (hs : s.Canonical) :
    (s.finishCat o i a b lanes).Canonical := by
  unfold State.finishCat
  split
  · exact hs.same (by simp)
  · dsimp only
    split
    · exact State.doMapft_canonical _ _ _ _ _ hs
    all_goals repeat' (first
      | exact hs
      | (refine hs.same ?_; simp; done)
      | exact (State.doCatset_canonical _ _ _ _ _ _ hs).same (State.completeOp_store _ _)
      | split)

/-- An operation that has been performed completes. -/
theorem State.finishOp_canonical {s : State} (o : Op) (hs : s.Canonical) : (s.finishOp o).Canonical := by
  unfold State.finishOp
  split
  all_goals repeat' (first | exact hs | (refine hs.same ?_; simp; done) | exact State.finishCat_canonical _ _ _ _ _ hs | split)

/-- A page moves to another frame (R382). -/
theorem State.movePage_canonical {s : State} (r : PageRef) (tier : BitVec 2) (frame : Nat) (hs : s.Canonical) : (s.movePage r tier frame).Canonical := by
  unfold State.movePage
  dsimp only
  repeat' (first | exact hs | (refine (State.canonical_iff _).2 ?_; simp; exact (State.canonical_iff _).1 (State.copyFrame_canonical _ _ hs)) | split)

/-- A post slot is written (R263). -/
theorem State.setPosts_store (l : List (Nat × PostSlot)) (s : State) : (l.foldl (fun s e => s.setPost e.1 e.2) s).store = s.store :=
  foldl_store _ _ _ fun s e => State.setPost_store s e.1 e.2

/-- A context leaves the device (R384). -/
theorem State.leave_canonical {s : State} (x : Nat) (mac : BitVec 48) (hs : s.Canonical) : (s.leave x mac).Canonical := by
  unfold State.leave
  split
  · exact hs
  · split
    · exact hs
    · rename_i c _ _
      have hc : Memory.wf (Store.keep (w := 8) s.mem fun b => c.frames.any fun k => inFrame k b) = true := Memory.wf_keep _ hs.mem
      have h1 : ∀ (t : State) (m : Migrated) (p : Nat → Bool), t.mem = Store.keep (w := 8) s.mem p → t.dram = Store.keep (w := 8) s.dram p →
          (∀ e ∈ t.wgs, e ∈ s.wgs) → t.elsewhere = s.elsewhere ++ [m] → m.mem.wf = true → (∀ e ∈ m.wgs, e ∈ s.wgs) →
          t.Canonical := by
        intro t m p hm hd hw he hmm hmw
        refine ⟨hm ▸ Memory.wf_keep _ hs.mem, hd ▸ Memory.wf_keep _ hs.dram, fun e h => hs.spads e (hw e h), fun y hy => ?_⟩
        rcases List.mem_append.1 (he ▸ hy) with h | h
        · exact hs.moved y h
        · rw [List.mem_singleton.1 h]
          exact ⟨hmm, fun e h => hs.spads e (hmw e h)⟩
      dsimp only
      split
      · exact h1 _ _ (fun b => !(c.frames.any fun k => inFrame k b)) rfl rfl (fun e h => List.mem_of_mem_filter h) rfl hc
          fun e h => List.mem_of_mem_filter h
      · refine State.Canonical.same ?_ (State.placeAt_store _ _ _)
        exact h1 _ _ (fun b => !(c.frames.any fun k => inFrame k b)) rfl rfl (fun e h => List.mem_of_mem_filter h) rfl hc
          fun e h => List.mem_of_mem_filter h

/-- A context arrives at the device (R384). -/
theorem State.arrive_canonical {s : State} (x : Nat) (hs : s.Canonical) : (s.arrive x).Canonical := by
  unfold State.arrive
  split
  · exact hs
  · rename_i m hm
    split
    · exact hs
    · have h1 : ∀ (t : State) (p : Nat → Bool), t.mem = Store.restore (w := 8) s.mem m.mem p → t.dram = Store.restore (w := 8) s.dram m.mem p →
          t.wgs = s.wgs ++ m.wgs → (∀ y ∈ t.elsewhere, y ∈ s.elsewhere) → t.Canonical := by
        intro t p hm' hd hw he
        refine ⟨hm' ▸ Memory.wf_restore _ _ hs.mem, hd ▸ Memory.wf_restore _ _ hs.dram, fun e h => ?_, fun y hy => hs.moved y (he y hy)⟩
        rcases List.mem_append.1 (hw ▸ h) with h | h
        · exact hs.spads e h
        · exact (hs.moved m (List.mem_of_find?_eq_some hm)).2 e h
      refine (State.canonical_iff _).2 ?_
      rw [State.store_mk, State.store_fold, State.setPosts_store]
      refine (State.canonical_iff _).1 ?_
      repeat' (first
        | exact h1 _ (fun b => m.body.frames.any fun k => inFrame k b) rfl rfl rfl fun _ h => List.mem_of_mem_filter h
        | split)

/-! ### Packets, failures and the host -/

/-- A sector is written back to DRAM (R406). -/
theorem State.writeBack_canonical {s : State} (k : Nat) (mask : BitVec 128) (hs : s.Canonical) : (s.writeBack k mask).Canonical := by
  unfold State.writeBack
  exact hs.write (fun h => h) (fun h => by dsimp only; exact Memory.wf_restore _ _ h) rfl rfl

/-- A bit of a canonical memory turns over. -/
theorem Memory.flips_wf {m : Memory} (a : Nat) (bits : List Nat) (h : m.wf = true) : (Memory.flips m a bits).wf = true := by
  unfold Memory.flips
  induction bits generalizing m with
  | nil => exact h
  | cons b r ih => exact ih (Memory.wf_setBytes _ h)

/-- Bits of DRAM turn over (R408). -/
theorem State.flipDram_canonical {s : State} (k : Nat) (bits : List Nat) (hs : s.Canonical) : (s.flipDram k bits).Canonical := by
  unfold State.flipDram
  exact hs.write (fun h => Memory.flips_wf _ _ h) (fun h => Memory.flips_wf _ _ h) rfl rfl

/-- Bits of a cached word turn over (R408). -/
theorem State.flipMem_canonical {s : State} (k : Nat) (bits : List Nat) (hs : s.Canonical) : (s.flipMem k bits).Canonical := by
  unfold State.flipMem
  exact hs.write (fun h => Memory.flips_wf _ _ h) (fun h => h) rfl rfl

/-- The check bits of a granule are read (R408). -/
theorem State.observeGranule_canonical {s : State} (k : Nat) (e : ErrSite) (bits : List Nat) (b : EccBeyond) (hs : s.Canonical) :
    (s.observeGranule k e bits b).Canonical := by
  unfold State.observeGranule
  have h1 := fun l => State.flipDram_canonical k l hs
  dsimp only
  repeat' (first
    | exact h1 _
    | exact (h1 _).same (State.noteCorrected_store _ _ _)
    | exact (h1 _).same ((State.recordAt_store _ _ _ _ _).trans (State.poisonGranule_store _ _))
    | exact State.flipDram_canonical _ _ (h1 _)
    | exact State.Canonical.same (State.flipDram_canonical _ _ (h1 _)) (State.noteCorrected_store _ _ _)
    | split)

/-- The check bits of a sector are read (R408). -/
theorem State.observe_canonical {s : State} (k : Nat) (via : Option (Nat × Nat)) (obs : EccObs) (hs : s.Canonical) :
    (s.observe k via obs).Canonical := by
  unfold State.observe
  split
  · exact hs
  · exact foldl_canonical (fun _ _ h => State.observeGranule_canonical _ _ _ _ h) hs

/-- The check bits of a cached word are read (R408). -/
theorem State.observeWord_canonical {s : State} (k : Nat) (e : ErrSite) (bits : List Nat) (b : EccBeyond) (hs : s.Canonical) :
    (s.observeWord k e bits b).Canonical := by
  unfold State.observeWord
  dsimp only
  repeat' (first
    | exact hs
    | (refine hs.same ?_; simp; done)
    | exact State.flipMem_canonical _ _ hs
    | exact State.Canonical.same (State.flipMem_canonical _ _ hs) (State.noteCorrected_store _ _ _)
    | split)

/-- The check bits of a scratchpad word are read (R408). -/
theorem State.observeSpad_canonical {s : State} (w word : Nat) (bits : List Nat) (b : EccBeyond) (hs : s.Canonical) :
    (s.observeSpad w word bits b).Canonical := by
  unfold State.observeSpad
  have h1 : ∀ bs, (s.modWg w fun g => { g with spad := Memory.flips g.spad (4 * word) bs }).Canonical :=
    fun _ => State.modWg_canonical (fun _ h => Memory.flips_wf _ _ h) hs
  dsimp only
  repeat' (first
    | exact hs
    | (refine hs.same ?_; simp; done)
    | exact h1 _
    | exact State.Canonical.same (h1 _) (State.recordSpad_store _ _ _ _)
    | split)

/-- A demand read finds errors (R408). -/
theorem State.observeAccess_canonical {s : State} (a : Access) (loc word : Nat) (obs : EccObs) (hs : s.Canonical) :
    (s.observeAccess a loc word obs).Canonical := by
  unfold State.observeAccess
  repeat' (first
    | exact hs
    | exact State.observeSpad_canonical _ _ _ _ hs
    | exact State.observeWord_canonical _ _ _ _ hs
    | split)

/-- An evicted sector shows errors (R408). -/
theorem State.observeEvicted_canonical {s : State} (k trig loc : Nat) (obs : EccObs) (hs : s.Canonical) :
    (s.observeEvicted k trig loc obs).Canonical := by
  unfold State.observeEvicted
  split
  · exact hs
  · exact foldl_canonical (fun _ _ h => State.observeWord_canonical _ _ _ _ h) hs

/-- A page leaves a DRAM die that is removed (R414). -/
theorem State.evacuate_canonical {s : State} (stack ddie x : Nat) (r : PageRef) (hs : s.Canonical) :
    (s.evacuate stack ddie x r).Canonical := by
  unfold State.evacuate
  split
  · exact hs
  · split
    · exact hs
    · split
      · exact State.movePage_canonical _ _ _ (hs.same (State.leavePool_store _ _ _))
      · refine hs.same ?_
        rw [State.setPte_store, State.recordAt_store]

/-- Cached sectors are dropped (R418). -/
theorem State.invalidate_canonical {s : State} (a n : Nat) (hs : s.Canonical) : (s.invalidate a n).Canonical := by
  unfold State.invalidate
  exact hs.write (fun h => by dsimp only; exact Memory.wf_restore _ _ h) (fun h => h) rfl rfl

/-- Bytes written to the coherent memory and to DRAM. -/
theorem State.setBoth_canonical {s : State} (k : Nat) (bs : List Byte) (hs : s.Canonical) :
    ({ s with mem := Memory.setBytes s.mem k bs, dram := Memory.setBytes s.dram k bs } : State).Canonical :=
  hs.write (fun h => Memory.wf_setBytes _ h) (fun h => Memory.wf_setBytes _ h) rfl rfl

/-- A page of supervisor code is loaded (R385). -/
theorem State.loadPage_canonical {s t : State} {x id col q : Nat} {bytes : List Byte} (h : s.loadPage x id col q bytes = some t)
    (hs : s.Canonical) : t.Canonical := by
  unfold State.loadPage at h
  split at h
  · nomatch h
  · generalize hb : (bytes.drop (q * Config.pageBytes)).take Config.pageBytes = body at h
    simp only [Option.some.injEq] at h
    subst h
    exact (State.setBoth_canonical _ body (State.zeroFrame_canonical _ hs)).same (State.modCtx_store _ _ _)

/-- The supervisor code of a context is loaded (R385). -/
theorem State.loadSupervisor_canonical {s t : State} {x id p : Nat} {ws : List Word} (h : s.loadSupervisor x id p ws = some t) (hs : s.Canonical) :
    t.Canonical := by
  unfold State.loadSupervisor at h
  simp only at h
  generalize (s.partColumns p).flatMap _ = todo at h
  generalize wordBytes ws = bytes at h
  have hf : ∀ (s : State) (a : Nat × Nat) (t : State), s.loadPage x id a.1 a.2 bytes = some t → s.Canonical → t.Canonical :=
    fun s a t e hs => State.loadPage_canonical e hs
  exact @foldl_bind_canonical (Nat × Nat) todo (fun s e => s.loadPage x id e.1 e.2 bytes) s t hf h hs

/-- A context is dropped (R403). -/
theorem State.dropContext_canonical {s : State} (x : Nat) (hs : s.Canonical) : (s.dropContext x).Canonical :=
  ⟨hs.mem, hs.dram, fun e he => hs.spads e (List.mem_of_mem_filter he), hs.moved⟩

/-- The device goes back to reset (R421). -/
theorem State.toReset_canonical {s : State} (hs : s.Canonical) : s.toReset.Canonical :=
  ⟨rfl, rfl, fun _ he => absurd he List.not_mem_nil, hs.moved⟩

/-! ### The instructions and steps that write memory -/

/-- LD. -/
theorem execLd_ok (f : MForm) (s : State) : KeepsOk s (execLd f s) := by
  unfold execLd
  exact memT_ok _ _ _ _ _ s

/-- ST. -/
theorem execSt_ok (f : MForm) (s : State) : KeepsOk s (execSt f s) := by
  unfold execSt
  exact memT_ok _ _ _ _ _ s

/-- LDC. -/
theorem execLdc_ok (f : MForm) (s : State) : KeepsOk s (execLdc f s) := by
  unfold execLdc
  exact memT_ok _ _ _ _ _ s

/-- LDSP. -/
theorem execLdsp_ok (f : MForm) (s : State) : KeepsOk s (execLdsp f s) := by
  unfold execLdsp
  exact memT_ok _ _ _ _ _ s

/-- STSP. -/
theorem execStsp_ok (f : MForm) (s : State) : KeepsOk s (execStsp f s) := by
  unfold execStsp
  exact memT_ok _ _ _ _ _ s

/-- CLNV. -/
theorem execClnv_ok (f : MForm) (s : State) : KeepsOk s (execClnv f s) := by
  unfold execClnv
  exact memT_ok _ _ _ _ _ s

/-- ATOM.add. -/
theorem execAtomAdd_ok (f : MForm) (s : State) : KeepsOk s (execAtomAdd f s) := by
  unfold execAtomAdd
  exact atomT_ok _ _ _ s

/-- ATOM.sub. -/
theorem execAtomSub_ok (f : MForm) (s : State) : KeepsOk s (execAtomSub f s) := by
  unfold execAtomSub
  exact atomT_ok _ _ _ s

/-- ATOM.min. -/
theorem execAtomMin_ok (f : MForm) (s : State) : KeepsOk s (execAtomMin f s) := by
  unfold execAtomMin
  exact atomT_ok _ _ _ s

/-- ATOM.max. -/
theorem execAtomMax_ok (f : MForm) (s : State) : KeepsOk s (execAtomMax f s) := by
  unfold execAtomMax
  exact atomT_ok _ _ _ s

/-- ATOM.and. -/
theorem execAtomAnd_ok (f : MForm) (s : State) : KeepsOk s (execAtomAnd f s) := by
  unfold execAtomAnd
  exact atomT_ok _ _ _ s

/-- ATOM.or. -/
theorem execAtomOr_ok (f : MForm) (s : State) : KeepsOk s (execAtomOr f s) := by
  unfold execAtomOr
  exact atomT_ok _ _ _ s

/-- ATOM.xor. -/
theorem execAtomXor_ok (f : MForm) (s : State) : KeepsOk s (execAtomXor f s) := by
  unfold execAtomXor
  exact atomT_ok _ _ _ s

/-- ATOM.xchg. -/
theorem execAtomXchg_ok (f : MForm) (s : State) : KeepsOk s (execAtomXchg f s) := by
  unfold execAtomXchg
  exact atomT_ok _ _ _ s

/-- ATOM.cas. -/
theorem execAtomCas_ok (f : MForm) (s : State) : KeepsOk s (execAtomCas f s) := by
  unfold execAtomCas
  exact atomT_ok _ _ _ s

/-- ATOM.fadd. -/
theorem execAtomFadd_ok (f : MForm) (s : State) : KeepsOk s (execAtomFadd f s) := by
  unfold execAtomFadd
  exact atomT_ok _ _ _ s

/-- ATOM.maxi. -/
theorem execAtomMaxi_ok (f : MForm) (s : State) : KeepsOk s (execAtomMaxi f s) := by
  unfold execAtomMaxi
  exact atomT_ok _ _ _ s

/-- ATOM.mini. -/
theorem execAtomMini_ok (f : MForm) (s : State) : KeepsOk s (execAtomMini f s) := by
  unfold execAtomMini
  exact atomT_ok _ _ _ s

/-- A record is processed: what its processing keeps, the intake keeps. -/
theorem State.processRecord_ok {s : State} (kind : Nat) {body : State → Nat → Option Nat → List Word → Option JobDesc → Processed}
    (h : ∀ s x op ws desc, s.Canonical → (body s x op ws desc).state.Canonical) : KeepsOk s (s.processRecord kind body) := by
  refine keepsOk_next fun hs => ?_
  split
  · rename_i rest _
    split
    · rename_i x op ws desc _
      split
      · exact hs
      · have h0 := h { s with intake := rest } x op ws desc (hs.same (State.store_congr rfl rfl rfl rfl))
        split
        · rename_i hq
          rw [hq] at h0
          exact h0
        · rename_i hq
          rw [hq] at h0
          exact State.Canonical.same h0 (State.store_congr rfl rfl rfl rfl)
    · exact hs
  · exact hs

/-- RECORD_LAUNCH. -/
theorem execRecordLaunch_ok (s : State) : KeepsOk s (execRecordLaunch s) := by
  unfold execRecordLaunch
  refine State.processRecord_ok _ fun s x op ws desc hs => ?_
  dsimp only
  repeat' (first
    | exact State.launchRecord_canonical _ _ _ _ _ hs
    | (dsimp only [Processed.state]; exact hs.same (State.rejectRecord_store ..))
    | split)

/-- CURATOR_BIND. -/
theorem execCuratorBind_ok (s : State) : KeepsOk s (execCuratorBind s) := by
  unfold execCuratorBind
  split
  · refine keepsOk_next fun hs => ?_
    dsimp only
    repeat' (first | exact hs | split)
    rename_i h
    have h1 := hs.same (State.writeSlot_store h)
    refine ⟨h1.mem, h1.dram, fun e he => ?_, h1.moved⟩
    rcases mem_assocSet he with h | h
    · exact h ▸ rfl
    · exact h1.spads e h
  · refine keepsOk_next fun hs => ?_
    repeat' (first | exact hs | exact hs.same (State.writeRestore_store _ _ _) | split)
  · exact keepsOk_next fun hs => hs

/-- DISPATCH. -/
theorem execDispatch_ok (s : State) : KeepsOk s (execDispatch s) := by
  unfold execDispatch
  split
  · refine keepsOk_next fun hs => ?_
    dsimp only
    repeat' (first | exact hs | exact State.makeResident_canonical _ _ (fun s w h => State.startWg_canonical w h) hs | split)
  · exact keepsOk_next fun hs => hs

/-- WORKGROUP_RETIRE. -/
theorem execWorkgroupRetire_ok (s : State) : KeepsOk s (execWorkgroupRetire s) := by
  unfold execWorkgroupRetire
  split
  · rename_i w _
    refine keepsOk_next fun hs => ?_
    split
    · split
      · have h1 : ∀ g : Workgroup, (((s.withdrawAll g.col w).clearSlot g.col w).modWg w fun g =>
            { g with st := .retired, spad := [], spadPoison := [], cncl := [] }).Canonical :=
          fun g => State.modWg_canonical (fun _ _ => rfl) (hs.same ((State.clearSlot_store _ _ _).trans (State.withdrawAll_store _ _ _)))
        refine (State.canonical_iff _).2 ?_
        rw [State.bindLowest_store, State.freeLoan_store, foldl_store _ _ _ fun s a => State.modTeam_store _ _ _]
        exact (State.canonical_iff _).1 (h1 _)
      · exact hs
    · exact hs
  · exact keepsOk_next fun hs => hs

/-- REGISTRAR_RELEASE. -/
theorem execRegistrarRelease_ok (s : State) : KeepsOk s (execRegistrarRelease s) := by
  unfold execRegistrarRelease
  split
  · refine keepsOk_next fun hs => ?_
    repeat' (first | exact hs | exact State.releaseOne_canonical _ _ hs | (refine hs.same ?_; simp; done) | split)
  · exact keepsOk_next fun hs => hs

/-- A page is mapped where a far access meets it (R370). -/
theorem State.touchMap_canonical {s : State} (r : PageRef) (hs : s.Canonical) : (s.touchMap r).Canonical := by
  unfold State.touchMap
  split
  · dsimp only
    split
    · cases hm : State.mapPage s _ _ _ with
      | none => exact hs
      | some s1 => exact State.mapPage_canonical hm hs
    · exact hs
  · exact hs

/-- FAR_FIRST_TOUCH_MAP. -/
theorem execFarFirstTouchMap_ok (s : State) : KeepsOk s (execFarFirstTouchMap s) := by
  unfold execFarFirstTouchMap
  repeat' (first
    | exact keepsOk_next fun hs => hs
    | exact keepsOk_next (State.touchMap_canonical _)
    | refine keepsOk_next fun hs => ?_
    | exact hs
    | exact State.touchMap_canonical _ hs
    | split)

/-- A shared page of an object parts (R381). -/
theorem State.copyPage_canonical {s : State} (r : PageRef) (hs : s.Canonical) : (s.copyPage r).Canonical := by
  unfold State.copyPage
  repeat' (first | exact hs | exact State.partPage_canonical _ hs | split)

/-- COPY_ON_WRITE. -/
theorem execCopyOnWrite_ok (s : State) : KeepsOk s (execCopyOnWrite s) := by
  unfold execCopyOnWrite
  repeat' (first
    | exact keepsOk_next fun hs => hs
    | exact keepsOk_next (State.copyPage_canonical _)
    | refine keepsOk_next fun hs => ?_
    | exact hs
    | exact State.copyPage_canonical _ hs
    | split)

/-- PAGE_MIGRATION. -/
theorem execPageMigration_ok (s : State) : KeepsOk s (execPageMigration s) := by
  unfold execPageMigration
  split
  · exact keepsOk_next (State.movePage_canonical _ _ _)
  · exact keepsOk_next fun hs => hs

/-- PAGE_DUPLICATION. -/
theorem execPageDuplication_ok (s : State) : KeepsOk s (execPageDuplication s) := by
  unfold execPageDuplication
  split
  · refine keepsOk_next fun hs => ?_
    split
    · dsimp only
      split
      · refine (State.canonical_iff _).2 ?_
        simp only [State.modObj_store]
        exact (State.canonical_iff _).1 (State.copyFrame_canonical _ _ hs)
      · exact hs
    · exact hs
  · exact keepsOk_next fun hs => hs

/-- LIVE_MIGRATION. -/
theorem execLiveMigration_ok (s : State) : KeepsOk s (execLiveMigration s) := by
  unfold execLiveMigration
  split
  · exact keepsOk_next (State.leave_canonical _ _)
  · exact keepsOk_next (State.arrive_canonical _)
  · exact keepsOk_next fun hs => hs

/-- MM_EXPORT. -/
theorem execMmExport_ok (s : State) : KeepsOk s (execMmExport s) := by
  unfold execMmExport
  split
  · refine keepsOk_next fun hs => ?_
    repeat' (first | exact hs | exact State.exportBuf_canonical _ hs | split)
  · refine keepsOk_next fun hs => ?_
    repeat' (first | exact hs | exact State.exportWord_canonical _ _ hs | split)
  · exact keepsOk_next fun hs => hs

/-- MM_APPLY. -/
theorem execMmApply_ok (s : State) : KeepsOk s (execMmApply s) := by
  unfold execMmApply
  split
  · refine keepsOk_next fun hs => ?_
    repeat' (first | exact hs | exact State.applyBuf_canonical _ hs | split)
  · exact keepsOk_next fun hs => hs

/-- The accesses of one word of a slot are performed together (R205). -/
theorem State.performMates_canonical {s : State} (o : Op) (a : Access) (hs : s.Canonical) : (s.performMates o a).Canonical := by
  unfold State.performMates
  have h1 := foldl_canonical (l := o.slotMates a) (f := fun s el => match s.op? o.id with
    | none => s
    | some p => match p.acc.find? fun b => b.el == el with
      | some b => s.performAccess p b
      | none => s)
    (fun s el h => by repeat' (first | exact h | exact State.performAccess_canonical _ _ h | split)) hs
  dsimp only
  repeat' (first | exact hs | exact h1 | split)

/-- An element of an operation is performed. -/
theorem State.performEl_canonical {s : State} (o : Op) (el : Nat) (hs : s.Canonical) : (s.performEl o el).Canonical := by
  unfold State.performEl
  repeat' (first | exact hs | exact State.performMates_canonical _ _ hs | (refine hs.same ?_; simp) | split)

/-- Errors in a word that reads take (R408). -/
theorem State.observeReads_canonical {s t : State} {as : List Access} {loc word : Nat} {obs : EccObs} (h : s.observeReads as loc word obs = some t)
    (hs : s.Canonical) : t.Canonical := by
  obtain ⟨e, -, rfl⟩ := Option.map_eq_some_iff.1 h
  exact State.observeAccess_canonical _ _ _ _ hs

/-- MM_PERFORM. -/
theorem execMmPerform_ok (s : State) : KeepsOk s (execMmPerform s) := by
  unfold execMmPerform
  split
  · refine keepsOk_next fun hs => ?_
    split
    · split
      · rename_i h
        exact State.performEl_canonical _ _ (State.observeReads_canonical h hs)
      · exact hs
    · exact hs
  · refine keepsOk_next fun hs => ?_
    rename_i a loc word obs _
    cases h : s.observeReads (s.fetchAcc a).toList loc word obs with
    | none => exact hs
    | some t => exact State.observeReads_canonical h hs
  · refine keepsOk_next fun hs => ?_
    repeat' (first | exact hs | exact State.performEl_canonical _ _ hs | split)
  · exact keepsOk_next fun hs => hs

/-- WRITE_PERFORMED. -/
theorem execWritePerformed_ok (s : State) : KeepsOk s (execWritePerformed s) := by
  unfold execWritePerformed
  split
  · refine keepsOk_next fun hs => ?_
    split
    · exact State.finishOp_canonical _ hs
    · exact hs
  · exact keepsOk_next fun hs => hs

/-- READ_PACKET. -/
theorem execReadPacket_ok (s : State) : KeepsOk s (execReadPacket s) := by
  unfold execReadPacket
  split
  · exact keepsOk_next fun hs => (State.observe_canonical _ _ _ hs).same (State.replyTo_store _ _ _ _)
  · exact keepsOk_next fun hs => (State.observe_canonical _ _ _ hs).same (State.replyTo_store _ _ _ _)
  · exact keepsOk_next fun hs => hs

/-- SCRUB_GRANULE. -/
theorem execScrubGranule_ok (s : State) : KeepsOk s (execScrubGranule s) := by
  unfold execScrubGranule
  split
  · refine keepsOk_next fun hs => ?_
    dsimp only
    repeat' (first | exact hs | (refine hs.same ?_; simp; done) | exact State.observeGranule_canonical _ _ _ _ hs | split)
  · exact keepsOk_next fun hs => hs

/-- WRITE_PACKET. -/
theorem execWritePacket_ok (s : State) : KeepsOk s (execWritePacket s) := by
  unfold execWritePacket
  split
  · exact keepsOk_next fun hs => (State.writeBack_canonical _ _ hs).same (State.replyTo_store _ _ _ _)
  · exact keepsOk_next fun hs => (State.writeBack_canonical _ _ (State.observeEvicted_canonical _ _ _ _ hs)).same (State.replyTo_store _ _ _ _)
  · exact keepsOk_next fun hs => hs

/-- The reply of an atomic packet (R406). -/
theorem State.atomReply_canonical {s s1 : State} (tag : Nat) (sp : Space) (a : Addr) (lower : Bool) (n : Nat) (hs : s1.Canonical) :
    (s.atomReply s1 tag sp a lower n).Canonical := by
  unfold State.atomReply
  refine State.Canonical.same ?_ (State.replyTo_store _ _ _ _)
  split
  · exact State.writeBack_canonical _ _ hs
  · exact hs

/-- ATOMIC_PACKET. -/
theorem execAtomicPacket_ok (s : State) : KeepsOk s (execAtomicPacket s) := by
  unfold execAtomicPacket
  repeat' (first
    | exact keepsOk_next fun hs => hs
    | refine keepsOk_next fun hs => ?_
    | exact hs
    | exact State.performAccess_canonical _ _ hs
    | exact State.applyBuf_canonical _ hs
    | exact State.atomReply_canonical _ _ _ _ _ (State.performAccess_canonical _ _ hs)
    | exact State.atomReply_canonical _ _ _ _ _ (State.applyBuf_canonical _ hs)
    | dsimp only
    | split)

/-- DRAM_DIE_REMOVAL. -/
theorem execDramDieRemoval_ok (s : State) : KeepsOk s (execDramDieRemoval s) := by
  unfold execDramDieRemoval
  split
  · refine keepsOk_next fun hs => ?_
    split
    · exact hs
    · dsimp only
      refine State.Canonical.same ?_ (State.announce_store _ _)
      refine foldl_canonical (fun s e h => State.evacuate_canonical _ _ _ _ h) ?_
      refine (State.canonical_iff _).2 ?_
      rw [State.store_mk, State.store_fold, foldl_store]
      · exact (State.canonical_iff _).1 (hs.same (State.store_congr rfl rfl rfl rfl))
      · intro s a
        split <;> simp
  · exact keepsOk_next fun hs => hs

/-- A fold that drops workgroups keeps the canonical form. -/
theorem dropWgs_canonical {s : State} (l : List (Nat × Workgroup)) (hs : s.Canonical) :
    (l.foldl (fun s w =>
      let s1 := s.clearSlot w.2.col w.1
      if w.2.st == .saved then s1 else { s1 with wgs := assocDel s1.wgs w.1 }) s).Canonical := by
  refine foldl_canonical (fun s w h => ?_) hs
  have h1 : (s.clearSlot w.2.col w.1).Canonical := h.same (by simp)
  dsimp only
  split
  · exact h1
  exact ⟨h1.mem, h1.dram, fun e he => h1.spads e (List.mem_of_mem_filter he), h1.moved⟩

/-- CORE_FAILURE. -/
theorem execCoreFailure_ok (s : State) : KeepsOk s (execCoreFailure s) := by
  unfold execCoreFailure
  split
  · refine keepsOk_next fun hs => ?_
    split
    · rename_i e _
      dsimp only
      split
      · exact hs
      · have h2 := dropWgs_canonical ((s.fatalWhere .euce fun c => c / 4 == e.1).wgs.filter fun w => (w.2.st == .bound || w.2.st == .saved) && w.2.col / 4 == e.1)
          (hs.same (State.fatalWhere_store s .euce fun c => c / 4 == e.1))
        exact h2.same ((State.logError_store _ _ _).trans (State.store_congr rfl rfl rfl rfl))
    · exact hs
  · exact keepsOk_next fun hs => hs

/-- DMA_WRITE. -/
theorem execDmaWrite_ok (s : State) : KeepsOk s (execDmaWrite s) := by
  unfold execDmaWrite
  split
  · rename_i a data _
    refine keepsOk_next fun hs => ?_
    split
    · exact hs
    · have h1 : ∀ secs, ({ s.noteConflict (.copy 0) .F secs none with
          dram := Memory.setBytes (s.noteConflict (.copy 0) .F secs none).dram a data } : State).Canonical := fun secs =>
        (hs.same (State.noteConflict_store s (.copy 0) .F secs none)).write (fun h => h) (fun h => Memory.wf_setBytes _ h) rfl rfl
      exact (State.invalidate_canonical a data.length (h1 _)).same (State.store_congr rfl rfl rfl rfl)
  · exact keepsOk_next fun hs => hs

/-- A request from another device is served (R423). -/
theorem State.serveFar_canonical {s t : State} {port : Nat} {f : EtherFrame} {tag x col : Nat} {a : Addr} {n : Nat} {write reads : Bool}
    {go : State → State × List Byte} (h : s.serveFar port f tag x col a n write reads go = some t) (hs : s.Canonical)
    (hgo : ∀ s, s.Canonical → (go s).1.Canonical) : t.Canonical := by
  unfold State.serveFar at h
  dsimp only at h
  have h1 := fun r => hs.same (State.countFar_store s r f.src)
  repeat' (first
    | contradiction
    | (rw [← Option.some.inj h]; refine hs.same ?_; simp; done)
    | (rw [← Option.some.inj h]; exact (hgo _ (h1 _)).same (State.send_store _ _ _ _))
    | split at h)

/-- A frame from another device is served (R423). -/
theorem State.serveFrame_canonical {s t : State} {port : Nat} {f : EtherFrame} (h : s.serveFrame port f = some t) (hs : s.Canonical) :
    t.Canonical := by
  unfold State.serveFrame at h
  repeat' (first
    | (rw [← Option.some.inj h]; exact hs.same (State.store_congr rfl rfl rfl rfl))
    | exact hs.same (State.serveCheck_store h)
    | exact State.serveFar_canonical h hs fun _ h => h
    | (refine State.serveFar_canonical h hs fun s h => ?_; dsimp only; exact State.update_canonical _ _ _ _ _ _ h)
    | (refine State.serveFar_canonical h hs fun s h => ?_; dsimp only; exact State.atomicAt_canonical _ _ _ _ _ _ _ _ h)
    | split at h)

/-- SCALEOUT_FRAME_RECEIVE. -/
theorem execScaleoutFrameReceive_ok (s : State) : KeepsOk s (execScaleoutFrameReceive s) := by
  unfold execScaleoutFrameReceive
  split
  · rename_i port f _
    refine keepsOk_next fun hs => ?_
    have hw : ((s.serveFrame port f).getD { s with inbox := s.inbox ++ [(port, f)] }).Canonical := by
      cases h : s.serveFrame port f with
      | none => exact hs.same (State.store_congr rfl rfl rfl rfl)
      | some t => exact State.serveFrame_canonical h hs
    dsimp only
    repeat' (first | exact hs | exact hw | (refine hs.same ?_; simp; done) | split)
  · refine keepsOk_next fun hs => ?_
    repeat' (first | exact hs | split)
    rename_i s1 h
    exact (State.serveFrame_canonical h hs).same (State.store_congr rfl rfl rfl rfl)
  · exact keepsOk_next fun hs => hs

/-- A mailbox command is executed. -/
theorem State.execute_canonical {s : State} (who : Option Nat) (code : Nat) {body : State → Mailbox → State}
    (h : ∀ m, (body s m).Canonical) (hs : s.Canonical) : (s.execute who code body).Canonical := by
  unfold State.execute
  repeat' (first | exact hs | exact h _ | exact hs.same (State.respond_store ..) | split)

/-- CREATE_CONTEXT. -/
theorem execCreateContext_ok (s : State) : KeepsOk s (execCreateContext s) := by
  unfold execCreateContext
  split
  · refine keepsOk_next fun hs => State.execute_canonical _ _ (fun m => ?_) hs
    dsimp only
    split
    · split
      · exact hs.same (State.respond_store ..)
      · split
        · split
          · rename_i e
            refine State.Canonical.same ?_ (State.respond_store ..)
            have h3 := State.loadSupervisor_canonical e ((hs.same (State.store_congr rfl rfl rfl rfl)).same (State.modCtx_store _ _ _))
            exact h3.same (State.store_congr rfl rfl rfl rfl)
          · exact hs.same (State.respond_store ..)
        · exact hs.same (State.respond_store ..)
    · exact hs.same (State.respond_store ..)
  · exact keepsOk_next fun hs => hs

/-- DESTROY_CONTEXT. -/
theorem execDestroyContext_ok (s : State) : KeepsOk s (execDestroyContext s) := by
  unfold execDestroyContext
  refine keepsOk_next fun hs => State.execute_canonical _ _ (fun m => ?_) hs
  dsimp only
  split
  · exact hs.same (foldl_store _ _ _ fun s a => by simp)
  · split
    · exact hs
    · exact (State.dropContext_canonical _ hs).same (State.respond_store ..)

/-- STAGE_FIRMWARE. -/
theorem execStageFirmware_ok (s : State) : KeepsOk s (execStageFirmware s) := by
  unfold execStageFirmware
  split
  · rename_i img _
    refine keepsOk_next fun hs => State.execute_canonical _ _ (fun m => ?_) hs
    have h1 : (({ s with staged := some img } : State).respond none 0 0).Canonical :=
      (hs.same (State.store_congr rfl rfl rfl rfl)).same (State.respond_store ..)
    dsimp only
    repeat' (first | exact h1 | exact State.toReset_canonical h1 | exact hs.same (State.respond_store ..) | split)
  · exact keepsOk_next fun hs => hs

/-- STAGE1_COMPLETE. -/
theorem execStage1Complete_ok (s : State) : KeepsOk s (execStage1Complete s) := by
  unfold execStage1Complete
  split
  · refine keepsOk_next fun hs => ?_
    split
    · exact hs
    · exact ⟨rfl, rfl, hs.spads, hs.moved⟩
  · exact keepsOk_next fun hs => hs

/-- START_JOB. -/
theorem execStartJob_ok (s : State) : KeepsOk s (execStartJob s) := by
  unfold execStartJob
  split
  · refine keepsOk_next fun hs => hs.same (State.execute_store _ _ _ _ fun m => ?_)
    repeat' (first | (simp; done) | exact State.startJob_store ..| split)
  · exact keepsOk_next fun hs => hs

/-- DEVICE_RESET. -/
theorem execDeviceReset_ok (s : State) : KeepsOk s (execDeviceReset s) := keepsOk_next State.toReset_canonical

end Sys2Proof.Machine
end

