-- ==== Sys2Proof/Laws/Decode.lean ====
section
/-!
SUPPORT. Laws of the decoder and the encoder: each format's fields come back from the word that packs them, and so does the opcode.
-/

namespace Sys2Proof

theorem Ty.ofCode_code (t : Ty) : Ty.ofCode t.code = t := by cases t <;> rfl

theorem Ty.code_ofCode (c : BitVec 4) : (Ty.ofCode c).code = c := by revert c; decide

theorem RMode.ofCode_code (t : RMode) : RMode.ofCode t.code = t := by cases t <;> rfl

theorem RMode.code_ofCode (c : BitVec 2) : (RMode.ofCode c).code = c := by revert c; decide

/-- A field above the low part of a word lies in the high part. -/
theorem extract_append_hi {n m : Nat} (a : BitVec n) (b : BitVec m) (s l : Nat) (h : m ≤ s) :
    (a ++ b).extractLsb' s l = a.extractLsb' (s - m) l := by
  ext i hi
  simp only [BitVec.getElem_extractLsb', BitVec.getLsbD_append]
  rw [if_neg (by omega)]; congr 1; omega

theorem extract_append_lo {n m : Nat} (a : BitVec n) (b : BitVec m) : (a ++ b).extractLsb' 0 m = b := by
  ext i hi
  rw [BitVec.getElem_extractLsb', Nat.zero_add, BitVec.getLsbD_append, if_pos hi]
  exact BitVec.getLsbD_eq_getElem hi

theorem bit_append_hi {n m : Nat} (a : BitVec n) (b : BitVec m) (s : Nat) (h : m ≤ s) :
    (a ++ b).getLsbD s = a.getLsbD (s - m) := by
  rw [BitVec.getLsbD_append, if_neg (by omega)]

theorem bit_append_lo {n : Nat} (a : BitVec n) (b : Bool) : (a ++ bit1 b).getLsbD 0 = b := by
  rw [BitVec.getLsbD_append, if_pos (by decide)]; cases b <;> rfl

theorem extract_self {n : Nat} (a : BitVec n) : a.extractLsb' 0 n = a := by
  ext i hi
  rw [BitVec.getElem_extractLsb', Nat.zero_add]
  exact BitVec.getLsbD_eq_getElem hi


/-- The opcode of a V-format word. -/
theorem opcodeOf_packV (op : BitVec 10) (f : VForm) : opcodeOf (packV op f) = op.toNat := by
  refine congrArg BitVec.toNat ?_
  repeat refine (extract_append_hi _ _ _ _ (by decide)).trans ?_
  exact extract_self op

/-- The fields of a V-format word. -/
theorem fieldsV_packV (op : BitVec 10) (f : VForm) : fieldsV (packV op f) = f := by
  rcases f with ⟨ty, d, a, b, c, m, fs, se, rnd, sat, sub⟩
  refine (VForm.mk.injEq ..).mpr ⟨?_, ?_, ?_, ?_, ?_, ?_, ?_, ?_, ?_, ?_, ?_⟩
  · refine Eq.trans (congrArg Ty.ofCode ?_) (Ty.ofCode_code ty)
    repeat refine (extract_append_hi _ _ _ _ (by decide)).trans ?_
    exact extract_append_lo ..
  · repeat refine (extract_append_hi _ _ _ _ (by decide)).trans ?_
    exact extract_append_lo ..
  · repeat refine (extract_append_hi _ _ _ _ (by decide)).trans ?_
    exact extract_append_lo ..
  · repeat refine (extract_append_hi _ _ _ _ (by decide)).trans ?_
    exact extract_append_lo ..
  · repeat refine (extract_append_hi _ _ _ _ (by decide)).trans ?_
    exact extract_append_lo ..
  · repeat refine (extract_append_hi _ _ _ _ (by decide)).trans ?_
    exact extract_append_lo ..
  · repeat refine (bit_append_hi _ _ _ (by decide)).trans ?_
    exact bit_append_lo ..
  · repeat refine (bit_append_hi _ _ _ (by decide)).trans ?_
    exact bit_append_lo ..
  · refine Eq.trans (congrArg RMode.ofCode ?_) (RMode.ofCode_code rnd)
    repeat refine (extract_append_hi _ _ _ _ (by decide)).trans ?_
    exact extract_append_lo ..
  · repeat refine (bit_append_hi _ _ _ (by decide)).trans ?_
    exact bit_append_lo ..
  · exact extract_append_lo ..

/-- The opcode of a I-format word. -/
theorem opcodeOf_packI (op : BitVec 10) (f : IForm) : opcodeOf (packI op f) = op.toNat := by
  refine congrArg BitVec.toNat ?_
  repeat refine (extract_append_hi _ _ _ _ (by decide)).trans ?_
  exact extract_self op

/-- The fields of a I-format word. -/
theorem fieldsI_packI (op : BitVec 10) (f : IForm) : fieldsI (packI op f) = f := by
  rcases f with ⟨ty, d, a, cls, imm⟩
  refine (IForm.mk.injEq ..).mpr ⟨?_, ?_, ?_, ?_, ?_⟩
  · refine Eq.trans (congrArg Ty.ofCode ?_) (Ty.ofCode_code ty)
    repeat refine (extract_append_hi _ _ _ _ (by decide)).trans ?_
    exact extract_append_lo ..
  · repeat refine (extract_append_hi _ _ _ _ (by decide)).trans ?_
    exact extract_append_lo ..
  · repeat refine (extract_append_hi _ _ _ _ (by decide)).trans ?_
    exact extract_append_lo ..
  · repeat refine (extract_append_hi _ _ _ _ (by decide)).trans ?_
    exact extract_append_lo ..
  · exact extract_append_lo ..

/-- The opcode of a M-format word. -/
theorem opcodeOf_packM (op : BitVec 10) (f : MForm) : opcodeOf (packM op f) = op.toNat := by
  refine congrArg BitVec.toNat ?_
  repeat refine (extract_append_hi _ _ _ _ (by decide)).trans ?_
  exact extract_self op

/-- The fields of a M-format word. -/
theorem fieldsM_packM (op : BitVec 10) (f : MForm) : fieldsM (packM op f) = f := by
  rcases f with ⟨ty, d, vo, base, voff, m, fs, se, hint, off⟩
  refine (MForm.mk.injEq ..).mpr ⟨?_, ?_, ?_, ?_, ?_, ?_, ?_, ?_, ?_, ?_⟩
  · refine Eq.trans (congrArg Ty.ofCode ?_) (Ty.ofCode_code ty)
    repeat refine (extract_append_hi _ _ _ _ (by decide)).trans ?_
    exact extract_append_lo ..
  · repeat refine (extract_append_hi _ _ _ _ (by decide)).trans ?_
    exact extract_append_lo ..
  · repeat refine (bit_append_hi _ _ _ (by decide)).trans ?_
    exact bit_append_lo ..
  · repeat refine (extract_append_hi _ _ _ _ (by decide)).trans ?_
    exact extract_append_lo ..
  · repeat refine (extract_append_hi _ _ _ _ (by decide)).trans ?_
    exact extract_append_lo ..
  · repeat refine (extract_append_hi _ _ _ _ (by decide)).trans ?_
    exact extract_append_lo ..
  · repeat refine (bit_append_hi _ _ _ (by decide)).trans ?_
    exact bit_append_lo ..
  · repeat refine (bit_append_hi _ _ _ (by decide)).trans ?_
    exact bit_append_lo ..
  · repeat refine (extract_append_hi _ _ _ _ (by decide)).trans ?_
    exact extract_append_lo ..
  · exact extract_append_lo ..

/-- The opcode of a X-format word. -/
theorem opcodeOf_packX (op : BitVec 10) (f : XForm) : opcodeOf (packX op f) = op.toNat := by
  refine congrArg BitVec.toNat ?_
  repeat refine (extract_append_hi _ _ _ _ (by decide)).trans ?_
  exact extract_self op

/-- The fields of a X-format word. -/
theorem fieldsX_packX (op : BitVec 10) (f : XForm) : fieldsX (packX op f) = f := by
  rcases f with ⟨ty, d, a, b, m, pat, par⟩
  refine (XForm.mk.injEq ..).mpr ⟨?_, ?_, ?_, ?_, ?_, ?_, ?_⟩
  · refine Eq.trans (congrArg Ty.ofCode ?_) (Ty.ofCode_code ty)
    repeat refine (extract_append_hi _ _ _ _ (by decide)).trans ?_
    exact extract_append_lo ..
  · repeat refine (extract_append_hi _ _ _ _ (by decide)).trans ?_
    exact extract_append_lo ..
  · repeat refine (extract_append_hi _ _ _ _ (by decide)).trans ?_
    exact extract_append_lo ..
  · repeat refine (extract_append_hi _ _ _ _ (by decide)).trans ?_
    exact extract_append_lo ..
  · repeat refine (extract_append_hi _ _ _ _ (by decide)).trans ?_
    exact extract_append_lo ..
  · repeat refine (extract_append_hi _ _ _ _ (by decide)).trans ?_
    exact extract_append_lo ..
  · exact extract_append_lo ..

/-- The opcode of a B-format word. -/
theorem opcodeOf_packB (op : BitVec 10) (f : BForm) : opcodeOf (packB op f) = op.toNat := by
  refine congrArg BitVec.toNat ?_
  repeat refine (extract_append_hi _ _ _ _ (by decide)).trans ?_
  exact extract_self op

/-- The fields of a B-format word. -/
theorem fieldsB_packB (op : BitVec 10) (f : BForm) : fieldsB (packB op f) = f := by
  rcases f with ⟨creg, cond, m, res, imm⟩
  refine (BForm.mk.injEq ..).mpr ⟨?_, ?_, ?_, ?_, ?_⟩
  · repeat refine (extract_append_hi _ _ _ _ (by decide)).trans ?_
    exact extract_append_lo ..
  · repeat refine (extract_append_hi _ _ _ _ (by decide)).trans ?_
    exact extract_append_lo ..
  · repeat refine (extract_append_hi _ _ _ _ (by decide)).trans ?_
    exact extract_append_lo ..
  · repeat refine (extract_append_hi _ _ _ _ (by decide)).trans ?_
    exact extract_append_lo ..
  · exact extract_append_lo ..

/-- The opcode of a C-format word. -/
theorem opcodeOf_packC (op : BitVec 10) (f : CForm) : opcodeOf (packC op f) = op.toNat := by
  refine congrArg BitVec.toNat ?_
  repeat refine (extract_append_hi _ _ _ _ (by decide)).trans ?_
  exact extract_self op

/-- The fields of a C-format word. -/
theorem fieldsC_packC (op : BitVec 10) (f : CForm) : fieldsC (packC op f) = f := by
  rcases f with ⟨ty, se, fs, dk, sk, dop, sop, cf, cnt, hint, doff, soff⟩
  refine (CForm.mk.injEq ..).mpr ⟨?_, ?_, ?_, ?_, ?_, ?_, ?_, ?_, ?_, ?_, ?_, ?_⟩
  · refine Eq.trans (congrArg Ty.ofCode ?_) (Ty.ofCode_code ty)
    repeat refine (extract_append_hi _ _ _ _ (by decide)).trans ?_
    exact extract_append_lo ..
  · repeat refine (bit_append_hi _ _ _ (by decide)).trans ?_
    exact bit_append_lo ..
  · repeat refine (bit_append_hi _ _ _ (by decide)).trans ?_
    exact bit_append_lo ..
  · repeat refine (extract_append_hi _ _ _ _ (by decide)).trans ?_
    exact extract_append_lo ..
  · repeat refine (extract_append_hi _ _ _ _ (by decide)).trans ?_
    exact extract_append_lo ..
  · repeat refine (extract_append_hi _ _ _ _ (by decide)).trans ?_
    exact extract_append_lo ..
  · repeat refine (extract_append_hi _ _ _ _ (by decide)).trans ?_
    exact extract_append_lo ..
  · repeat refine (bit_append_hi _ _ _ (by decide)).trans ?_
    exact bit_append_lo ..
  · repeat refine (extract_append_hi _ _ _ _ (by decide)).trans ?_
    exact extract_append_lo ..
  · repeat refine (extract_append_hi _ _ _ _ (by decide)).trans ?_
    exact extract_append_lo ..
  · repeat refine (extract_append_hi _ _ _ _ (by decide)).trans ?_
    exact extract_append_lo ..
  · exact extract_append_lo ..

/-- The opcode of a K-format word. -/
theorem opcodeOf_packK (op : BitVec 10) (f : KForm) : opcodeOf (packK op f) = op.toNat := by
  refine congrArg BitVec.toNat ?_
  repeat refine (extract_append_hi _ _ _ _ (by decide)).trans ?_
  exact extract_self op

/-- The fields of a K-format word. -/
theorem fieldsK_packK (op : BitVec 10) (f : KForm) : fieldsK (packK op f) = f := by
  rcases f with ⟨top, se, fs, low⟩
  refine (KForm.mk.injEq ..).mpr ⟨?_, ?_, ?_, ?_⟩
  · repeat refine (extract_append_hi _ _ _ _ (by decide)).trans ?_
    exact extract_append_lo ..
  · repeat refine (bit_append_hi _ _ _ (by decide)).trans ?_
    exact bit_append_lo ..
  · repeat refine (bit_append_hi _ _ _ (by decide)).trans ?_
    exact bit_append_lo ..
  · exact extract_append_lo ..

/-- The opcode of a G-format word. -/
theorem opcodeOf_packG (op : BitVec 10) (f : GForm) : opcodeOf (packG op f) = op.toNat := by
  refine congrArg BitVec.toNat ?_
  repeat refine (extract_append_hi _ _ _ _ (by decide)).trans ?_
  exact extract_self op

/-- The fields of a G-format word. -/
theorem fieldsG_packG (op : BitVec 10) (f : GForm) : fieldsG (packG op f) = f := by
  rcases f with ⟨ty, se, fs, acc, fa, fm, clr, sm, b, c, kc, mc, off⟩
  refine (GForm.mk.injEq ..).mpr ⟨?_, ?_, ?_, ?_, ?_, ?_, ?_, ?_, ?_, ?_, ?_, ?_, ?_⟩
  · refine Eq.trans (congrArg Ty.ofCode ?_) (Ty.ofCode_code ty)
    repeat refine (extract_append_hi _ _ _ _ (by decide)).trans ?_
    exact extract_append_lo ..
  · repeat refine (bit_append_hi _ _ _ (by decide)).trans ?_
    exact bit_append_lo ..
  · repeat refine (bit_append_hi _ _ _ (by decide)).trans ?_
    exact bit_append_lo ..
  · repeat refine (extract_append_hi _ _ _ _ (by decide)).trans ?_
    exact extract_append_lo ..
  · repeat refine (extract_append_hi _ _ _ _ (by decide)).trans ?_
    exact extract_append_lo ..
  · repeat refine (extract_append_hi _ _ _ _ (by decide)).trans ?_
    exact extract_append_lo ..
  · repeat refine (bit_append_hi _ _ _ (by decide)).trans ?_
    exact bit_append_lo ..
  · repeat refine (extract_append_hi _ _ _ _ (by decide)).trans ?_
    exact extract_append_lo ..
  · repeat refine (extract_append_hi _ _ _ _ (by decide)).trans ?_
    exact extract_append_lo ..
  · repeat refine (extract_append_hi _ _ _ _ (by decide)).trans ?_
    exact extract_append_lo ..
  · repeat refine (extract_append_hi _ _ _ _ (by decide)).trans ?_
    exact extract_append_lo ..
  · repeat refine (extract_append_hi _ _ _ _ (by decide)).trans ?_
    exact extract_append_lo ..
  · exact extract_append_lo ..

end Sys2Proof
end

