-- ==== Sys2Proof/Laws/Issue.lean ====
section
/-!
SUPPORT. What issuing an instruction does, said once: the frame of a team's instruction, of an engine stream's command, and of an instruction
whose register writes are known at issue.
-/

namespace Sys2Proof.Machine

/-- An instruction that may issue runs its body. -/
theorem State.issue_ready {s : State} {u : Nat} {t : Team} {i : Instr} {se fs : Bool} (body : State → Nat → Team → State)
    (h : s.Ready u t i se fs) : s.issue i se fs body = .next (body s u t) := by
  have hops : (i.rule.uses.any fun x => match useSource x with | some d => s.pendingDest u d | none => false) = false := by
    rw [List.any_eq_false]
    intro x hx
    cases hd : useSource x with
    | none => simp
    | some d => simp [h.operands x hx d hd]
  unfold State.issue
  simp only [h.cur, h.team, h.started, h.admits, h.port, Bool.not_true, Bool.false_eq_true, if_false]
  rw [if_neg, if_neg]
  · exact Bool.eq_false_iff.1 hops
  · cases hsp : t.spec with
    | none => simp
    | some sp =>
      obtain ⟨h1, h2, h3⟩ := h.window sp hsp
      by_cases hw : windowStore i = true
      · simp [h1, h2, hw, Nat.not_le.2 (h3 hw)]
      · simp [h1, h2, Bool.eq_false_iff.2 hw]

/-- A command of an engine stream that may issue runs its body. -/
theorem State.issueEng_ready {s : State} {u : Nat} {mtx : Bool} {t : Team} {x : Stream} {i : Instr} {se fs : Bool}
    (body : State → Nat → Team → Stream → State) (h : s.ReadyEng u mtx t x i se fs) :
    s.issueEng mtx i se fs body = .next (body s u t x) := by
  unfold State.issueEng
  cases mtx <;> simp [h.cur, h.team, h.stream, h.started, h.running, h.admits]

/-! ### The end of a slot -/

/-- A team that has not moved. -/
theorem Team.SameButPc.refl (t : Team) : t.SameButPc t := by
  constructor <;> simp

/-- One change after another. -/
theorem Team.SameButPc.trans {t t' t'' : Team} (h : t.SameButPc t') (g : t'.SameButPc t'') (hm : t'.masks = t.masks) :
    t.SameButPc t'' := by
  constructor
  case masks => exact hm ▸ (by simpa [Team.mask, hm] using g.masks)
  all_goals simp only [g.sregs, g.vregs, g.frontier, g.shape, g.status, g.errors, g.traps, g.mode, g.loops, g.streams, h.sregs, h.vregs,
    h.frontier, h.shape, h.status, h.errors, h.traps, h.mode, h.loops, h.streams, and_self]

/-- The block-entry merge adds lanes to m0 and changes nothing else (R116). -/
theorem Team.merge_same (t : Team) : t.SameButPc t.merge := by
  constructor
  case masks => exact .inr ⟨_, rfl⟩
  all_goals simp [Team.merge]

/-- Entering a block adds lanes to m0 and changes nothing else (R116). -/
theorem Team.enterBlock_same (t : Team) (h : Word) : t.SameButPc (t.enterBlock h) := by
  have h1 : t.SameButPc { t with fell := false } := by constructor <;> simp
  unfold Team.enterBlock
  split
  · exact h1.trans (Team.merge_same _) rfl
  · exact h1

/-- Falling through to a header (R116). -/
theorem State.fallTo_same (s : State) (t : Team) (pc : Addr) : t.SameButPc (s.fallTo t pc) := by
  have h1 : t.SameButPc { t with pc := pc } := by constructor <;> simp
  unfold State.fallTo
  dsimp only
  split
  · exact h1.trans (Team.enterBlock_same _ _) rfl
  · constructor <;> simp

/-- Standing at a boundary. -/
theorem Team.SameButPc.boundary {t t' : Team} (h : t.SameButPc t') (now : Nat) : t.SameButPc (t'.atBoundary now) := by
  constructor
  case masks => exact h.masks
  all_goals simp [Team.atBoundary, h.sregs, h.vregs, h.frontier, h.shape, h.status, h.errors, h.traps, h.mode, h.loops, h.streams]

/-- Nothing has changed. -/
theorem State.SameBut.refl (s : State) (u : Nat) : s.SameBut s u := by constructor <;> simp

/-- One change after another. -/
theorem State.SameBut.trans {s s' s'' : State} {u : Nat} (h : s.SameBut s' u) (g : s'.SameBut s'' u) : s.SameBut s'' u := by
  constructor
  case others => exact fun v hv => (g.others v hv).trans (h.others v hv)
  all_goals simp only [g.store, g.wgs, g.units, g.contexts, g.bufs, g.poison, g.intake, g.device, h.store, h.wgs, h.units, h.contexts, h.bufs,
    h.poison, h.intake, h.device, and_self]

/-- Replacing team u. -/
theorem State.SameBut.setTeam (s : State) (u : Nat) (t : Team) : s.SameBut (s.setTeam u t) u := by
  constructor
  case others => exact fun v hv => State.team?_setTeam_other s t hv
  all_goals simp

/-- Changing a column. -/
theorem State.SameBut.modCol (s : State) (u c : Nat) (f : Column → Column) : s.SameBut (s.modCol c f) u := by
  constructor <;> simp

/-- Adding an operation. -/
theorem State.SameBut.addOp (s : State) (u : Nat) (k : OpKind) (f : Op → Op) : s.SameBut (s.addOp u k f) u := by
  constructor <;> simp

/-- Leaving the datapath. -/
theorem State.SameBut.freeDp (s : State) (u : Nat) : s.SameBut (s.freeDp u) u := by
  unfold State.freeDp
  repeat' (first | exact .refl s u | exact .modCol s u _ _ | split | dsimp only)

/-- The team after it leaves the datapath. -/
@[simp] theorem State.team?_freeDp (s : State) (u v : Nat) : (s.freeDp u).team? v = s.team? v := by
  unfold State.freeDp
  repeat' (first | rfl | split | dsimp only)

/-- The operations after a team leaves the datapath. -/
@[simp] theorem State.freeDp_ops (s : State) (u : Nat) : (s.freeDp u).ops = s.ops := by
  unfold State.freeDp
  repeat' (first | rfl | split | dsimp only)

/-- A slot of team u has issued (R97): the next slot, or the end of the clause. -/
theorem State.advance_spec {s : State} {u : Nat} {t : Team} (h : s.team? u = some t) :
    ∃ t', (s.advance u).team? u = some t' ∧ t.SameButPc t' ∧ s.SameBut (s.advance u) u ∧ (s.advance u).ops = s.ops := by
  unfold State.advance
  simp only [h]
  split
  · unfold State.endClause
    simp only [h]
    exact ⟨_, State.team?_setTeam_self _ _ _, (s.fallTo_same t _).boundary _, (State.SameBut.freeDp s u).trans (.setTeam _ _ _), by simp⟩
  · exact ⟨_, State.team?_setTeam_self _ _ _, by constructor <;> simp, .setTeam s u _, rfl⟩

/-- What issuing an instruction does whose register writes are known at issue (R77, R99, R150). -/
theorem State.emit_spec {s : State} {u : Nat} {t : Team} (h : s.team? u = some t) (hc : s.cur = .team u) (se fs : Bool) (dests : List Dest)
    (ws : List RegWr) (raises : Sticky) (raiser : Bool) :
    ∃ t' o, (s.emit u t se fs dests ws raises raiser).team? u = some t' ∧ t.SameButPc t' ∧
      s.SameBut (s.emit u t se fs dests ws raises raiser) u ∧ (s.emit u t se fs dests ws raises raiser).ops = s.ops ++ [o] ∧
      o.agent = .team u ∧ o.team = u ∧ o.seq = s.seq ∧ o.kind = .alu ∧ o.acc = [] ∧ o.later = [] ∧ o.flag = selFlag t.hdr se fs ∧
      o.dests = dests ∧ o.writes = ws ∧ o.raises = raises := by
  have ha : ∀ f, (s.addOp u .alu f).team? u = some t := fun f => h
  obtain ⟨t', h1, h2, h3, h4⟩ := State.advance_spec (ha fun o =>
    { o with flag := selFlag t.hdr se fs, dests := dests, writes := ws, raises := raises, raiser := raiser, slot := t.slot })
  refine ⟨t', _, h1, h2, (State.SameBut.addOp s u _ _).trans h3, h4, ?_⟩
  simp [Op.blank, hc]

/-- An instruction whose body emits its writes issues. -/
theorem issues_of_emit {s : State} {u : Nat} {t : Team} {i : Instr} {se fs : Bool} {body : State → Nat → Team → State} {dests : List Dest}
    {ws : List RegWr} {raises : Sticky} {raiser : Bool} (hr : s.Ready u t i se fs) (he : exec i s = s.issue i se fs body)
    (hb : body s u t = s.emit u t se fs dests ws raises raiser) : Issues s u t i se fs dests ws raises := by
  obtain ⟨t', o, h1, h2, h3, h4, h5⟩ := State.emit_spec hr.team hr.cur se fs dests ws raises raiser
  exact ⟨_, t', o, by rw [he, State.issue_ready body hr, hb], h1, h2, h3, h4, h5⟩

end Sys2Proof.Machine
end

