-- ==== Sys2Proof/Laws/PerInstr.lean ====
section
/-!
SUPPORT. One lemma per constructor of `Instr`: the word that the encoder gives a well-formed instruction has the opcode and the fields
by which the decoder selects that very instruction.
-/

namespace Sys2Proof.Laws.Enc

/-- The decoder's selection, before its checks, gives back the instruction that the encoder was given. -/
def Statement (i : Instr) : Prop := i.wellFormed = true → ∀ w, encode i = some w → selectOpcode (opcodeOf w) w = some i


theorem smov (f : VForm) : Statement (.smov f) := by
  rintro _ _ ⟨⟩; rw [opcodeOf_packV]; exact congrArg (some ∘ Instr.smov) (fieldsV_packV _ f)

theorem sadd (f : VForm) : Statement (.sadd f) := by
  rintro _ _ ⟨⟩; rw [opcodeOf_packV]; exact congrArg (some ∘ Instr.sadd) (fieldsV_packV _ f)

theorem ssub (f : VForm) : Statement (.ssub f) := by
  rintro _ _ ⟨⟩; rw [opcodeOf_packV]; exact congrArg (some ∘ Instr.ssub) (fieldsV_packV _ f)

theorem smul (f : VForm) : Statement (.smul f) := by
  rintro _ _ ⟨⟩; rw [opcodeOf_packV]; exact congrArg (some ∘ Instr.smul) (fieldsV_packV _ f)

theorem smulh (f : VForm) : Statement (.smulh f) := by
  rintro _ _ ⟨⟩; rw [opcodeOf_packV]; exact congrArg (some ∘ Instr.smulh) (fieldsV_packV _ f)

theorem sdiv (f : VForm) : Statement (.sdiv f) := by
  rintro _ _ ⟨⟩; rw [opcodeOf_packV]; exact congrArg (some ∘ Instr.sdiv) (fieldsV_packV _ f)

theorem srem (f : VForm) : Statement (.srem f) := by
  rintro _ _ ⟨⟩; rw [opcodeOf_packV]; exact congrArg (some ∘ Instr.srem) (fieldsV_packV _ f)

theorem sand (f : VForm) : Statement (.sand f) := by
  rintro _ _ ⟨⟩; rw [opcodeOf_packV]; exact congrArg (some ∘ Instr.sand) (fieldsV_packV _ f)

theorem sor (f : VForm) : Statement (.sor f) := by
  rintro _ _ ⟨⟩; rw [opcodeOf_packV]; exact congrArg (some ∘ Instr.sor) (fieldsV_packV _ f)

theorem sxor (f : VForm) : Statement (.sxor f) := by
  rintro _ _ ⟨⟩; rw [opcodeOf_packV]; exact congrArg (some ∘ Instr.sxor) (fieldsV_packV _ f)

theorem snot (f : VForm) : Statement (.snot f) := by
  rintro _ _ ⟨⟩; rw [opcodeOf_packV]; exact congrArg (some ∘ Instr.snot) (fieldsV_packV _ f)

theorem sshl (f : VForm) : Statement (.sshl f) := by
  rintro _ _ ⟨⟩; rw [opcodeOf_packV]; exact congrArg (some ∘ Instr.sshl) (fieldsV_packV _ f)

theorem sshr (f : VForm) : Statement (.sshr f) := by
  rintro _ _ ⟨⟩; rw [opcodeOf_packV]; exact congrArg (some ∘ Instr.sshr) (fieldsV_packV _ f)

theorem ssar (f : VForm) : Statement (.ssar f) := by
  rintro _ _ ⟨⟩; rw [opcodeOf_packV]; exact congrArg (some ∘ Instr.ssar) (fieldsV_packV _ f)

theorem srot (f : VForm) : Statement (.srot f) := by
  rintro _ _ ⟨⟩; rw [opcodeOf_packV]; exact congrArg (some ∘ Instr.srot) (fieldsV_packV _ f)

theorem scmp (f : VForm) : Statement (.scmp f) := by
  rintro _ _ ⟨⟩; rw [opcodeOf_packV]; exact congrArg (some ∘ Instr.scmp) (fieldsV_packV _ f)

theorem ssel (f : VForm) : Statement (.ssel f) := by
  rintro _ _ ⟨⟩; rw [opcodeOf_packV]; exact congrArg (some ∘ Instr.ssel) (fieldsV_packV _ f)

theorem smin (f : VForm) : Statement (.smin f) := by
  rintro _ _ ⟨⟩; rw [opcodeOf_packV]; exact congrArg (some ∘ Instr.smin) (fieldsV_packV _ f)

theorem smax (f : VForm) : Statement (.smax f) := by
  rintro _ _ ⟨⟩; rw [opcodeOf_packV]; exact congrArg (some ∘ Instr.smax) (fieldsV_packV _ f)

theorem sclz (f : VForm) : Statement (.sclz f) := by
  rintro _ _ ⟨⟩; rw [opcodeOf_packV]; exact congrArg (some ∘ Instr.sclz) (fieldsV_packV _ f)

theorem spop (f : VForm) : Statement (.spop f) := by
  rintro _ _ ⟨⟩; rw [opcodeOf_packV]; exact congrArg (some ∘ Instr.spop) (fieldsV_packV _ f)

theorem slea (f : VForm) : Statement (.slea f) := by
  rintro _ _ ⟨⟩; rw [opcodeOf_packV]; exact congrArg (some ∘ Instr.slea) (fieldsV_packV _ f)

theorem smovi (f : IForm) : Statement (.smovi f) := by
  rintro _ _ ⟨⟩; rw [opcodeOf_packI]; exact congrArg (some ∘ Instr.smovi) (fieldsI_packI _ f)

theorem saddImm (f : IForm) : Statement (.saddImm f) := by
  rintro _ _ ⟨⟩; rw [opcodeOf_packI]; exact congrArg (some ∘ Instr.saddImm) (fieldsI_packI _ f)

theorem ssubImm (f : IForm) : Statement (.ssubImm f) := by
  rintro _ _ ⟨⟩; rw [opcodeOf_packI]; exact congrArg (some ∘ Instr.ssubImm) (fieldsI_packI _ f)

theorem smulImm (f : IForm) : Statement (.smulImm f) := by
  rintro _ _ ⟨⟩; rw [opcodeOf_packI]; exact congrArg (some ∘ Instr.smulImm) (fieldsI_packI _ f)

theorem sandImm (f : IForm) : Statement (.sandImm f) := by
  rintro _ _ ⟨⟩; rw [opcodeOf_packI]; exact congrArg (some ∘ Instr.sandImm) (fieldsI_packI _ f)

theorem sorImm (f : IForm) : Statement (.sorImm f) := by
  rintro _ _ ⟨⟩; rw [opcodeOf_packI]; exact congrArg (some ∘ Instr.sorImm) (fieldsI_packI _ f)

theorem sxorImm (f : IForm) : Statement (.sxorImm f) := by
  rintro _ _ ⟨⟩; rw [opcodeOf_packI]; exact congrArg (some ∘ Instr.sxorImm) (fieldsI_packI _ f)

theorem sshlImm (f : IForm) : Statement (.sshlImm f) := by
  rintro _ _ ⟨⟩; rw [opcodeOf_packI]; exact congrArg (some ∘ Instr.sshlImm) (fieldsI_packI _ f)

theorem sshrImm (f : IForm) : Statement (.sshrImm f) := by
  rintro _ _ ⟨⟩; rw [opcodeOf_packI]; exact congrArg (some ∘ Instr.sshrImm) (fieldsI_packI _ f)

theorem ssarImm (f : IForm) : Statement (.ssarImm f) := by
  rintro _ _ ⟨⟩; rw [opcodeOf_packI]; exact congrArg (some ∘ Instr.ssarImm) (fieldsI_packI _ f)

theorem srotImm (f : IForm) : Statement (.srotImm f) := by
  rintro _ _ ⟨⟩; rw [opcodeOf_packI]; exact congrArg (some ∘ Instr.srotImm) (fieldsI_packI _ f)

theorem sminImm (f : IForm) : Statement (.sminImm f) := by
  rintro _ _ ⟨⟩; rw [opcodeOf_packI]; exact congrArg (some ∘ Instr.sminImm) (fieldsI_packI _ f)

theorem smaxImm (f : IForm) : Statement (.smaxImm f) := by
  rintro _ _ ⟨⟩; rw [opcodeOf_packI]; exact congrArg (some ∘ Instr.smaxImm) (fieldsI_packI _ f)

theorem sleaImm (f : IForm) : Statement (.sleaImm f) := by
  rintro _ _ ⟨⟩; rw [opcodeOf_packI]; exact congrArg (some ∘ Instr.sleaImm) (fieldsI_packI _ f)

theorem vmov (f : VForm) : Statement (.vmov f) := by
  rintro _ _ ⟨⟩; rw [opcodeOf_packV]; exact congrArg (some ∘ Instr.vmov) (fieldsV_packV _ f)

theorem vadd (f : VForm) : Statement (.vadd f) := by
  rintro _ _ ⟨⟩; rw [opcodeOf_packV]; exact congrArg (some ∘ Instr.vadd) (fieldsV_packV _ f)

theorem vsub (f : VForm) : Statement (.vsub f) := by
  rintro _ _ ⟨⟩; rw [opcodeOf_packV]; exact congrArg (some ∘ Instr.vsub) (fieldsV_packV _ f)

theorem vmul (f : VForm) : Statement (.vmul f) := by
  rintro _ _ ⟨⟩; rw [opcodeOf_packV]; exact congrArg (some ∘ Instr.vmul) (fieldsV_packV _ f)

theorem vmulh (f : VForm) : Statement (.vmulh f) := by
  rintro _ _ ⟨⟩; rw [opcodeOf_packV]; exact congrArg (some ∘ Instr.vmulh) (fieldsV_packV _ f)

theorem vmad (f : VForm) : Statement (.vmad f) := by
  rintro _ _ ⟨⟩; rw [opcodeOf_packV]; exact congrArg (some ∘ Instr.vmad) (fieldsV_packV _ f)

theorem vdiv (f : VForm) : Statement (.vdiv f) := by
  rintro _ _ ⟨⟩; rw [opcodeOf_packV]; exact congrArg (some ∘ Instr.vdiv) (fieldsV_packV _ f)

theorem vrem (f : VForm) : Statement (.vrem f) := by
  rintro _ _ ⟨⟩; rw [opcodeOf_packV]; exact congrArg (some ∘ Instr.vrem) (fieldsV_packV _ f)

theorem vand (f : VForm) : Statement (.vand f) := by
  rintro _ _ ⟨⟩; rw [opcodeOf_packV]; exact congrArg (some ∘ Instr.vand) (fieldsV_packV _ f)

theorem vor (f : VForm) : Statement (.vor f) := by
  rintro _ _ ⟨⟩; rw [opcodeOf_packV]; exact congrArg (some ∘ Instr.vor) (fieldsV_packV _ f)

theorem vxor (f : VForm) : Statement (.vxor f) := by
  rintro _ _ ⟨⟩; rw [opcodeOf_packV]; exact congrArg (some ∘ Instr.vxor) (fieldsV_packV _ f)

theorem vnot (f : VForm) : Statement (.vnot f) := by
  rintro _ _ ⟨⟩; rw [opcodeOf_packV]; exact congrArg (some ∘ Instr.vnot) (fieldsV_packV _ f)

theorem vshl (f : VForm) : Statement (.vshl f) := by
  rintro _ _ ⟨⟩; rw [opcodeOf_packV]; exact congrArg (some ∘ Instr.vshl) (fieldsV_packV _ f)

theorem vshr (f : VForm) : Statement (.vshr f) := by
  rintro _ _ ⟨⟩; rw [opcodeOf_packV]; exact congrArg (some ∘ Instr.vshr) (fieldsV_packV _ f)

theorem vsar (f : VForm) : Statement (.vsar f) := by
  rintro _ _ ⟨⟩; rw [opcodeOf_packV]; exact congrArg (some ∘ Instr.vsar) (fieldsV_packV _ f)

theorem vrot (f : VForm) : Statement (.vrot f) := by
  rintro _ _ ⟨⟩; rw [opcodeOf_packV]; exact congrArg (some ∘ Instr.vrot) (fieldsV_packV _ f)

theorem vcmp (f : VForm) : Statement (.vcmp f) := by
  rintro _ _ ⟨⟩; rw [opcodeOf_packV]; exact congrArg (some ∘ Instr.vcmp) (fieldsV_packV _ f)

theorem vsel (f : VForm) : Statement (.vsel f) := by
  rintro _ _ ⟨⟩; rw [opcodeOf_packV]; exact congrArg (some ∘ Instr.vsel) (fieldsV_packV _ f)

theorem vmin (f : VForm) : Statement (.vmin f) := by
  rintro _ _ ⟨⟩; rw [opcodeOf_packV]; exact congrArg (some ∘ Instr.vmin) (fieldsV_packV _ f)

theorem vmax (f : VForm) : Statement (.vmax f) := by
  rintro _ _ ⟨⟩; rw [opcodeOf_packV]; exact congrArg (some ∘ Instr.vmax) (fieldsV_packV _ f)

theorem vabs (f : VForm) : Statement (.vabs f) := by
  rintro _ _ ⟨⟩; rw [opcodeOf_packV]; exact congrArg (some ∘ Instr.vabs) (fieldsV_packV _ f)

theorem vneg (f : VForm) : Statement (.vneg f) := by
  rintro _ _ ⟨⟩; rw [opcodeOf_packV]; exact congrArg (some ∘ Instr.vneg) (fieldsV_packV _ f)

theorem vclz (f : VForm) : Statement (.vclz f) := by
  rintro _ _ ⟨⟩; rw [opcodeOf_packV]; exact congrArg (some ∘ Instr.vclz) (fieldsV_packV _ f)

theorem vpop (f : VForm) : Statement (.vpop f) := by
  rintro _ _ ⟨⟩; rw [opcodeOf_packV]; exact congrArg (some ∘ Instr.vpop) (fieldsV_packV _ f)

theorem vbrev (f : VForm) : Statement (.vbrev f) := by
  rintro _ _ ⟨⟩; rw [opcodeOf_packV]; exact congrArg (some ∘ Instr.vbrev) (fieldsV_packV _ f)

theorem vbfe (f : VForm) : Statement (.vbfe f) := by
  rintro _ _ ⟨⟩; rw [opcodeOf_packV]; exact congrArg (some ∘ Instr.vbfe) (fieldsV_packV _ f)

theorem vbfi (f : VForm) : Statement (.vbfi f) := by
  rintro _ _ ⟨⟩; rw [opcodeOf_packV]; exact congrArg (some ∘ Instr.vbfi) (fieldsV_packV _ f)

theorem vlea (f : VForm) : Statement (.vlea f) := by
  rintro _ _ ⟨⟩; rw [opcodeOf_packV]; exact congrArg (some ∘ Instr.vlea) (fieldsV_packV _ f)

theorem vidx (f : VForm) : Statement (.vidx f) := by
  rintro _ _ ⟨⟩; rw [opcodeOf_packV]; exact congrArg (some ∘ Instr.vidx) (fieldsV_packV _ f)

theorem vsplat (f : VForm) : Statement (.vsplat f) := by
  rintro _ _ ⟨⟩; rw [opcodeOf_packV]; exact congrArg (some ∘ Instr.vsplat) (fieldsV_packV _ f)

theorem vext (f : VForm) : Statement (.vext f) := by
  rintro _ _ ⟨⟩; rw [opcodeOf_packV]; exact congrArg (some ∘ Instr.vext) (fieldsV_packV _ f)

theorem vcvti (f : VForm) : Statement (.vcvti f) := by
  rintro _ _ ⟨⟩; rw [opcodeOf_packV]; exact congrArg (some ∘ Instr.vcvti) (fieldsV_packV _ f)

theorem spk24 (f : VForm) : Statement (.spk24 f) := by
  rintro _ _ ⟨⟩; rw [opcodeOf_packV]; exact congrArg (some ∘ Instr.spk24) (fieldsV_packV _ f)

theorem vmovi (f : IForm) : Statement (.vmovi f) := by
  rintro _ _ ⟨⟩; rw [opcodeOf_packI]; exact congrArg (some ∘ Instr.vmovi) (fieldsI_packI _ f)

theorem vaddImm (f : IForm) : Statement (.vaddImm f) := by
  rintro _ _ ⟨⟩; rw [opcodeOf_packI]; exact congrArg (some ∘ Instr.vaddImm) (fieldsI_packI _ f)

theorem vsubImm (f : IForm) : Statement (.vsubImm f) := by
  rintro _ _ ⟨⟩; rw [opcodeOf_packI]; exact congrArg (some ∘ Instr.vsubImm) (fieldsI_packI _ f)

theorem vmulImm (f : IForm) : Statement (.vmulImm f) := by
  rintro _ _ ⟨⟩; rw [opcodeOf_packI]; exact congrArg (some ∘ Instr.vmulImm) (fieldsI_packI _ f)

theorem vandImm (f : IForm) : Statement (.vandImm f) := by
  rintro _ _ ⟨⟩; rw [opcodeOf_packI]; exact congrArg (some ∘ Instr.vandImm) (fieldsI_packI _ f)

theorem vorImm (f : IForm) : Statement (.vorImm f) := by
  rintro _ _ ⟨⟩; rw [opcodeOf_packI]; exact congrArg (some ∘ Instr.vorImm) (fieldsI_packI _ f)

theorem vxorImm (f : IForm) : Statement (.vxorImm f) := by
  rintro _ _ ⟨⟩; rw [opcodeOf_packI]; exact congrArg (some ∘ Instr.vxorImm) (fieldsI_packI _ f)

theorem vshlImm (f : IForm) : Statement (.vshlImm f) := by
  rintro _ _ ⟨⟩; rw [opcodeOf_packI]; exact congrArg (some ∘ Instr.vshlImm) (fieldsI_packI _ f)

theorem vshrImm (f : IForm) : Statement (.vshrImm f) := by
  rintro _ _ ⟨⟩; rw [opcodeOf_packI]; exact congrArg (some ∘ Instr.vshrImm) (fieldsI_packI _ f)

theorem vsarImm (f : IForm) : Statement (.vsarImm f) := by
  rintro _ _ ⟨⟩; rw [opcodeOf_packI]; exact congrArg (some ∘ Instr.vsarImm) (fieldsI_packI _ f)

theorem vrotImm (f : IForm) : Statement (.vrotImm f) := by
  rintro _ _ ⟨⟩; rw [opcodeOf_packI]; exact congrArg (some ∘ Instr.vrotImm) (fieldsI_packI _ f)

theorem vminImm (f : IForm) : Statement (.vminImm f) := by
  rintro _ _ ⟨⟩; rw [opcodeOf_packI]; exact congrArg (some ∘ Instr.vminImm) (fieldsI_packI _ f)

theorem vmaxImm (f : IForm) : Statement (.vmaxImm f) := by
  rintro _ _ ⟨⟩; rw [opcodeOf_packI]; exact congrArg (some ∘ Instr.vmaxImm) (fieldsI_packI _ f)

theorem vleaImm (f : IForm) : Statement (.vleaImm f) := by
  rintro _ _ ⟨⟩; rw [opcodeOf_packI]; exact congrArg (some ∘ Instr.vleaImm) (fieldsI_packI _ f)

theorem fadd (f : VForm) : Statement (.fadd f) := by
  rintro _ _ ⟨⟩; rw [opcodeOf_packV]; exact congrArg (some ∘ Instr.fadd) (fieldsV_packV _ f)

theorem fsub (f : VForm) : Statement (.fsub f) := by
  rintro _ _ ⟨⟩; rw [opcodeOf_packV]; exact congrArg (some ∘ Instr.fsub) (fieldsV_packV _ f)

theorem fmul (f : VForm) : Statement (.fmul f) := by
  rintro _ _ ⟨⟩; rw [opcodeOf_packV]; exact congrArg (some ∘ Instr.fmul) (fieldsV_packV _ f)

theorem ffma (f : VForm) : Statement (.ffma f) := by
  rintro _ _ ⟨⟩; rw [opcodeOf_packV]; exact congrArg (some ∘ Instr.ffma) (fieldsV_packV _ f)

theorem fmin (f : VForm) : Statement (.fmin f) := by
  rintro _ _ ⟨⟩; rw [opcodeOf_packV]; exact congrArg (some ∘ Instr.fmin) (fieldsV_packV _ f)

theorem fmax (f : VForm) : Statement (.fmax f) := by
  rintro _ _ ⟨⟩; rw [opcodeOf_packV]; exact congrArg (some ∘ Instr.fmax) (fieldsV_packV _ f)

theorem fmaxi (f : VForm) : Statement (.fmaxi f) := by
  rintro _ _ ⟨⟩; rw [opcodeOf_packV]; exact congrArg (some ∘ Instr.fmaxi) (fieldsV_packV _ f)

theorem fmini (f : VForm) : Statement (.fmini f) := by
  rintro _ _ ⟨⟩; rw [opcodeOf_packV]; exact congrArg (some ∘ Instr.fmini) (fieldsV_packV _ f)

theorem fabs (f : VForm) : Statement (.fabs f) := by
  rintro _ _ ⟨⟩; rw [opcodeOf_packV]; exact congrArg (some ∘ Instr.fabs) (fieldsV_packV _ f)

theorem fneg (f : VForm) : Statement (.fneg f) := by
  rintro _ _ ⟨⟩; rw [opcodeOf_packV]; exact congrArg (some ∘ Instr.fneg) (fieldsV_packV _ f)

theorem fcmp (f : VForm) : Statement (.fcmp f) := by
  rintro _ _ ⟨⟩; rw [opcodeOf_packV]; exact congrArg (some ∘ Instr.fcmp) (fieldsV_packV _ f)

theorem fclass (f : VForm) : Statement (.fclass f) := by
  rintro _ _ ⟨⟩; rw [opcodeOf_packV]; exact congrArg (some ∘ Instr.fclass) (fieldsV_packV _ f)

theorem fdiv (f : VForm) : Statement (.fdiv f) := by
  rintro _ _ ⟨⟩; rw [opcodeOf_packV]; exact congrArg (some ∘ Instr.fdiv) (fieldsV_packV _ f)

theorem fsqrt (f : VForm) : Statement (.fsqrt f) := by
  rintro _ _ ⟨⟩; rw [opcodeOf_packV]; exact congrArg (some ∘ Instr.fsqrt) (fieldsV_packV _ f)

theorem frnd (f : VForm) : Statement (.frnd f) := by
  rintro _ _ ⟨⟩; rw [opcodeOf_packV]; exact congrArg (some ∘ Instr.frnd) (fieldsV_packV _ f)

theorem fscl (f : VForm) : Statement (.fscl f) := by
  rintro _ _ ⟨⟩; rw [opcodeOf_packV]; exact congrArg (some ∘ Instr.fscl) (fieldsV_packV _ f)

theorem fdot2 (f : VForm) : Statement (.fdot2 f) := by
  rintro _ _ ⟨⟩; rw [opcodeOf_packV]; exact congrArg (some ∘ Instr.fdot2) (fieldsV_packV _ f)

theorem fcvt (f : VForm) : Statement (.fcvt f) := by
  rintro _ _ ⟨⟩; rw [opcodeOf_packV]; exact congrArg (some ∘ Instr.fcvt) (fieldsV_packV _ f)

theorem fcvti (f : VForm) : Statement (.fcvti f) := by
  rintro _ _ ⟨⟩; rw [opcodeOf_packV]; exact congrArg (some ∘ Instr.fcvti) (fieldsV_packV _ f)

theorem icvtf (f : VForm) : Statement (.icvtf f) := by
  rintro _ _ ⟨⟩; rw [opcodeOf_packV]; exact congrArg (some ∘ Instr.icvtf) (fieldsV_packV _ f)

theorem faddImm (f : IForm) : Statement (.faddImm f) := by
  rintro _ _ ⟨⟩; rw [opcodeOf_packI]; exact congrArg (some ∘ Instr.faddImm) (fieldsI_packI _ f)

theorem fsubImm (f : IForm) : Statement (.fsubImm f) := by
  rintro _ _ ⟨⟩; rw [opcodeOf_packI]; exact congrArg (some ∘ Instr.fsubImm) (fieldsI_packI _ f)

theorem fmulImm (f : IForm) : Statement (.fmulImm f) := by
  rintro _ _ ⟨⟩; rw [opcodeOf_packI]; exact congrArg (some ∘ Instr.fmulImm) (fieldsI_packI _ f)

theorem fminImm (f : IForm) : Statement (.fminImm f) := by
  rintro _ _ ⟨⟩; rw [opcodeOf_packI]; exact congrArg (some ∘ Instr.fminImm) (fieldsI_packI _ f)

theorem fmaxImm (f : IForm) : Statement (.fmaxImm f) := by
  rintro _ _ ⟨⟩; rw [opcodeOf_packI]; exact congrArg (some ∘ Instr.fmaxImm) (fieldsI_packI _ f)

theorem qsin (f : VForm) : Statement (.qsin f) := by
  rintro _ _ ⟨⟩; rw [opcodeOf_packV]; exact congrArg (some ∘ Instr.qsin) (fieldsV_packV _ f)

theorem qcos (f : VForm) : Statement (.qcos f) := by
  rintro _ _ ⟨⟩; rw [opcodeOf_packV]; exact congrArg (some ∘ Instr.qcos) (fieldsV_packV _ f)

theorem qsc (f : VForm) : Statement (.qsc f) := by
  rintro _ _ ⟨⟩; rw [opcodeOf_packV]; exact congrArg (some ∘ Instr.qsc) (fieldsV_packV _ f)

theorem qsinp (f : VForm) : Statement (.qsinp f) := by
  rintro _ _ ⟨⟩; rw [opcodeOf_packV]; exact congrArg (some ∘ Instr.qsinp) (fieldsV_packV _ f)

theorem qcosp (f : VForm) : Statement (.qcosp f) := by
  rintro _ _ ⟨⟩; rw [opcodeOf_packV]; exact congrArg (some ∘ Instr.qcosp) (fieldsV_packV _ f)

theorem qscp (f : VForm) : Statement (.qscp f) := by
  rintro _ _ ⟨⟩; rw [opcodeOf_packV]; exact congrArg (some ∘ Instr.qscp) (fieldsV_packV _ f)

theorem qex2 (f : VForm) : Statement (.qex2 f) := by
  rintro _ _ ⟨⟩; rw [opcodeOf_packV]; exact congrArg (some ∘ Instr.qex2) (fieldsV_packV _ f)

theorem qlg2 (f : VForm) : Statement (.qlg2 f) := by
  rintro _ _ ⟨⟩; rw [opcodeOf_packV]; exact congrArg (some ∘ Instr.qlg2) (fieldsV_packV _ f)

theorem qtnh (f : VForm) : Statement (.qtnh f) := by
  rintro _ _ ⟨⟩; rw [opcodeOf_packV]; exact congrArg (some ∘ Instr.qtnh) (fieldsV_packV _ f)

theorem qrcp (f : VForm) : Statement (.qrcp f) := by
  rintro _ _ ⟨⟩; rw [opcodeOf_packV]; exact congrArg (some ∘ Instr.qrcp) (fieldsV_packV _ f)

theorem qrsq (f : VForm) : Statement (.qrsq f) := by
  rintro _ _ ⟨⟩; rw [opcodeOf_packV]; exact congrArg (some ∘ Instr.qrsq) (fieldsV_packV _ f)

theorem ncvt (f : VForm) : Statement (.ncvt f) := by
  rintro _ _ ⟨⟩; rw [opcodeOf_packV]; exact congrArg (some ∘ Instr.ncvt) (fieldsV_packV _ f)

theorem rnenc (f : VForm) : Statement (.rnenc f) := by
  rintro _ _ ⟨⟩; rw [opcodeOf_packV]; exact congrArg (some ∘ Instr.rnenc) (fieldsV_packV _ f)

theorem rndec (f : VForm) : Statement (.rndec f) := by
  rintro _ _ ⟨⟩; rw [opcodeOf_packV]; exact congrArg (some ∘ Instr.rndec) (fieldsV_packV _ f)

theorem rnadd (f : VForm) : Statement (.rnadd f) := by
  rintro _ _ ⟨⟩; rw [opcodeOf_packV]; exact congrArg (some ∘ Instr.rnadd) (fieldsV_packV _ f)

theorem rnmul (f : VForm) : Statement (.rnmul f) := by
  rintro _ _ ⟨⟩; rw [opcodeOf_packV]; exact congrArg (some ∘ Instr.rnmul) (fieldsV_packV _ f)

theorem rng (f : VForm) : Statement (.rng f) := by
  rintro _ _ ⟨⟩; rw [opcodeOf_packV]; exact congrArg (some ∘ Instr.rng) (fieldsV_packV _ f)

theorem ld (f : MForm) : Statement (.ld f) := by
  rintro _ _ ⟨⟩; rw [opcodeOf_packM]; exact congrArg (some ∘ Instr.ld) (fieldsM_packM _ f)

theorem st (f : MForm) : Statement (.st f) := by
  rintro _ _ ⟨⟩; rw [opcodeOf_packM]; exact congrArg (some ∘ Instr.st) (fieldsM_packM _ f)

theorem lds (f : MForm) : Statement (.lds f) := by
  rintro _ _ ⟨⟩; rw [opcodeOf_packM]; exact congrArg (some ∘ Instr.lds) (fieldsM_packM _ f)

theorem sts (f : MForm) : Statement (.sts f) := by
  rintro _ _ ⟨⟩; rw [opcodeOf_packM]; exact congrArg (some ∘ Instr.sts) (fieldsM_packM _ f)

theorem ldc (f : MForm) : Statement (.ldc f) := by
  rintro _ _ ⟨⟩; rw [opcodeOf_packM]; exact congrArg (some ∘ Instr.ldc) (fieldsM_packM _ f)

theorem ldsp (f : MForm) : Statement (.ldsp f) := by
  rintro _ _ ⟨⟩; rw [opcodeOf_packM]; exact congrArg (some ∘ Instr.ldsp) (fieldsM_packM _ f)

theorem stsp (f : MForm) : Statement (.stsp f) := by
  rintro _ _ ⟨⟩; rw [opcodeOf_packM]; exact congrArg (some ∘ Instr.stsp) (fieldsM_packM _ f)

theorem pref (f : MForm) : Statement (.pref f) := by
  rintro _ _ ⟨⟩; rw [opcodeOf_packM]; exact congrArg (some ∘ Instr.pref) (fieldsM_packM _ f)

theorem clnv (f : MForm) : Statement (.clnv f) := by
  rintro _ _ ⟨⟩; rw [opcodeOf_packM]; exact congrArg (some ∘ Instr.clnv) (fieldsM_packM _ f)

theorem atomAdd (f : MForm) : Statement (.atomAdd f) := by
  rintro _ _ ⟨⟩; rw [opcodeOf_packM]; exact congrArg (some ∘ Instr.atomAdd) (fieldsM_packM _ f)

theorem atomSub (f : MForm) : Statement (.atomSub f) := by
  rintro _ _ ⟨⟩; rw [opcodeOf_packM]; exact congrArg (some ∘ Instr.atomSub) (fieldsM_packM _ f)

theorem atomMin (f : MForm) : Statement (.atomMin f) := by
  rintro _ _ ⟨⟩; rw [opcodeOf_packM]; exact congrArg (some ∘ Instr.atomMin) (fieldsM_packM _ f)

theorem atomMax (f : MForm) : Statement (.atomMax f) := by
  rintro _ _ ⟨⟩; rw [opcodeOf_packM]; exact congrArg (some ∘ Instr.atomMax) (fieldsM_packM _ f)

theorem atomAnd (f : MForm) : Statement (.atomAnd f) := by
  rintro _ _ ⟨⟩; rw [opcodeOf_packM]; exact congrArg (some ∘ Instr.atomAnd) (fieldsM_packM _ f)

theorem atomOr (f : MForm) : Statement (.atomOr f) := by
  rintro _ _ ⟨⟩; rw [opcodeOf_packM]; exact congrArg (some ∘ Instr.atomOr) (fieldsM_packM _ f)

theorem atomXor (f : MForm) : Statement (.atomXor f) := by
  rintro _ _ ⟨⟩; rw [opcodeOf_packM]; exact congrArg (some ∘ Instr.atomXor) (fieldsM_packM _ f)

theorem atomXchg (f : MForm) : Statement (.atomXchg f) := by
  rintro _ _ ⟨⟩; rw [opcodeOf_packM]; exact congrArg (some ∘ Instr.atomXchg) (fieldsM_packM _ f)

theorem atomCas (f : MForm) : Statement (.atomCas f) := by
  rintro _ _ ⟨⟩; rw [opcodeOf_packM]; exact congrArg (some ∘ Instr.atomCas) (fieldsM_packM _ f)

theorem atomFadd (f : MForm) : Statement (.atomFadd f) := by
  rintro _ _ ⟨⟩; rw [opcodeOf_packM]; exact congrArg (some ∘ Instr.atomFadd) (fieldsM_packM _ f)

theorem atomMaxi (f : MForm) : Statement (.atomMaxi f) := by
  rintro _ _ ⟨⟩; rw [opcodeOf_packM]; exact congrArg (some ∘ Instr.atomMaxi) (fieldsM_packM _ f)

theorem atomMini (f : MForm) : Statement (.atomMini f) := by
  rintro _ _ ⟨⟩; rw [opcodeOf_packM]; exact congrArg (some ∘ Instr.atomMini) (fieldsM_packM _ f)

theorem atomrAdd (f : MForm) : Statement (.atomrAdd f) := by
  rintro _ _ ⟨⟩; rw [opcodeOf_packM]; exact congrArg (some ∘ Instr.atomrAdd) (fieldsM_packM _ f)

theorem atomfAdd (f : MForm) : Statement (.atomfAdd f) := by
  rintro _ _ ⟨⟩; rw [opcodeOf_packM]; exact congrArg (some ∘ Instr.atomfAdd) (fieldsM_packM _ f)

theorem atomfSub (f : MForm) : Statement (.atomfSub f) := by
  rintro _ _ ⟨⟩; rw [opcodeOf_packM]; exact congrArg (some ∘ Instr.atomfSub) (fieldsM_packM _ f)

theorem atomfMin (f : MForm) : Statement (.atomfMin f) := by
  rintro _ _ ⟨⟩; rw [opcodeOf_packM]; exact congrArg (some ∘ Instr.atomfMin) (fieldsM_packM _ f)

theorem atomfMax (f : MForm) : Statement (.atomfMax f) := by
  rintro _ _ ⟨⟩; rw [opcodeOf_packM]; exact congrArg (some ∘ Instr.atomfMax) (fieldsM_packM _ f)

theorem atomfAnd (f : MForm) : Statement (.atomfAnd f) := by
  rintro _ _ ⟨⟩; rw [opcodeOf_packM]; exact congrArg (some ∘ Instr.atomfAnd) (fieldsM_packM _ f)

theorem atomfOr (f : MForm) : Statement (.atomfOr f) := by
  rintro _ _ ⟨⟩; rw [opcodeOf_packM]; exact congrArg (some ∘ Instr.atomfOr) (fieldsM_packM _ f)

theorem atomfXor (f : MForm) : Statement (.atomfXor f) := by
  rintro _ _ ⟨⟩; rw [opcodeOf_packM]; exact congrArg (some ∘ Instr.atomfXor) (fieldsM_packM _ f)

theorem atomfXchg (f : MForm) : Statement (.atomfXchg f) := by
  rintro _ _ ⟨⟩; rw [opcodeOf_packM]; exact congrArg (some ∘ Instr.atomfXchg) (fieldsM_packM _ f)

theorem atomfCas (f : MForm) : Statement (.atomfCas f) := by
  rintro _ _ ⟨⟩; rw [opcodeOf_packM]; exact congrArg (some ∘ Instr.atomfCas) (fieldsM_packM _ f)

theorem atomfFadd (f : MForm) : Statement (.atomfFadd f) := by
  rintro _ _ ⟨⟩; rw [opcodeOf_packM]; exact congrArg (some ∘ Instr.atomfFadd) (fieldsM_packM _ f)

theorem atomfMaxi (f : MForm) : Statement (.atomfMaxi f) := by
  rintro _ _ ⟨⟩; rw [opcodeOf_packM]; exact congrArg (some ∘ Instr.atomfMaxi) (fieldsM_packM _ f)

theorem atomfMini (f : MForm) : Statement (.atomfMini f) := by
  rintro _ _ ⟨⟩; rw [opcodeOf_packM]; exact congrArg (some ∘ Instr.atomfMini) (fieldsM_packM _ f)

theorem fence (f : VForm) : Statement (.fence f) := by
  rintro _ _ ⟨⟩; rw [opcodeOf_packV]; exact congrArg (some ∘ Instr.fence) (fieldsV_packV _ f)

theorem fences (f : VForm) : Statement (.fences f) := by
  rintro _ _ ⟨⟩; rw [opcodeOf_packV]; exact congrArg (some ∘ Instr.fences) (fieldsV_packV _ f)

theorem fencex (f : VForm) : Statement (.fencex f) := by
  rintro _ _ ⟨⟩; rw [opcodeOf_packV]; exact congrArg (some ∘ Instr.fencex) (fieldsV_packV _ f)

theorem xlane (f : XForm) : Statement (.xlane f) := by
  rintro _ _ ⟨⟩; rw [opcodeOf_packX]; exact congrArg (some ∘ Instr.xlane) (fieldsX_packX _ f)

theorem xshuf (f : XForm) : Statement (.xshuf f) := by
  rintro _ _ ⟨⟩; rw [opcodeOf_packX]; exact congrArg (some ∘ Instr.xshuf) (fieldsX_packX _ f)

theorem xred (f : XForm) : Statement (.xred f) := by
  rintro _ _ ⟨⟩; rw [opcodeOf_packX]; exact congrArg (some ∘ Instr.xred) (fieldsX_packX _ f)

theorem xscan (f : XForm) : Statement (.xscan f) := by
  rintro _ _ ⟨⟩; rw [opcodeOf_packX]; exact congrArg (some ∘ Instr.xscan) (fieldsX_packX _ f)

theorem xcol (f : XForm) : Statement (.xcol f) := by
  rintro _ _ ⟨⟩; rw [opcodeOf_packX]; exact congrArg (some ∘ Instr.xcol) (fieldsX_packX _ f)

theorem xvote (f : XForm) : Statement (.xvote f) := by
  rintro _ _ ⟨⟩; rw [opcodeOf_packX]; exact congrArg (some ∘ Instr.xvote) (fieldsX_packX _ f)

theorem gen (f : BForm) : Statement (.gen f) := by
  rintro _ _ ⟨⟩; rw [opcodeOf_packB]; exact congrArg (some ∘ Instr.gen) (fieldsB_packB _ f)

theorem yield (f : VForm) : Statement (.yield f) := by
  rintro _ _ ⟨⟩; rw [opcodeOf_packV]; exact congrArg (some ∘ Instr.yield) (fieldsV_packV _ f)

theorem gdone (f : VForm) : Statement (.gdone f) := by
  rintro _ _ ⟨⟩; rw [opcodeOf_packV]; exact congrArg (some ∘ Instr.gdone) (fieldsV_packV _ f)

theorem gcon (f : BForm) : Statement (.gcon f) := by
  rintro _ _ ⟨⟩; rw [opcodeOf_packB]; exact congrArg (some ∘ Instr.gcon) (fieldsB_packB _ f)

theorem gfr (f : VForm) : Statement (.gfr f) := by
  rintro h _ ⟨⟩; rw [opcodeOf_packV]
  refine (congrArg (some ∘ selectGfr) (fieldsV_packV _ f)).trans ?_
  simp_all [selectGfr, Instr.wellFormed, Instr.ownRow, Instr.rule]

theorem gfrInfo (f : VForm) : Statement (.gfrInfo f) := by
  rintro h _ ⟨⟩; rw [opcodeOf_packV]
  refine (congrArg (some ∘ selectGfr) (fieldsV_packV _ f)).trans ?_
  simp_all [selectGfr, Instr.wellFormed, Instr.ownRow, Instr.rule]

theorem gbar (f : VForm) : Statement (.gbar f) := by
  rintro _ _ ⟨⟩; rw [opcodeOf_packV]; exact congrArg (some ∘ Instr.gbar) (fieldsV_packV _ f)

theorem gpost (f : VForm) : Statement (.gpost f) := by
  rintro h _ ⟨⟩; rw [opcodeOf_packV]
  refine (congrArg (some ∘ selectGpost) (fieldsV_packV _ f)).trans ?_
  have hw : f.sub.toNat < 64 := by simp_all [Instr.wellFormed, Instr.rule]
  have hb : ∀ x : BitVec 9, x.toNat < 64 → x.getLsbD 6 = false := by decide
  simp only [Function.comp, selectGpost, hb _ hw]; rfl

theorem gpostWd (f : VForm) : Statement (.gpostWd f) := by
  rintro h _ ⟨⟩; rw [opcodeOf_packV]
  refine (congrArg (some ∘ selectGpost) (fieldsV_packV _ f)).trans ?_
  have hw : 64 ≤ f.sub.toNat ∧ f.sub.toNat < 128 := by simp_all [Instr.wellFormed, Instr.rule]
  have hb : ∀ x : BitVec 9, 64 ≤ x.toNat ∧ x.toNat < 128 → x.getLsbD 6 = true := by decide
  simp only [Function.comp, selectGpost, hb _ hw]; rfl

theorem gqry (f : VForm) : Statement (.gqry f) := by
  rintro _ _ ⟨⟩; rw [opcodeOf_packV]; exact congrArg (some ∘ Instr.gqry) (fieldsV_packV _ f)

theorem ldgAdd (f : MForm) : Statement (.ldgAdd f) := by
  rintro _ _ ⟨⟩; rw [opcodeOf_packM]; exact congrArg (some ∘ Instr.ldgAdd) (fieldsM_packM _ f)

theorem ldgMin (f : MForm) : Statement (.ldgMin f) := by
  rintro _ _ ⟨⟩; rw [opcodeOf_packM]; exact congrArg (some ∘ Instr.ldgMin) (fieldsM_packM _ f)

theorem ldgMax (f : MForm) : Statement (.ldgMax f) := by
  rintro _ _ ⟨⟩; rw [opcodeOf_packM]; exact congrArg (some ∘ Instr.ldgMax) (fieldsM_packM _ f)

theorem ldgAnd (f : MForm) : Statement (.ldgAnd f) := by
  rintro _ _ ⟨⟩; rw [opcodeOf_packM]; exact congrArg (some ∘ Instr.ldgAnd) (fieldsM_packM _ f)

theorem ldgOr (f : MForm) : Statement (.ldgOr f) := by
  rintro _ _ ⟨⟩; rw [opcodeOf_packM]; exact congrArg (some ∘ Instr.ldgOr) (fieldsM_packM _ f)

theorem ldgXor (f : MForm) : Statement (.ldgXor f) := by
  rintro _ _ ⟨⟩; rw [opcodeOf_packM]; exact congrArg (some ∘ Instr.ldgXor) (fieldsM_packM _ f)

theorem ldgFadd (f : MForm) : Statement (.ldgFadd f) := by
  rintro _ _ ⟨⟩; rw [opcodeOf_packM]; exact congrArg (some ∘ Instr.ldgFadd) (fieldsM_packM _ f)

theorem ldgFmin (f : MForm) : Statement (.ldgFmin f) := by
  rintro _ _ ⟨⟩; rw [opcodeOf_packM]; exact congrArg (some ∘ Instr.ldgFmin) (fieldsM_packM _ f)

theorem ldgFmax (f : MForm) : Statement (.ldgFmax f) := by
  rintro _ _ ⟨⟩; rw [opcodeOf_packM]; exact congrArg (some ∘ Instr.ldgFmax) (fieldsM_packM _ f)

theorem ldgMaxi (f : MForm) : Statement (.ldgMaxi f) := by
  rintro _ _ ⟨⟩; rw [opcodeOf_packM]; exact congrArg (some ∘ Instr.ldgMaxi) (fieldsM_packM _ f)

theorem ldgMini (f : MForm) : Statement (.ldgMini f) := by
  rintro _ _ ⟨⟩; rw [opcodeOf_packM]; exact congrArg (some ∘ Instr.ldgMini) (fieldsM_packM _ f)

theorem bra (f : BForm) : Statement (.bra f) := by
  rintro _ _ ⟨⟩; rw [opcodeOf_packB]; exact congrArg (some ∘ Instr.bra) (fieldsB_packB _ f)

theorem brac (f : BForm) : Statement (.brac f) := by
  rintro _ _ ⟨⟩; rw [opcodeOf_packB]; exact congrArg (some ∘ Instr.brac) (fieldsB_packB _ f)

theorem brav (f : BForm) : Statement (.brav f) := by
  rintro _ _ ⟨⟩; rw [opcodeOf_packB]; exact congrArg (some ∘ Instr.brav) (fieldsB_packB _ f)

theorem call (f : BForm) : Statement (.call f) := by
  rintro h _ ⟨⟩; rw [opcodeOf_packB]
  refine (congrArg (some ∘ selectCall) (fieldsB_packB _ f)).trans ?_
  have hw : f.cond = 0 := by simp_all [Instr.wellFormed, Instr.rule, Fields.bOk]
  simp [selectCall, hw]

theorem callReg (f : BForm) : Statement (.callReg f) := by
  rintro h _ ⟨⟩; rw [opcodeOf_packB]
  refine (congrArg (some ∘ selectCall) (fieldsB_packB _ f)).trans ?_
  simp_all [selectCall, Instr.wellFormed, Instr.ownRow, Instr.rule]

theorem ret (f : BForm) : Statement (.ret f) := by
  rintro _ _ ⟨⟩; rw [opcodeOf_packB]; exact congrArg (some ∘ Instr.ret) (fieldsB_packB _ f)

theorem exit (f : BForm) : Statement (.exit f) := by
  rintro _ _ ⟨⟩; rw [opcodeOf_packB]; exact congrArg (some ∘ Instr.exit) (fieldsB_packB _ f)

theorem forkCopy (f : BForm) : Statement (.forkCopy f) := by
  rintro h _ ⟨⟩; rw [opcodeOf_packB]
  refine (congrArg (some ∘ selectFork) (fieldsB_packB _ f)).trans ?_
  simp_all [selectFork, Instr.wellFormed, Instr.ownRow, Instr.rule]

theorem forkMatrix (f : BForm) : Statement (.forkMatrix f) := by
  rintro h _ ⟨⟩; rw [opcodeOf_packB]
  refine (congrArg (some ∘ selectFork) (fieldsB_packB _ f)).trans ?_
  simp_all [selectFork, Instr.wellFormed, Instr.ownRow, Instr.rule]

theorem forkReg (f : BForm) : Statement (.forkReg f) := by
  rintro h _ ⟨⟩; rw [opcodeOf_packB]
  refine (congrArg (some ∘ selectFork) (fieldsB_packB _ f)).trans ?_
  have hw : f.cond = 9 ∨ f.cond = 10 := by simp_all [Instr.wellFormed, Instr.rule]
  rcases hw with hw | hw <;> simp [selectFork, hw]

theorem waitk (f : VForm) : Statement (.waitk f) := by
  rintro _ _ ⟨⟩; rw [opcodeOf_packV]; exact congrArg (some ∘ Instr.waitk) (fieldsV_packV _ f)

theorem setk (f : VForm) : Statement (.setk f) := by
  rintro _ _ ⟨⟩; rw [opcodeOf_packV]; exact congrArg (some ∘ Instr.setk) (fieldsV_packV _ f)

theorem clrk (f : VForm) : Statement (.clrk f) := by
  rintro _ _ ⟨⟩; rw [opcodeOf_packV]; exact congrArg (some ∘ Instr.clrk) (fieldsV_packV _ f)

theorem iter (f : VForm) : Statement (.iter f) := by
  rintro _ _ ⟨⟩; rw [opcodeOf_packV]; exact congrArg (some ∘ Instr.iter) (fieldsV_packV _ f)

theorem rdv (f : VForm) : Statement (.rdv f) := by
  rintro _ _ ⟨⟩; rw [opcodeOf_packV]; exact congrArg (some ∘ Instr.rdv) (fieldsV_packV _ f)

theorem lnch (f : VForm) : Statement (.lnch f) := by
  rintro _ _ ⟨⟩; rw [opcodeOf_packV]; exact congrArg (some ∘ Instr.lnch) (fieldsV_packV _ f)

theorem cntw (f : VForm) : Statement (.cntw f) := by
  rintro h _ ⟨⟩; rw [opcodeOf_packV]
  refine (congrArg (some ∘ selectCntw) (fieldsV_packV _ f)).trans ?_
  simp_all [selectCntw, Instr.wellFormed, Instr.ownRow, Instr.rule]

theorem cntwQuery (f : VForm) : Statement (.cntwQuery f) := by
  rintro h _ ⟨⟩; rw [opcodeOf_packV]
  refine (congrArg (some ∘ selectCntw) (fieldsV_packV _ f)).trans ?_
  simp_all [selectCntw, Instr.wellFormed, Instr.ownRow, Instr.rule]

theorem cancel (f : VForm) : Statement (.cancel f) := by
  rintro _ _ ⟨⟩; rw [opcodeOf_packV]; exact congrArg (some ∘ Instr.cancel) (fieldsV_packV _ f)

theorem cpy (f : CForm) : Statement (.cpy f) := by
  rintro _ _ ⟨⟩; rw [opcodeOf_packC]; exact congrArg (some ∘ Instr.cpy) (fieldsC_packC _ f)

theorem cpym (f : CForm) : Statement (.cpym f) := by
  rintro _ _ ⟨⟩; rw [opcodeOf_packC]; exact congrArg (some ∘ Instr.cpym) (fieldsC_packC _ f)

theorem cpyf (f : CForm) : Statement (.cpyf f) := by
  rintro _ _ ⟨⟩; rw [opcodeOf_packC]; exact congrArg (some ∘ Instr.cpyf) (fieldsC_packC _ f)

theorem cpyg (f : CForm) : Statement (.cpyg f) := by
  rintro _ _ ⟨⟩; rw [opcodeOf_packC]; exact congrArg (some ∘ Instr.cpyg) (fieldsC_packC _ f)

theorem cpys (f : CForm) : Statement (.cpys f) := by
  rintro _ _ ⟨⟩; rw [opcodeOf_packC]; exact congrArg (some ∘ Instr.cpys) (fieldsC_packC _ f)

theorem csig (f : KForm) : Statement (.csig f) := by
  rintro _ _ ⟨⟩; rw [opcodeOf_packK]; exact congrArg (some ∘ Instr.csig) (fieldsK_packK _ f)

theorem cwait (f : KForm) : Statement (.cwait f) := by
  rintro _ _ ⟨⟩; rw [opcodeOf_packK]; exact congrArg (some ∘ Instr.cwait) (fieldsK_packK _ f)

theorem cfence (f : KForm) : Statement (.cfence f) := by
  rintro _ _ ⟨⟩; rw [opcodeOf_packK]; exact congrArg (some ∘ Instr.cfence) (fieldsK_packK _ f)

theorem cmx (f : KForm) : Statement (.cmx f) := by
  rintro _ _ ⟨⟩; rw [opcodeOf_packK]; exact congrArg (some ∘ Instr.cmx) (fieldsK_packK _ f)

theorem mldn (f : GForm) : Statement (.mldn f) := by
  rintro _ _ ⟨⟩; rw [opcodeOf_packG]; exact congrArg (some ∘ Instr.mldn) (fieldsG_packG _ f)

theorem mldw (f : GForm) : Statement (.mldw f) := by
  rintro _ _ ⟨⟩; rw [opcodeOf_packG]; exact congrArg (some ∘ Instr.mldw) (fieldsG_packG _ f)

theorem mma (f : GForm) : Statement (.mma f) := by
  rintro _ _ ⟨⟩; rw [opcodeOf_packG]; exact congrArg (some ∘ Instr.mma) (fieldsG_packG _ f)

theorem mmas (f : GForm) : Statement (.mmas f) := by
  rintro _ _ ⟨⟩; rw [opcodeOf_packG]; exact congrArg (some ∘ Instr.mmas) (fieldsG_packG _ f)

theorem mclr (f : GForm) : Statement (.mclr f) := by
  rintro _ _ ⟨⟩; rw [opcodeOf_packG]; exact congrArg (some ∘ Instr.mclr) (fieldsG_packG _ f)

theorem mdrn (f : GForm) : Statement (.mdrn f) := by
  rintro _ _ ⟨⟩; rw [opcodeOf_packG]; exact congrArg (some ∘ Instr.mdrn) (fieldsG_packG _ f)

theorem msig (f : GForm) : Statement (.msig f) := by
  rintro _ _ ⟨⟩; rw [opcodeOf_packG]; exact congrArg (some ∘ Instr.msig) (fieldsG_packG _ f)

theorem trap (f : IForm) : Statement (.trap f) := by
  rintro _ _ ⟨⟩; rw [opcodeOf_packI]; exact congrArg (some ∘ Instr.trap) (fieldsI_packI _ f)

theorem csrr (f : IForm) : Statement (.csrr f) := by
  rintro _ _ ⟨⟩; rw [opcodeOf_packI]; exact congrArg (some ∘ Instr.csrr) (fieldsI_packI _ f)

theorem csrw (f : IForm) : Statement (.csrw f) := by
  rintro h _ ⟨⟩; rw [opcodeOf_packI]
  refine (congrArg (some ∘ selectCsrw) (fieldsI_packI _ f)).trans ?_
  simp_all [selectCsrw, Instr.wellFormed, Instr.ownRow, Instr.rule]

theorem csrwFstat (f : IForm) : Statement (.csrwFstat f) := by
  rintro h _ ⟨⟩; rw [opcodeOf_packI]
  refine (congrArg (some ∘ selectCsrw) (fieldsI_packI _ f)).trans ?_
  simp_all [selectCsrw, Instr.wellFormed, Instr.ownRow, Instr.rule]

theorem csrwFctl (f : IForm) : Statement (.csrwFctl f) := by
  rintro h _ ⟨⟩; rw [opcodeOf_packI]
  refine (congrArg (some ∘ selectCsrw) (fieldsI_packI _ f)).trans ?_
  simp_all [selectCsrw, Instr.wellFormed, Instr.ownRow, Instr.rule]

theorem csrwElogInfo (f : IForm) : Statement (.csrwElogInfo f) := by
  rintro h _ ⟨⟩; rw [opcodeOf_packI]
  refine (congrArg (some ∘ selectCsrw) (fieldsI_packI _ f)).trans ?_
  simp_all [selectCsrw, Instr.wellFormed, Instr.ownRow, Instr.rule]

theorem csrwTrapCause (f : IForm) : Statement (.csrwTrapCause f) := by
  rintro h _ ⟨⟩; rw [opcodeOf_packI]
  refine (congrArg (some ∘ selectCsrw) (fieldsI_packI _ f)).trans ?_
  simp_all [selectCsrw, Instr.wellFormed, Instr.ownRow, Instr.rule]

theorem qfeat (f : IForm) : Statement (.qfeat f) := by
  rintro _ _ ⟨⟩; rw [opcodeOf_packI]; exact congrArg (some ∘ Instr.qfeat) (fieldsI_packI _ f)

theorem qphys (f : IForm) : Statement (.qphys f) := by
  rintro _ _ ⟨⟩; rw [opcodeOf_packI]; exact congrArg (some ∘ Instr.qphys) (fieldsI_packI _ f)

theorem mapft (f : VForm) : Statement (.mapft f) := by
  rintro _ _ ⟨⟩; rw [opcodeOf_packV]; exact congrArg (some ∘ Instr.mapft) (fieldsV_packV _ f)

theorem catld (f : VForm) : Statement (.catld f) := by
  rintro _ _ ⟨⟩; rw [opcodeOf_packV]; exact congrArg (some ∘ Instr.catld) (fieldsV_packV _ f)

theorem catsetAccess (f : VForm) : Statement (.catsetAccess f) := by
  rintro h _ ⟨⟩; rw [opcodeOf_packV]
  refine (congrArg (some ∘ selectCatset) (fieldsV_packV _ f)).trans ?_
  have hw : f.sub = 0 := by simp_all [Instr.wellFormed, Instr.rule, Fields.cat]
  simp [selectCatset, hw]

theorem catsetBound (f : VForm) : Statement (.catsetBound f) := by
  rintro h _ ⟨⟩; rw [opcodeOf_packV]
  refine (congrArg (some ∘ selectCatset) (fieldsV_packV _ f)).trans ?_
  have hw : f.sub = 1 := by simp_all [Instr.wellFormed, Instr.rule, Fields.cat]
  simp [selectCatset, hw]

theorem catsetHwm (f : VForm) : Statement (.catsetHwm f) := by
  rintro h _ ⟨⟩; rw [opcodeOf_packV]
  refine (congrArg (some ∘ selectCatset) (fieldsV_packV _ f)).trans ?_
  have hw : f.sub = 7 := by simp_all [Instr.wellFormed, Instr.rule, Fields.cat]
  simp [selectCatset, hw]

theorem catsetPg (f : VForm) : Statement (.catsetPg f) := by
  rintro h _ ⟨⟩; rw [opcodeOf_packV]
  refine (congrArg (some ∘ selectCatset) (fieldsV_packV _ f)).trans ?_
  have hw : f.sub = 8 := by simp_all [Instr.wellFormed, Instr.rule, Fields.cat]
  simp [selectCatset, hw]

theorem catsnap (f : VForm) : Statement (.catsnap f) := by
  rintro h _ ⟨⟩; rw [opcodeOf_packV]
  refine (congrArg (some ∘ selectCatsnap) (fieldsV_packV _ f)).trans ?_
  have hw : f.sub = 0 := by simp_all [Instr.wellFormed, Instr.rule, Fields.cat]
  simp [selectCatsnap, hw]

theorem catsnapRel (f : VForm) : Statement (.catsnapRel f) := by
  rintro h _ ⟨⟩; rw [opcodeOf_packV]
  refine (congrArg (some ∘ selectCatsnap) (fieldsV_packV _ f)).trans ?_
  have hw : f.sub = 1 := by simp_all [Instr.wellFormed, Instr.rule, Fields.cat]
  simp [selectCatsnap, hw]

theorem ctxsv (f : VForm) : Statement (.ctxsv f) := by
  rintro _ _ ⟨⟩; rw [opcodeOf_packV]; exact congrArg (some ∘ Instr.ctxsv) (fieldsV_packV _ f)

theorem ctxld (f : VForm) : Statement (.ctxld f) := by
  rintro _ _ ⟨⟩; rw [opcodeOf_packV]; exact congrArg (some ∘ Instr.ctxld) (fieldsV_packV _ f)

theorem wfi (f : VForm) : Statement (.wfi f) := by
  rintro _ _ ⟨⟩; rw [opcodeOf_packV]; exact congrArg (some ∘ Instr.wfi) (fieldsV_packV _ f)

theorem gsw : Statement .gsw := by rintro _ _ ⟨⟩; rfl

theorem kill : Statement .kill := by rintro _ _ ⟨⟩; rfl

theorem bar : Statement .bar := by rintro _ _ ⟨⟩; rfl

theorem nop : Statement .nop := by rintro _ _ ⟨⟩; rfl

theorem nopSet0 : Statement .nopSet0 := by rintro _ _ ⟨⟩; rfl

theorem nopSet1 : Statement .nopSet1 := by rintro _ _ ⟨⟩; rfl

theorem yld : Statement .yld := by rintro _ _ ⟨⟩; rfl

theorem cend : Statement .cend := by rintro _ _ ⟨⟩; rfl

theorem mend : Statement .mend := by rintro _ _ ⟨⟩; rfl

theorem rte : Statement .rte := by rintro _ _ ⟨⟩; rfl

theorem sfdrn : Statement .sfdrn := by rintro _ _ ⟨⟩; rfl

theorem clauseStart : Statement .clauseStart := fun _ _ h => nomatch h

theorem writePerformed : Statement .writePerformed := fun _ _ h => nomatch h

theorem sfQueueWrite : Statement .sfQueueWrite := fun _ _ h => nomatch h

theorem stallThreshold : Statement .stallThreshold := fun _ _ h => nomatch h

theorem teamExchange : Statement .teamExchange := fun _ _ h => nomatch h

theorem timeSliceExpiry : Statement .timeSliceExpiry := fun _ _ h => nomatch h

theorem teamRetire : Statement .teamRetire := fun _ _ h => nomatch h

theorem workgroupRetire : Statement .workgroupRetire := fun _ _ h => nomatch h

theorem counterDecrement : Statement .counterDecrement := fun _ _ h => nomatch h

theorem unitBegin : Statement .unitBegin := fun _ _ h => nomatch h

theorem recordLaunch : Statement .recordLaunch := fun _ _ h => nomatch h

theorem recordNewGraph : Statement .recordNewGraph := fun _ _ h => nomatch h

theorem recordNewPhase : Statement .recordNewPhase := fun _ _ h => nomatch h

theorem recordQuery : Statement .recordQuery := fun _ _ h => nomatch h

theorem cancelRequest : Statement .cancelRequest := fun _ _ h => nomatch h

theorem cnclDelivery : Statement .cnclDelivery := fun _ _ h => nomatch h

theorem curatorBind : Statement .curatorBind := fun _ _ h => nomatch h

theorem dispatch : Statement .dispatch := fun _ _ h => nomatch h

theorem preempt : Statement .preempt := fun _ _ h => nomatch h

theorem trapEntry : Statement .trapEntry := fun _ _ h => nomatch h

theorem contextSave : Statement .contextSave := fun _ _ h => nomatch h

theorem restore : Statement .restore := fun _ _ h => nomatch h

theorem barOpen : Statement .barOpen := fun _ _ h => nomatch h

theorem gpostTakesEffect : Statement .gpostTakesEffect := fun _ _ h => nomatch h

theorem gbarComplete : Statement .gbarComplete := fun _ _ h => nomatch h

theorem xcolComplete : Statement .xcolComplete := fun _ _ h => nomatch h

theorem waitkComplete : Statement .waitkComplete := fun _ _ h => nomatch h

theorem wfiWake : Statement .wfiWake := fun _ _ h => nomatch h

theorem rdvComplete : Statement .rdvComplete := fun _ _ h => nomatch h

theorem pendingForkStart : Statement .pendingForkStart := fun _ _ h => nomatch h

theorem iterAnswer : Statement .iterAnswer := fun _ _ h => nomatch h

theorem streamEnd : Statement .streamEnd := fun _ _ h => nomatch h

theorem fifoBytesLand : Statement .fifoBytesLand := fun _ _ h => nomatch h

theorem followOnTrigger : Statement .followOnTrigger := fun _ _ h => nomatch h

theorem followOnExecute : Statement .followOnExecute := fun _ _ h => nomatch h

theorem cpymRequestArrival : Statement .cpymRequestArrival := fun _ _ h => nomatch h

theorem cpymSectorRead : Statement .cpymSectorRead := fun _ _ h => nomatch h

theorem mmIssue : Statement .mmIssue := fun _ _ h => nomatch h

theorem mmPerform : Statement .mmPerform := fun _ _ h => nomatch h

theorem mmExport : Statement .mmExport := fun _ _ h => nomatch h

theorem mmTransfer : Statement .mmTransfer := fun _ _ h => nomatch h

theorem mmApply : Statement .mmApply := fun _ _ h => nomatch h

theorem fenceComplete : Statement .fenceComplete := fun _ _ h => nomatch h

theorem speculationConflict : Statement .speculationConflict := fun _ _ h => nomatch h

theorem registrarRelease : Statement .registrarRelease := fun _ _ h => nomatch h

theorem loanLend : Statement .loanLend := fun _ _ h => nomatch h

theorem loanReclaimComplete : Statement .loanReclaimComplete := fun _ _ h => nomatch h

theorem farFirstTouchMap : Statement .farFirstTouchMap := fun _ _ h => nomatch h

theorem copyOnWrite : Statement .copyOnWrite := fun _ _ h => nomatch h

theorem pageMigration : Statement .pageMigration := fun _ _ h => nomatch h

theorem pageDuplication : Statement .pageDuplication := fun _ _ h => nomatch h

theorem liveMigration : Statement .liveMigration := fun _ _ h => nomatch h

theorem poolRefill : Statement .poolRefill := fun _ _ h => nomatch h

theorem readPacket : Statement .readPacket := fun _ _ h => nomatch h

theorem writePacket : Statement .writePacket := fun _ _ h => nomatch h

theorem atomicPacket : Statement .atomicPacket := fun _ _ h => nomatch h

theorem scrubGranule : Statement .scrubGranule := fun _ _ h => nomatch h

theorem errorRecordMergeFlush : Statement .errorRecordMergeFlush := fun _ _ h => nomatch h

theorem registerUncorrectable : Statement .registerUncorrectable := fun _ _ h => nomatch h

theorem dramDieRemoval : Statement .dramDieRemoval := fun _ _ h => nomatch h

theorem coreFailure : Statement .coreFailure := fun _ _ h => nomatch h

theorem dmaWrite : Statement .dmaWrite := fun _ _ h => nomatch h

theorem dmaRead : Statement .dmaRead := fun _ _ h => nomatch h

theorem cxlPoisonReport : Statement .cxlPoisonReport := fun _ _ h => nomatch h

theorem cxlHotRemove : Statement .cxlHotRemove := fun _ _ h => nomatch h

theorem scaleoutFrameReceive : Statement .scaleoutFrameReceive := fun _ _ h => nomatch h

theorem portFailure : Statement .portFailure := fun _ _ h => nomatch h

theorem deliveryTimeout : Statement .deliveryTimeout := fun _ _ h => nomatch h

theorem startJob : Statement .startJob := fun _ _ h => nomatch h

theorem mbCancel : Statement .mbCancel := fun _ _ h => nomatch h

theorem mbStatus : Statement .mbStatus := fun _ _ h => nomatch h

theorem createObject : Statement .createObject := fun _ _ h => nomatch h

theorem deleteObject : Statement .deleteObject := fun _ _ h => nomatch h

theorem mailboxOverrun : Statement .mailboxOverrun := fun _ _ h => nomatch h

theorem setPartitions : Statement .setPartitions := fun _ _ h => nomatch h

theorem setInstallationEntry : Statement .setInstallationEntry := fun _ _ h => nomatch h

theorem createContext : Statement .createContext := fun _ _ h => nomatch h

theorem destroyContext : Statement .destroyContext := fun _ _ h => nomatch h

theorem attest : Statement .attest := fun _ _ h => nomatch h

theorem stageFirmware : Statement .stageFirmware := fun _ _ h => nomatch h

theorem setPowerLimit : Statement .setPowerLimit := fun _ _ h => nomatch h

theorem hostRegisterWrite : Statement .hostRegisterWrite := fun _ _ h => nomatch h

theorem powerGood : Statement .powerGood := fun _ _ h => nomatch h

theorem stage0Complete : Statement .stage0Complete := fun _ _ h => nomatch h

theorem stage1Complete : Statement .stage1Complete := fun _ _ h => nomatch h

theorem criticalTemperature : Statement .criticalTemperature := fun _ _ h => nomatch h

theorem deviceReset : Statement .deviceReset := fun _ _ h => nomatch h

theorem matrixCommandComplete : Statement .matrixCommandComplete := fun _ _ h => nomatch h

theorem powerOrThermalLimiting : Statement .powerOrThermalLimiting := fun _ _ h => nomatch h


end Sys2Proof.Laws.Enc
end

