-- ==== Sys2Proof/Laws/Values.lean ====
section
/-!
SUPPORT. Patterns as integers: reading a register at an integer type, and writing an integer back, agree with the words of the spec (R26, R73,
R74, R137).
-/

namespace Sys2Proof.Machine

/-- The low w bits of a word as a number. -/
theorem toNat_low (x : Word) {w : Nat} (h : w ≤ 64) : (x &&& BitVec.ofNat 64 (2 ^ w - 1)).toNat = x.toNat % 2 ^ w := by
  have h1 : 2 ^ w ≤ 2 ^ 64 := Nat.pow_le_pow_right (by decide) h
  have h0 : 0 < 2 ^ w := Nat.two_pow_pos w
  rw [BitVec.toNat_and, BitVec.toNat_ofNat, Nat.mod_eq_of_lt (by omega), Nat.and_two_pow_sub_one_eq_mod]

/-- The pattern read from a scalar. -/
theorem Team.spat_toNat (t : Team) (ty : Ty) (n : Nat) : (t.spat ty n).toNat = t.sbits ty n :=
  toNat_low _ (by cases ty <;> decide)

/-- The pattern read from a vector register. -/
theorem Team.pat_toNat (t : Team) (ty : Ty) (n l : Nat) : (t.pat ty n l).toNat = t.vbits ty n l := by
  have h1 : (t.elem n l).toNat < 2 ^ 32 := (t.elem n l).isLt
  unfold Team.pat Team.vbits Ty.wide
  by_cases hw : ty.width = 64
  · simp only [hw, beq_self_eq_true, if_true, BitVec.toNat_append]
    rw [← Nat.shiftLeft_add_eq_or_of_lt h1, Nat.shiftLeft_eq]
  · simp only [beq_eq_false_iff_ne.2 hw, Bool.false_eq_true, if_false, hw]
    rw [toNat_low _ (by cases ty <;> decide), BitVec.toNat_setWidth]
    congr 1; omega

/-- A pattern read as its type. -/
theorem intVal_eq (ty : Ty) (x : Word) : intVal ty x = readAs ty (x.toNat % 2 ^ ty.width) := by
  cases ty <;> simp [intVal, readAs, Ty.isSigned, Ty.width, Int.bmod] <;> omega

/-- A pattern lies below 2^w. -/
theorem Team.sbits_lt (t : Team) (ty : Ty) (n : Nat) : t.sbits ty n < 2 ^ ty.width := Nat.mod_lt _ (Nat.two_pow_pos _)

/-- A pattern lies below 2^w. -/
theorem Team.vbits_lt (t : Team) (ty : Ty) (n l : Nat) : t.vbits ty n l < 2 ^ ty.width := by
  have h1 := (t.elem n l).isLt
  have h2 := (t.elem (n + 1) l).isLt
  unfold Team.vbits
  split
  next h => rw [h]; omega
  · exact Nat.mod_lt _ (Nat.two_pow_pos _)

/-- The integer read from a scalar. -/
theorem Team.intVal_spat (t : Team) (ty : Ty) (n : Nat) : intVal ty (t.spat ty n) = t.sval ty n := by
  rw [intVal_eq, Team.spat_toNat, Nat.mod_eq_of_lt (t.sbits_lt ty n), Team.sval]

/-- The integer read from a vector register. -/
theorem Team.intVal_pat (t : Team) (ty : Ty) (n l : Nat) : intVal ty (t.pat ty n l) = t.val ty n l := by
  rw [intVal_eq, Team.pat_toNat, Nat.mod_eq_of_lt (t.vbits_lt ty n l), Team.val]

/-- A pattern is congruent to the integer it is read as. -/
theorem readAs_emod (ty : Ty) (p : Nat) : readAs ty p % 2 ^ ty.width = p % 2 ^ ty.width := by
  unfold readAs
  split
  · rw [Int.sub_emod_right]
  · rfl

/-- Writing a scalar: only the w low bits count (R74). -/
theorem extend64_eq {ty : Ty} (hi : ty.isInt = true) (x : Word) (y : Int) (h : (x.toNat : Int) % 2 ^ ty.width = y % 2 ^ ty.width) (n : Nat) :
    RegWr.s n (extend64 ty x) = sput ty n y := by
  unfold sput
  congr 1
  apply BitVec.eq_of_toNat_eq
  have hx := x.isLt
  cases ty <;> simp [Ty.isInt] at hi <;>
    simp only [extend64, wrapTo, Ty.isSigned, Ty.width, if_true, if_false, Bool.false_eq_true, BitVec.toNat_ofInt, BitVec.toNat_signExtend,
      BitVec.toNat_setWidth, BitVec.msb_eq_decide, Int.bmod] at h ⊢ <;>
    (try rw [toNat_low _ (by decide)]) <;> simp at h ⊢ <;> (try split) <;> omega

/-- Writing a vector element: only the w low bits count (R73). -/
theorem putPat_eq {ty : Ty} (hi : ty.isInt = true) (x : Word) (y : Int) (h : (x.toNat : Int) % 2 ^ ty.width = y % 2 ^ ty.width) (n l : Nat) :
    putPat ty n l x = vput ty n l y := by
  have hx := x.isLt
  unfold putPat vput Ty.wide
  by_cases hw : ty.width = 64
  · simp only [hw, beq_self_eq_true, if_true] at h ⊢
    congr 2
    · apply BitVec.eq_of_toNat_eq; rw [BitVec.toNat_ofInt, BitVec.toNat_setWidth]; omega
    · congr 1; apply BitVec.eq_of_toNat_eq; rw [BitVec.toNat_ofInt, BitVec.extractLsb'_toNat, Nat.shiftRight_eq_div_pow]; omega
  · simp only [beq_eq_false_iff_ne.2 hw, Bool.false_eq_true, if_false, hw]
    congr 2
    apply BitVec.eq_of_toNat_eq
    cases ty <;> simp [Ty.isInt] at hi <;> simp [Ty.width] at hw <;>
      simp only [extend32, wrapTo, Ty.isSigned, Ty.width, if_true, if_false, Bool.false_eq_true, BitVec.toNat_ofInt, BitVec.toNat_signExtend,
        BitVec.toNat_setWidth, BitVec.msb_eq_decide, Int.bmod] at h ⊢ <;>
      (try rw [toNat_low _ (by decide)]) <;> simp at h ⊢ <;> (try split) <;> omega

/-- The pattern of an integer is congruent to it. -/
theorem ofInt_emod (ty : Ty) (y : Int) : ((ofInt y).toNat : Int) % 2 ^ ty.width = y % 2 ^ ty.width := by
  unfold ofInt
  rw [BitVec.toNat_ofInt]
  cases ty <;> simp [Ty.width] <;> omega

/-- SatInt (R26). -/
theorem satInt_eq {ty : Ty} (hi : ty.isInt = true) (y : Int) : satInt y ty = satIf true ty y := by
  cases ty <;> simp [Ty.isInt] at hi <;> simp [satInt, satIf, limits, Fields.minInt, Fields.maxInt, Ty.isSigned, Ty.width] <;> omega

/-- The result under .sat or not (R138). -/
theorem finish_emod {ty : Ty} (hi : ty.isInt = true) (sat : Bool) (y : Int) :
    ((finish ty sat y).toNat : Int) % 2 ^ ty.width = satIf sat ty y % 2 ^ ty.width := by
  cases sat
  · simpa [satIf, finish] using ofInt_emod ty y
  · simpa [finish, satInt_eq hi] using ofInt_emod ty (satIf true ty y)

/-- The pattern of an integer immediate (R16). -/
theorem immPat_toNat {f : IForm} (hi : f.ty.isInt = true) (hc : f.cls ≠ 2) : (immPat f).toNat = immBits f := by
  have h0 := f.imm.isLt
  have hc' : f.cls.toNat = 0 ∨ f.cls.toNat = 1 ∨ f.cls.toNat = 3 := by
    have := f.cls.isLt
    have : f.cls.toNat ≠ 2 := fun h => hc (BitVec.eq_of_toNat_eq h)
    omega
  unfold immPat immBits lowBits
  rw [toNat_low _ (by cases f.ty <;> decide)]
  have e : ∀ k : BitVec 2, f.cls = k ↔ f.cls.toNat = k.toNat := fun k => ⟨fun h => h ▸ rfl, BitVec.eq_of_toNat_eq⟩
  simp only [e]
  cases hty : f.ty <;> simp [hty, Ty.isInt] at hi <;> rcases hc' with h | h | h <;>
    simp [h, Ty.width, BitVec.toNat_signExtend, BitVec.msb_eq_decide, BitVec.toInt_eq_toNat_cond] <;> (try split) <;> omega

end Sys2Proof.Machine
end

