-- ==== Sys2Proof/Tests/Slice0.lean ====
section
/-!
SUPPORT. The model's own tests: words of the spec's examples decode to the instructions that their text names; ill-formed instructions are
refused; every instruction of an instruction word may issue in some state; and, for each statement that has hypotheses, states and operands
that meet them.
-/

namespace Sys2Proof.Tests

open Sys2Proof.Machine

/-! ### Words of the spec's examples, their fields as the spec's tables list them -/

/-- The fields of a V-format word whose example names no other. -/
def v0 : VForm :=
  { ty := .i8, d := 0, a := 0, b := 0, c := 0, m := 0, fs := false, se := false, rnd := .rn, sat := false, sub := 0 }

/-- The same of format M. -/
def m0 : MForm := { ty := .i8, d := 0, vo := false, base := 0, voff := 0, m := 0, fs := false, se := false, hint := 0, off := 0 }

/-- The same of format X. -/
def x0 : XForm := { ty := .i8, d := 0, a := 0, b := 0, m := 0, pat := 0, par := 0 }

/-- The same of format B. -/
def b0 : BForm := { creg := 0, cond := 0, m := 0, res := 0, imm := 0 }

/-- The same of a data command of the copy engine. -/
def c0 : CForm :=
  { ty := .i8, se := false, fs := false, dk := 0, sk := 0, dop := 0, sop := 0, cf := false, cnt := 0, hint := 0, doff := 0, soff := 0 }

/-- The same of a matrix command. -/
def g0 : GForm :=
  { ty := .i8, se := false, fs := false, acc := 0, fa := 0, fm := 0, clr := false, sm := 0, b := 0, c := 0, kc := 0, mc := 0, off := 0 }

/-- `VIDX.n32 v2`, `VCMP.lt.n32 m3, v2, v9`, `VSHL.n32 v1, v2, #2`, `VSEL.n32 v5, v4, v2, m2`, `SMOVI.n64 s3, #0` (05, 07). -/
theorem test_decode_integer :
    decodeTableWord 64 0x2718080000000000 = some (.vidx { v0 with ty := .n32, d := 2 }) ∧
    decodeTableWord 64 0x24180C0824000002 = some (.vcmp { v0 with ty := .n32, d := 3, a := 2, b := 9, sub := 2 }) ∧
    decodeTableWord 64 0x3318040900000002 = some (.vshlImm { ty := .n32, d := 1, a := 2, cls := 1, imm := 2 }) ∧
    decodeTableWord 64 0x2458141008080000 = some (.vsel { v0 with ty := .n32, d := 5, a := 4, b := 2, c := 2 }) ∧
    decodeTableWord 64 0x105C0C0100000000 = some (.smovi { ty := .n64, d := 3, a := 0, cls := 1, imm := 0 }) := by
  decide

/-- `FFMA.f32.rz v12, v8, v4, v6, ?m3`, `FNEG.f32 v10, v10, ?m3`, `FMAXI.f32 v20, v10, v12`, `FCVT.f32.f16 v2, v5`, `QSCP.f32.fa v10, v17` (05, 09, 10, 11). -/
theorem test_decode_float :
    decodeTableWord 64 0x40E830201018C400 = some (.ffma { v0 with ty := .f32, d := 12, a := 8, b := 4, c := 6, m := 3, rnd := .rz }) ∧
    decodeTableWord 64 0x426828280000C000 = some (.fneg { v0 with ty := .f32, d := 10, a := 10, m := 3 }) ∧
    decodeTableWord 64 0x41A8502830000000 = some (.fmaxi { v0 with ty := .f32, d := 20, a := 10, b := 12 }) ∧
    decodeTableWord 64 0x4468081400000008 = some (.fcvt { v0 with ty := .f32, d := 2, a := 5, sub := 8 }) ∧
    decodeTableWord 64 0x6168284400001000 = some (.qscp { v0 with ty := .f32, d := 10, a := 17, se := true }) := by
  decide

/-- `STS.n32.x4 [s3, v8, #16], v20`, `LD.f32.fb v6, [s7, v1, #256]`, `ST.f32 [s5, v12, #0], v11`, `LDS.n32.x2.fa v8, [s0, v1, #0]`,
`ATOMR.add.n32.fa v5, [s2, #0]`, `ATOMF.maxi.f32.fa v8, [s6, #0]` (10, 11). -/
theorem test_decode_memory :
    decodeTableWord 64 0x70D8520C20080004 = some (.sts { m0 with ty := .n32, d := 20, vo := true, base := 3, voff := 8, hint := 2, off := 4 }) ∧
    decodeTableWord 64 0x70281A1C04300040 =
      some (.ld { m0 with ty := .f32, d := 6, vo := true, base := 7, voff := 1, fs := true, se := true, off := 64 }) ∧
    decodeTableWord 64 0x70682E1430000000 = some (.st { m0 with ty := .f32, d := 11, vo := true, base := 5, voff := 12 }) ∧
    decodeTableWord 64 0x7098220004140000 = some (.lds { m0 with ty := .n32, d := 8, vo := true, base := 0, voff := 1, se := true, hint := 1 }) ∧
    decodeTableWord 64 0x7C18140800100000 = some (.atomrAdd { m0 with ty := .n32, d := 5, base := 2, se := true }) ∧
    decodeTableWord 64 0x82A8201800100000 = some (.atomfMaxi { m0 with ty := .f32, d := 8, base := 6, se := true }) := by
  decide

/-- `FENCE.dev`, `FENCES.wg t`, `FENCEX.die.fa c, f`, `SETK k9`, `CLRK k9`, `BRA.m1`, `CATLD s5, s1, #1`, `CATSET.pg s2, s3`, `CATSNAP.fa s9, s1`,
`MAPFT.fa v6, v4` (05, 06, 20, 23). -/
theorem test_decode_fences_and_catalogue :
    decodeTableWord 64 0x7400000000000004 = some (.fence { v0 with sub := 4 }) ∧
    decodeTableWord 64 0x7440000000000001 = some (.fences { v0 with sub := 1 }) ∧
    decodeTableWord 64 0x74800000000010CB = some (.fencex { v0 with sub := 0x0CB, se := true }) ∧
    decodeTableWord 64 0xB000008000000002 = some (.bra { b0 with m := 1, imm := 2 }) ∧
    decodeTableWord 64 0xE240140400000001 = some (.catld { v0 with d := 5, a := 1, sub := 1 }) ∧
    decodeTableWord 64 0xE28000080C000008 = some (.catsetPg { v0 with a := 2, b := 3, sub := 8 }) ∧
    decodeTableWord 64 0xE2C0240400001000 = some (.catsnap { v0 with d := 9, a := 1, se := true }) ∧
    decodeTableWord 64 0xE200181000001000 = some (.mapft { v0 with d := 6, a := 4, se := true }) := by
  decide

/-- `XRED.fadd.f32 v8, v3, #team`, `XCOL.rot.n32 v6, v4, #1`, `XLANE.xor.f32 v6, v5, #1`, `GEN consume, done, s6`, `YIELD.n32 v8, ?m2`, `GBAR #3`, `GPOST.wd #3`,
`GQRY s9, #3`, `LDG.fadd.f32.fa v6, [s8, v1, #0]` (12 to 16). -/
theorem test_decode_exchange_and_groups :
    decodeTableWord 64 0x90A8200C0006C000 = some (.xred { x0 with ty := .f32, d := 8, a := 3, pat := 6, par := 0xC000 }) ∧
    decodeTableWord 64 0x9118181000010001 = some (.xcol { x0 with ty := .n32, d := 6, a := 4, pat := 1, par := 1 }) ∧
    decodeTableWord 64 0x9028181400050001 = some (.xlane { x0 with ty := .f32, d := 6, a := 5, pat := 5, par := 1 }) ∧
    decodeTableWord 64 0xA003000000030004 = some (.gen { b0 with creg := 6, imm := 0x00030004 }) ∧
    decodeTableWord 64 0xA058002000008000 = some (.yield { v0 with ty := .n32, a := 8, m := 2 }) ∧
    decodeTableWord 64 0xA400000000000003 = some (.gbar { v0 with sub := 3 }) ∧
    decodeTableWord 64 0xA440000000000043 = some (.gpostWd { v0 with sub := 0x43 }) ∧
    decodeTableWord 64 0xA480240000000003 = some (.gqry { v0 with d := 9, sub := 3 }) ∧
    decodeTableWord 64 0xA9A81A2004100000 =
      some (.ldgFadd { m0 with ty := .f32, d := 6, vo := true, base := 8, voff := 1, se := true }) := by
  decide

/-- `CPY.bf16 qa, sp[s11, #0], #64`, `CMX.fa`, `CEND`, `MLDN.bf16 qs`, `MMA.bf16 a0, qa, #64`, `MDRN.f32 [s3, #0], a0`, `MCLR a0`, `MEND` (17 to 19). -/
theorem test_decode_engines :
    decodeTableWord 64 0xC0249002C03F0000 = some (.cpy { c0 with ty := .bf16, dk := 2, sk := 1, sop := 11, cnt := 63 }) ∧
    decodeTableWord 64 0xC2C2000000000000 = some (.cmx { top := 0, se := true, fs := false, low := 0 }) ∧
    decodeTableWord 64 0xC3C0000000000000 = some .cend ∧
    decodeTableWord 64 0xD0241000003F0000 = some (.mldn { g0 with ty := .bf16, fa := 2, kc := 63 }) ∧
    decodeTableWord 64 0xD0A400000000FC00 = some (.mma { g0 with ty := .bf16, mc := 63 }) ∧
    decodeTableWord 64 0xD168000180000000 = some (.mdrn { g0 with ty := .f32, b := 3 }) ∧
    decodeTableWord 64 0xD100000000000000 = some (.mclr g0) ∧ decodeTableWord 64 0xD3C0000000000000 = some .mend := by
  decide

/-- `CSRR s12, PSTAT`, `CSRR v3, ID_LANE`, `CSRW PSTAT, s0`, `QFEAT s5, #1`, `CTXSV s8`, `SFDRN`, `TRAP #7`, `RTE`, `WFI k10` (22). -/
theorem test_decode_system :
    decodeTableWord 64 0xE080300100000102 = some (.csrr { ty := .i8, d := 12, a := 0, cls := 1, imm := 0x102 }) ∧
    decodeTableWord 64 0xE0800C0100001000 = some (.csrr { ty := .i8, d := 3, a := 0, cls := 1, imm := 0x1000 }) ∧
    decodeTableWord 64 0xE0C0000100000102 = some (.csrw { ty := .i8, d := 0, a := 0, cls := 1, imm := 0x102 }) ∧
    decodeTableWord 64 0xE100140100000001 = some (.qfeat { ty := .i8, d := 5, a := 0, cls := 1, imm := 1 }) ∧
    decodeTableWord 64 0xE300002000000000 = some (.ctxsv { v0 with a := 8 }) ∧ decodeTableWord 64 0xE380000000000000 = some .sfdrn ∧
    decodeTableWord 64 0xE000000100000007 = some (.trap { ty := .i8, d := 0, a := 0, cls := 1, imm := 7 }) ∧
    decodeTableWord 64 0xE040000000000000 = some .rte ∧
    decodeTableWord 64 0xE3D0000000000000 = some (.wfi { v0 with ty := .n8 }) := by
  decide

/-! ### Ill-formed instructions, one for each kind of check -/

/-- Every check refuses a term: a step of the machine; a reserved source field; a type that the instruction does not take; an odd pair; a rounding
mode, a saturation and a sub-operation where none is allowed; a scalar index with bit [7] set; mask register m0 as a destination; a reserved
field of format B; an immediate out of the range of its class; a control register that is another row's; a scope, a count and a kind of operand that
do not exist. -/
theorem test_ill_formed :
    Instr.wellFormed .clauseStart = false ∧
    Instr.wellFormed (.smov { v0 with ty := .n64, b := 1 }) = false ∧
    Instr.wellFormed (.vabs { v0 with ty := .n32 }) = false ∧
    Instr.wellFormed (.vadd { v0 with ty := .n64, d := 1 }) = false ∧
    Instr.wellFormed (.vadd { v0 with ty := .n32, rnd := .rz }) = false ∧
    Instr.wellFormed (.vmov { v0 with ty := .n32, sat := true }) = false ∧
    Instr.wellFormed (.vcmp { v0 with ty := .n32, d := 3, sub := 6 }) = false ∧
    Instr.wellFormed (.sadd { v0 with ty := .n64, a := 128 }) = false ∧
    Instr.wellFormed (.vcmp { v0 with ty := .n32, d := 0 }) = false ∧
    Instr.wellFormed (.bra { b0 with res := 1 }) = false ∧
    Instr.wellFormed (.vaddImm { ty := .n8, d := 0, a := 0, cls := 1, imm := 256 }) = false ∧
    Instr.wellFormed (.csrw { ty := .i8, d := 0, a := 0, cls := 1, imm := 0x100 }) = false ∧
    Instr.wellFormed (.fence { v0 with sub := 6 }) = false ∧
    Instr.wellFormed (.cpy { c0 with ty := .bf16, sk := 2 }) = false ∧
    Instr.wellFormed (.mldn { g0 with ty := .bf16, kc := 200 }) = false := by
  decide

/-- Opcodes 0x046 and 0x3FF are not assigned, and reserved bits of a word are refused: no neighbour takes it. -/
theorem test_refused_words :
    decodeTableWord 64 0x1180000000000000 = none ∧ decodeTableWord 64 0xFFC0000000000000 = none ∧
    decodeTableWord 64 0xE380000000000001 = none ∧ decodeTableWord 64 0xC3C0000000000001 = none := by
  decide

/-! ### States in which instructions issue (R12, R93, R113) -/

/-- A header of one instruction with set-A flag k0 and set-B flag k1. -/
def demoHdr : Word := 0x0000084400000000

/-- A team of 8 lanes that stands at the one slot of a clause. -/
def demoTeam : Team :=
  { Team.start 0 0 placedLaunch.shape (addrOf 1 64) [] 0 65536 [] with st := .active, started := true, hdr := demoHdr }

/-- The same in Handler, having taken BRKP. -/
def demoHandler : Team :=
  { demoTeam.enterTrap (addrOf 1 64) 0 .brkp 0 0 0 (addrOf 1 64) (addrOf 1 64) 0 [] demoTeam.all with started := true, hdr := demoHdr }

/-- A team with an engine stream that stands at the one slot of a clause. -/
def demoForked (mtx : Bool) : Team :=
  demoTeam.setStream mtx
    (some { Stream.fresh (addrOf 1 64) [] with started := true, hdr := demoHdr ||| (if mtx then 0x2000000000000000 else 0x1000000000000000) })

/-- A device that runs that one team, team 0 of workgroup 0 in column 0, which holds the matrix unit. -/
def demoOf (t : Team) (a : Agent) : State :=
  { State.reset with
    cur := a
    stage := .stage2
    contexts := [(0, Context.empty)]
    units := [(0, placedUnit)]
    wgs := [(0, placedWg)]
    teams := [(0, t)]
    columns := [(0, { Column.initial with dp := some 0, mxHolder := some 0 })] }

/-- The device with its team at user privilege. -/
def demo : State := demoOf demoTeam (.team 0)

/-- `State.Ready`, outside a speculative window, as a test. -/
def issuable (s : State) (u : Nat) (t : Team) (i : Instr) (se fs : Bool) : Bool :=
  decide (s.cur = .team u) && decide (s.team? u = some t) && t.started && t.admits i se fs && decide (t.spec = none) && !s.portHeld u &&
    i.rule.uses.all fun x => match useSource x with | some d => !s.pendingDest u d | none => true

/-- What the test says. -/
theorem ready_of_issuable {s : State} {u : Nat} {t : Team} {i : Instr} {se fs : Bool} (h : issuable s u t i se fs = true) : s.Ready u t i se fs := by
  simp only [issuable, Bool.and_eq_true, decide_eq_true_eq, List.all_eq_true, Bool.not_eq_true'] at h
  obtain ⟨⟨⟨⟨⟨⟨h1, h2⟩, h3⟩, h4⟩, h5⟩, hp⟩, h6⟩ := h
  refine ⟨h1, h2, h3, h4, by simp [h5], hp, fun x hx d hd => ?_⟩
  simpa [hd] using h6 x hx

/-- `State.ReadyEng` as a test. -/
def issuableEng (s : State) (u : Nat) (mtx : Bool) (t : Team) (x : Stream) (i : Instr) (se fs : Bool) : Bool :=
  decide (s.cur = if mtx then .matrix u else .copy u) && decide (s.team? u = some t) && decide (t.stream mtx = some x) && x.started && !x.halted &&
    !x.stopped && x.admits t i mtx se fs

/-- What the test says. -/
theorem readyEng_of_issuable {s : State} {u : Nat} {mtx : Bool} {t : Team} {x : Stream} {i : Instr} {se fs : Bool}
    (h : issuableEng s u mtx t x i se fs = true) : s.ReadyEng u mtx t x i se fs := by
  simp only [issuableEng, Bool.and_eq_true, decide_eq_true_eq, Bool.not_eq_true'] at h
  obtain ⟨⟨⟨⟨⟨⟨h1, h2⟩, h3⟩, h4⟩, h5⟩, h6⟩, h7⟩ := h
  exact ⟨h1, h2, h3, h4, ⟨h5, h6⟩, h7⟩

/-- A word decodes to an instruction that the demo device's team may issue, whether it selects a flag or not. -/
def teamIssues (w : Nat) : Bool :=
  match decodeTableWord 64 w with
  | some i =>
    let t := if i.rule.priv then demoHandler else demoTeam
    [(false, false), (true, false), (true, true)].all fun p => issuable (demoOf t (.team 0)) 0 t i p.1 p.2
  | none => false

/-- A word decodes to a command that the demo device's copy or matrix stream may issue. -/
def streamIssues (w : Nat) : Bool :=
  match decodeTableWord 64 w with
  | some i =>
    let mtx := decide (i.rule.cls = .matrix)
    match (demoForked mtx).stream mtx with
    | some x => [(false, false), (true, false), (true, true)].all fun p =>
        issuableEng (demoOf (demoForked mtx) (if mtx then .matrix 0 else .copy 0)) 0 mtx (demoForked mtx) x i p.1 p.2
    | none => false
  | none => false

/-- In order: smov, sadd, ssub, smul, smulh, sdiv, srem, sand, sor, sxor, snot, sshl, sshr, ssar, srot, scmp, ssel, smin, smax, sclz, spop,
slea, smovi, saddImm, ssubImm, smulImm, sandImm, sorImm, sxorImm, sshlImm, sshrImm, ssarImm, srotImm, sminImm, smaxImm, sleaImm, vmov, vadd,
vsub, vmul. -/
theorem witness_issue_integer_1 :
    ∀ w ∈ ([
      0x005C000800000000, 0x008C081000000000, 0x00D0080000000000, 0x0108000000000000, 0x0144080000000000, 0x0188000000000000,
      0x01C4000810000000, 0x0204001000000000, 0x0240000000000000, 0x0280000010000000, 0x02C0001000000000, 0x0314000000000000,
      0x0340080008000000, 0x0384100000000000, 0x03D8001010000000, 0x041C001008000000, 0x045C080000000000, 0x048C080000000000,
      0x04D0080000000000, 0x050C100800000000, 0x0554000800000000, 0x059C000008000000, 0x1048080000000000, 0x109C001000040000,
      0x10CC100000080002, 0x1108000808040000, 0x1200101000000004, 0x1248100000100000, 0x1288100800100000, 0x131C081008000001,
      0x134C080800100000, 0x1388100000000008, 0x13C8081000100000, 0x149C100010000080, 0x14C8000800100000, 0x159C000008100000,
      0x2008000800030000, 0x204C001008000000, 0x2094080000000000, 0x20DC000000000000] : List Nat), teamIssues w = true := by
  decide +kernel

/-- In order: vmulh, vmad, vdiv, vrem, vand, vor, vxor, vnot, vshl, vshr, vsar, vrot, vcmp, vsel, vmin, vmax, vabs, vneg, vclz, vpop, vbrev,
vbfe, vbfi, vlea, vidx, vsplat, vext, vcvti, spk24, vmovi, vaddImm, vsubImm, vmulImm, vandImm, vorImm, vxorImm, vshlImm, vshrImm, vsarImm,
vrotImm. -/
theorem witness_issue_integer_2 :
    ∀ w ∈ ([
      0x210C080010000000, 0x2144100000000000, 0x2190000000000000, 0x21DC000010000000, 0x221C100010000000, 0x2258000000000000,
      0x2280080808000000, 0x22D8000000000000, 0x2304000800000000, 0x2344000000010000, 0x2380000810000000, 0x23D8000000020000,
      0x2400100008000000, 0x2454080000000000, 0x2498000008000000, 0x24C4101010000000, 0x2508080000030000, 0x2544081000000000,
      0x2590000000020000, 0x25D0000000000000, 0x2604000000030000, 0x265C000000000000, 0x2688000810080000, 0x26D8001000000000,
      0x2708000000000000, 0x2750000800000000, 0x2794001010000000, 0x27DC100800000000, 0x2824080000000000, 0x3008100000080000,
      0x3048000000100000, 0x3088080808000080, 0x30D4080000000001, 0x32100800000000C0, 0x3258080808040000, 0x329C081000100000,
      0x33081008000B0000, 0x334C000008180000, 0x3390000800000000, 0x33D8000000080000] : List Nat), teamIssues w = true := by
  decide +kernel

/-- In order: vminImm, vmaxImm, vleaImm. -/
theorem witness_issue_integer_3 :
    ∀ w ∈ ([
      0x348C080000100000, 0x34CC000000000000, 0x36D8101000000080] : List Nat), teamIssues w = true := by
  decide +kernel

/-- In order: fadd, fsub, fmul, ffma, fmin, fmax, fmaxi, fmini, fabs, fneg, fcmp, fclass, fdiv, fsqrt, frnd, fscl, fdot2, fcvt, fcvti,
icvtf, faddImm, fsubImm, fmulImm, fminImm, fmaxImm. -/
theorem witness_issue_float :
    ∀ w ∈ ([
      0x4028001008000000, 0x406C100000000000, 0x40A0000000000000, 0x40E8100000000000, 0x412C000010000000, 0x4160000000000000,
      0x41A4081008000000, 0x41E8080000000000, 0x4224000800000000, 0x4264000000000000, 0x42A8080800000000, 0x42E0001000000000,
      0x4324000800020000, 0x4368080000020000, 0x43A4000000000000, 0x43E8080010000000, 0x4420000010010000, 0x4468000000000008,
      0x4490000000000008, 0x44E0080800030000, 0x5024080A00002100, 0x506C100300003240, 0x50A4004A00001000, 0x5128000200002200,
      0x516C104300003000] : List Nat), teamIssues w = true := by
  decide +kernel

/-- In order: qsin, qcos, qsc, qsinp, qcosp, qscp, qex2, qlg2, qtnh, qrcp, qrsq, ncvt, rnenc, rndec, rnadd, rnmul, rng. -/
theorem witness_issue_special_functions :
    ∀ w ∈ ([
      0x6024080000020000, 0x6068101000000000, 0x60A4000800020000, 0x60E4000000000000, 0x6124000800000000, 0x6164000000000000,
      0x61A8101000000000, 0x61E4001000000000, 0x6228000000000000, 0x6264100000000000, 0x62A8000000000000, 0x6420000000000000,
      0x6450100000000000, 0x649C000000010000, 0x64FC001008000000, 0x653C000810000000, 0x661C000000000000] : List Nat), teamIssues w = true := by
  decide +kernel

/-- In order: ld, st, lds, sts, ldc, ldsp, stsp, pref, clnv, atomAdd, atomSub, atomMin, atomMax, atomAnd, atomOr, atomXor, atomXchg,
atomCas, atomFadd, atomMaxi, atomMini, atomrAdd, atomfAdd, atomfSub, atomfMin, atomfMax, atomfAnd, atomfOr, atomfXor, atomfXchg, atomfCas,
atomfFadd, atomfMaxi, atomfMini, fence, fences, fencex. -/
theorem witness_issue_memory :
    ∀ w ∈ ([
      0x701C000000000000, 0x7048080800040000, 0x70A8000000100002, 0x70F4000000040000, 0x71340000000000C0, 0x7164000000010000,
      0x71A8000000030000, 0x7304001000080000, 0x7340100000000040, 0x781C080800000000, 0x7848000000000000, 0x788C100000000000,
      0x78D8001000000004, 0x7918000000100200, 0x7948080000000003, 0x799C100000000000, 0x79EC081000000000, 0x7A28000000100002,
      0x7A6C000000100000, 0x7AA8101000100200, 0x7AE8000000000000, 0x7C1C000000000003, 0x8018100800000040, 0x8058081000100008,
      0x808C080000010000, 0x80D80000000000C0, 0x8118000000000040, 0x815C101000100000, 0x8198001000000002, 0x81CC1008001000C0,
      0x820C001000000000, 0x826C100000000000, 0x82A8000000000200, 0x82E8080800000000, 0x7400000000000000, 0x7440000000000000,
      0x7480000000000000] : List Nat), teamIssues w = true := by
  decide +kernel

/-- In order: xlane, xshuf, xred, xscan, xcol, xvote. -/
theorem witness_issue_exchange :
    ∀ w ∈ ([
      0x902C000800000000, 0x9070001010000000, 0x9084080000000001, 0x90C4080800000000, 0x9100000810030000, 0x9140080000020000] : List Nat), teamIssues w = true := by
  decide +kernel

/-- In order: gen, yield, gdone, gcon, gfr, gfrInfo, gsw. -/
theorem witness_issue_generator_loops :
    ∀ w ∈ ([
      0xA0000000000C0000, 0xA058000000000000, 0xA080000000000000, 0xA0C0000000000000, 0xA158080000000000, 0xA15C000000000001,
      0xA100000000000000] : List Nat), teamIssues w = true := by
  decide +kernel

/-- In order: gbar, gpost, gpostWd, gqry, ldgAdd, ldgMin, ldgMax, ldgAnd, ldgOr, ldgXor, ldgFadd, ldgFmin, ldgFmax, ldgMaxi, ldgMini. -/
theorem witness_issue_groups :
    ∀ w ∈ ([
      0xA400000000000000, 0xA440000000000000, 0xA440000000000043, 0xA480080000000000, 0xA808000000030000, 0xA85C080000000100,
      0xA8880000000000C0, 0xA8D8001000000008, 0xA90C101000030000, 0xA948001000000200, 0xA9A0001000000000, 0xA9E4081000010000,
      0xAA2C081000100100, 0xAA68081000000000, 0xAAA8000000100000] : List Nat), teamIssues w = true := by
  decide +kernel

/-- In order: bra, brac, brav, call, callReg, ret, exit, forkCopy, forkMatrix, forkReg, waitk, setk, clrk, iter, rdv, lnch, cntw, cntwQuery,
cancel, kill, bar, nop, nopSet0, nopSet1, yld. -/
theorem witness_issue_control :
    ∀ w ∈ ([
      0xB000000000000100, 0xB040100000100040, 0xB08C000000000000, 0xB0C4000000090000, 0xB0C1408000000001, 0xB100000000000000,
      0xB140000000000000, 0xB1C0080000000002, 0xB1C0100008020000, 0xB1C0480000000004, 0xB25C080000000000, 0xB2A8000000000000,
      0xB2CC000000000000, 0xB380000000000000, 0xB3C0000000000000, 0xB400101000000000, 0xB440000000000000, 0xB440101000000001,
      0xB480000000000000, 0xB180000000000000, 0xB200000000000000, 0xB300000000000000, 0xB300000000001000, 0xB300000000003000,
      0xB340000000000000] : List Nat), teamIssues w = true := by
  decide +kernel

/-- In order: cpy, cpym, cpyf, cpyg, cpys, csig, cwait, cfence, cmx, cend. -/
theorem witness_issue_copy :
    ∀ w ∈ ([
      0xC014000810080000, 0xC058304100030006, 0xC098304100030000, 0xC0D4000008000000, 0xC128000000080002, 0xC202000000000002,
      0xC240000000000000, 0xC280000000000000, 0xC2C0000000000000, 0xC3C0000000000000] : List Nat), streamIssues w = true := by
  decide +kernel

/-- In order: mldn, mldw, mma, mmas, mclr, mdrn, msig, mend. -/
theorem witness_issue_matrix :
    ∀ w ∈ ([
      0xD038100000000000, 0xD064100000080000, 0xD0A0100000000000, 0xD0E4100000000000, 0xD100000000000000, 0xD164000800000000,
      0xD202000000000000, 0xD3C0000000000000] : List Nat), streamIssues w = true := by
  decide +kernel

/-- In order: trap, csrr, csrw, csrwFstat, csrwFctl, csrwElogInfo, csrwTrapCause, qfeat, qphys, mapft, catld, catsetAccess, catsetBound,
catsetHwm, catsetPg, catsnap, catsnapRel, ctxsv, ctxld, wfi, rte, sfdrn. -/
theorem witness_issue_system :
    ∀ w ∈ ([
      0xE000000100001008, 0xE080100100000001, 0xE0C0004900000102, 0xE0C0000100000100, 0xE0C0000100000101, 0xE0C0000100000111,
      0xE0C0000100000800, 0xE100080100003040, 0xE140080140003000, 0xE200000000000000, 0xE240000000000000, 0xE280001000000000,
      0xE280000800000001, 0xE280000810000007, 0xE28000080C000008, 0xE2C0100000000000, 0xE2C0000800001001, 0xE300001000000000,
      0xE340000000000000, 0xE3E0000000000000, 0xE040000000000000, 0xE380000000000000] : List Nat), teamIssues w = true := by
  decide +kernel

/-! ### Witnesses: float, special functions, memory -/

/-- Object 2 of the demo context: writable data, one page, present in frame 1 of column 0. Object 3: its one page is a first-touch page. -/
def demoCtx : Context :=
  { Context.empty with
    tvec := addrOf 1 0
    objs := [(1, placedCode), (2, { placedCode with code := false, w := true, ty := .n32, rows := 1 }), (3, { placedCode with code := false, w := true, ftFrom := 0 })]
    pages := [({ ctx := 0, obj := 1, team := 0, col := 0, page := 0, lower := false },
                { p := true, ft := false, w := false, x := true, tier := 0, sh := false, col := 0, frame := 0 }),
              ({ ctx := 0, obj := 2, team := 0, col := 0, page := 0, lower := false },
                { p := true, ft := false, w := true, x := false, tier := 0, sh := false, col := 0, frame := 1 })] }

/-- The demo device with those objects, for a team whose s4 holds an address of object 2 and s6 one of object 3. -/
def memOf (t : Team) : State := { demoOf t (.team 0) with contexts := [(0, demoCtx)] }

/-- That team; its v1 holds 16 times the lane. -/
def memTeam : Team :=
  { demoTeam with sregs := [(4, addrOf 2 0x100), (6, addrOf 3 0)], vregs := (List.range 7).map fun l => (1024 + l + 1, BitVec.ofNat 32 (16 * (l + 1))) }

/-- The state that an instruction or a step of the machine leads to. -/
def after (i : Instr) (s : State) : State := match exec i s with | .next s' => s' | _ => s

/-- The same for a step with its argument. -/
def stepped (i : Instr) (arg : EvArg) (s : State) : State := after i { s with arg := arg }

/-- `Claims.ExactIntermediates`: a sum of one term, a quotient by one, the root of one; `Claims.RoundingStep`: an inexact half. -/
theorem witness_exact_intermediates :
    ([(false, 1, 0)] : List (Bool × Nat × Int)) ≠ [] ∧ (1 : Nat) ≠ 0 ∧ (0 : ℝ) ≤ 1 / 2 ∧ (1 / 2 : ℝ) < 1 ∧ (true = true ↔ (0 : ℝ) < 1 / 2) := by
  norm_num

/-- `Claims.SpecialFunctions`: fewer than 8 instructions held, and 8. -/
theorem witness_special_functions :
    issuable demo 0 demoTeam (.qsin { v0 with ty := .f32, d := 2, a := 4 }) false false = true ∧ demo.sfHeld 0 < 8 ∧
      (let s := (List.range 8).foldl (fun s _ => s.addOp 0 .sf fun o => o) demo;
       issuable s 0 demoTeam (.qsin { v0 with ty := .f32, d := 2, a := 4 }) false false = true ∧ s.sfHeld 0 = 8) := by
  decide +kernel

/-- `Claims.LoadsAndStores` and the atomics of path T: no precise fault, and one; a store, a load, an atomic, and a prefetch of each. -/
theorem witness_loads_and_stores :
    (memOf memTeam).preciseOf 0 ((memTeam.active 0).map fun l =>
        (memOf memTeam).sliceAcc 0 memTeam (effAddr memTeam { m0 with ty := .n32, d := 8, base := 4 } 4 l) l 4 .read (.vreg 8 .n32 1)) = none ∧
      issuable (memOf memTeam) 0 memTeam (.ld { m0 with ty := .n32, d := 8, base := 4 }) false false = true ∧
      ((memOf memTeam).preciseOf 0 ((memTeam.active 0).map fun l =>
        (memOf memTeam).sliceAcc 0 memTeam (effAddr memTeam { m0 with ty := .n32, d := 8, base := 6 } 4 l) l 4 .read (.vreg 8 .n32 1))).isSome = true ∧
      issuable (memOf memTeam) 0 memTeam (.ld { m0 with ty := .n32, d := 8, base := 6 }) false false = true ∧
      memTeam.priv = false ∧ memTeam.spec = none := by
  decide +kernel

/-- `Claims.ScratchpadAccess`: two lanes of a slot that ask for two words of one bank, and lanes that do not. -/
theorem witness_scratchpad :
    (let t : Team := { demoTeam with vregs := [(1 * 1024 + 1, 128)] };
       issuable (memOf t) 0 t (.lds { m0 with ty := .n32, d := 8, vo := true, voff := 1 }) false false = true ∧
       effAddr t { m0 with ty := .n32, d := 8, vo := true, voff := 1 } 4 0 = 0 ∧ effAddr t { m0 with ty := .n32, d := 8, vo := true, voff := 1 } 4 1 = 128) ∧
      issuable (memOf memTeam) 0 memTeam (.lds { m0 with ty := .n32, d := 8 }) false false = true := by
  decide +kernel

/-- `Claims.AtomicValues`: operands of four bytes and of eight. -/
theorem witness_atomic_values :
    (Ty.n32.width = 32 ∨ Ty.n32.width = 64) ∧ ([1, 2, 3, 4] : List Byte).length = Ty.n32.bytes ∧ Ty.f64.width = 64 ∧
      ([1, 2, 3, 4, 5, 6, 7, 8] : List Byte).length = Ty.f64.bytes := by
  decide +kernel

/-- A deterministic launch of the demo device's team with one reservation of 4 units at s4. -/
def detTeam : Team :=
  { memTeam with resv := [{ used := true, caddr := addrOf 2 0x100, wide := false, base := 10, cap := 8, count := 0 }], vregs := (List.range 8).map fun l => (5 * 1024 + l, 1) }

/-- That device. -/
def detState : State :=
  { memOf detTeam with units := [(0, { placedUnit with launch := some { placedLaunch with det := true } })] }

/-- `Claims.ReservedAdds`: in a deterministic launch every lane names the one reservation, the sum reaches its capacity exactly; outside one. -/
theorem witness_reserved_adds :
    (let f : MForm := { m0 with ty := .n32, d := 5, base := 4, se := true };
       issuable detState 0 detTeam (.atomrAdd f) true false = true ∧ detState.isDet detTeam.wg = true ∧ 0 < detTeam.resv.length ∧
       (∀ r, detTeam.resv[0]? = some r → r.used = true ∧ r.wide = decide (f.ty.width = 64) ∧ (∀ l ∈ detTeam.active f.m, effAddr detTeam f f.ty.bytes l = r.caddr) ∧
         r.count + ((detTeam.active f.m).map fun l => detTeam.vbits f.ty f.d.toNat l).sum = r.cap) ∧
       issuable (memOf detTeam) 0 detTeam (.atomrAdd f) true false = true ∧ (memOf detTeam).isDet detTeam.wg = false ∧ detTeam.priv = false ∧ detTeam.spec = none) := by
  decide +kernel

/-! ### Witnesses: accesses performed -/

/-- Operation n of a state, or an empty one. -/
def opOf (s : State) (n : Nat) : Op := (s.op? n).getD default

/-- Access el of an operation, or an empty one. -/
def accOf (o : Op) (el : Nat) : Access := (o.acc.find? fun x => x.el == el).getD default

/-- The load `LD.n32 v8, [s4, #0]` and the store of v8 there, issued and queued, about to be performed in lane 0. -/
def loading (t : Team) : State :=
  { stepped .mmIssue (.id 1) (after (.ld { m0 with ty := .n32, d := 8, base := 4, vo := true, voff := 1 }) { memOf t with mem := [(physKey 0 0 1 0x100, 7)] }) with arg := .pair 1 0 }

/-- The store. -/
def storing (t : Team) : State :=
  { stepped .mmIssue (.id 1) (after (.st { m0 with ty := .n32, d := 8, base := 4, vo := true, voff := 1 }) (memOf t)) with arg := .pair 1 0 }

/-- `State.Canonical`, for a device whose contexts are all at home, as a test. -/
def canonTest (s : State) : Bool := Memory.wf s.mem && Memory.wf s.dram && (s.wgs.all fun e => Memory.wf e.2.spad) && s.elsewhere.isEmpty

/-- What the test says. -/
theorem canonical_of_test {s : State} (h : canonTest s = true) : s.Canonical := by
  simp only [canonTest, Bool.and_eq_true, List.all_eq_true, List.isEmpty_iff] at h
  obtain ⟨⟨⟨h1, h2⟩, h3⟩, h4⟩ := h
  exact ⟨h1, h2, h3, by simp [h4]⟩

/-- `LDS.n32 v8, [s0, v1, #0]`, issued and queued: lane l asks for the word at 16 l. -/
def spadLoading : State :=
  { stepped .mmIssue (.id 1) (after (.lds { m0 with ty := .n32, d := 8, vo := true, voff := 1 }) (memOf memTeam)) with arg := .pair 1 0 }

/-- What the statements on MM_PERFORM ask of every queued access. -/
def queuedAt (s : State) (n el : Nat) : Bool :=
  decide (s.arg = .pair n el) && decide ((s.op? n).isSome) && decide ((opOf s n).kind = .mem) && decide (((opOf s n).acc.find? fun x => x.el == el).isSome) &&
    (opOf s n).queued && s.inOrder (opOf s n) (accOf (opOf s n) el) && s.spadTurn (opOf s n) (accOf (opOf s n) el) &&
    decide ((opOf s n).slotMates (accOf (opOf s n) el) = [el]) && !s.fenceHolds (opOf s n).team (accOf (opOf s n) el).path (opOf s n).seq &&
    decide (s.checkAccess (opOf s n).team (accOf (opOf s n) el) = .ok) && decide ((s.team? (opOf s n).team).isSome)

/-- The write of the first store in its buffer, ahead of a load of the same address, or of a load of one byte more. -/
def forwarding (ty : Ty) : State :=
  let s := after (.ld { m0 with ty := ty, d := 8, base := 4, vo := true, voff := 1 }) { storing memTeam with teams := [(0, memTeam)] }
  let t := stepped .mmPerform (.pair 1 0) s
  { stepped .mmIssue (.id 2) t with arg := .pair 2 0 }

/-- `Claims.ReadsArePerformed`: a read of a slice, with no write of its own in the buffer, memory clean or poisoned; with one that covers the read; with one that
does not; and a read of a scratchpad. -/
theorem witness_reads :
    ((spadLoading.op? 1).any (fun o => o.kind == .mem && decide ((o.acc.map (·.el)).Nodup) &&
        (o.acc.find? fun x => x.el == 0).any fun a => a.space == .spad 0 && a.path == .T) = true ∧ spadLoading.arg = .pair 1 0) ∧
    queuedAt (loading memTeam) 1 0 = true ∧ (accOf (opOf (loading memTeam) 1) 0).act = .read ∧ (accOf (opOf (loading memTeam) 1) 0).path = .T ∧
      (accOf (opOf (loading memTeam) 1) 0).space = .slice 0 0 0 ∧ (accOf (opOf (loading memTeam) 1) 0).land = .vreg 8 .n32 1 ∧ memTeam.spec = none ∧
      (loading memTeam).isDet 0 = false ∧ (loading memTeam).bufs = [] ∧ (loading memTeam).poison = [] ∧
      queuedAt { loading memTeam with poison := [physKey 0 0 1 0x100 / 4] } 1 0 = true ∧
      queuedAt (forwarding .n32) 2 0 = true ∧ (forwarding .n32).bufs.map (·.op) = [1] ∧
      (forwarding .n32).bufs.map (fun b => b.covers (.slice 0 0 0) false (addrOf 2 0x100) 4) = [true] ∧
      queuedAt (forwarding .n64) 2 0 = true ∧ (forwarding .n64).bufs.map (fun b => b.covers (.slice 0 0 0) false (addrOf 2 0x100) 8) = [false] := by
  decide +kernel

/-- `Claims.WritesArePerformed`: a write that enters the buffer, and one of a deterministic launch that is staged, in a workgroup with room, in one that is cancelled,
and in one without room. -/
theorem witness_writes :
    queuedAt (storing memTeam) 1 0 = true ∧ (accOf (opOf (storing memTeam) 1) 0).act = .write [0, 0, 0, 0] ∧ (accOf (opOf (storing memTeam) 1) 0).path = .T ∧
      (storing memTeam).stages 0 (.slice 0 0 0) (addrOf 2 0x100) (.write [0, 0, 0, 0]) = false ∧
      (let s : State := { storing memTeam with units := [(0, { placedUnit with launch := some { placedLaunch with det := true, stage := 64 } })] };
       let a := accOf (opOf s 1) 0;
       queuedAt s 1 0 = true ∧ s.stages 0 a.space a.addr a.act = true ∧ s.wg? 0 = some placedWg ∧ s.stageOrder (opOf s 1) a = true ∧
         s.splitAt a.space a.addr = false ∧ memTeam.inWindow (opOf s 1).seq = false ∧ placedWg.cancelled = false ∧ placedWg.stageUsed < s.stageCap 0 ∧
         (∀ g ∈ [{ placedWg with cancelled := true }, { placedWg with stageUsed := 1000000 }],
           (let z : State := { s with wgs := [(0, g)] };
            queuedAt z 1 0 = true ∧ z.stages 0 a.space a.addr a.act = true ∧ z.wg? 0 = some g ∧ z.stageOrder (opOf z 1) a = true ∧
              z.splitAt a.space a.addr = false ∧ (g.cancelled = true ∨ z.stageCap 0 ≤ g.stageUsed)))) := by
  decide +kernel

/-- A write in a buffer, to object 2 of a column, at a stage. -/
def bufAt (col stage : Nat) : BufWrite :=
  { id := 9, agent := .copy 0, team := 0, path := .C, seq := 0, op := 1, el := 0, lane := 0, slot := 0, space := .slice 0 col 0, addr := addrOf 2 0x100,
    lower := false, act := .write [1, 2], land := .none, size := 2, stage := stage, die := 0, num := 1, stamp := [1, 0, 0, 0, 0, 0, 0, 0], spec := false, probe := false,
    before := [] }

/-- The demo device with one write in a buffer; object 2 has a page in column 64 too. -/
def buffered (b : BufWrite) : State :=
  { memOf memTeam with
    bufs := [b]
    arg := .id 9
    contexts := [(0, { demoCtx with
      objs := [(1, placedCode), (2, { placedCode with code := false, w := true, ty := .n32, rows := 1, ncol := 512, stride := 0 })]
      pages := demoCtx.pages ++ [({ ctx := 0, obj := 2, team := 0, col := 64, page := 0, lower := false },
        { p := true, ft := false, w := true, x := false, tier := 0, sh := false, col := 64, frame := 1 })] })] }

/-- The same with its scratchpad. -/
def bufferedSpad : State := buffered { bufAt 0 0 with space := .spad 0, addr := 16 }

/-- `LDSP.f32 v8, [s4, v1, #0]`, issued, and queued or not: two accesses of each lane, its upper and its lower half. -/
def halfLoading (queued : Bool) : State :=
  let s := after (.ldsp { m0 with ty := .f32, d := 8, base := 4, vo := true, voff := 1 }) (memOf memTeam)
  { s with ops := s.ops.map (fun o => { o with queued := queued }), arg := .pair 1 0 }

/-- `Claims.ReadsArePerformed`: the two halves of a lane of LDSP, where the operation has entered its queue and where it has not. -/
theorem witness_half_reads :
    ∀ queued ∈ [false, true],
      (let s := halfLoading queued;
       (s.op? 1).any (fun o => o.kind == .mem && decide ((o.acc.map (·.el)).Nodup) &&
         (o.acc.find? fun x => x.el == 0).any fun a => a.space == .slice 0 0 0 && decide (a.halves ≠ [])) = true) := by
  decide +kernel

/-- `Claims.WritesReachMemory`: a write to the issuer's own die, one to a scratchpad, one to another die, its transfer and its application; the page is
present. -/
theorem witness_writes_reach_memory :
    (let b := bufAt 0 0;
       canonTest (buffered b) = true ∧ (buffered b).buf? 9 = some b ∧ (∀ c ∈ (buffered b).bufs, c.id = 9) ∧ (buffered b).mayExport b = true ∧ (buffered b).crossing 0 b.space = none ∧
       (buffered b).physAt b.space b.addr false = some (physKey 0 0 1 0x100)) ∧
      canonTest bufferedSpad = true ∧ (bufferedSpad.wg? 0).isSome = true ∧ (bufferedSpad.buf? 9).isSome = true ∧ bufferedSpad.mayExport { bufAt 0 0 with space := .spad 0, addr := 16 } = true ∧
      bufferedSpad.crossing 0 (.spad 0) = none ∧
      (buffered (bufAt 64 0)).mayExport (bufAt 64 0) = true ∧ (buffered (bufAt 64 0)).crossing 0 (.slice 0 64 0) = some (0, 1) ∧
      (bufAt 64 1).stage = 1 ∧ (bufAt 64 2).stage = 2 ∧ Space.col? (buffered (bufAt 64 2)) (.slice 0 64 0) = some 64 ∧
      (buffered (bufAt 64 2)).ready (bufAt 64 2) 0 = true ∧ (buffered (bufAt 64 2)).sharedPage (.slice 0 64 0) (addrOf 2 0x100) false = false := by
  decide +kernel

/-- `ATOM.add.n32.fa v8, [s4, #0]` of one lane, issued and queued. -/
def atomicAt : State :=
  { stepped .mmIssue (.id 1) (after (.atomAdd { m0 with ty := .n32, d := 8, base := 4, vo := true, voff := 1, se := true }) { memOf { memTeam with vregs := memTeam.vregs ++ [(8 * 1024, 5)] } with mem := [(physKey 0 0 1 0x100, 7)] })
    with arg := .pair 1 0 }

/-- `Claims.AtomicsArePerformed`: an add of lane 0 at a present page of the issuer's own column. -/
theorem witness_atomics :
    canonTest atomicAt = true ∧ queuedAt atomicAt 1 0 = true ∧ (accOf (opOf atomicAt 1) 0).act = .atomic .add .n32 [5, 0, 0, 0] [] ∧ (accOf (opOf atomicAt 1) 0).lower = false ∧
      (accOf (opOf atomicAt 1) 0).size = 4 ∧ atomicAt.stages 0 (.slice 0 0 0) (addrOf 2 0x100) (.atomic .add .n32 [5, 0, 0, 0] []) = false ∧
      atomicAt.bufs = [] ∧ atomicAt.crossing 0 (.slice 0 0 0) = none ∧ atomicAt.physAt (.slice 0 0 0) (addrOf 2 0x100) false = some (physKey 0 0 1 0x100) ∧
      atomicAt.sharedPage (.slice 0 0 0) (addrOf 2 0x100) false = false ∧ atomicAt.poisonedAt (.slice 0 0 0) (addrOf 2 0x100) false 4 = false ∧
      (accOf (opOf atomicAt 1) 0).land = .vreg 8 .n32 1 := by
  decide +kernel

/-- The same add with its access in another place. -/
def atomicIn (sp : Space) : State :=
  { atomicAt with
    ops := atomicAt.ops.map fun o => { o with acc := o.acc.map fun a => { a with space := sp } }
    contexts := (buffered (bufAt 0 0)).contexts }

/-- `Claims`' AtomicsElsewhere, an atomic for another die: at its issue, and at its base die's turn, where its page is present. -/
theorem witness_atomics_elsewhere :
    (let s := atomicIn (.slice 0 64 0);
     let o := opOf s 1;
     let a := accOf o 0;
     s.arg = .pair 1 0 ∧ (s.op? 1).isSome = true ∧ o.kind = .mem ∧ o.queued = true ∧ s.inOrder o a = true ∧ s.fenceHolds 0 a.path o.seq = false ∧
       s.checkAccess 0 a = .ok ∧ a.act = .atomic .add .n32 [5, 0, 0, 0] [] ∧ a.halves = [] ∧ a.space = .slice 0 64 0 ∧ s.stages 0 a.space a.addr a.act = false ∧
       s.bufs = [] ∧ s.crossing 0 a.space = some (0, 1)) ∧
    (let b : BufWrite := { bufAt 64 2 with act := .atomic .add .n32 [5, 0, 0, 0] [], size := 4, land := .vreg 8 .n32 1, op := 1 };
     let s : State := { buffered b with ops := atomicAt.ops };
     canonTest s = true ∧ s.arg = .id 9 ∧ s.buf? 9 = some b ∧ Space.col? s b.space = some 64 ∧ s.ready b 0 = true ∧ s.sharedPage b.space b.addr false = false ∧
       (s.op? 1).isSome = true ∧ s.physAt b.space b.addr false = some (physKey 0 64 1 0x100) ∧ s.poisonedAt b.space b.addr false 4 = false) := by
  decide +kernel

/-- The same for an atomic for another device: whichever port the hash of log 12 picks, if any reaches the device. -/
theorem witness_atomics_for_devices :
    (let s := atomicIn (.remote 5 1 0);
     let o := opOf s 1;
     let a := accOf o 0;
     s.arg = .pair 1 0 ∧ (s.op? 1).isSome = true ∧ o.kind = .mem ∧ o.queued = true ∧ s.inOrder o a = true ∧ s.fenceHolds 0 a.path o.seq = false ∧
       s.checkAccess 0 a = .ok ∧ a.act = .atomic .add .n32 [5, 0, 0, 0] [] ∧ a.halves = [] ∧ a.space = .remote 5 1 0 ∧ s.stages 0 a.space a.addr a.act = false ∧
       s.bufs = [] ∧ (s.ctx? 0).isSome = true) ∧
    ∀ p, (List.range 16).filter (fun p => decide (p * 1 / 16 = 0) && Config.portReaches p 5) = [p] → (atomicIn (.remote 5 1 0)).portFor 0 5 1 = some p := by
  refine ⟨by decide +kernel, fun p h => ?_⟩
  have hn : (atomicIn (.remote 5 1 0)).nPart = 1 := by decide +kernel
  have hd : (atomicIn (.remote 5 1 0)).portsDown = [] := by decide +kernel
  unfold State.portFor
  rw [hn, hd, h]
  simp [pickPort, Nat.mod_one]

/-- `Claims.WritesBecomeVisible`: an addition about to write. -/
theorem witness_writes_visible :
    (let s : State := { after (.vadd { v0 with ty := .n32, d := 8 }) demo with arg := .id 1 };
       s.arg = .id 1 ∧ (s.op? 1).isSome = true ∧ (opOf s 1).kind = .alu ∧ s.opDrained (opOf s 1) = true ∧ (s.team? (opOf s 1).team).isSome = true ∧ demoTeam.spec = none) := by
  decide +kernel

/-! ### Witnesses: exchange, generator loops, control -/

/-- The demo team with v4 lane by lane 1 to 8. -/
def xTeam : Team := { demoTeam with vregs := (List.range 8).map fun l => (4 * 1024 + l, BitVec.ofNat 32 (l + 1)) }

/-- The demo device that runs it. -/
def xState : State := demoOf xTeam (.team 0)

/-- An XLANE, XSHUF, XRED, XSCAN, XVOTE or XCOL of v4 into v6, with a pattern and a parameter. -/
def xf (ty : Ty) (pat : BitVec 6) (par : BitVec 16) : XForm := { x0 with ty := ty, d := 6, a := 4, pat := pat, par := par }

/-- `Claims.Permutations`: each pattern of XLANE and XSHUF that moves elements, at the ends of its parameter's range, and a count of 0 that raises IINS. -/
theorem witness_permutations :
    (∀ p ∈ ([(0, 0), (1, 0), (1, 1023), (2, 1), (3, 1023), (4, 1), (5, 1)] : List (Nat × Nat)), issuable xState 0 xTeam (.xlane (xf .n32 (BitVec.ofNat 6 p.1) (BitVec.ofNat 16 p.2))) false false = true ∧
        Fields.param Config.colw xTeam.lanes (BitVec.ofNat 16 p.2) = some p.2) ∧
      issuable xState 0 xTeam (.xlane (xf .n32 2 0)) false false = true ∧ Fields.param Config.colw xTeam.lanes 0 = some 0 ∧
      (∀ p ∈ List.range 5, issuable xState 0 xTeam (.xshuf (xf .n32 (BitVec.ofNat 6 p) 0)) false false = true) ∧
      xTeam.priv = false ∧ xTeam.spec = none := by
  decide +kernel

/-- `Claims.ReductionsAndScans`: segments of 2 and of 1024 lanes, and a segment of 3 that raises IINS; `Claims.Combination`: patterns of the type's width. -/
theorem witness_reductions :
    (∀ k ∈ [1, 10], issuable xState 0 xTeam (.xred (xf .n32 0 (BitVec.ofNat 16 (2 ^ k)))) false false = true ∧
        issuable xState 0 xTeam (.xscan (xf .n32 0 (BitVec.ofNat 16 (2 ^ k)))) false false = true ∧
        Fields.param Config.colw xTeam.lanes (BitVec.ofNat 16 (2 ^ k)) = some (2 ^ k)) ∧
      issuable xState 0 xTeam (.xred (xf .n32 0 3)) false false = true ∧ Fields.param Config.colw xTeam.lanes 3 = some 3 ∧
      ({ val := 255, idx := 0 } : CElem).val.toNat < 2 ^ Ty.n8.width := by
  decide +kernel

/-- The demo device in a gang=core launch of column 0. -/
def gangState (t : Team) : State :=
  { demoOf t (.team 0) with units := [(0, { placedUnit with launch := some { placedLaunch with gang := true } })] }

/-- A team of column c that has posted at its first XCOL. -/
def partnerTeam (c : Nat) : Team :=
  { demoTeam with wg := c, xcount := 1, xposts := [{ k := 0, wide := false, els := [(0, BitVec.ofNat 32 (c + 1))], lanes := lanesBelow 8 }] }

/-- Four teams of a core at their first XCOL, that of column 0 waiting with one lane's choice of partner 1; or the partner in column 3 has yet to arrive. -/
def meeting (all : Bool) : State :=
  let o : Op := { (default : Op) with id := 5, agent := .team 0, team := 0, dests := [.v 6], kind := .xcol 0 6 false false [(0, 1, 0)] }
  { gangState demoTeam with
    arg := .id 5
    ops := [o]
    wgs := (List.range 4).map fun c => (c, { placedWg with idx := c, col := c, teams := [c] })
    teams := (List.range 4).map fun c => (c,
      if c = 0 then { partnerTeam 0 with st := .stalled, wait := .xcol 5 } else if all || c != 3 then partnerTeam c else { demoTeam with wg := c }) }

/-- `Claims.Votes` and `Claims.ColumnExchange`: a vote of each kind; XCOL in a gang=core launch and outside one; all partners arrived, and one not. -/
theorem witness_votes_and_columns :
    (∀ p ∈ List.range 5, issuable xState 0 xTeam (.xvote { x0 with ty := .i8, d := 6, a := 0, pat := BitVec.ofNat 6 p }) false false = true) ∧
      issuable (gangState demoTeam) 0 demoTeam (.xcol (xf .n32 1 1)) false false = true ∧ (gangState demoTeam).ganged demoTeam = true ∧
      demoTeam.priv = false ∧ demoTeam.st = .active ∧ issuable demo 0 demoTeam (.xcol (xf .n32 1 1)) false false = true ∧ demo.ganged demoTeam = false ∧
      ((meeting true).op? 5).isSome = true ∧
      (∀ c ∈ List.range 4, xcolArrived 0 ((meeting true).partner { partnerTeam 0 with st := .stalled, wait := .xcol 5 } c) = true) ∧
      xcolArrived 0 ((meeting false).partner { partnerTeam 0 with st := .stalled, wait := .xcol 5 } 3) = false := by
  decide +kernel

/-- `Team.Stored`, for a team with no checkpoint, as a test. -/
def storedTest (t : Team) : Bool :=
  Store.wf t.sregs && Store.wf t.vregs && Store.wf t.masks && Store.wf t.ra && Store.wf t.vit.pra &&
    t.bank.all (fun b => Store.wf b.s && Store.wf b.v && Store.wf b.m && Store.wf b.ra) && decide (t.spec = none)

/-- What the test says. -/
theorem stored_of_test {t : Team} (h : storedTest t = true) : t.Stored := by
  simp only [storedTest, Bool.and_eq_true, decide_eq_true_eq, Option.all_eq_true] at h
  obtain ⟨⟨⟨⟨⟨⟨h1, h2⟩, h3⟩, h4⟩, h5⟩, h6⟩, h7⟩ := h
  exact ⟨h1, h2, h3, h4, h5, fun b hb => by simpa [and_assoc] using h6 b hb, by simp [h7]⟩

/-- A loop over 8 lanes with records of 2 words and threshold 4. -/
def demoVit : Vitrine :=
  { Vitrine.initial with
    phase := .producing, gset := lanesBelow 8, pset := lanesBelow 8, n := 8, t := 4, d := 2, base := 256, cent := addrOf 1 128, xent := addrOf 1 192 }

/-- The demo team in that loop. -/
def vitTeam (v : Vitrine) : Team := { demoTeam with vit := v }

/-- The last pass of the loop: lanes 0 to 2 consume frame k. -/
def conVit (p : Lanes) (k f0 f1 : Nat) : Vitrine :=
  { demoVit with phase := .consuming, pset := p, cset := lanesBelow 3, cfr := k, fill0 := f0, fill1 := f1, pra := (List.range 8).map fun l => (l, addrOf 1 64) }

/-- A team of that pass. -/
def conTeam (v : Vitrine) : Team := { demoTeam with vit := v, masks := [(0, lanesBelow 3)] }

/-- Whether the device with a team may issue an instruction of the loop. -/
def loopIssues (t : Team) (i : Instr) : Bool := issuable (demoOf t (.team 0)) 0 t i false false && storedTest t && decide (t.priv = false)

/-- `Claims.GeneratorLoopOpens`: thresholds 1 and 1024 and a region that ends with the scratchpad; a threshold of 0, of 1025, bit 23 and bit 35; a base
that is no multiple of 256, and frames that end past the allocation. -/
theorem witness_generator_opens :
    (∀ c ∈ ([2 ^ 24, 1024 * 2 ^ 24 + 7 * 2 ^ 20, 2 ^ 24 + 7 * 2 ^ 20 + 3584] : List Nat),
        (let t : Team := { demoTeam with sregs := Store.set [] 6 (BitVec.ofNat 64 c) };
         loopIssues t (.gen { b0 with creg := 6, imm := 0x00030004 }) = true ∧ (t.scal 6).toNat = c ∧ t.vit.phase = .off ∧ c / 2 ^ 23 % 2 = 0 ∧ c / 2 ^ 35 = 0 ∧
         1 ≤ c / 2 ^ 24 % 2 ^ 11 ∧ c / 2 ^ 24 % 2 ^ 11 ≤ 1024 ∧ c % 2 ^ 20 % 256 = 0 ∧
         c % 2 ^ 20 + 8 * (laneList (t.mask 0 &&& t.all) t.lanes).length * (c / 2 ^ 20 % 8 + 1) ≤ (demoOf t (.team 0)).spadSize t.wg)) ∧
      (∀ c ∈ ([0, 1025 * 2 ^ 24, 2 ^ 24 + 2 ^ 23, 2 ^ 24 + 2 ^ 35] : List Nat),
        (let t : Team := { demoTeam with sregs := Store.set [] 6 (BitVec.ofNat 64 c) };
         loopIssues t (.gen { b0 with creg := 6, imm := 0x00030004 }) = true ∧
         (c / 2 ^ 23 % 2 ≠ 0 ∨ c / 2 ^ 35 ≠ 0 ∨ c / 2 ^ 24 % 2 ^ 11 = 0 ∨ 1024 < c / 2 ^ 24 % 2 ^ 11) ∧ t.spec = none)) ∧
      (∀ c ∈ ([2 ^ 24 + 128, 2 ^ 24 + 7 * 2 ^ 20 + 3840] : List Nat),
        (let t : Team := { demoTeam with sregs := Store.set [] 6 (BitVec.ofNat 64 c) };
         loopIssues t (.gen { b0 with creg := 6, imm := 0x00030004 }) = true ∧ (t.scal 6).toNat = c ∧ t.vit.phase = .off ∧ c / 2 ^ 23 % 2 = 0 ∧ c / 2 ^ 35 = 0 ∧
         1 ≤ c / 2 ^ 24 % 2 ^ 11 ∧ c / 2 ^ 24 % 2 ^ 11 ≤ 1024 ∧ t.elogInfo.getLsbD 0 = false ∧ (c % 2 ^ 20 % 256 ≠ 0 ∨
           (demoOf t (.team 0)).spadSize t.wg < c % 2 ^ 20 + 8 * (laneList (t.mask 0 &&& t.all) t.lanes).length * (c / 2 ^ 20 % 8 + 1)))) := by
  decide +kernel

/-- `Claims.GeneratorLoopRuns`, YIELD and GSW: a frame that stays below the threshold, one that reaches it and is full, one that overflows
into the other, and a frame with and without records. -/
theorem witness_generator_yields :
    (∀ p ∈ ([(0, 3), (0, 8), (1, 1)] : List (Nat × Nat)),
        (let t : Team := { vitTeam { demoVit with cur := p.1 } with masks := [(0, lanesBelow p.2)] };
         loopIssues t (.yield { v0 with ty := .n32, a := 4 }) = true ∧ t.vit.phase = .producing ∧ t.vit.cur < 2 ∧ 4 + t.vit.d ≤ t.nv ∧
         (∀ j ∈ List.range t.vit.d, (demoOf t (.team 0)).pendingDest 0 (.v (4 + j)) = false) ∧ t.vit.fill t.vit.cur + (t.active 0).length = p.2 ∧ p.2 ≤ t.vit.n)) ∧
      (let t : Team := { vitTeam { demoVit with fill0 := 6 } with masks := [(0, lanesBelow 4)] };
         loopIssues t (.yield { v0 with ty := .n32, a := 4 }) = true ∧ t.vit.t ≤ t.vit.n ∧ t.vit.fill 0 ≤ t.vit.n ∧ t.vit.fill 1 = 0 ∧ (t.active 0).length ≤ t.vit.n ∧
         t.vit.n < t.vit.fill 0 + (t.active 0).length) ∧
      loopIssues (vitTeam { demoVit with fill0 := 1 }) .gsw = true ∧ loopIssues (vitTeam demoVit) .gsw = true := by
  decide +kernel

/-- `Claims.GeneratorLoopRuns`, GDONE and GCON: lanes that leave some behind, and the last ones, with and without records in the other frame. -/
theorem witness_generator_leaves :
    loopIssues { vitTeam demoVit with masks := [(0, lanesBelow 8), (1, lanesBelow 3)] } (.gdone { v0 with m := 1 }) = true ∧
      demoVit.pset &&& ~~~(({ vitTeam demoVit with masks := [(0, lanesBelow 8), (1, lanesBelow 3)] } : Team).activeSet 1) ≠ 0 ∧
      loopIssues (vitTeam { demoVit with fill0 := 2 }) (.gdone v0) = true ∧ loopIssues (vitTeam demoVit) (.gdone v0) = true ∧
      demoVit.pset &&& ~~~((vitTeam demoVit).activeSet 0) = 0 ∧
      (∀ v ∈ [conVit 0xF0 0 3 4, conVit 0xF0 1 2 3, conVit 0 0 3 1, conVit 0 1 0 3],
        loopIssues (conTeam v) (.gcon b0) = true ∧ v.phase = .consuming ∧ v.cfr < 2 ∧ v.cset &&& ~~~((conTeam v).activeSet 0) = 0) ∧
      (conVit 0xF0 0 3 4).pset ≠ 0 ∧ (conVit 0xF0 0 3 4).t = (conVit 0xF0 0 3 4).fill 1 ∧ (conVit 0xF0 1 2 3).fill 0 < (conVit 0xF0 1 2 3).t ∧
      (conVit 0 0 3 1).fill 1 = 1 ∧ (conVit 0 1 0 3).fill 0 = 0 ∧
      loopIssues { conTeam (conVit 0 0 3 1) with masks := [(0, lanesBelow 3), (1, 1)] } (.gcon { b0 with m := 1 }) = true := by
  decide +kernel

/-- `Claims.GeneratorFrames`: GFR and GFR.info in a pass, and instructions of the loop outside their phase. -/
theorem witness_generator_frames :
    (let t := conTeam (conVit 0 1 0 3);
       loopIssues t (.gfr { v0 with ty := .n32, d := 62 }) = true ∧ t.vit.phase = .consuming ∧ 62 + t.vit.d = t.nv ∧ loopIssues t (.gfrInfo { v0 with d := 9, ty := .n64, sub := 1 }) = true ∧
       loopIssues t (.gen { b0 with creg := 6 }) = true ∧ loopIssues t (.exit b0) = true ∧ loopIssues t .gsw = true ∧
       loopIssues t (.yield { v0 with ty := .n32, a := 4 }) = true ∧ loopIssues t (.gdone v0) = true ∧ t.spec = none) ∧
      (let t := vitTeam demoVit;
       loopIssues t (.gfr { v0 with ty := .n32, d := 62 }) = true ∧ loopIssues t (.gcon b0) = true ∧ loopIssues t (.gfrInfo { v0 with d := 9, ty := .n64, sub := 1 }) = true ∧
       t.vit.phase = .producing) := by
  decide +kernel

/-- `Claims.Branches`: a branch that two lanes of eight take, and one to a register whose target is not aligned. -/
theorem witness_branches :
    loopIssues { demoTeam with masks := [(0, lanesBelow 8), (1, 3)] } (.bra { b0 with m := 1, imm := 2 }) = true ∧
      (∀ l ∈ ({ demoTeam with masks := [(0, lanesBelow 8), (1, 3)] } : Team).active 1, ((addrOf 1 64 + 128).toNat) % 64 = 0) ∧
      loopIssues { demoTeam with sregs := [(4, addrOf 1 8)] } (.callReg { b0 with creg := 2, cond := 8, imm := 4 }) = true ∧
      (addrOf 1 8).toNat % 64 ≠ 0 ∧ demoTeam.priv = false ∧ demoTeam.spec = none := by
  decide +kernel

/-- `Claims.ExitAndKill`: EXIT of some lanes and of all; KILL. -/
theorem witness_exit_and_kill :
    loopIssues { demoTeam with masks := [(0, lanesBelow 8), (1, 3)] } (.exit { b0 with m := 1 }) = true ∧ loopIssues demoTeam (.exit b0) = true ∧
      demoTeam.vit.phase = .off ∧ loopIssues demoTeam .kill = true ∧ demoTeam.st ≠ .retired ∧ (demo.teams.map (·.1)).Nodup ∧ (demo.ops.map (·.id)).Nodup ∧ demo.raisesOut 0 = false ∧
      (let s : State := { demo with ops := [{ (default : Op) with team := 0, agent := .team 0, raiser := true, kind := .alu }] };
       s.raisesOut 0 = true ∧ issuable s 0 demoTeam (.exit b0) false false = true) := by
  decide +kernel

/-! ### Witnesses: synchronisation, work, groups, fences -/

/-- A device whose team has an addition outstanding that sets k3. -/
def flagged (t : Team) : State := { demoOf t (.team 0) with ops := [{ (default : Op) with id := 7, agent := .team 0, team := 0, flag := some 3, kind := .alu }] }

/-- k3, as the flag instructions name it. -/
def k3 : VForm := { v0 with d := 8 }

/-- `Claims.FlagsAndNops`: each instruction; WAITK with its flag clear and set, SFDRN with nothing outstanding and with a special function. -/
theorem witness_flags_and_nops :
    loopIssues demoTeam (.setk k3) = true ∧ loopIssues demoTeam (.clrk k3) = true ∧ loopIssues demoTeam (.waitk k3) = true ∧
      (Fields.flagSet k3).getLsbD 3 = true ∧ (∀ n ∈ List.range 12, demo.flag 0 n = false) ∧
      issuable (flagged demoTeam) 0 demoTeam (.waitk k3) false false = true ∧ (flagged demoTeam).flag 0 3 = true ∧
      loopIssues demoTeam .nop = true ∧ issuable demo 0 demoTeam .nopSet0 true false = true ∧ issuable demo 0 demoTeam .nopSet1 true true = true ∧
      loopIssues demoTeam .sfdrn = true ∧
      issuable { demo with ops := [{ (default : Op) with team := 0, kind := .sf }] } 0 demoTeam .sfdrn false false = true := by
  decide +kernel

/-- The demo device with a second team in its workgroup, or Pending-ready in its column. -/
def pairOf (t t2 : Team) : State :=
  { demoOf t (.team 0) with teams := [(0, t), (1, { t2 with twg := 1 })], wgs := [(0, { placedWg with teams := [0, 1] })] }

/-- `Claims.Synchronisation`: BAR of two teams, of one, and twice; YLD with no other team Pending-ready and with one; RDV with streams ended and running. -/
theorem witness_synchronisation :
    issuable (pairOf demoTeam demoTeam) 0 demoTeam .bar false false = true ∧ (pairOf demoTeam demoTeam).wg? 0 = some { placedWg with teams := [0, 1] } ∧
      loopIssues demoTeam .bar = true ∧ demo.wg? 0 = some placedWg ∧ demoTeam.barArr = false ∧ demo.performedAt 0 .T (demo.seq + 1) 1 false = true ∧
      issuable (demoOf { demoTeam with barArr := true } (.team 0)) 0 { demoTeam with barArr := true } .bar false false = true ∧
      loopIssues demoTeam .yld = true ∧ loopIssues { demoTeam with pendPree := true } .yld = true ∧ ({ demoTeam with pendPree := true } : Team).boundaryCause ≠ none ∧ demoTeam.boundaryCause = none ∧ (∀ e ∈ demo.teamsIn (demo.colOf demoTeam), demo.pendingReady e.1 e.2 = false) ∧
      (∃ e ∈ (pairOf demoTeam { demoTeam with st := .pendingReady }).teamsIn 0, (pairOf demoTeam { demoTeam with st := .pendingReady }).pendingReady e.1 e.2 = true) ∧
      issuable (pairOf demoTeam { demoTeam with st := .pendingReady }) 0 demoTeam .yld false false = true ∧
      (∀ n ∈ List.range 3, loopIssues demoTeam (.rdv { v0 with sub := BitVec.ofNat 9 n }) = true ∧ demo.rdvReady 0 n = true) ∧
      (demo.teams.map (·.1)).Nodup ∧ demoTeam.wait ≠ .rdv 1 ∧ demoTeam.hwait ≠ .rdv 1 ∧
      issuable (demoOf (demoForked false) (.team 0)) 0 (demoForked false) (.rdv { v0 with sub := 1 }) false false = true ∧
      (demoOf (demoForked false) (.team 0)).rdvReady 0 1 = false := by
  decide +kernel

/-- `Claims.Forks`: each form with its class free, with its class's stream running, with one pending, and with a target that is not aligned. -/
theorem witness_forks :
    (∀ i ∈ ([.forkCopy { b0 with cond := 1, imm := 2 }, .forkMatrix { b0 with cond := 2, imm := 2 }, .forkReg { b0 with cond := 9, imm := 4 }] : List Instr),
        loopIssues { demoTeam with sregs := [(4, addrOf 1 128)] } i = true ∧
        issuable (demoOf { demoForked false with sregs := [(4, addrOf 1 128)] } (.team 0)) 0 { demoForked false with sregs := [(4, addrOf 1 128)] } i false false = true) ∧
      demoTeam.forks = [] ∧ Stream.running ((demoForked false).stream false) = true ∧ Stream.running (demoTeam.stream false) = false ∧ demo.ops = [] ∧
      (demo.column (demo.colOf demoTeam)).mxHolder = some 0 ∧
      loopIssues { demoTeam with sregs := [(4, addrOf 1 8)] } (.forkReg { b0 with cond := 9, imm := 4 }) = true ∧ (addrOf 1 8).toNat % 64 ≠ 0 ∧
      loopIssues { demoTeam with forks := [{ mtx := false, target := 0, snap := [], seq := 0, sup := false }] } (.forkCopy { b0 with cond := 1, imm := 2 }) = true := by
  decide +kernel

/-- The handle of the demo device's launch. -/
def demoHandle : Word := placedUnit.handle

/-- `Claims.WorkInstructions`: ITER, LNCH with a record that it can read and one that it cannot, CNTW.q, CNTW on a complete unit and on one that is not,
CANCEL. -/
theorem witness_work :
    loopIssues demoTeam (.iter { v0 with d := 60 }) = true ∧
      (∀ a ∈ ([4, 6] : List Nat), issuable (memOf memTeam) 0 memTeam (.lnch { v0 with d := 9, a := BitVec.ofNat 8 a, se := true }) true false = true) ∧
      (memOf memTeam).preciseOf 0 [(memOf memTeam).sliceAcc 0 memTeam (memTeam.scal 4) 0 64 .read (.data 0)] = none ∧
      ((memOf memTeam).preciseOf 0 [(memOf memTeam).sliceAcc 0 memTeam (memTeam.scal 6) 0 64 .read (.data 0)]).isSome = true ∧
      loopIssues demoTeam (.cntwQuery { v0 with d := 9, a := 4, sub := 1 }) = true ∧
      (let t : Team := { demoTeam with sregs := [(4, demoHandle)] };
       loopIssues t (.cntw { v0 with d := 9, a := 4 }) = true ∧ ((demoOf t (.team 0)).statusOf 0 (t.scal 4)).getLsbD 2 = false ∧
       (({ demoOf t (.team 0) with units := [(0, { placedUnit with done := true })] } : State).statusOf 0 (t.scal 4)).getLsbD 2 = true) ∧
      loopIssues demoTeam (.cancel { v0 with a := 4 }) = true ∧ demo.intake.length < 512 ∧ demo.ops = [] := by
  decide +kernel

/-- Group 3 of the demo context has core 0 as a member. -/
def groupState (t : Team) (posted : Bool) : State :=
  let s := demoOf t (.team 0)
  { s with
    contexts := [(0, { Context.empty with groups := Context.empty.groups.set 3 { memb := 1, v := true, abs := false } })]
    columns := if posted then [(0, { s.column 0 with posts := [{ ctx := 0, g := 3, holder := some 0, a := 0, withdrawn := false }] })] else s.columns }

/-- `Claims.GroupBarriers`: GPOST, GPOST.wd, GBAR and GQRY of a member and of one that is not; GBAR with the slot held, not held, a second time, and
while the workgroup's arrival at another group is incomplete. -/
theorem witness_groups :
    (∀ i ∈ ([.gpost { v0 with sub := 3 }, .gpostWd { v0 with sub := 0x43 }, .gbar { v0 with sub := 3 }, .gqry { v0 with d := 9, sub := 3 }] : List Instr),
        issuable (groupState demoTeam false) 0 demoTeam i false false = true ∧ issuable (groupState demoTeam true) 0 demoTeam i false false = true ∧
        loopIssues demoTeam i = true) ∧
      ((groupState demoTeam true).group 0 3).v = true ∧ ((groupState demoTeam true).group 0 3).memb.getLsbD 0 = true ∧ (demo.group 0 3).v = false ∧
      ((groupState demoTeam true).postSlot 0 3 0).holder = some 0 ∧ ((groupState demoTeam false).postSlot 0 3 0).holder ≠ some 0 ∧
      demoTeam.gbarArr = none ∧ (groupState demoTeam true).wg? 0 = some placedWg ∧ placedWg.gbarK = none ∧ (groupState demoTeam true).ops = [] ∧
      issuable (groupState { demoTeam with gbarArr := some 3 } true) 0 { demoTeam with gbarArr := some 3 } (.gbar { v0 with sub := 3 }) false false = true ∧
      (let s : State := { groupState demoTeam true with wgs := [(0, { placedWg with gbarK := some 5 })] };
       s.wg? 0 = some { placedWg with gbarK := some 5 } ∧ issuable s 0 demoTeam (.gbar { v0 with sub := 3 }) false false = true ∧ (s.postSlot 0 3 0).holder = some 0) := by
  decide +kernel

/-- `Claims.GroupLoads`: an LDG whose pair names a group, and one whose pair does not; `Claims.GroupLoadsCombine`: one whose leaves are read. -/
theorem witness_group_loads :
    (let t : Team := { demoTeam with sregs := [(9, 0x8000000000000003)] };
       issuable (demoOf t (.team 0)) 0 t (.ldgFadd { m0 with ty := .f32, d := 6, base := 8, se := true }) true false = true ∧ (t.scal 8).toNat < 2 ^ 20 ∧
       (t.scal 9).toNat / 2 ^ 62 = 2) ∧
      issuable demo 0 demoTeam (.ldgFadd { m0 with ty := .f32, d := 6, base := 8, se := true }) true false = true ∧
      (let o : Op := { (default : Op) with id := 5, agent := .team 0, team := 0, dests := [.v 6], kind := .ldg (some 3) 6 .f32 6 [(0, 0)] };
       let s : State := { demo with arg := .id 5, ops := [o] };
       s.op? 5 = some o ∧ o.acc = [] ∧ o.later = [] ∧ o.errLanes.getLsbD 0 = false ∧ o.leafCause 0 = none) := by
  decide +kernel

/-- `Claims.Fences`: each fence; FENCES opens its window. -/
theorem witness_fences :
    loopIssues demoTeam (.fence { v0 with sub := 4 }) = true ∧ loopIssues demoTeam (.fencex { v0 with sub := 0x0D4 }) = true ∧
      loopIssues demoTeam (.fences { v0 with sub := 1 }) = true := by
  decide +kernel

/-! ### Witnesses: traps, system instructions, engine streams -/

/-- `Claims`' TrapEntryAndReturn: a team that enters a trap with its running lanes, and with none. -/
theorem witness_trap_entry :
    storedTest xTeam = true ∧ xTeam.st ≠ .handler ∧ xTeam.mask 0 ≠ 0 ∧ storedTest { xTeam with masks := [] } = true ∧ ({ xTeam with masks := [] } : Team).mask 0 = 0 := by
  decide +kernel

/-- `Claims`' TrapAndReturn: TRAP; RTE of a handler of BRKP, of PREE and of CNCL; a privileged instruction at user privilege. -/
theorem witness_trap_and_return :
    loopIssues demoTeam (.trap { ty := .i8, d := 0, a := 0, cls := 1, imm := 7 }) = true ∧
      (∀ c ∈ [Cause.brkp, .pree, .cncl],
        (let t : Team := { demoHandler with trapCause := BitVec.ofNat 64 c.code.toNat };
         issuable (demoOf t (.team 0)) 0 t .rte false false = true ∧ t.trapRpc.toNat % 8 = 0 ∧ t.trapCause.toNat % 2 ^ 8 = c.code.toNat)) ∧
      Cause.pree.code.toNat = 0x40 ∧ Cause.cncl.code.toNat = 0x41 ∧ Cause.brkp.code.toNat ≠ 0x40 ∧ demoHandler.st ≠ .retired ∧
      demo.cur = .team 0 ∧ demo.team? 0 = some demoTeam ∧ demoTeam.started = true := by
  decide +kernel

/-- `Claims`' TrapAndReturn: instructions that make the workgroup of a team in Handler fatal: TRAP and the generator's; a load and a store with a precise fault; RTE
with a TRAP_RPC that is no multiple of 8. -/
theorem witness_traps_in_handler :
    (∀ i ∈ ([.trap { ty := .i8, d := 0, a := 0, cls := 1, imm := 7 }, .gen b0, .gcon b0, .exit b0, .gsw, .yield { v0 with ty := .n32, a := 4 },
        .gfr { v0 with ty := .n32, d := 8 }, .gdone v0, .gfrInfo { v0 with ty := .n64, d := 9, sub := 1 }] : List Instr),
        issuable (demoOf demoHandler (.team 0)) 0 demoHandler i false false = true) ∧
      demoHandler.priv = true ∧ ((demoOf demoHandler (.team 0)).teams.map (·.1)).Nodup ∧ ((demoOf demoHandler (.team 0)).ops.map (·.id)).Nodup ∧
      (demoOf demoHandler (.team 0)).wg? 0 = some placedWg ∧ demoHandler.st ≠ .retired ∧ (demoOf demoHandler (.team 0)).unit? 0 = some placedUnit ∧
      (let t : Team := { demoHandler with sregs := [(6, addrOf 3 0)] };
       let f : MForm := { m0 with ty := .n32, d := 8, base := 6 };
       ∀ p ∈ [(Instr.ld f, Act.read), (.st f, .write (List.replicate f.ty.bytes 0))],
         issuable (memOf t) 0 t p.1 false false = true ∧
         ((memOf t).preciseOf 0 ((t.active 0).map fun l => (memOf t).sliceAcc 0 t (effAddr t f f.ty.bytes l) l f.ty.bytes p.2 .none)).isSome = true) ∧
      (let t : Team := { demoHandler with trapRpc := addrOf 1 68 };
       issuable (demoOf t (.team 0)) 0 t .rte false false = true ∧ t.trapRpc.toNat % 8 ≠ 0) := by
  decide +kernel

/-- CSRR of a register, or CSRW of s4 to it. -/
def csr (n : BitVec 32) : IForm := { ty := .i8, d := 9, a := 0, cls := 1, imm := n }

/-- CSRW. -/
def csrW (n : BitVec 32) : IForm := { ty := .i8, d := 0, a := 4, cls := 1, imm := n }

/-- `Claims.ControlRegistersRead` and `Claims.ControlRegistersWritten`: a register of each kind, at the privilege that it needs, unassigned numbers and one that
cannot be written, and FSTAT and FCTL with nothing outstanding. -/
theorem witness_control_registers :
    (∀ n ∈ ([0x001, 0x002, 0x006, 0x010, 0x011, 0x012, 0x013, 0x020, 0x021, 0x100, 0x101, 0x102, 0x110, 0x111] : List Nat),
        loopIssues demoTeam (.csrr (csr (BitVec.ofNat 32 n))) = true) ∧
      loopIssues demoTeam (.csrr { csr 0x1000 with d := 9 }) = true ∧
      (∀ n ∈ ([0x800, 0x801, 0x802, 0x803, 0x810] : List Nat),
        issuable (demoOf demoHandler (.team 0)) 0 demoHandler (.csrr (csr (BitVec.ofNat 32 n))) false false = true ∧ 0x800 ≤ (csr (BitVec.ofNat 32 n)).imm.toNat % 2 ^ 12) ∧
      issuable (demoOf demoHandler (.team 0)) 0 demoHandler (.csrr { csr 0x1804 with d := 8 }) false false = true ∧ demo.ops = [] ∧
      loopIssues demoTeam (.csrw (csrW 0x102)) = true ∧ loopIssues demoTeam (.csrw (csrW 0x110)) = true ∧ demo.wg? 0 = some placedWg ∧ demo.launchOf 0 = some placedLaunch ∧
      issuable (demoOf demoHandler (.team 0)) 0 demoHandler (.csrw (csrW 0x802)) false false = true ∧ loopIssues demoTeam (.csrwFstat (csrW 0x100)) = true ∧
      loopIssues demoTeam (.csrwFctl (csrW 0x101)) = true ∧ loopIssues demoTeam (.csrwElogInfo (csrW 0x111)) = true ∧
      loopIssues { demoTeam with sregs := [(4, 1)] } (.csrwElogInfo (csrW 0x111)) = true ∧ demoTeam.errNow = none ∧
      issuable (demoOf demoHandler (.team 0)) 0 demoHandler (.csrwTrapCause (csrW 0x800)) false false = true := by
  decide +kernel

/-- `Claims`' UnassignedRegisters: numbers between those that are assigned. -/
theorem witness_unassigned_registers :
    demo.cur = .team 0 ∧ demo.team? 0 = some demoTeam ∧ demoTeam.started = true ∧ demoTeam.priv = false ∧ demoTeam.spec = none ∧
      ∀ n ∈ ([0x007, 0x014, 0x7FF] : List Nat), (csr (BitVec.ofNat 32 n)).imm.toNat % 2 ^ 12 = n ∧ n < 0x800 ∧
        n ∉ [0x000, 0x001, 0x002, 0x003, 0x004, 0x005, 0x006, 0x010, 0x011, 0x012, 0x013, 0x020, 0x021, 0x100, 0x101, 0x102, 0x110, 0x111] := by
  decide +kernel

/-- `Claims`' FeatureQueries: a context, and a selector of each kind. -/
theorem witness_features :
    (∀ n ∈ ([0, 1, 2, 3, 4, 11, 12] : List Nat), loopIssues demoTeam (.qfeat { csr (BitVec.ofNat 32 n) with d := 5 }) = true ∧ loopIssues demoTeam (.qphys { csr (BitVec.ofNat 32 n) with d := 5 }) = true) ∧
      demo.ctx? (demo.ctxOf demoTeam) = some Context.empty ∧ assoc demo.remap 0 = some 0 := by
  decide +kernel

/-- `Claims.ContextInstructions`: WFI with its flag clear and set; CTXSV of an image that fits and of one that does not, and while the handler's own write of v10 is
outstanding; CTXLD. `Claims.ContextImage`: a team. -/
theorem witness_contexts :
    issuable (demoOf demoHandler (.team 0)) 0 demoHandler (.wfi k3) false false = true ∧ demoHandler.priv = true ∧
      issuable (flagged demoHandler) 0 demoHandler (.wfi k3) false false = true ∧ (flagged demoHandler).flag 0 3 = true ∧ demoHandler.pendCncl = false ∧
      demoHandler.pendPree = false ∧
      (let t : Team := { demoHandler with sregs := [(4, addrOf 2 0), (6, addrOf 3 0)] };
       issuable (memOf t) 0 t (.ctxsv { v0 with a := 4 }) false false = true ∧ (memOf t).imageFail 0 t (t.scal 4) true = none ∧
       issuable (memOf t) 0 t (.ctxsv { v0 with a := 6 }) false false = true ∧ ((memOf t).imageFail 0 t (t.scal 6) true).isSome = true ∧
       issuable (memOf t) 0 t (.ctxld { v0 with a := 4 }) false false = true ∧ (memOf t).imageFail 0 t (t.scal 4) false = none ∧
       issuable { memOf t with ops := [{ (default : Op) with id := 7, agent := .team 0, team := 0, sup := true, dests := [.v 10] }] } 0 t (.ctxsv { v0 with a := 4 }) false false = true ∧
       (Dest.v 10).banked = false) ∧
      demoTeam.bank = none ∧ demoTeam.ns ≤ 128 := by
  decide +kernel

/-- The demo device, its team in Handler, with a CTXLD in flight whose image has been read; its first word gives a shape. -/
def imageRead (shape : Nat) : State :=
  { demoOf demoHandler (.team 0) with
    arg := .id 5
    ops := [{ (default : Op) with id := 5, agent := .team 0, team := 0, sup := true, kind := .image true, data := Memory.setBytes [] 0 (bytesOfNat (2 ^ 8 * shape) 8) }] }

/-- `Claims`' ContextLoads: an image of the team's shape, and one of another. -/
theorem witness_context_loads :
    ∀ shape ∈ ([8 + 2 ^ 11 * 64 + 2 ^ 20 * 64, 8] : List Nat),
      (let s := imageRead shape;
       s.op? 5 = some (opOf s 5) ∧ (opOf s 5).kind = .image true ∧ s.opDrained (opOf s 5) = true ∧ (opOf s 5).errLanes = 0 ∧ (opOf s 5).raises = 0 ∧
         (opOf s 5).later = [] ∧ s.team? 0 = some demoHandler ∧ demoHandler.spec = none ∧ storedTest demoHandler = true ∧
         natOfBytes (Memory.bytes (opOf s 5).data 0 8) / 2 ^ 8 % 2 ^ 28 = shape ∧
         demoHandler.lanes + 2 ^ 11 * demoHandler.nv + 2 ^ 20 * demoHandler.ns = 8 + 2 ^ 11 * 64 + 2 ^ 20 * 64 ∧ demoHandler.ns ≤ 128) := by
  decide +kernel

/-- `Claims`' CatalogueInstructions: each instruction; CATSET#7 on object 0 and on another. -/
theorem witness_catalogue :
    (∀ i ∈ ([.catld { v0 with d := 5, a := 4 }, .catsnap { v0 with d := 5, a := 4, se := true }, .catsnapRel { v0 with a := 4, se := true, sub := 1 }] : List Instr),
        issuable (memOf memTeam) 0 memTeam i false false = true) ∧
      (let t : Team := { demoHandler with sregs := [(4, addrOf 2 0)] };
       ∀ i ∈ ([.catsetAccess { v0 with a := 4, b := 6 }, .catsetBound { v0 with a := 4, b := 6, sub := 1 }, .catsetPg { v0 with a := 4, b := 6, sub := 8 },
          .catsetHwm { v0 with a := 4, b := 6, sub := 7 }, .catsetHwm { v0 with a := 6, b := 6, sub := 7 }, .mapft { v0 with d := 6, a := 4, se := true }] : List Instr),
        issuable (memOf t) 0 t i false false = true) ∧
      (addrOf 2 0).toNat / 2 ^ 48 ≠ 0 ∧ demoHandler.priv = true ∧ demo.wg? 0 = some placedWg := by
  decide +kernel

/-- The demo device with object 2, for a team whose copy or matrix stream's snapshot holds an address of object 2 in s4. -/
def engOf (mtx : Bool) (snap : Store 64) : State :=
  { demoOf ((demoForked mtx).setStream mtx ((((demoForked mtx).stream mtx).map fun x => { x with snap := snap }))) (if mtx then .matrix 0 else .copy 0) with
    contexts := [(0, demoCtx)] }

/-- Its team. -/
def engTeam (mtx : Bool) (snap : Store 64) : Team := ((engOf mtx snap).team? 0).getD demoTeam

/-- Its stream. -/
def engStream (mtx : Bool) (snap : Store 64) : Stream := ((engTeam mtx snap).stream mtx).getD (Stream.fresh 0 [])

/-- The stream may issue a command. -/
def engIssues (mtx : Bool) (snap : Store 64) (i : Instr) : Bool :=
  issuableEng (engOf mtx snap) 0 mtx (engTeam mtx snap) (engStream mtx snap) i false false

/-- A copy within object 2, its count in s5. -/
def cpyForm : CForm := { c0 with ty := .n32, sop := 4, dop := 4, cf := true, cnt := 5, doff := 8 }

/-- Snapshots for it: an address in s4, a count in s5. -/
def cpySnap (n : Nat) (a : Addr) : Store 64 := if n = 0 then [(4, a)] else [(4, a), (5, BitVec.ofNat 64 n)]

/-- `Claims.CopyCommands`: counts 0, 1, 2^24 + 1, and a range that fails its checks. -/
theorem witness_copies :
    (∀ n ∈ ([0, 1, 16777217] : List Nat), engIssues false (cpySnap n (addrOf 2 0)) (.cpy cpyForm) = true) ∧
      engIssues false [(4, addrOf 9 0), (5, 1)] (.cpy cpyForm) = true := by
  decide +kernel

/-- `Claims.CopyControl`: each command; CMX with its payload in the next slot. -/
theorem witness_copy_control :
    (∀ i ∈ ([.csig { top := 0, se := true, fs := false, low := 2 }, .cfence { top := 0, se := false, fs := false, low := 2 }, .cwait { top := 0, se := false, fs := false, low := 8 }, .cend] : List Instr),
        engIssues false [] i = true) ∧
      (let s : State := { engOf false [] with
         teams := [(0, (engTeam false []).setStream false (some { engStream false [] with hdr := 0x1100084400000000, words := [0xC2C2000000000000, 0xD024100000030000] }))] };
       let t := (s.team? 0).getD demoTeam;
       let x := (t.stream false).getD (engStream false []);
       issuableEng s 0 false t x (.cmx { top := 0, se := true, fs := false, low := 0 }) true false = true ∧ x.slot < hdrCount x.hdr ∧
       x.words[x.slot + 1]? = some 0xD024100000030000 ∧
       opcodeOf 0xD024100000030000 = 0x340 ∧ (0xD024100000030000 : Word).toNat / 2 ^ 48 % 4 = 0) := by
  decide +kernel

/-- A device whose matrix unit is in a state. -/
def mxOf (m : MxState) : State := { engOf true [] with columns := [(0, { Column.initial with dp := some 0, mxHolder := some 0, mx := m })] }

/-- A matrix command that has begun. -/
def begun (i : Instr) : MCmd := { op := 5, instr := i, snap := [], follow := false, row := 0, seq := 0, vals := none }

/-- `Claims.MatrixCommands`: the unit free, with a tile and without, and busy. -/
theorem witness_matrix_commands :
    (∀ i ∈ ([.mclr g0, .mldn { g0 with ty := .bf16, fa := 2, kc := 63 }, .mma { g0 with ty := .bf16 }, .msig { g0 with se := true, off := 2 }, .mend] : List Instr),
        engIssues true [] i = true) ∧
      ((engOf true []).column 0).mx.busy = none ∧ ((engOf true []).column 0).mx.follow = [] ∧ ((engOf true []).column 0).mx.bt = none ∧
      (engTeam true []).pendMtx = none ∧ (engTeam true []).st ≠ .retiring ∧ (engTeam true []).dying = false ∧ engIssues true [] (.mmas { g0 with ty := .bf16, fm := 1 }) = true ∧
      ((mxOf { MxState.initial with bt := some { ty := .bf16, kc := 4, els := [] } }).column 0).mx.bt.map (·.ty) = some .bf16 ∧
      issuableEng (mxOf { MxState.initial with busy := some (begun .mend) }) 0 true (engTeam true []) (engStream true []) (.mclr g0) false false = true := by
  decide +kernel

/-- The demo device whose matrix unit, with a tile of BF16 and some bytes in QA and QS, executes a command, at column 0's turn. -/
def executing (c : MCmd) (qa qs : List Byte) : State :=
  { mxOf { MxState.initial with busy := some c, qa := qa, qs := qs, bt := some { ty := .bf16, kc := 4, els := [] } } with arg := .id 0 }

/-- The fields of a command on BF16, QA and QB. -/
def gBf : GForm := { g0 with ty := .bf16, fm := 1 }

/-- `Claims`' TileLoads and RowsMultiply: MCLR; MLDN and MLDW with their bytes there and not; MMA of one row with its bytes there and not; MMAS with its values there and
not, and, these taken, with no metadata. -/
theorem witness_matrix_execution :
    (∀ c ∈ ([.mclr gBf, .mldn gBf, .mldw gBf, .mma gBf, .mmas gBf] : List Instr).map begun ++ [{ begun (.mmas gBf) with vals := some [1] }],
        (let s := executing c [] [];
         s.arg = .id 0 ∧ (s.column 0).mx.busy = some c ∧ (s.column 0).mxHolder = some 0 ∧ (s.team? 0).any (fun t => s.streamsRun t) = true ∧
           ((s.column 0).mx.bt).isSome = true ∧ Store.wf ((s.column 0).mx.accA 0) = true ∧ ((s.column 0).mx.fifo 0).length < Fields.kt .bf16 / 2 * Ty.bf16.bytes ∧
           ((s.column 0).mx.fifo 1).length < Fields.kt .bf16 / 8)) ∧
      (begun (.mma gBf)).vals = none ∧ gBf.acc.toNat < 4 ∧ gBf.fa.toNat < 3 ∧
      Fields.kt .bf16 * 64 * Ty.bf16.bytes ≤ (List.replicate 8192 (0 : Byte)).length ∧
      Fields.kt .bf16 * Ty.bf16.bytes ≤ ((executing (begun (.mma gBf)) (List.replicate 128 1) []).column 0).mx.qa.length := by
  decide +kernel

/-- `Claims`' RowsMultiply: each type, with its accumulator; the row's bytes there for MMA, its values for MMAS, and its metadata, which name the first two positions. -/
theorem witness_rows_multiply :
    ∀ p ∈ ([(.f16, 0), (.bf16, 3), (.f32, 1), (.e4m3, 2), (.e5m2, 0), (.f64, 4), (.rq8, 5)] : List (Ty × Nat)),
      (let f : GForm := { g0 with ty := p.1, fm := 1, acc := BitVec.ofNat 3 p.2 };
       let row := Fields.kt p.1 * p.1.bytes;
       ∀ c ∈ [begun (.mma f), begun (.mmas f), { begun (.mmas f) with vals := some (List.replicate (row / 2) 1) }],
         (let m : MxState := { MxState.initial with busy := some c, qa := List.replicate row 1, qb := List.replicate (Fields.kt p.1 / 8) 0x44, bt := some { ty := p.1, kc := Fields.kt p.1, els := [] } };
          let s : State := { mxOf m with arg := .id 0 };
          s.arg = .id 0 ∧ (s.column 0).mx.busy = some c ∧ (s.column 0).mxHolder = some 0 ∧ (s.team? 0).any (fun t => s.streamsRun t) = true ∧
            (s.column 0).mx.bt = some { ty := p.1, kc := Fields.kt p.1, els := [] } ∧ Fields.kt p.1 ≤ 256 ∧
            (f.ty ∈ ([.f16, .bf16, .f32, .e4m3, .e5m2] : List Ty) ∧ f.acc.toNat < 4 ∨ (f.ty = .f64 ∨ f.ty = .rq8) ∧ (f.acc.toNat = 4 ∨ f.acc.toNat = 5)) ∧
            f.fa.toNat < 3 ∧ f.fm.toNat < 3 ∧ row ≤ ((s.column 0).mx.fifo f.fa.toNat).length ∧ Fields.kt p.1 / 8 ≤ ((s.column 0).mx.fifo f.fm.toNat).length ∧
            (∀ g ∈ List.range (Fields.kt p.1 / 4), (((s.column 0).mx.fifo 1).getD (g / 2) 0).toNat / (if g % 2 = 0 then 1 else 16) % 16 = 4))) := by
  decide +kernel

/-- `Claims`' RowsMultiply: what it asks of the accumulators, in the states of `witness_rows_multiply`, where they are empty. -/
theorem witness_accumulators (m : MxState) (h0 : m.a0 = []) (h1 : m.a1 = []) (h2 : m.a2 = []) (h3 : m.a3 = []) (h4 : m.w0 = []) (h5 : m.w1 = []) (a : Nat) :
    Store.wf (m.accA a) = true ∧ Store.wf (m.accW a) = true := by
  unfold MxState.accA MxState.accW
  constructor <;> split <;> simp [h0, h1, h2, h3, h4, h5] <;> rfl

/-- `Claims`' DrainScaling: finite values, a NaN and an infinity. -/
theorem witness_drain_scaling :
    (Val.fin false 3 0).isNaN = false ∧ (Val.fin false 3 0).isInf = false ∧ (decodeF .f32 0x7FC00000).isNaN = true ∧ (decodeF .f32 0x7F800000).isInf = true ∧
      (decodeF .f32 0x7F800000).isNaN = false := by
  decide +kernel

/-- The device with an MDRN, its destination at s3, its scale block at s4, in a workgroup with 64 KiB of scratchpad, some of its words poisoned. -/
def draining (acc : Nat) (ty : Ty) (sm : Nat) (dst sc : Nat) (bad : List Nat) : State :=
  let c : MCmd := { begun (.mdrn { g0 with ty := ty, acc := BitVec.ofNat 3 acc, sm := BitVec.ofNat 2 sm, b := 3, c := 4 }) with
    snap := Store.set (Store.set [] 3 (BitVec.ofNat 64 dst)) 4 (BitVec.ofNat 64 sc) }
  { mxOf { MxState.initial with busy := some c } with
    arg := .id 0
    units := [(0, { placedUnit with launch := some { placedLaunch with shape := { placedLaunch.shape with spad := 65536 } } })]
    wgs := [(0, { placedWg with spadPoison := bad })] }

/-- `Claims`' Drains: one without scales and with each kind of scale block; a destination and a scale block that are misaligned, and ones that pass the allocation; a poisoned
word of the scale block; a fence that holds it; a write of its own path that covers a part of the scale block. -/
theorem witness_drains :
    (∀ p ∈ ([(0, .f32, 0, 0, 0, []), (4, .f32, 1, 0, 32768, []), (5, .bf16, 2, 0, 32768, []), (0, .f32, 0, 2, 0, []), (4, .f32, 1, 0, 2, []), (0, .f32, 0, 65528, 0, []),
        (0, .f32, 0, 65540, 0, []), (4, .f32, 2, 0, 65408, []), (4, .f32, 2, 0, 65540, []), (4, .f32, 1, 0, 32768, [8193])] :
          List (Nat × Ty × Nat × Nat × Nat × List Nat)),
        (let s := draining p.1 p.2.1 p.2.2.1 p.2.2.2.1 p.2.2.2.2.1 p.2.2.2.2.2;
         (s.column 0).mx.busy.isSome = true ∧ (s.column 0).mxHolder = some 0 ∧ (s.team? 0).any (fun t => s.streamsRun t && !t.elogInfo.getLsbD 0) = true ∧
           s.spadSize 0 = 65536 ∧ s.fenceHolds 0 .M 0 = false ∧ s.bufs = [])) ∧
      (let s := draining 4 .f32 1 0 32768 [8193];
       (match s.readValue 0 .M (.spad 0) false 32768 8 with | some r => r.2 | none => false) = true ∧ s.poisonedAt (.spad 0) 32772 false 4 = true ∧
         s.poisonedAt (.spad 0) 32768 false 4 = false) ∧
      (match (draining 4 .f32 2 0 32768 []).readValue 0 .M (.spad 0) false 32768 512 with | some r => !r.2 | none => false) = true ∧
      ({ draining 4 .f32 1 0 32768 [] with bufs := [{ bufAt 0 0 with agent := .matrix 0, path := .M, space := .spad 0, addr := 32768 }] } : State).readValue 0 .M (.spad 0)
        false 32768 8 = none ∧
      ({ draining 4 .f32 1 0 32768 [] with
          seq := 20, ops := [{ (default : Op) with id := 7, agent := .team 0, team := 0, seq := 0, kind := .fence .T .M 1 .pending }]
          bufs := [{ bufAt 0 0 with agent := .team 0, path := .T }] } : State).fenceHolds 0 .M 9 = true := by
  decide +kernel

/-! ### Witnesses: the steps of the machine -/

/-- A window whose checkpoint holds other registers than the team. -/
def windowOf (conflict : Bool) : Spec :=
  { op := 5, seq := 9, sregs := [(3, 1)], vregs := [(7, 2)], masks := [(0, 3)], live := 3, ra := [(0, 64)], pc := addrOf 1 128, started := true, hdr := demoHdr,
    slot := 0, fell := false, readSet := [], stores := 0, raises := 4, errs := [], conflict := conflict }

/-- `Claims.WritesArePerformed`, in a deterministic launch and a speculative window: the write stays in the buffer. -/
theorem witness_writes_in_a_window :
    (let t : Team := { memTeam with spec := some (windowOf false) };
     let s : State := { storing memTeam with
       teams := [(0, t)]
       ops := (storing memTeam).ops.map fun o => { o with seq := 20 }
       units := [(0, { placedUnit with launch := some { placedLaunch with det := true, stage := 64 } })] };
     queuedAt s 1 0 = true ∧ s.stageOrder (opOf s 1) (accOf (opOf s 1) 0) = true ∧ t.inWindow (opOf s 1).seq = true ∧
       s.stages 0 (.slice 0 0 0) (addrOf 2 0x100) (.write [0, 0, 0, 0]) = true) := by
  decide +kernel

/-- The demo device with words of code from address 64 of object 1 on, its team at a clause boundary, and the datapath free. -/
def boundary (t : Team) (ws : List Nat) : State :=
  { memOf { t with started := false, rslot := 0 } with
    columns := [(0, { Column.initial with mxHolder := some 0 })]
    mem := Memory.setBytes [] (physKey 0 0 0 64) (ws.flatMap fun w => bytesOfNat w 8) }

/-- The team of such a state. -/
def teamOf (s : State) (u : Nat) : Team := (s.team? u).getD demoTeam

/-- A header of a copy clause, or of a matrix clause, of one instruction. -/
def engHdr (mtx : Bool) : Nat := demoHdr.toNat + if mtx then 0x2000000000000000 else 0x1000000000000000

/-- The demo device with a stream of its team before a clause with that header; when `held`, k3 is set and the clause waits for it. -/
def streamBoundary (mtx held : Bool) : State :=
  { boundary (demoTeam.setStream mtx (some (Stream.fresh (addrOf 1 64) []))) [engHdr mtx + if held then 2 ^ 47 else 0, 0xB300000000000000] with
    arg := .agent (if mtx then .matrix 0 else .copy 0)
    ops := if held then [{ (default : Op) with id := 7, agent := .team 0, team := 0, flag := some 3, kind := .alu }] else [] }

/-- A word that an address of the demo device holds, as user code fetches it. -/
def fetched (s : State) (a : Addr) : Nat :=
  match s.fetch 0 0 false a with
  | .ok w => w.toNat
  | .error _ => 0

/-- `Claims`' ClausesStart: a team's good header and its bad one; a stream's header whose wait mask is clear and one whose mask is not. -/
theorem witness_clauses_start :
    (∀ h ∈ ([demoHdr.toNat, 0x4000000000000000] : List Nat),
        (let s : State := { boundary demoTeam [h, 0xB300000000000000] with arg := .agent (.team 0) };
         let t := teamOf s 0;
         s.stage = .stage2 ∧ s.team? 0 = some t ∧ (s.column (s.colOf t)).dp = none ∧ s.nextTeam (s.colOf t) = some 0 ∧ (s.headerAt t == addrOf 1 64) = true ∧
           t.priv = false ∧ fetched s (addrOf 1 64) = h ∧ (s.teams.map (·.1)).Nodup ∧ t.rslot = 0 ∧ t.spec = none ∧ s.settled 0 = true)) ∧
      headerOk 0 demoHdr = true ∧ headerOk 0 0x4000000000000000 = false ∧
      (∀ mtx ∈ [false, true], ∀ held ∈ [false, true],
        (let s := streamBoundary mtx held;
         let t := teamOf s 0;
         let x := Stream.fresh (addrOf 1 64) [];
         s.stage = .stage2 ∧ s.team? 0 = some t ∧ t.stream mtx = some x ∧ s.streamIdle 0 mtx t x = true ∧ s.ctxOf t = 0 ∧ s.colOf t = 0 ∧
           (s.skipPads 0 0 false padFuel x.pc == x.pc) = true ∧ fetched s x.pc = engHdr mtx + (if held then 2 ^ 47 else 0) ∧
           headerOk (if mtx then 2 else 1) (BitVec.ofNat 64 (fetched s x.pc)) = true ∧ s.masked 0 (hdrWait (BitVec.ofNat 64 (fetched s x.pc))) = held ∧
           hdrCount (BitVec.ofNat 64 (fetched s x.pc)) = 0 ∧ fetched s (slotAddr x.pc 0) = 0xB300000000000000)) := by
  decide +kernel

/-- The same: a block entry that the team fell into, and a stream's bad header. -/
theorem witness_clauses_start_more :
    (let s : State := { boundary { demoTeam with fell := true } [demoHdr.toNat + 2 ^ 33, 0xB300000000000000] with arg := .agent (.team 0) };
       let t := teamOf s 0;
       t.fell = true ∧ s.nextTeam (s.colOf t) = some 0 ∧ storedTest t = true ∧
         (match s.nextHeader t with | .ok w => hdrEntry w && headerOk 0 w | .error _ => false) = true) ∧
      (∀ mtx ∈ [false, true],
        (let s : State := { streamBoundary mtx false with mem := (boundary demoTeam [demoHdr.toNat + 2 ^ 62]).mem };
         let t := teamOf s 0;
         s.streamIdle 0 mtx t (Stream.fresh (addrOf 1 64) []) = true ∧ headerOk (if mtx then 2 else 1) (BitVec.ofNat 64 (fetched s (addrOf 1 64))) = false ∧
           t.pendEng mtx = none ∧ t.st ≠ .retiring ∧ t.dying = false)) := by
  decide +kernel

/-- Teams of column 0, of the demo device, team u in state `ts[u]`. -/
def crowd (arg now : Nat) (ts : List Team) : State :=
  { demoOf demoTeam (.team 0) with
    arg := .id arg
    now := now
    teams := (List.range ts.length).map fun u => (u, { ts.getD u demoTeam with twg := u })
    wgs := [(0, { placedWg with teams := List.range ts.length })] }

/-- A team that waits for its next clause. -/
def idle (st : TState) : Team := { demoTeam with started := false, st := st }

/-- A column's clk are at least the device's: 24, 256 or 4096 clk of the device are as many of any column. -/
theorem le_colClk (c n : Nat) : n ≤ colClk c n := by
  induction n with
  | zero => exact Nat.zero_le _
  | succ n ih => simp only [colClk]; omega

/-- `Claims`' TeamsChangePlaces and Loan: some clk after the device's clk 0 a column has counted so many, and none at once. -/
theorem witness_clk (c d n : Nat) (h : d ≤ n) : colClk c 0 + d ≤ colClk c n ∧ colClk c n < colClk c n + (d + 1) :=
  ⟨by have := le_colClk c n; simp only [colClk]; omega, by omega⟩

/-- `Claims`' TeamsChangePlaces: a team in a long-latency wait and one that is not; a Pending-wait team whose wait has ended; a Pending-ready team with an active
slot free, and with none free and a Stalled team to leave; a team called by CNCL; a time slice that has expired; a team that has drained. `witness_clk` gives the clk of the column. -/
theorem witness_teams_change_places :
    (crowd 0 30 [{ idle .active with wait := .bar }]).longWait 0 { idle .active with wait := .bar } = true ∧ (crowd 0 9 [idle .active]).longWait 0 (idle .active) = false ∧
      (idle .active).free = true ∧ demoTeam.free = false ∧ (crowd 0 9 [idle .active]).maskWait 0 (idle .active) = false ∧
      (let t : Team := { demoTeam with maskAt := some 0 };
       let s : State := { boundary t [demoHdr.toNat + 2 ^ 47] with now := 24, ops := (flagged t).ops };
       s.maskWait 0 { t with started := false, rslot := 0 } = true ∧ s.longWait 0 { t with started := false, rslot := 0 } = false ∧ (teamOf s 0).maskAt = some 0 ∧ s.now = 24) ∧
      (crowd 0 9 [idle .pendingWait]).pendingReady 0 (idle .pendingWait) = true ∧
      (let s := crowd 0 50 [idle .pendingReady, idle .active];
       (s.teams.map (·.1)).Nodup ∧ s.team? 0 = some (idle .pendingReady) ∧ (∀ e ∈ s.teamsIn 0, e.2.st = .pendingWait → s.pendingReady e.1 e.2 = false) ∧ s.incoming 0 = some 0 ∧
         (s.activeTeams 0).length < 8 ∧ (idle .pendingReady).called = false) ∧
      (let t := { idle .pendingReady with pendCncl := true };
       let s := crowd 1 50 ([idle .pendingReady, { t with twg := 1 }] ++ { idle .active with wait := .bar, st := .stalled } :: List.replicate 7 (idle .active));
       s.team? 1 = some { t with twg := 1 } ∧ s.incoming 0 = some 1 ∧ 8 ≤ (s.activeTeams 0).length ∧ s.outgoing 0 = some 2 ∧
         (s.team? 2).isSome = true ∧ (∀ e ∈ s.teamsIn 0, e.2.st = .pendingWait → s.pendingReady e.1 e.2 = false)) ∧
      (let s := crowd 0 4096 [idle .active, idle .pendingReady];
       s.team? 0 = some (idle .active) ∧ (idle .active).free = true ∧ s.stallDue 0 (idle .active) = false ∧ s.isDet (idle .active).wg = false ∧ (idle .active).activeSince = 0 ∧
         s.stallDue 0 { idle .active with wait := .bar } = true ∧ s.now = 4096 ∧
         (∃ e ∈ s.teamsIn 0, s.pendingReady e.1 e.2 = true)) ∧ (crowd 0 0 [idle .active]).now = (idle .active).activeSince ∧
      (let s := crowd 0 9 [idle .retiring];
       s.team? 0 = some (idle .retiring) ∧ (idle .retiring).called = false ∧ (idle .retiring).issueTrap = none ∧ s.drained 0 (idle .retiring) = true ∧
         0 ∉ (s.column 0).mxWaiters) ∧ (idle .active).st ≠ .retiring := by
  decide +kernel

/-- `Claims`' TeamsChangePlaces: the lowest runnable team of a deterministic launch, with eight active teams of higher index. -/
theorem witness_lowest_team_displaces :
    (let ts : List Team := idle .pendingReady :: List.replicate 8 (idle .active);
     let s : State := { crowd 0 50 ts with units := [(0, { placedUnit with launch := some { placedLaunch with det := true } })] };
     s.team? 0 = some (idle .pendingReady) ∧ (∀ e ∈ s.teamsIn 0, e.2.st = .pendingWait → s.pendingReady e.1 e.2 = false) ∧ s.outgoing 0 = none ∧
       s.displaced 0 0 (idle .pendingReady) = some 8 ∧ (s.team? 8).isSome = true ∧ (∀ e ∈ s.activeTeams 0, s.idTeam e.2 < 2 ^ 40)) := by
  decide +kernel

/-- `Claims`' TrapsAreEntered: a trap taken at issue, of a team that has settled and of one that has not; every boundary cause. -/
theorem witness_traps_are_entered :
    (let t : Team := { idle .active with issueTrap := some { cause := .brkp, slot := 2, rslot := 3, arg := 7, lanes := 5, laddr := [], addr := addrOf 1 64 } };
       (crowd 0 9 [t]).team? 0 = some t ∧ (crowd 0 9 [t]).settled 0 = true ∧
         ({ crowd 0 9 [t] with ops := [{ (default : Op) with id := 7, agent := .team 0, team := 0, dests := [.v 3] }] } : State).settled 0 = false) ∧
      (∀ st ∈ [TState.active, .stalled, .retiring],
        (let t : Team := { idle st with pendCncl := true, pendPree := true };
         t.issueTrap = none ∧ t.priv = false ∧ t.started = false ∧ t.spec = none ∧ (crowd 0 9 [t]).settled 0 = true ∧ (crowd 0 9 [t]).team? 0 = some t ∧
           t.boundaryCause ≠ none ∧ ((crowd 0 9 [t]).teams.map (·.1)).Nodup)) ∧
      (let e : EngCause := { (default : EngCause) with cause := .iins };
       ∀ t ∈ [{ idle .active with pendCopy := some e }, { idle .active with pendMtx := some e }, { idle .active with pendErr := some { (default : PendErr) with cause := .mnul } },
           { idle .active with pendGabs := true }, { idle .active with pendFpen := true }, { idle .active with pendPree := true }],
         t.issueTrap = none ∧ t.spec = none ∧ t.pendCncl = false ∧ (crowd 0 9 [t]).settled 0 = true ∧ (crowd 0 9 [t]).team? 0 = some t ∧ t.boundaryCause ≠ none) ∧
      (({ idle .active with pendCncl := true, spec := some (windowOf false) } : Team).boundaryCause ≠ none) ∧
      demoTeam.started = true ∧ demoTeam.issueTrap = none := by
  decide +kernel

/-- `Claims`' WaitsEnd: WAITK with its flag clear and set; RDV with a stream ended and running; WFI with a flag clear, woken, and neither; BAR with every team
arrived, and with one to come. -/
theorem witness_waits_end :
    (let t : Team := { idle .stalled with wait := .waitk 8 };
       (crowd 0 9 [t]).team? 0 = some t ∧ t.priv = false ∧ (crowd 0 9 [t]).flag 0 3 = false ∧ ({ flagged t with arg := .id 0 } : State).flag 0 3 = true ∧
         ({ flagged t with arg := .id 0 } : State).team? 0 = some t) ∧
      (∀ cls ∈ List.range 3,
        (let t : Team := { idle .stalled with wait := .rdv cls };
         (crowd 0 9 [t]).rdvReady 0 cls = true ∧ ((crowd 0 9 [t]).teams.map (·.1)).Nodup)) ∧
      (crowd 0 9 [{ demoForked false with wait := .rdv 1 }]).rdvReady 0 1 = false ∧
      (let t : Team := { demoHandler with started := false, hwait := .wfi 8 };
       (crowd 0 9 [t]).team? 0 = some t ∧ (crowd 0 9 [t]).flag 0 3 = false ∧ ({ flagged t with arg := .id 0 } : State).flag 0 3 = true ∧ t.wake = false ∧
         t.pendCncl = false ∧ t.pendPree = false) ∧
      (let ts : List Team := [{ idle .stalled with wait := .bar, barArr := true }, { idle .active with wait := .bar, barArr := true, twg := 1 }, { idle .retiring with twg := 2 }];
       let s := crowd 0 9 ts;
       s.wg? 0 = some { placedWg with teams := [0, 1, 2] } ∧ (∀ u ∈ List.range 3, s.team? u = some (ts.getD u demoTeam) ∧ s.performedAt u .T s.seq 1 false = true)) ∧
      (crowd 0 9 [{ idle .stalled with wait := .bar, barArr := true }, { idle .active with twg := 1 }]).team? 1 = some { idle .active with twg := 1 } := by
  decide +kernel

/-- The demo device in a launch whose P × Q product space is the given one, with an ITER in flight. -/
def iterating (p q g idx pos : Nat) : State :=
  { demoOf demoTeam (.team 0) with
    arg := .id 5
    units := [(0, { placedUnit with launch := some { placedLaunch with p := p, q := q, g := g } })]
    wgs := [(0, { placedWg with idx := idx, iterPos := pos })]
    ops := [{ (default : Op) with id := 5, agent := .team 0, team := 0, seq := 3, dests := [.s 8, .s 9, .s 10, .s 11], kind := .iter 8 }] }

/-- `Claims`' StreamsAndIterations: a FORK that waits for a free class, and for a running stream; a stream whose commands have completed, and have not; ITER with
a whole tile, the rest of one, the first part of one, and none left. -/
theorem witness_streams_and_iterations :
    (∀ mtx ∈ [false, true],
        (let g : PendFork := { mtx := mtx, target := addrOf 1 128, snap := [(4, 9)], seq := 0, sup := false };
         let t : Team := { idle .active with forks := [g] };
         let s : State := { crowd 0 9 [t] with arg := .fork 0 mtx };
         s.team? 0 = some t ∧ t.forks.find? (fun f => f.mtx == mtx) = some g ∧ Stream.running (t.stream mtx) = false ∧ (s.column (s.colOf t)).mxHolder = some 0 ∧
           Stream.running (({ demoForked mtx with forks := [g] } : Team).stream mtx) = true)) ∧
      (∀ mtx ∈ [false, true],
        (let x : Stream := { Stream.fresh (addrOf 1 64) [] with halted := true };
         let t := demoTeam.setStream mtx (some x);
         let s : State := { crowd 0 9 [t] with arg := .agent (if mtx then .matrix 0 else .copy 0) };
         s.team? 0 = some t ∧ t.stream mtx = some x ∧ x.halted = true ∧ x.ended = false ∧ s.ops = [] ∧ (s.column (s.colOf t)).mx.busy = none ∧
           (s.column (s.colOf t)).mx.follow = [])) ∧
      (∀ e ∈ ([(3, 4, 2, 0, 0), (3, 4, 2, 0, 4), (3, 4, 2, 1, 0), (3, 4, 2, 1, 6), (0, 4, 1, 0, 0)] : List (Nat × Nat × Nat × Nat × Nat)),
        (let s := iterating e.1 e.2.1 e.2.2.1 e.2.2.2.1 e.2.2.2.2;
         s.team? 0 = some demoTeam ∧ (s.op? 5).isSome = true ∧ (s.wg? 0).isSome = true ∧ (s.launchOf 0).isSome = true)) := by
  decide +kernel

/-- An operand of a copy command: memory of object 2 at an offset, or a FIFO. -/
def cpAt (kind : Nat) (off : Nat) (fifo : Nat) : CpOperand := { kind := kind, base := addrOf 2 off, route := 0, fifo := fifo }

/-- A copy command of two elements of four bytes, from offset 0x100 of object 2. -/
def cmdOf (cop : COp) (dst : CpOperand) (left : List Nat) (got : List (Nat × Nat × List Byte)) : CopyCmd :=
  { cop := cop, ty := .n32, hint := 0, n := 2, w := 4, src := cpAt 0 0x100 0, dst := dst, index := addrOf 2 0x180, mask := 0x10001, left := left, got := got,
    landed := 0, failed := [], stopped := none, arrived := false, staged := false, reserved := false, ask := 0, bad := [], dests := [] }

/-- The operation of a copy command. -/
def copyOp (n : Nat) (c : CopyCmd) : Op := { (default : Op) with id := n, agent := .copy 0, team := 0, seq := n, queued := true, kind := .copy c }

/-- The demo device with such commands in flight, and the bytes 1, 2, … from offset 0x100 of object 2 on; the index words at 0x180 are 1 and 0. -/
def copying (arg : EvArg) (cs : List (Nat × CopyCmd)) : State :=
  { memOf (demoTeam.setStream false (some (Stream.fresh (addrOf 1 64) [(4, 7)]))) with
    arg := arg
    nextId := 30
    seq := 30
    ops := cs.map fun e => copyOp e.1 e.2
    mem := Memory.setBytes (Memory.setBytes [] (physKey 0 0 1 0x100) ((List.range 16).map fun j => BitVec.ofNat 8 (j + 1))) (physKey 0 0 1 0x180) [1] }

/-- The command of an operation. -/
def cmdIn (s : State) (n : Nat) : CopyCmd := match (opOf s n).kind with | .copy c => c | _ => cmdOf .cpy (cpAt 0 0 0) [] []

/-- `Claims`' CopyElements: an element of CPY, of CPYG, of CPYS and of a FIFO-destined command to read; one to write; one to land, with space and without. -/
theorem witness_copy_elements :
    (∀ e ∈ ([(.cpy, cpAt 0 0x200 0, 1, 1), (.cpyf, cpAt 2 0 1, 1, 1), (.cpyg, cpAt 0 0x200 0, 1, 0), (.cpys, cpAt 0 0x200 0, 0, 1)] : List (COp × CpOperand × Nat × Nat)),
        (let c := cmdOf e.1 e.2.1 [0, 1] [];
         let s := copying (.pair 5 e.2.2.1) [(5, c)];
         let o := copyOp 5 c;
         let a := s.cpAccess 0 c.src (c.src.elemAddr (if c.cop = .cpyg then e.2.2.2 else e.2.2.1) 4) e.2.2.1 4 .read;
         s.op? 5 = some o ∧ (s.team? 0).isSome = true ∧ s.streamsRun (teamOf s 0) = true ∧ s.cpHeld o = false ∧ e.2.2.1 ∈ c.left ∧ o.queued = true ∧
           c.stopped = none ∧ c.ask = 0 ∧ s.cpDest o { c with reserved := true } e.2.2.1 e.2.2.2 = .ok ∧ s.cpDestOpen o { c with reserved := true } e.2.2.1 e.2.2.2 = false ∧
           (match s.cpIndex o { c with reserved := true } e.2.2.1 with | some (.ok ix) => decide (ix = e.2.2.2) | _ => false) = true ∧ (s.column 0).mxHolder = some 0 ∧
           s.cpCheck 0 c.src a = .ok ∧ a.space = .slice 0 0 0 ∧ (s.readValue 0 .C a.space a.lower a.addr 4).isSome = true)) ∧
      (let c := cmdOf .cpy (cpAt 0 0x200 0) [0] [(1, 1, [9, 8, 7, 6])];
       let s := copying (.pair 5 1) [(5, c)];
       let a := s.cpAccess 0 c.dst (c.dst.elemAddr 1 4) 1 4 (.write [9, 8, 7, 6]);
       s.cpCheck 0 c.dst a = .ok ∧ s.stages 0 a.space a.addr a.act = false ∧ c.got.find? (fun g => g.1 == 1) = some (1, 1, [9, 8, 7, 6]) ∧ s.cpHeld (copyOp 5 c) = false) ∧
      (let c := cmdOf .cpy (cpAt 2 0 1) [1] [(0, 0, [9, 8, 7, 6])];
       let s := copying (.id 5) [(5, c)];
       c.got.find? (fun g => g.1 == c.landed) = some (0, 0, [9, 8, 7, 6]) ∧ (s.column 0).mxHolder = some 0 ∧ ((s.column 0).mx.fifo 1).length + 4 ≤ 32768 ∧
         ∀ p ∈ s.ops, p.agent = (copyOp 5 c).agent → ¬p.seq < (copyOp 5 c).seq) := by
  decide +kernel

/-- `Claims`' CopyElements: an element of CPYS whose destination is on another device, before that has been asked, and while its answer is awaited. -/
theorem witness_copy_destinations :
    ∀ asked ∈ [false, true],
      (let c : CopyCmd := { cmdOf .cpys { cpAt 3 0x200 0 with route := 0x4000000000001400 } [0, 1] [] with dests := if asked then [(0, false)] else [] };
       let s : State := { copying (.pair 5 0) [(5, c)] with install := [(5, { part := none, mac := 1, unreachable := false })] };
       let o := copyOp 5 c;
       s.op? 5 = some o ∧ (s.team? 0).isSome = true ∧ s.streamsRun (teamOf s 0) = true ∧ s.cpHeld o = false ∧ o.queued = true ∧ c.stopped = none ∧ 0 ∈ c.left ∧ c.ask = 0 ∧
         (match s.cpIndex o { c with reserved := true } 0 with | some (.ok ix) => decide (ix = 1) | _ => false) = true ∧
         (match (s.cpAccess 0 c.dst (c.dst.elemAddr 1 4) 0 4 (.write [])).space with | .remote _ _ _ => true | _ => false) = true ∧
         decide ((0, true) ∉ c.dests) = true ∧ ((0, false) ∈ c.dests ↔ asked = true)) := by
  decide +kernel

/-- The demo device with a merge table. -/
def merging (arg : EvArg) (cs : List (Nat × CopyCmd)) (ms : List Merge) : State :=
  { copying arg cs with columns := [(0, { Column.initial with dp := some 0, mxHolder := some 0, merges := ms })] }

/-- A CPYM whose two elements lie in one sector, or in two. -/
def multi (arrived : Bool) (off : Nat) : CopyCmd := { cmdOf .cpym (cpAt 0 0x200 0) [0, 1] [] with src := cpAt 0 off 0, arrived := arrived }

/-- A merge entry with the key of such a request. -/
def entryFor (c : CopyCmd) (joined : List Nat) (next total : Nat) (joins : Bool) : Merge :=
  { key := (copying .none []).mergeKey (teamOf (copying .none []) 0) c, joined := joined, next := next, total := total, openJoin := joins }

/-- `Claims`' MulticastReads: a request that joins, one that opens an entry, one served alone by a full table, and one without room in its FIFO; a sector of one served alone; a sector of an entry,
its last, and one that a request cannot take. -/
theorem witness_multicast_reads :
    (∀ ms ∈ ([[entryFor (multi false 0x100) [6] 0 1 true], [], (List.range 16).map fun k => { entryFor (multi false 0x100) [6] 0 1 true with key := [k] }] : List (List Merge)),
        (let s := merging (.id 5) [(5, multi false 0x100)] ms;
         s.op? 5 = some (copyOp 5 (multi false 0x100)) ∧ s.cpSpace 0 (multi false 0x100).src (multi false 0x100).src.base = .slice 0 0 0 ∧
           s.streamsRun (teamOf s 0) = true ∧ s.cpHeld (copyOp 5 (multi false 0x100)) = false ∧ (copyOp 5 (multi false 0x100)).queued = true ∧
           s.fifoRoom (copyOp 5 (multi false 0x100)) (multi false 0x100) = true ∧ (multi false 0x100).left ≠ [] ∧ (multi false 0x100).ask = 0)) ∧
      (let c : CopyCmd := { multi false 0x100 with dst := cpAt 2 0 1, n := 8193 };
       let s := merging (.id 5) [(5, c)] [];
       s.op? 5 = some (copyOp 5 c) ∧ c.reserved = false ∧ (s.column 0).mxHolder = some 0 ∧ 32768 < ((s.column 0).mx.fifo 1).length + c.n * c.w ∧
         (∀ p ∈ s.ops, ¬p.seq < (copyOp 5 c).seq)) ∧
      (let c := { multi true 0x17C with reserved := true };
       let s := merging (.id 5) [(5, c)] [];
       c.arrived = true ∧ (∀ e ∈ s.columns, ∀ m ∈ e.2.merges, 5 ∉ m.joined) ∧
       let a := s.cpAccess 0 c.src (c.src.elemAddr 0 4) 0 4 .read;
       c.left.head? = some 0 ∧ c.left.filter (fun j => c.sectorOf j == c.sectorOf 0) = [0] ∧ s.cpymReady 5 (c.sectorOf 0) = true ∧
         s.cpCheck 0 c.src a = .ok ∧ a.space = .slice 0 0 0 ∧ (s.readValue 0 .C a.space a.lower a.addr 4).isSome = true) ∧
      (∀ k ∈ List.range 2, ∀ n ∈ ([5, 6] : List Nat), (merging (.pair 0 0) [(5, multi true 0x17C), (6, multi true 0x17C)] [entryFor (multi true 0x17C) [5, 6] k 2 false]).cpymReady n k = true) ∧
      (merging (.pair 0 0) [(5, { multi true 0x100 with stopped := some .pnot })] []).cpymReady 5 0 = false := by
  decide +kernel

/-- The demo device with a CMX whose payload is MCLR a0 in flight. -/
def cmxState (others : List (Nat × CopyCmd)) (m : MxState) : State :=
  { copying (.id 5) others with
    ops := (others.map fun e => copyOp e.1 e.2) ++ [{ (default : Op) with id := 5, agent := .copy 0, team := 0, seq := 9, kind := .cmx 0xD100000000000000 1 (addrOf 1 64) false }]
    columns := [(0, { Column.initial with dp := some 0, mxHolder := some 0, mx := m })] }

/-- A follow-on. -/
def followOn (i : Instr) : MCmd := { op := 5, instr := i, snap := [(4, 7)], follow := true, row := 0, seq := 0, vals := none }

/-- `Claims`' FollowOns: a CMX with nothing before it, and with the queue full; a follow-on that begins, one that fails its checks, and one that waits. -/
theorem witness_follow_ons :
    (let s := cmxState [] MxState.initial;
       (s.op? 5).isSome = true ∧ (∀ p ∈ s.ops, p.agent = (opOf s 5).agent → ¬p.seq < (opOf s 5).seq) ∧ (s.column (s.colOf (teamOf s 0))).mxHolder = some 0 ∧
         (s.column 0).mx.follow.length < 8 ∧ s.team? 0 = some (teamOf s 0)) ∧
      8 ≤ (List.replicate 8 (followOn (.mclr g0))).length ∧
      ({ MxState.initial with follow := [followOn (.mclr g0)] } : MxState).payloadOk (teamOf (copying .none []) 0) (.mclr g0) = true ∧
      ({ MxState.initial with follow := [followOn .nop] } : MxState).payloadOk (teamOf (copying .none []) 0) .nop = false ∧
      (copying .none []).streamsRun (teamOf (copying .none []) 0) = true ∧
      ({ copying .none [] with wgs := [(0, { placedWg with st := .saved })] } : State).streamsRun (teamOf (copying .none []) 0) = false ∧
      (teamOf (copying .none []) 0).pendCopy = none ∧ (teamOf (copying .none []) 0).st ≠ .retiring ∧ (teamOf (copying .none []) 0).dying = false := by
  decide +kernel

/-- `Claims`' SpecialFunctionsWrite: an instruction in the service order, and none. -/
theorem witness_special_functions_write :
    (let s : State := { after (.qsin { v0 with ty := .f32, d := 2, a := 4 }) demo with arg := .id 0 };
       (s.column 0).sfq = [1] ∧ (s.op? 1).isSome = true) ∧ (demo.column 0).sfq = [] := by
  decide +kernel

/-- The demo device with a fence of its team in flight; when `busy`, an earlier store of the team is in a buffer. -/
def fencing (st : FState) (busy : Bool) (sp : Option Spec) : State :=
  { demoOf { demoTeam with spec := sp, sregs := [(3, 9)], fstat := 1 } (.team 0) with
    arg := .id 5
    seq := 20
    ops := [{ (default : Op) with id := 5, agent := .team 0, team := 0, seq := 9, flag := some 0, kind := .fence .T .T 4 st }]
    bufs := if busy then [{ bufAt 0 0 with agent := .team 0, path := .T }] else [] }

/-- `Claims`' FencesComplete: a fence whose earlier stores are performed, and one whose are not; a window without conflict and one with. -/
theorem witness_fences_complete :
    (fencing .pending true none).performedAt 0 .T 9 4 true = false ∧ (∀ st ∈ [FState.pending, .replaying, .speculating], (fencing st false none).performedAt 0 .T 9 4 true = true) ∧
      (∀ det ∈ [false, true], ({ fencing .speculating false (some (windowOf false)) with
          units := [(0, { placedUnit with launch := some { placedLaunch with det := det } })] } : State).isDet 0 = det) ∧
      ((fencing .pending false none).op? 5).isSome = true ∧ ((fencing .pending false none).team? 0).isSome = true ∧
      (∀ c ∈ [false, true], (teamOf (fencing .speculating false (some (windowOf c))) 0).spec = some (windowOf c) ∧ (windowOf c).conflict = c ∧ (windowOf c).errs = [] ∧
        (opOf (fencing .speculating false (some (windowOf c))) 5).writes = [] ∧ (opOf (fencing .speculating false (some (windowOf c))) 5).later = [] ∧
        (opOf (fencing .speculating false (some (windowOf c))) 5).raises = 0 ∧ (fencing .speculating false (some (windowOf c))).performedAt 0 .T 9 4 true = true) ∧
      (opOf (fencing .speculating false (some (windowOf true))) 5).id = (windowOf true).op ∧ (opOf (fencing .speculating false (some (windowOf true))) 5).seq ≤ (windowOf true).seq ∧
      demoTeam.inActiveSet = true ∧ (windowOf true).started = true ∧
      (teamOf { fencing .speculating false none with teams := [(0, { demoTeam with st := .pendingReady, spec := some (windowOf true) })] } 0).inActiveSet = false := by
  decide +kernel

/-- The group device with a post or a withdrawal of its team in flight; `holder` is the workgroup that holds the slot. -/
def posting (wd : Bool) (holder : Option Nat) : State :=
  { groupState demoTeam false with
    arg := .id 5
    columns := [(0, { Column.initial with posts := [{ ctx := 0, g := 3, holder := holder, a := 7, withdrawn := false }] })]
    ops := [{ (default : Op) with id := 5, agent := .team 0, team := 0, seq := 0, kind := .gpost 3 wd }] }

/-- The group device with its team in GBAR, its workgroup arrived once; a second member column has arrived as often as `other` says. -/
def barring (other : Nat) : State :=
  { groupState { demoTeam with gbarArr := some 3, wait := .gbar 3, st := .stalled, started := false } true with
    arg := .id 0
    contexts := [(0, { Context.empty with groups := Context.empty.groups.set 3 { memb := 3, v := true, abs := false } })]
    columns := [(0, { Column.initial with posts := [{ ctx := 0, g := 3, holder := some 0, a := 1, withdrawn := false }] }),
                (4, { Column.initial with posts := [{ ctx := 0, g := 3, holder := some 4, a := other, withdrawn := false }] })]
    wgs := [(0, { placedWg with gbarK := some 3, gbarUp := true }), (4, { placedWg with teams := [], col := 4 })] }

/-- `Claims`' PostsAndGroupBarriers: a post of an empty slot, of one already held, and of one that another workgroup holds; a withdrawal; a post with an earlier one
pending; a barrier with every member arrived, with one to come, and before the workgroup's own arrival. -/
theorem witness_posts_and_group_barriers :
    (∀ wd ∈ [false, true], ∀ h ∈ ([none, some 0, some 4] : List (Option Nat)),
        (let s := posting wd h;
         (s.op? 5).isSome = true ∧ s.team? 0 = some demoTeam ∧ s.performedAt 0 .T 0 4 false = true ∧ s.fenceHolds 0 .F 0 = false ∧ (∀ q ∈ s.ops, ¬q.seq < 0) ∧ (s.postSlot 0 3 0).holder = h)) ∧
      (∀ other ∈ List.range 2,
        (let s := barring other;
         s.wg? 0 = some { placedWg with gbarK := some 3, gbarUp := true } ∧ (s.postSlot 0 3 0).holder = some 0 ∧ (s.postSlot 0 3 0).a = 1 ∧
           s.arrivedAt 0 3 0 0 1 = true ∧ s.arrivedAt 0 3 1 0 1 = decide (other = 1) ∧ (s.group 0 3).has 1 = true ∧ (∀ i ∈ List.range 128, (s.group 0 3).has i = true → i < 2))) ∧
      ({ barring 1 with wgs := [(0, { placedWg with gbarK := some 3 })] } : State).wg? 0 = some { placedWg with gbarK := some 3 } ∧ placedWg.gbarUp = false := by
  decide +kernel

/-- A deterministic launch of the demo device whose workgroup is over, with staged writes. -/
def releasing (staged : List Staged) : State :=
  { detState with
    arg := .id 0
    teams := [(0, { memTeam with st := .retired })]
    wgs := [(0, { placedWg with st := .retired, staged := staged })] }

/-- A staged write of one byte. -/
def stagedAt (twg rank seq el : Nat) (a : Nat) (b : Byte) : Staged :=
  { twg := twg, rank := rank, seq := seq, el := el, space := .slice 0 0 0, addr := addrOf 2 a, lower := false, act := .write [b], before := [] }

/-- `Claims`' RegistrarReleases: a workgroup with three staged writes, and one with none. -/
theorem witness_registrar_releases :
    (let q := [stagedAt 1 0 0 0 0x100 9, stagedAt 0 1 0 0 0x100 8, stagedAt 0 0 7 3 0x101 7];
       let s := releasing q;
       canonTest s = true ∧ (s.wg? 0).isSome = true ∧ (∀ f ∈ q, f.rank < 4 ∧ f.seq < 2 ^ 64 ∧ f.el < 2 ^ 26) ∧ (∀ f ∈ q, f.seq = 7 → f.twg = 0 ∧ f.rank = 0) ∧
         s.crossing 0 (.slice 0 0 0) = none ∧ s.crossing 0 (.slice 0 64 0) = some (0, 1) ∧ s.isDet 0 = true ∧ s.chainDone { placedWg with st := .retired, staged := q } = true ∧ s.bufs = [] ∧
         s.sharedPage (.slice 0 0 0) (addrOf 2 0x101) false = false ∧ s.physAt (.slice 0 0 0) (addrOf 2 0x101) false = some (physKey 0 0 1 0x101) ∧
         Memory.wf s.mem = true ∧ (releasing []).isDet 0 = true ∧ (releasing []).chainDone { placedWg with st := .retired } = true) := by
  decide +kernel

/-- The demo device with an empty Loan history: unit i of column 0 in a state since a clk. -/
def loanOf (i : Nat) (st : LoanState) (since now : Nat) : State :=
  { demo with
    arg := .pair 0 i
    now := now
    columns := [(0, { Column.initial with loan := Column.initial.loan.set i (st, since) })] }

/-- `Claims`' Loan: unit 3 free for 256 clk (`witness_clk`) and for none; unit 0; a unit that is lent; one that is reclaimed. -/
theorem witness_loan :
    ((loanOf 3 .free 10 266).column 0).loan[3]? = some (.free, 10) ∧ (loanOf 3 .free 10 266).spadWanted 0 = false ∧ (3 : Nat) ≠ 0 ∧ ((loanOf 3 .free 0 256).column 0).loan[3]? = some (.free, 0) ∧ (loanOf 3 .free 0 256).now = 256 ∧
      (loanOf 3 .free 10 10).now = 10 ∧ ((loanOf 3 .lent 10 266).column 0).loan[3]? = some (.lent, 10) ∧ LoanState.lent ≠ .free ∧
      (loanOf 3 .reclaiming 10 266).loanState 0 3 = .reclaiming ∧ (loanOf 3 .lent 10 266).loanState 0 3 ≠ .reclaiming := by
  decide +kernel

/-- A launch of two workgroups of two teams, without scratchpad, whose s3 holds a parameter. -/
def twoTeams : Launch :=
  { placedLaunch with shape := { lanes := 8, nv := 64, ns := 64, twg := 2, spad := 0 }, params := [(3, 9)], g := 2 }

/-- The demo device with that launch, nothing of it bound. -/
def unbound : State :=
  { demo with
    arg := .bind 1 (wgKey 0 1) false
    units := [(0, { placedUnit with counter := 2, launch := some twoTeams })]
    wgs := []
    teams := [] }

/-- Its workgroup 1 bound to column 1; its workgroup resident; one that has been saved. -/
def bound : State := { after .curatorBind unbound with arg := .id 1 }
/-- Resident. -/
def dispatched : State := { after .dispatch bound with arg := .id 1 }
/-- Each team at the RTE of its PREE handler. -/
def atRte : State :=
  { after .preempt dispatched with
    teams := (after .preempt dispatched).teams.map fun e =>
      (e.1, { e.2.enterTrap (addrOf 1 64) 0 .pree 0 0 0 (addrOf 1 64) e.2.pc 0 [] e.2.all with hwait := .rte, pendPree := false, sregs := [(4, 5)] }) }
/-- Saved. -/
def savedState : State := { after .contextSave atRte with arg := .id 1 }
/-- With its restore record written. -/
def rebound : State := { stepped .curatorBind (.bind 1 1 true) savedState with arg := .id 1 }

/-- `Claims`' WorkgroupsStart: a workgroup to bind; one that is saved; one to dispatch that fits, and one for which the column has no team slots left. -/
theorem witness_workgroups_start :
    (let s := unbound;
       (1 : Nat) < 2 ^ 32 ∧ (s.unit? 0).isSome = true ∧ 1 < twoTeams.g ∧ s.wg? (wgKey 0 1) = none ∧ s.mayBind 0 twoTeams 0 1 1 = true ∧ (s.unit? 0).any (fun c => c.begun && !c.done && !c.dropped) = true ∧
         (s.column 1).slots.any (fun e => !e.valid) = true) ∧
      (let s : State := { savedState with arg := .bind 1 1 true };
       (s.wg? 1).map (·.st) = some .saved ∧ (∀ e ∈ (s.column 1).slots, e.valid = true → e.w ≠ 1) ∧ (s.column 1).slots.any (fun e => !e.valid) = true ∧
         s.gangTurn (s.preemptSet 1) = true ∧ (s.wg? 1).map (·.col) = some 1 ∧ s.coreUp (1 / 4) = true ∧ s.isDet 1 = false ∧ s.entryFree 1 = true) ∧
      (let s := bound;
       (s.nextEntry 1).map (fun e => (e.rst, e.w)) = some (false, 1) ∧ (s.wg? 1).map (fun g => (g.st, g.col, g.teams)) = some (.bound, 1, [8, 9]) ∧
         s.launchOf 1 = some twoTeams ∧ [8, 9].Nodup ∧ s.coreUp (1 / 4) = true ∧ s.teamsUsed 1 + [8, 9].length ≤ 32 ∧
         s.vregsUsed 1 + 2 * 64 * 8 ≤ Config.columnVregs) ∧
      (let s : State := { bound with wgs := bound.wgs ++ [(7, { placedWg with col := 1, teams := (List.range 31).map (· + 100) })] };
       32 < s.teamsUsed 1 + [8, 9].length ∧ (∀ v ∈ ([8, 9] : List Nat), s.team? v = none) ∧ (s.nextEntry 1).map (fun e => (e.rst, e.w)) = some (false, 1)) := by
  decide +kernel

/-- `Claims`' WorkgroupsStart: a saved workgroup of a deterministic launch, with those of lower index placed and not, and one on a core that has failed. -/
theorem witness_saved_workgroups :
    (∀ below ∈ [false, true],
        (let s : State := { savedState with
           arg := .bind 1 1 true
           units := [(0, { placedUnit with counter := 2, launch := some { twoTeams with det := true } })]
           wgs := savedState.wgs ++ if below then [] else [(0, { placedWg with st := .saved })] };
         s.isDet 1 = true ∧ s.lowerPlaced 0 1 = below ∧ s.coreUp (1 / 4) = true ∧ (s.wg? 1).map (fun g => (g.launch, g.idx, g.col, g.st)) = some (0, 1, 1, .saved) ∧
           s.gangTurn (s.preemptSet 1) = true)) ∧
      ({ savedState with unavail := [0] } : State).coreUp (1 / 4) = false := by
  decide +kernel

/-- `Claims`' WorkgroupsLeave: a resident workgroup to pre-empt; one whose teams are at the RTE of their handlers, and one whose are not; one to restore; one whose
teams are Retired, and one whose are not. -/
theorem witness_workgroups_leave :
    ((dispatched.wg? 1).map (fun g => (g.st, g.preempted, g.teams)) = some (.resident, false, [8, 9])) ∧ [8, 9].Nodup ∧ dispatched.preemptSet 1 = [1] ∧ dispatched.mayPreempt 1 = true ∧
      ((atRte.wg? 1).map (fun g => (g.st, g.preempted)) = some (.resident, true)) ∧ (∀ u ∈ ([8, 9] : List Nat), atRte.atRte u = true ∧ (teamOf atRte u).st ≠ .retired ∧ (dispatched.atRte u = false)) ∧
      ((rebound.wg? 1).map (fun g => (g.st, g.savedMx)) = some (.saved, none)) ∧ ((rebound.nextEntry 1).map (fun e => (e.w, e.rst)) = some (1, true)) ∧
      rebound.launchOf 1 = some twoTeams ∧ rebound.coreUp (1 / 4) = true ∧ rebound.teamsUsed 1 + 2 ≤ 32 ∧ rebound.vregsUsed 1 + 2 * 64 * 8 ≤ Config.columnVregs ∧
      (teamOf dispatched 8).st ≠ .retired := by
  decide +kernel

/-- A phase of one graph of two nodes, a graph with the demo launch as node 1, the launch, its workgroup over. -/
def units (begun : Bool) (counter : Nat) : State :=
  let blank (lv : Level) : Completion :=
    { ident := 9, level := lv, ctx := 0, counter := 1, cancelled := false, dropped := false, begun := true, done := false, counted := false, want := 1, parts := [],
      parent := none, order := 0, launch := none }
  { demo with
    teams := []
    wgs := [(0, { placedWg with st := .retired })]
    units := [(0, { placedUnit with begun := begun, counter := counter, parent := some 2, launch := some { placedLaunch with pred := 1, node := 1 } }),
              (1, { blank .launch with ident := 8, done := true, counter := 0, parent := some 2, launch := some { placedLaunch with node := 0 } }),
              (2, { blank .graph with ident := 7, want := 2, counter := 2, parts := [0, 1], parent := some 3 }),
              (3, { blank .phase with parts := [2] })] }

/-- `Claims`' CountersFall: a launch whose predecessor is complete, one that has begun, and one whose predecessor is not; the last workgroup of a launch, and one that
has been counted; a complete launch whose graph has yet to count it, and one that is not complete. -/
theorem witness_counters_fall :
    (let s := units false 0;
       (s.unit? 0).any (fun c => s.mayBegin c && c.level == .launch && !c.begun) = true) ∧
      ((units true 1).unit? 0).any (fun c => c.begun) = true ∧
      (let s : State := { units false 0 with units := (units false 0).units.map fun e => if e.1 = 1 then (1, { e.2 with done := false }) else e };
       (s.unit? 2).any (fun q => !s.nodeDone q 0 && q.begun) = true ∧ (s.unit? 0).any (fun c => c.parent == some 2 && c.launch.any fun l => l.pred.getLsbD 0) = true) ∧
      (let s := units true 1;
       (s.wg? 0).any (fun g => s.wgCounts 0 g && g.launch == 0 && s.wgPerformed g) = true ∧ (s.unit? 0).any (fun c => !c.done && decide (0 < c.counter)) = true ∧
         (s.unit? 1).any (fun c => c.done && !c.counted && c.parent == some 2) = true ∧
         (s.unit? 2).any (fun q => q.begun && !q.done && decide (0 < q.counter) && q.level != .phase) = true) := by
  decide +kernel

/-- The demo device with a job, a phase that has not begun, a graph that holds the demo launch, and a record of its team at the head of the intake. -/
def recording (ws : List Word) : State :=
  let blank (lv : Level) : Completion :=
    { ident := 9, level := lv, ctx := 0, counter := 1, cancelled := false, dropped := false, begun := true, done := false, counted := false, want := 4, parts := [],
      parent := none, order := 0, launch := none }
  { demo with
    now := 1
    nextId := 20
    units := [(0, { placedUnit with parent := some 2 }), (2, { blank .graph with ident := 7, parts := [0], parent := some 3 }),
              (3, { blank .phase with ident := 5, begun := false, parts := [2], parent := some 4 }), (4, { blank .job with ident := 4, parts := [3] })]
    ops := [{ (default : Op) with id := 5, agent := .team 0, team := 0, seq := 0, dests := [.s 9], kind := .lnch 9 true }]
    intake := [{ clk := 0, col := 0, entry := .record 0 (some 5) ws none }, { clk := 0, col := 1, entry := .cancel 0 1 }] }

/-- The handle of a unit of such a state. -/
def handleIn (s : State) (k : Nat) : Word := ((s.unit? k).map (·.handle)).getD 0

/-- A record of a KIND, with a number of parts, a level to query, and a parent. -/
def unitRec (kind g lvl : Nat) (parent : Word) : List Word :=
  [0, 0, BitVec.ofNat 64 g, 0, 0, BitVec.ofNat 64 (2 ^ 32 * kind + 2 ^ 34 * lvl), parent, 0]

/-- `Claims`' RecordsMakeUnits: a new graph and a new phase, with a parent and with a handle of no unit; a query of each level; a record whose team has a store
outstanding. -/
theorem witness_records_make_units :
    (∀ e ∈ ([(1, 3, 3), (2, 4, 4)] : List (Nat × Nat × Nat)),
        (let s := recording (unitRec e.1 e.2.1 0 (handleIn (recording []) e.2.2));
         s.units.length < 2 ^ 32 - 2 ∧ (s.op? 5).isSome = true ∧ recField (unitRec e.1 e.2.1 0 (handleIn (recording []) e.2.2)) 5 33 32 = e.1 ∧
           recField (unitRec e.1 e.2.1 0 (handleIn (recording []) e.2.2)) 2 31 0 = e.2.1 ∧ s.recordReady (some 5) = true ∧
           recSpare (unitRec e.1 e.2.1 0 (handleIn (recording []) e.2.2)) = true ∧ s.intake.map (fun a => decide (a.clk < s.now)) = [true, true] ∧ s.handleUnit 0 (handleIn s e.2.2) = some e.2.2 ∧ handleIn s e.2.2 ≠ 0 ∧
           (s.unit? e.2.2).any (fun c => decide (c.parts.length < c.want) && (c.level == .phase && !c.begun || c.level == .job && !c.done)) = true)) ∧
      (recording []).handleUnit 0 0x77 = none ∧ ({ recording [] with now := 0 } : State).intake.map (fun a => decide (a.clk < 0)) = [false, false] ∧
      (let s := recording (unitRec 3 0 1 0);
       s.recordReady (some 5) = true ∧ recSpare (unitRec 3 0 1 0) = true ∧ s.launchKey demoTeam.wg = 0 ∧ recField (unitRec 3 0 1 0) 5 35 34 = 1 ∧
         recField (unitRec 3 0 0 0) 5 35 34 = 0 ∧ (s.unit? 0).any (fun c => c.level == .launch && c.parent == some 2) = true) ∧
      ({ recording [] with bufs := [{ bufAt 0 0 with agent := .team 0, path := .T, seq := 0 }], ops := [{ (default : Op) with id := 5, agent := .team 0, team := 0, seq := 3, kind := .lnch 9 true }] } : State).recordReady (some 5) = false := by
  decide +kernel

/-- A kernel descriptor of the demo shape with one parameter, in s3, and a launch record of it with its argument block at offset 0x200 of object 2. -/
def descWords : List Word := [BitVec.ofNat 64 (8 + 2 ^ 16 * 64 + 2 ^ 32 * 64 + 2 ^ 40 * 1), BitVec.ofNat 64 (2 ^ 17), 3, 0, 0, 0, 0, 0]

/-- That record, with the kernel at an offset of object 1. -/
def launchRecAt (off : Nat) : List Word := [addrOf 1 off, addrOf 2 0x200, 2, 0, 0x11, 0, 0, 0]

/-- The device that processes it: the descriptor stands before offset 0x140 of object 1, the argument is 77. -/
def launching (off : Nat) : State :=
  { recording (launchRecAt off) with
    contexts := [(0, demoCtx)]
    mem := Memory.setBytes (Memory.setBytes [] (physKey 0 0 0 0x100) (descWords.flatMap fun w => bytesOfNat w.toNat 8)) (physKey 0 0 1 0x200) [77] }

/-- `Claims`' RecordsMakeLaunches: a record of a kernel with one parameter, one whose kernel is none, and one that names arguments for a kernel
without parameters. -/
theorem witness_records_make_launches :
    (let s := launching 0x140;
       (s.op? 5).isSome = true ∧ s.team? 0 = some demoTeam ∧ s.wg? 0 = some placedWg ∧ recField (launchRecAt 0x140) 5 33 32 = 0 ∧ s.recordReady (some 5) = true ∧
         (launchRecAt 0x140).getD 6 0 = 0 ∧ launchFieldsOk (launchRecAt 0x140) = true ∧ s.kernelDesc 0 0 (addrOf 1 0x140) = some descWords ∧ descOk descWords = true ∧
         recField descWords 1 8 8 = recField (launchRecAt 0x140) 5 41 41 ∧
         s.bindable 0 (descShape descWords) 2 0 (recField descWords 1 9 9 == 1) (if recField descWords 1 10 10 = 1 then some (recField descWords 1 16 11) else none) = true ∧
         recField descWords 1 22 17 = 1 ∧ s.readArg 0 (some 5) (addrOf 2 0x200) 0 = .word 77 ∧ s.resvDone = [] ∧ recField (launchRecAt 0x140) 5 44 42 = 0 ∧
         (s.unit? placedWg.launch).any (fun c => !c.dropped) = true) ∧
      (let s : State := { launching 0x140 with mem := Memory.setBytes [] (physKey 0 0 0 0x100) ((descWords.set 1 0).flatMap fun w => bytesOfNat w.toNat 8) };
       s.kernelDesc 0 0 (addrOf 1 0x140) = some (descWords.set 1 0) ∧ recField (descWords.set 1 0) 1 22 17 = 0 ∧ objId ((launchRecAt 0x140).getD 1 0) ≠ 0xFFFF) ∧
      (launching 0x180).kernelDesc 0 0 (addrOf 1 0x181) = none ∧ recField (launchRecAt 0x181) 5 33 32 = 0 ∧ launchFieldsOk (launchRecAt 0x181) = true := by
  decide +kernel

/-- A launch of five workgroups: one resident, one bound, one saved, one over, one not bound, and a CANCEL of it at the head of the intake. -/
def cancelling (h : Word) (done : Bool) : State :=
  { demo with
    now := 1
    units := [(0, { placedUnit with counter := 4, done := done, launch := some { placedLaunch with g := 5 } })]
    wgs := [(0, { placedWg with staged := [stagedAt 0 0 0 0 0x100 1] }), (1, { placedWg with idx := 1, st := .bound, teams := [8] }), (2, { placedWg with idx := 2, st := .saved, teams := [16] }),
            (3, { placedWg with idx := 3, st := .retired, teams := [24], counted := true })]
    teams := [(0, demoTeam), (16, { demoTeam with wg := 2, st := .saved })]
    columns := [(0, { Column.initial with slots := [{ valid := true, rst := false, lid := 1, wgIdx := 1, seqNo := 0, w := 1 }] })]
    intake := [{ clk := 0, col := 0, entry := .cancel 0 h }, { clk := 0, col := 1, entry := .cancel 0 1 }] }

/-- `Claims`' CancelsReach: a handle of no unit; a launch that is complete; one with a workgroup in every state; a team to which CNCL has yet to be delivered, and
one to which it has not. -/
theorem witness_cancels_reach :
    (∀ a ∈ (cancelling 0x77 false).intake, a.clk < (cancelling 0x77 false).now) ∧ (∀ a ∈ (cancelling 0x77 false).intake, ({ cancelling 0x77 false with now := 0 } : State).now ≤ a.clk) ∧
      (cancelling 0x77 false).handleUnit 0 0x77 = none ∧ (cancelling placedUnit.handle false).handleUnit 0 placedUnit.handle = some 0 ∧
      ((cancelling placedUnit.handle false).unit? 0).any (fun c => !c.done && !c.dropped && c.level == .launch && c.launch.isSome && decide ((cancelling placedUnit.handle false).above c = none)) = true ∧
      ((cancelling placedUnit.handle true).unit? 0).any (fun c => c.done) = true ∧ (∀ e ∈ (cancelling placedUnit.handle false).units, e.1 = 0) ∧
      (let s := cancelling placedUnit.handle false;
       s.team? 0 = some demoTeam ∧ demoTeam.trapCause.toNat % 2 ^ 8 ≠ Cause.cncl.code.toNat ∧ demoTeam.st ≠ .retired ∧ demoTeam.pendCncl = false ∧
         (∀ e ∈ s.wgs, e.2.st = .saved → 0 ∉ e.2.teams)) ∧
      ({ demo with wgs := [(0, { placedWg with cncl := [0] })] } : State).wg? 0 = some { placedWg with cncl := [0] } ∧ 0 ∉ placedWg.cncl := by
  decide +kernel

/-- Page 0 of an object of the demo context, in column 0. -/
def page0 (obj : Nat) : PageRef := { ctx := 0, obj := obj, team := 0, col := 0, page := 0, lower := false }

/-- The demo device with frames in column 0's pool, bytes in frames 1 and 5, page 0 of object 2 sharing its frame with object 4, which is a snapshot, and a
write to it in a buffer. -/
def paging (pool : List Nat) (shared : Bool) : State :=
  { memOf memTeam with
    arg := .page (page0 2) 0 6
    contexts := [(0, { demoCtx with
      objs := demoCtx.objs ++ [(4, { placedCode with code := false, snap := true })]
      pages := demoCtx.pages.map (fun e => if e.1.obj = 2 then (e.1, { e.2 with sh := shared }) else e) ++
        (if shared then [(page0 4, { p := true, ft := false, w := false, x := false, tier := 0, sh := true, col := 0, frame := 1 })] else []) })]
    columns := [(0, { Column.initial with poolHbm := pool })]
    bufs := [{ bufAt 0 0 with addr := addrOf 2 0x100 }]
    mem := Memory.setBytes (Memory.setBytes [] (physKey 0 0 1 0x100) [1, 2, 3]) (physKey 0 0 5 0x100) [9, 9, 9, 9] }

/-- A far read of page 0 of object 3 that waits in its path queue. -/
def farRead : Op :=
  { (default : Op) with
    id := 5, agent := .team 0, team := 0, kind := .mem, queued := true
    acc := [{ el := 0, lane := 0, path := .F, space := .slice 0 0 0, addr := addrOf 3 0, size := 4, act := .read, land := .vreg 8 .n32 1, lower := false, halves := [] }] }

/-- `Claims`' PagesAreMapped: a first-touch page with a frame in the pool, and with none; a page that a write waits to have copied, with a frame and with none; one
that shares no frame; frames for a pool, free and not. -/
theorem witness_pages_are_mapped :
    (let s : State := { paging [5, 6] true with arg := .page (page0 3) 0 0, ops := [farRead] };
       canonTest s = true ∧ page0 3 ∈ s.farPages ∧ (s.obj? 0 3 0).any (fun o => !(s.pte (page0 3) o).p && (s.pte (page0 3) o).ft && (s.pte (page0 3) o).col == 0 && decide (0 < (o.bound + 65535) / 65536)) = true ∧
         s.inOwnPart 0 0 = true ∧ (s.column 0).pool false = [5, 6] ∧ (({ paging [] true with arg := .page (page0 3) 0 0 } : State).column 0).pool false = []) ∧
      (let s := paging [5, 6] true;
       (s.obj? 0 2 0).any (fun o => !o.snap && (s.pte (page0 2) o).p && (s.pte (page0 2) o).sh && (s.pte (page0 2) o).key != frameKey 0 0 5) = true ∧ s.copyWanted (page0 2) = true) ∧
      ((paging [5] false).obj? 0 2 0).any (fun o => !((paging [5] false).pte (page0 2) o).sh) = true ∧
      (let s : State := { paging [5] false with arg := .refill 0 0 false [7, 8], contexts := (paging [5] false).contexts.map fun e => (e.1, { e.2 with reserve := 1 }) };
       (s.ctx? 0).any (fun c => decide ((assoc c.given 0).getD 0 + 2 ≤ 16 * c.reserve)) = true ∧ s.inOwnPart 0 0 = true ∧ (s.teams.map (·.1)).Nodup ∧ [7, 8].Nodup ∧ (∀ f ∈ ([7, 8] : List Nat), s.frameFree 0 0 f = true) ∧ ({ s with nPart := 2 } : State).inOwnPart 0 256 = false ∧ s.frameFree 0 0 5 = false ∧ s.frameFree 0 0 1 = false) := by
  decide +kernel

/-- The demo device without its workgroup, so that its context may leave. -/
def quiet (arg : EvArg) : State := { paging [] false with arg := arg, bufs := [], wgs := [(0, { placedWg with st := .saved })] }

/-- The device that its context has left. -/
def gone : State := { after .liveMigration (quiet (.migrate 0 false 7)) with arg := .migrate 0 true 7 }

/-- `Claims`' PagesMove: a page to move to a free frame, and to one that is not; a page of a DUP object to duplicate, and of one that is not DUP; a context that may
leave and one that may not; one that may come back, and one whose frames are held. -/
theorem witness_pages_move :
    (let s := paging [] false;
       (s.ctx? 0).any (fun c => (pageFind c.pages (page0 2)).any fun e => e.p && !s.pastFitted e && e.key != frameKey 0 0 6) = true ∧ s.frameFree 0 0 6 = true ∧ s.frameFree 0 0 1 = false ∧
         Memory.wf s.mem = true) ∧
      (let s : State := { paging [] false with contexts := [(0, { demoCtx with objs := [(2, { placedCode with code := false, dup := true })] })] };
       (s.obj? 0 2 0).any (fun o => o.dup && !o.w && (s.pte (page0 2) o).p && !s.pastFitted (s.pte (page0 2) o) && (s.pte (page0 2) o).key != frameKey 0 1 6 && (s.pte (page0 2) o).col != 1) = true ∧ s.frameFree 0 1 6 = true ∧ s.inOwnPart 0 1 = true) ∧
      ((paging [] false).obj? 0 2 0).any (fun o => !o.dup) = true ∧ (quiet (.migrate 0 false 7)).mayLeave 0 = true ∧ (paging [] false).mayLeave 0 = false ∧
      (gone.elsewhere.map (·.ctx) = [0] ∧ gone.ctx? 0 = none ∧ gone.stage = .stage2 ∧ gone.elsewhere.all (fun m => gone.roomFor m && m.body.pages.all fun e =>
          !e.2.p || (inPartition gone.nPart m.body.part e.2.col && gone.frameFree e.2.level e.2.col e.2.frame)) = true ∧
        gone.elsewhere.all (fun m => Memory.wf m.mem) = true ∧ Memory.wf gone.mem = true) ∧
      (({ gone with columns := [(0, { Column.initial with poolHbm := [1] })] } : State).frameFree 0 0 1 = false) := by
  decide +kernel

/-- A Catalogue operation of the demo device's team in flight; when `busy`, an earlier store of the team is in a buffer. -/
def catalogued (i : Instr) (a b : Word) (lanes : List (Nat × Addr)) (busy : Bool) (c : Context) : State :=
  { memOf demoTeam with
    arg := .id 5
    contexts := [(0, c)]
    ops := [{ (default : Op) with id := 5, agent := .team 0, team := 0, seq := 3, kind := .cat i a b lanes }]
    bufs := if busy then [{ bufAt 0 0 with agent := .team 0, path := .T }] else [] }

/-- `Claims`' CatalogueWrites: CATLD and CATSET on object 2, on object 0, on an unknown one, and past the bound, with the team's stores performed and one that is not;
a bound that grows and one that shrinks; W and X of a page together, W of a page of a read-only object, and each alone. -/
theorem witness_catalogue_writes :
    (∀ i ∈ ([.catld v0, .catsetAccess v0, .catsetBound v0, .catsetHwm v0, .catsetPg v0] : List Instr), ∀ p ∈ ([(2, 0x100), (0, 0), (9, 0), (2, 65536)] : List (Nat × Nat)),
        ∀ busy ∈ [false, true],
        (let s := catalogued i (addrOf p.1 p.2) 0 [] busy demoCtx;
         (s.op? 5).isSome = true ∧ s.team? 0 = some demoTeam ∧ s.performedAt 0 .T 3 4 false = !busy)) ∧
      (let s := catalogued (.catsetBound v0) (addrOf 2 0x100) 131072 [] false demoCtx;
       (s.obj? 0 2 0).any (fun q => decide (0x100 < q.bound) && q.inDist 0 && !q.inDist 1 && decide (q.ncol ≠ 0) && decide (q.bcol < 512) && q.w && decide (q.bound = 65536)) = true ∧
         (s.obj? 0 1 0).any (fun q => !q.w) = true ∧ (s.obj? 0 0 0).any (fun q => decide (0 < q.bound)) = true ∧ s.obj? 0 9 0 = none ∧ s.inOwnPart 0 0 = true ∧
         s.ctx? 0 = some demoCtx ∧ (∀ e ∈ demoCtx.pages, e.1 ≠ { page0 2 with page := 1 })) := by
  decide +kernel

/-- `Claims`' CatalogueMakes: CATSNAP of an object, of a snapshot, of object 0 and of an unknown one; its release of a snapshot and of no snapshot; MAPFT of a present page, of a
shared one and a first-touch one with a frame in the pool and with none, of a page of another column, of one that is neither present nor first-touch, and of
an unknown object, for one lane and for two of a page. -/
theorem witness_catalogue_makes :
    (∀ busy ∈ [false, true], (catalogued (.catsnap v0) (addrOf 2 0) 0 [] busy demoCtx).performedAt 0 .T 3 4 false = !busy) ∧
      (let c : Context := { demoCtx with objs := demoCtx.objs ++ [(4, { placedCode with snap := true })] };
       assoc c.objs 0 = none ∧ assoc c.objs 9 = none ∧ (assoc c.objs 2).any (fun q => !q.snap && decide (q.sbase.toNat / 2 ^ 48 ≠ 2) && (assoc c.objs (q.sbase.toNat / 2 ^ 48)).isNone) = true ∧
         (assoc c.objs 4).any (·.snap) = true) ∧
      (∀ e ∈ ([(2, 1), (3, 0)] : List (Nat × Nat)), ∀ pool ∈ ([[5, 6], []] : List (List Nat)),
        (let s : State := { paging pool true with arg := .id 5, ops := (catalogued (.mapft v0) 0 0 [(0, addrOf e.1 0), (1, addrOf e.1 8)] false demoCtx).ops, bufs := [] };
         (s.op? 5).isSome = true ∧ (s.team? 0).any (fun t => decide (t.spec = none)) = true ∧ (s.column 0).pool false = pool ∧
           (s.obj? 0 e.1 0).any (fun q => !q.split && decide (8 < q.bound) && ((s.pte (page0 e.1) q).col == 0) && decide ((s.pte (page0 e.1) q).p = decide (e.2 = 1)) &&
             (if e.2 = 1 then (s.pte (page0 e.1) q).sh else (s.pte (page0 e.1) q).ft)) = true ∧ pageRef 0 e.1 0 0 8 false = page0 e.1)) ∧
      (let s := paging [5] false; (s.obj? 0 2 0).any (fun q => (s.pte (page0 2) q).p && !(s.pte (page0 2) q).sh) = true ∧ s.obj? 0 9 0 = none) ∧
      (let s := catalogued (.mapft v0) 0 0 [(0, addrOf 2 0)] false { demoCtx with pages := demoCtx.pages.map fun e => (e.1, { e.2 with col := 64 }) };
       (s.obj? 0 2 0).any (fun q => !q.split && ((s.pte (page0 2) q).col == 64)) = true) ∧
      (let s := catalogued (.mapft v0) 0 0 [(0, addrOf 2 0)] false { demoCtx with pages := [] };
       (s.obj? 0 2 0).any (fun q => !(s.pte (page0 2) q).p && !(s.pte (page0 2) q).ft && ((s.pte (page0 2) q).col == 0)) = true) := by
  decide +kernel

/-- `Claims`' PagesMove: a page past the capacity that is fitted. -/
theorem witness_past_fitted (s : State) :
    s.pastFitted { p := true, ft := false, w := true, x := false, tier := 1, sh := false, col := 0, frame := 49152 } = true := by
  have h : Config.fittedMiB ≤ 3072 := by unfold Config.fittedMiB; split <;> omega
  have hb : (Config.fittedMiB - s.cxlLost) * 16 ≤ 49152 := by omega
  simp [State.pastFitted, State.secondMiB, Pte.level, hb]

/-- The demo device with bytes of frame 1 of column 0 in the coherent memory, others in DRAM, and a step's argument. -/
def dramState (arg : EvArg) : State :=
  { paging [] false with
    arg := arg
    dram := Memory.setBytes [] (physKey 0 0 1 0x100) [7, 7, 7, 7]
    mem := Memory.setBytes [] (physKey 0 0 1 0x100) [1, 2, 3] }

/-- The sector of that frame's offset 0x100, and its first granule. -/
def sec0 : Nat := physKey 0 0 1 0x100 / 128

/-- That device, where object 2 holds F32 and is tolerant. -/
def tolerant : State :=
  { dramState .none with
    contexts := [(0, { demoCtx with objs := [(2, { placedCode with code := false, w := true, ty := .f32, tol := true, rows := 1 })] })] }

/-- `Claims`' PacketsAndErrors: a packet of each kind; errors in one symbol, in two, in three, in the protected bits of a tolerant object and in its unprotected ones, where DRAM holds what memory
does and where a cache holds a newer value; two
errors in a word that is evicted; a poisoned granule, a granule of a page, one that nothing maps, one that no column has; a sector of either tier; a
merged record to flush, and none; a range of DMA. -/
theorem witness_packets_and_errors :
    canonTest (dramState .none) = true ∧
      (let s : State := { atomicAt with arg := .atomPkt 3 1 (some 0) };
       let a := accOf (opOf s 1) 0;
       s.op? 1 = some (opOf s 1) ∧ (opOf s 1).kind = .mem ∧ (opOf s 1).queued = true ∧ s.inOrder (opOf s 1) a = true ∧ s.fenceHolds 0 a.path (opOf s 1).seq = false ∧
         s.checkAccess 0 a = .ok ∧ a.act = .atomic .add .n32 [5, 0, 0, 0] [] ∧ a.space = .slice 0 0 0 ∧ (opOf s 1).errLanes.getLsbD a.lane = false) ∧
      ((dramState .none).schemeAt (sec0 * 128) = .whole ∧ tolerant.schemeAt (sec0 * 128) = .bits 32 23 ∧ canonTest tolerant = true ∧ (0 : Nat) < 4) ∧
      (∀ fl ∈ ([[3, 5], [3, 11], [3, 11, 19], [23, 24, 25, 26], [0]] : List (List Nat)), fl ≠ [] ∧ ∀ b ∈ fl, b / 256 = 0 ∧ b < 256) ∧
      ((([3, 5] : List Nat).map (· / 8)).dedup.length = 1 ∧ (([3, 11] : List Nat).map (· / 8)).dedup.length = 2 ∧ (([3, 11, 19] : List Nat).map (· / 8)).dedup.length = 3) ∧
      ((∀ b ∈ ([23, 24, 25, 26] : List Nat), 23 ≤ b % 256 % 32) ∧ (EccScheme.bits 32 23).covers 0 = false) ∧
      ((3 : Nat) / 32 = 0 ∧ (11 : Nat) / 32 = 0) ∧ (keyParts (sec0 * 128)).1 ≠ 1 ∧ (keyParts (physKey 1 0 1 0x100 / 128 * 128)).1 = 1 ∧
      (let s : State := { dramState .none with poison := [sec0 * 32] };
       s.poisoned (sec0 * 4 * 32) 32 = true) ∧
      (∀ i ∈ List.range 128, ({ tolerant with mem := tolerant.dram } : State).byteAt (sec0 * 128 + i) =
        Store.get (w := 8) ({ tolerant with mem := tolerant.dram } : State).dram (sec0 * 128 + i)) ∧ (dramState .none).byteAt (sec0 * 128) ≠ Store.get (w := 8) (dramState .none).dram (sec0 * 128) ∧ (dramState .none).poisoned (sec0 * 4 * 32) 32 = false ∧
      ((dramState .none).ownerOf (sec0 * 4 * 32)).isSome = true ∧ (dramState .none).ownerOf (physKey 0 0 9 0) = none ∧ physKey 0 0 9 0 / 32 * 32 = physKey 0 0 9 0 ∧
      ((dramState .none).frameExists 0 0 1 = true ∧ (dramState .none).frameExists 0 0 9 = true ∧ (dramState .none).frameExists 0 0 12288 = false) ∧
      ([({ key := sec0 * 128, src := 0, loc := 0, trig := none, count := 3, charge := { owner := some 0, obj := 2, off := 0x100, tier := 0 } } : Corrected)].find? fun e => e.key / 65536 == (sec0 * 128) / 65536).isSome = true ∧
      (∀ e ∈ (dramState .none).corrected, e.key / 65536 ≠ 5) ∧ ([9] : List Byte) ≠ [] := by
  decide +kernel

/-- `Claims`' FailuresAreContained: a resident workgroup and one that is not; a DRAM die that holds a page and pool frames, one removed before, and one that does not
exist; a core with a resident, a bound and a saved workgroup, and one that is unavailable. -/
theorem witness_failures_are_contained :
    (∃ g ∈ demo.wgs, g.2.st = .resident) ∧ demo.team? 0 = some demoTeam ∧ demo.wg? demoTeam.wg = some placedWg ∧ demoTeam.st ≠ .retired ∧ storedTest demoTeam = true ∧
      (({ demo with wgs := [(0, { placedWg with st := .bound })] } : State).wg? 0).any (fun g => g.st != .resident) = true ∧
      (0, 0) ∉ demo.removed ∧ (0 : Nat) < 8 ∧ (0 : Nat) < 12 ∧ (0, 0) ∈ ({ demo with removed := [(0, 0)] } : State).removed ∧
      (demo.remap.find? fun e => e.1 / 16 == 0 && e.2 == 0) = some (0, 0) ∧ (demo.wgs.map (·.1)).Nodup ∧ 0 ∉ demo.unavail ∧ placedWg.teams ≠ [] ∧
      (placedWg.teams.head? = some 0 ∧ demoTeam.wg = 0) ∧ 0 ∈ ({ demo with unavail := [0] } : State).unavail ∧
      (rebound.wg? 1).map (fun g => (g.st, g.col / 4)) = some (.saved, 0) ∧ (rebound.column 1).slots.any (fun e => e.valid && e.w == 1) = true := by
  decide +kernel

/-- A frame of the scale-out EtherType that carries a packet. -/
def frameOf (p : FarPacket) : EtherFrame := { dst := 1, src := 2, etherType := 0x88B5, pkt := p }

/-- The demo device with a packet that a port receives. -/
def receiving (p : FarPacket) : State := { paging [] false with arg := .pkt 3 (frameOf p), bufs := [] }

/-- A request of the demo device's team on its way to device 5. -/
def sent (act : Act) (op : Nat) : BufWrite :=
  { bufAt 0 3 with id := 9, agent := .team 0, path := .F, op := op, space := .remote 5 1 0, act := act, land := .vreg 8 .n32 1 }

/-- `Claims`' ScaleOut: a read, a write and an atomic that pass their checks, ones that fail them, ones that meet a first-touch and a shared page; a request for checks that pass, and for checks that fail; an answer to a read; a
request for a context that has moved; a port that fails, and one that has; a request whose delivery times out, and none. -/
theorem witness_scale_out :
    (3 : Nat) < 16 ∧ 3 ∉ (receiving (.answer 9 [])).portsDown ∧ canonTest (receiving (.answer 9 [])) = true ∧
      (∀ p ∈ ([.read 7 0 0 (addrOf 2 0x100) 4, .write 7 0 0 (addrOf 2 0x100) [1, 2, 3, 4], .atomic 7 0 0 (addrOf 2 0x100) .add .n32 [1, 0, 0, 0] []] : List FarPacket),
        (let s := receiving p;
         s.arg = .pkt 3 (frameOf p) ∧ behind s.inbox 3 (frameOf p) = false ∧ (s.ctx? 0).isSome = true ∧ (frameOf p).etherType = 0x88B5)) ∧
      (let s := receiving (.answer 9 []);
       s.checkFar 0 0 (addrOf 2 0x100) 4 false = .ok ∧ s.checkFar 0 0 (addrOf 2 0x100) 4 true = .ok ∧ s.checkFar 0 0 (addrOf 9 0x100) 4 false = .err .mnul ∧
         s.checkFar 0 0 (addrOf 1 0x100) 4 true = .err .mprm ∧ s.checkFar 0 0 (addrOf 3 0x100) 4 false = .precise .pftp ∧
         s.checkFar 0 0 (addrOf 3 0x100) 4 true = .precise .pftp ∧ s.poisonedAt (.slice 0 0 0) (addrOf 2 0x100) false 4 = false ∧
         s.sharedPage (.slice 0 0 0) (addrOf 2 0x100) false = false ∧ s.physAt (.slice 0 0 0) (addrOf 2 0x100) false = some (physKey 0 0 1 0x100)) ∧
      ((paging [] true).checkFar 0 0 (addrOf 2 0x100) 4 true = .ok ∧ (paging [] true).sharedPage (.slice 0 0 0) (addrOf 2 0x100) false = true) ∧
      (let s : State := { receiving (.answer 9 [1, 0, 0, 0]) with bufs := [sent .read 5], ops := [{ (default : Op) with id := 5, agent := .team 0, kind := .mem, dests := [.v 8] }] };
       s.inFlight 9 = some (sent .read 5) ∧ (s.op? 5).any (fun o => o.kind == .mem) = true ∧ (sent .read 5).act = .read ∧ (sent .read 5).land = .vreg 8 .n32 1 ∧
         (sent .read 5).probe = false) ∧
      (farCtx (.read 7 0 0 (addrOf 2 0x100) 4) = some 0 ∧ gone.ctx? 0 = none ∧ assoc gone.moved 0 = some 7 ∧ 3 ∉ gone.portsDown ∧
        behind gone.inbox 3 (frameOf (.read 7 0 0 (addrOf 2 0x100) 4)) = false) ∧
      (let s : State := { receiving (.answer 9 []) with bufs := [sent (.write [1]) 6], arg := .id 9 };
       s.inFlight 9 = some (sent (.write [1]) 6) ∧ (sent (.write [1]) 6).op ≠ 0 ∧ s.op? 6 = none ∧ (s.team? 0).any (fun t => decide (t.spec = none)) = true) ∧
      (let s := receiving (.check 7 0 0 (addrOf 2 0) 4 2 true false);
       (s.ctx? 0).any (fun c => inPartition s.nPart c.part 0) = true ∧ objId (addrOf 2 0) ≠ 0 ∧
         (s.sliceRange 0 0 0 (fun i => farAddr (addrOf 2 0) (BitVec.ofNat 64 (i * 4))) 2 4 true).isNone = true ∧
         (s.sliceRange 0 0 0 (fun i => farAddr (addrOf 9 0) (BitVec.ofNat 64 (i * 4))) 2 4 true).isSome = true) ∧
      (receiving (.answer 9 [])).checkFar 0 0 (addrOf 1 0x100) ([1, 0, 0, 0] : List Byte).length true = .err .mprm ∧
      (receiving (.answer 9 [])).inFlight 9 = none ∧ 3 ∈ ({ demo with portsDown := [3] } : State).portsDown := by
  decide +kernel

/-- A mailbox whose command words are given, and whose response is done or not. -/
def mbOf (cmd : List Word) (done : Bool) : Mailbox :=
  { Mailbox.initial with cmd := cmd ++ List.replicate (8 - cmd.length) 0, resp := (if done then 1 else 0) :: List.replicate 7 0 }

/-- The demo device with a mailbox of the device, or of its context, and a step's argument. -/
def mailing (who : Option Nat) (cmd : List Word) (done : Bool) (arg : EvArg) : State :=
  match who with
  | none => { paging [] false with arg := arg, bufs := [], devMb := mbOf cmd done }
  | some _ => { paging [] false with arg := arg, bufs := [], contexts := (paging [] false).contexts.map fun e => (e.1, { e.2 with mb := mbOf cmd done }) }

/-- `Claims`' Mailboxes: word 0 written to a mailbox that is done, with a command that it accepts and one that it does not, and to one that is not done; the other
words; the head of the queue; an offset that holds nothing; the page of no context; a command that waits when the device halts. -/
theorem witness_mailboxes :
    (∀ done ∈ [false, true], ∀ who ∈ ([none, some 0] : List (Option Nat)),
        (let s := mailing who [] done .none;
         s.mailbox who = some (mbOf [] done) ∧ (mbOf [] done).done = done ∧ s.stage = .stage2 ∧ (mbOf [] done).resp.length = 8)) ∧
      (demo.accepts none 0x80 = true ∧ demo.accepts none 1 = false ∧ demo.accepts (some 0) 1 = true ∧ demo.accepts (some 0) 0x80 = false) ∧ (255 : Nat) < 2 ^ 8 ∧
      (demo.mailbox (some 9)).isSome = true ∧ (9 : Nat) < 256 ∧
      (∀ c ∈ ([(none, 0x80), (some 0, 0x02)] : List (Option Nat × Nat)),
        (let s : State := { mailing c.1 [BitVec.ofNat 64 c.2] false (.mb c.1) with stage := .halted };
         s.mailbox c.1 = some (mbOf [BitVec.ofNat 64 c.2] false) ∧ (mbOf [BitVec.ofNat 64 c.2] false).pending c.2 = true ∧
           s.accepts c.1 ((mbOf [BitVec.ofNat 64 c.2] false).cmd.getD 0 0) = false)) := by
  decide +kernel

/-- A job of two phases whose group 3 has core 0 as a member. -/
def jobOf (kind : Nat) : JobDesc :=
  { record := [addrOf 1 64, 0, 1, 0, 0, BitVec.ofNat 64 (2 ^ 32 * kind), 0, 0], phases := 2, groups := List.replicate 3 [] ++ [[1, 0, 1, 0]], reserve := 0 }

/-- An image of a data object of one page in one column, its page a first-touch page; `ncol` is its number of columns. -/
def imageOf (ncol : Nat) : ObjImage :=
  { words := [BitVec.ofNat 64 (2 * 6 + 32), 65536, 0, 1, BitVec.ofNat 64 (2 ^ 10 * ncol), 0, 0, 0], code := false, pages := [], firstTouch := true }

/-- `Claims`' ContextCommands: START_JOB of a job that is admitted, one that is not, and one whose groups are not free; MB_CANCEL with room in the intake and
without; MB_STATUS; CREATE_OBJECT of an image that is admitted and of one that is not; DELETE_OBJECT of an object, and of none. -/
theorem witness_context_commands :
    (let s := mailing (some 0) [1] false (.job 0 (jobOf 0));
       s.accepts (some 0) 1 = true ∧ (s.ctx? 0).any (fun c => c.mb.pending 1 && s.jobOk c (jobOf 0) && !s.jobOk c (jobOf 1) && s.groupsFree 0 c (jobOf 0)) = true ∧ s.intake.length < 512 ∧
         6 < (jobOf 0).record.length) ∧
      (let s : State := { mailing (some 0) [1] false (.job 0 (jobOf 0)) with columns := (posting false (some 0)).columns };
       (s.ctx? 0).any (fun c => s.jobOk c (jobOf 0) && !s.groupsFree 0 c (jobOf 0)) = true) ∧
      (∀ k ∈ ([2, 3, 0x10, 0x11] : List Nat), ((mailing (some 0) [BitVec.ofNat 64 k, 2] false (.mb (some 0))).ctx? 0).any (fun c => c.mb.pending k) = true ∧
        (mailing (some 0) [BitVec.ofNat 64 k, 2] false (.mb (some 0))).accepts (some 0) (BitVec.ofNat 64 k) = true) ∧
      512 ≤ (List.replicate 512 ({ clk := 0, col := 512, entry := .cancel 0 0 } : Arrival)).length ∧
      (objOfImage (imageOf 1)).distOk = true ∧ (objOfImage (imageOf 0)).distOk = false ∧
      (let s := mailing (some 0) [0x10] false (.obj 0 (imageOf 1));
       s.entriesOk 0 (objOfImage (imageOf 1)) (imageEntries 7 (imageOf 1) (objOfImage (imageOf 1)) 0) = true ∧ imageEntries 7 (imageOf 1) (objOfImage (imageOf 1)) 0 = []) ∧
      (let s := mailing (some 0) [0x11, 2] false (.mb (some 0));
       (s.ctx? 0).any (fun c => (assoc c.objs 2).any (fun o => !o.snap) && (assoc c.objs 9).isNone) = true) ∧ ((mailing (some 0) [] true (.mb (some 0))).ctx? 0).any (fun c => c.mb.done) = true := by
  decide +kernel

/-- The device with a command in its mailbox, no context, and one local partition in the installation. -/
def admin (cmd : List Word) (arg : EvArg) : State :=
  { State.reset with
    stage := .stage2
    arg := arg
    devMb := mbOf cmd false
    install := [(5, { part := some 0, mac := 0, unreachable := false }), (7, { part := none, mac := 1, unreachable := true })] }

/-- `Claims`' DeviceCommands: each command with its conditions met, and with each of them not met. -/
theorem witness_device_commands :
    (∀ k ∈ ([0x80, 0x81, 0x82, 0x83, 0x86] : List Nat), (admin [BitVec.ofNat 64 k] .none).devMb.pending k = true ∧ (admin [BitVec.ofNat 64 k] .none).accepts none (BitVec.ofNat 64 k) = true) ∧ (admin [] .none).contexts = [] ∧ demo.contexts ≠ [] ∧
      (assoc (admin [] .none).install 5).any (fun e => e.part == some 0) = true ∧ (assoc (admin [] .none).install 7).any (fun e => e.part == none) = true ∧
      (admin [] .none).deviceOf 0 = some 5 ∧ (admin [] .none).deviceOf 1 = none ∧ ((List.range 256).find? fun x => ((admin [] .none).ctx? x).isNone) = some 0 ∧
      (let s1 : State := { admin [] .none with contexts := [(0, (admin [] .none).newContext 0 5 65536 (addrOf 0xFFFF 0))] };
       ((s1.modCtx 0 fun c => { c with tvec := addrOf 3 0, objs := [(3, supervisorObj (admin [] .none) 0 0)] }).loadSupervisor 0 3 0 []).isSome = true) ∧
      (let s := recording [];
       (∃ e ∈ s.units, e.2.level = .job ∧ e.2.done = false ∧ e.2.dropped = false ∧ e.2.ctx = 0) ∧ (s.units.map (·.1)).Nodup) ∧
      (let s : State := { demo with wgs := [(0, { placedWg with st := .retired })] };
       (∀ e ∈ s.units, e.2.ctx = 0 → e.2.level = .job → e.2.done = true) ∧ (∀ e ∈ s.wgs, s.ctxOfWg e.1 = 0 → e.2.st ≠ .resident)) ∧
      (mbOf [] true).done = true := by
  decide +kernel

/-- A firmware image of a version, with the signature that the holder of the ROM key makes over it. -/
def fwOf (v : BitVec 6) : FwImage := { bytes := [1, 2], sig := Config.slhSign Config.romKey [1, 2, v.setWidth 8], version := v }

/-- Its signature passes the check. -/
theorem fw_signed (v : BitVec 6) : Config.slhVerify Config.romKey ((fwOf v).bytes ++ [(fwOf v).version.setWidth 8]) (fwOf v).sig = true := by
  simp [fwOf, Config.slhVerify]

/-- What stage 1 reports: stack 2 not trained, core 3 of die 1 failed, so that logical core 19 is served by the spare. -/
def repOf : BringUp :=
  { badStacks := [2], badCores := [17 + 3], remap := remapInitial.map fun e => if e.1 = 19 then (19, 16) else e, firmware := fwOf 4 }

/-- The device in a stage, its rollback counter at 3. -/
def inStage (st : Stage) (arg : EvArg) : State :=
  { State.reset with stage := st, arg := arg, rollback := 3, removed := [(1, 1)], recorded := [(1, 1)], m1 := 5, m2 := 6, mem := [(5, 5)], poison := [1] }

/-- `Claims`' BringUp: a device in Reset and one that is not; in stage 0 an image staged before the start that passes, a named one that does, and one of a lower
version, which does not; in stage 1 a remap that is admitted, and one that is not; a resident workgroup at the critical temperature. (`fw_signed`) -/
theorem witness_bring_up :
    (inStage .reset .none).stage = .reset ∧ (inStage .stage0 .none).stage ≠ .reset ∧
      (inStage .stage0 .none).boot = none ∧ ({ inStage .stage0 .none with boot := some (fwOf 3) } : State).boot.isSome = true ∧
      (inStage .stage0 .none).rollback.toNat ≤ (fwOf 3).version.toNat ∧
      (fwOf 2).version.toNat < (inStage .stage0 .none).rollback.toNat ∧ remapOk repOf.badCores repOf.remap = true ∧
      remapOk repOf.badCores remapInitial = false ∧ (inStage .stage1 .none).rollback.toNat ≤ repOf.firmware.version.toNat ∧
      demo.wg? 0 = some placedWg ∧ placedWg.teams.head? = some 0 ∧ demo.team? 0 = some demoTeam ∧ demoTeam.wg = 0 := by
  decide +kernel

/-- `Claims`' FirmwareAndAttestation: an image that passes (`fw_signed`), in stage 2 and in recovery, and one of a lower version, which does not; a report whose buffer is
mapped, and one whose is not. -/
theorem witness_firmware_and_attestation :
    (∀ k ∈ ([0x84, 0x85] : List Nat), (mbOf [BitVec.ofNat 64 k] false).pending k = true ∧
        (∀ st ∈ [Stage.stage0, .stage1, .stage2, .recovery], (inStage st .none).accepts none (BitVec.ofNat 64 k) = true)) ∧ (mbOf [] false).resp.length = 8 ∧ Memory.wf (inStage .stage2 .none).hostMem = true ∧
      (inStage .recovery .none).rollback.toNat ≤ (fwOf 3).version.toNat ∧
      (fwOf 2).version.toNat < (inStage .stage2 .none).rollback.toNat ∧ (inStage .recovery .none).stage = .recovery := by
  decide +kernel

/-- A device whose next turn is the agent's, at the one slot of its clause, which holds a word. -/
def turnOf (a : Agent) (w : Nat) : State :=
  let s := match a with
    | .team _ => boundary demoTeam [demoHdr.toNat, w]
    | .copy _ => { streamBoundary false false with mem := (boundary demoTeam [engHdr false, w]).mem }
    | .matrix _ => { streamBoundary true false with mem := (boundary demoTeam [engHdr true, w]).mem }
  let start (x : Stream) : Stream := { x with started := true, words := [BitVec.ofNat 64 w], hdr := BitVec.ofNat 64 (match a with | .matrix _ => engHdr true | _ => engHdr false) }
  { s with
    sched := [.issue a]
    columns := [(0, { Column.initial with dp := some 0, mxHolder := some 0 })]
    teams := s.teams.map fun e => (e.1, match a with
      | .team _ => { e.2 with started := true, hdr := demoHdr }
      | .copy _ => { e.2 with copy := e.2.copy.map start }
      | .matrix _ => { e.2 with mtx := e.2.mtx.map start }) }

/-- `StepRunsDecoded`: a team, a copy stream and a matrix stream before a word that decodes, and before one that does not; a turn that names a step of the machine, and
one that does not. -/
theorem witness_step_runs_decoded :
    (∀ w ∈ ([0xB300000000000000, 0xFFC0000000000000] : List Nat),
        (let s := turnOf (.team 0) w;
         let z := s.tidy;
         let t := teamOf z 0;
         s.turn = .issue (.team 0) ∧ z.stage = .stage2 ∧ z.team? 0 = some t ∧ t.started = true ∧ t.pc = addrOf 1 64 ∧ t.slot = 0 ∧ (z.column (z.colOf t)).dp = some 0 ∧
           z.fenceHolds 0 .I z.seq = false ∧ z.ctxOf t = 0 ∧ z.colOf t = 0 ∧
           (z.obj? 0 1 0).any (fun o => !o.sup && decide (80 ≤ o.bound) && (z.pte (page0 1) o).p && (z.pte (page0 1) o).x && (z.pte (page0 1) o).col == 0 &&
             (z.pte (page0 1) o).tier == 0 && (z.pte (page0 1) o).frame == 0) = true ∧ z.poison = [] ∧
           ((List.range 8).map fun j => (z.byteAt (physKey 0 0 0 72 + j)).toNat * 2 ^ (8 * j)).sum = w)) ∧
      (∀ e ∈ ([(false, 0xC3C0000000000000), (false, 0xC3C0000000000001), (true, 0xD3C0000000000000), (true, 0xD3C0000000000001)] : List (Bool × Nat)),
        (let a : Agent := if e.1 then .matrix 0 else .copy 0;
         let s := turnOf a e.2;
         let z := s.tidy;
         let t := teamOf z 0;
         s.turn = .issue a ∧ z.stage = .stage2 ∧ z.team? 0 = some t ∧ z.streamsRun t = true ∧ (z.column (z.colOf t)).mxHolder = some 0 ∧
           (t.stream e.1).any (fun x => x.started && !x.halted && !x.stopped && x.cwait == 0 && (x.words.getD x.slot 0).toNat == e.2) = true)) ∧
      (decodeWord 0xB300000000000000).isSome = true ∧ decodeWord 0xFFC0000000000000 = none ∧ (decodeWord 0xC3C0000000000000).isSome = true ∧
      decodeWord 0xC3C0000000000001 = none ∧ (decodeWord 0xD3C0000000000000).isSome = true ∧ decodeWord 0xD3C0000000000001 = none ∧
      ({ demo with sched := [.ev .powerGood .none] } : State).turn = .ev .powerGood .none ∧ Instr.powerGood.isStep = true ∧
      ({ demo with sched := [.ev .nop .none] } : State).turn = .ev .nop .none ∧ Instr.nop.isStep = false := by
  decide +kernel

/-- `ChecksComeFirst`: a team's instruction that names a register that its team does not have, one that names either flag where the header gives neither, one that a
scratchpad access holds, and one that it does not, with an operand pending; a stream's command that names such a
register. -/
theorem witness_checks_come_first :
    (let i : Instr := .vadd { v0 with ty := .n32, d := 200 };
       i.isStep = false ∧ demo.cur = .team 0 ∧ demo.team? 0 = some demoTeam ∧ demoTeam.started = true ∧ demoTeam.priv = false ∧ demoTeam.spec = none ∧
         i.flagSel = (false, false) ∧ demoTeam.admits i false false = false) ∧
      (∀ fs ∈ [false, true],
        (let i : Instr := .vadd { v0 with ty := .n32, se := true, fs := fs };
         let t : Team := { demoTeam with hdr := 0 };
         i.flagSel = (true, fs) ∧ t.hdr.getLsbD (if fs then 38 else 43) = false ∧ demoTeam.admits i true fs = true)) ∧
      (let s : State := { demo with ops := (after (.lds { m0 with ty := .n32, d := 8 }) demo).ops ++ (after (.lds { m0 with ty := .n32, d := 9 }) { demo with nextId := 2, seq := 5 }).ops };
       (∀ b ∈ [false, true], ({ s with ops := if b then s.ops else [] } : State).portHeld 0 = b) ∧ demoTeam.admits (.vadd { v0 with ty := .n32 }) false false = true) ∧
      (let s : State := { demo with ops := [{ (default : Op) with id := 7, agent := .team 0, team := 0, dests := [.v 3] }] };
       demoTeam.admits (.vadd { v0 with ty := .n32, a := 3 }) false false = true ∧ s.portHeld 0 = false ∧
       ∃ x ∈ (Instr.vadd { v0 with ty := .n32, a := 3 }).rule.uses, (useSource x).any (fun d => s.pendingDest 0 d) = true) ∧
      (let x := engStream false [];
       let t := engTeam false [];
       (engOf false []).cur = .copy 0 ∧ (engOf false []).team? 0 = some t ∧ t.stream false = some x ∧ x.started = true ∧ x.halted = false ∧ x.stopped = false ∧
         Instr.flagSel (.cpy { cpyForm with sop := 100 }) = (false, false) ∧ x.admits t (.cpy { cpyForm with sop := 100 }) false false false = false ∧ t.pendCopy = none ∧ t.st ≠ .retiring ∧ t.dying = false) := by
  decide +kernel

/-- `State.Orderly`, for a device whose contexts are all at home, none of whose workgroups has matrix state saved, as a test. -/
def orderlyTest (s : State) : Bool :=
  decide ((s.teams.map (·.1)).Nodup) && decide ((s.wgs.map (·.1)).Nodup) && decide ((s.units.map (·.1)).Nodup) &&
    (s.units.all fun e => decide (e.1 < s.nextId)) && (s.teams.all fun e => storedTest e.2) && (s.wgs.all fun e => decide (e.2.savedMx = none)) &&
    (s.columns.all fun e => (List.range 4).all (fun n => Store.wf (e.2.mx.accA n)) && (List.range 6).all fun n => Store.wf (e.2.mx.accW n)) &&
    Memory.wf s.hostMem && s.elsewhere.isEmpty

/-- What the test says. -/
theorem orderly_of_test {s : State} (h : orderlyTest s = true) : s.Orderly := by
  simp only [orderlyTest, Bool.and_eq_true, decide_eq_true_eq, List.all_eq_true, List.isEmpty_iff, List.mem_range] at h
  obtain ⟨⟨⟨⟨⟨⟨⟨⟨h1, h2⟩, h3⟩, h4⟩, h5⟩, h6⟩, h7⟩, h8⟩, h9⟩ := h
  refine ⟨⟨h1, h2, h3, h4, fun e he => stored_of_test (h5 e he), fun e he u m hm => by simp [h6 e he] at hm⟩, fun c => ?_, h8, by simp [h9]⟩
  unfold State.column
  cases hc : assoc s.columns c with
  | some k => exact ⟨fun n hn => (h7 _ (mem_of_assoc hc)).1 n hn, fun n hn => (h7 _ (mem_of_assoc hc)).2 n hn⟩
  | none => exact ⟨fun n hn => by interval_cases n <;> rfl, fun n hn => by interval_cases n <;> rfl⟩

/-- `MemoryStaysCanonical`, `StateStaysOrderly`, and the statements that speak of orderly states: such states, one of which has a next state. -/
theorem witness_invariants :
    (canonTest demo = true ∧ orderlyTest { demo with nextId := 1 } = true ∧ orderlyTest (recording []) = true ∧
      orderlyTest { cancelling 0 false with nextId := 1 } = true ∧ orderlyTest { mailing (some 0) [1] false (.job 0 (jobOf 0)) with nextId := 1 } = true) ∧
    ∃ s', step { demo with nextId := 1, sched := [.ev .powerGood .none] } = .next s' :=
  ⟨by decide +kernel, _, rfl⟩

/-- `DecodingUndoesEncoding` and `EncodingUndoesDecoding`: a well-formed instruction, and a word that decodes. -/
theorem witness_encoding :
    Instr.wellFormed (.vcmp { v0 with ty := .n32, d := 3, a := 2, b := 9, sub := 2 }) = true ∧
    decodeWord 0x24180C0824000002 = some (.vcmp { v0 with ty := .n32, d := 3, a := 2, b := 9, sub := 2 }) := by
  decide

/-- `ContextCommands` and `DeviceCommands`: a context has a next identifier whatever the free choice of log 9, as two numbers are unused. -/
theorem free_id (s : State) (x i j : Nat) (c : Context) (h : s.ctx? x = some c) (hij : i ≠ j) (hi : 0 < i ∧ i < 0xFFFF ∧ assoc c.objs i = none)
    (hj : 0 < j ∧ j < 0xFFFF ∧ assoc c.objs j = none) : ∃ id, s.freeIds x 1 = some [id] := by
  unfold State.freeIds
  rw [h]
  dsimp only
  have key : ∀ l : List Nat, l ≠ [] → ∃ id, (if 1 ≤ l.length then some (l.take 1) else none) = some [id] := fun l hl => by
    cases l with
    | nil => exact absurd rfl hl
    | cons a t => exact ⟨a, by simp⟩
  apply key
  intro e
  have hf := (List.append_eq_nil_iff.1 e).2
  rw [List.filter_eq_nil_iff] at hf
  have a1 := hf i (List.mem_range.2 hi.2.1)
  have a2 := hf j (List.mem_range.2 hj.2.1)
  simp only [hi.2.2, hj.2.2, Option.isSome_none, Bool.or_false, Bool.and_eq_true, Bool.not_eq_true', Bool.or_eq_false_iff, beq_eq_false_iff_ne, bne_iff_ne,
    ne_eq, not_and, not_not] at a1 a2
  exact hij ((a1 ⟨by omega, by omega⟩).trans (a2 ⟨by omega, by omega⟩).symm)

/-- A list of pairs with a key has something for the key. -/
theorem assoc_of_mem {α : Type} (l : List (Nat × α)) (i : Nat) (v : α) (h : (i, v) ∈ l) : (assoc l i).isSome = true := by
  induction l with
  | nil => simp at h
  | cons a t ih =>
    rcases List.mem_cons.1 h with h | h
    · simp [assoc, ← h]
    · simp only [assoc]
      split
      · rfl
      · exact ih h

/-- The demo device whose context has given out every identifier. -/
def crowded : State := { memOf demoTeam with contexts := [(0, { demoCtx with objs := (List.range 65535).map fun i => (i, placedCode) })] }

/-- `ContextCommands` and `Claims`' CatalogueMakes: no identifier is left. -/
theorem witness_no_free_ids : crowded.freeIds 0 1 = none := by
  have all : ∀ i, i < 65535 → (assoc ((List.range 65535).map fun i => (i, placedCode)) i).isSome = true := fun i h =>
    assoc_of_mem _ i placedCode (List.mem_map.2 ⟨i, List.mem_range.2 h, rfl⟩)
  have hc : crowded.ctx? 0 = some { demoCtx with objs := (List.range 65535).map fun i => (i, placedCode) } := rfl
  unfold State.freeIds
  rw [hc]
  dsimp only
  rw [if_neg]
  have hid : (Config.objId crowded.free).toNat < 65536 := BitVec.isLt _
  have used : ((Config.objId crowded.free).toNat == 0 || (Config.objId crowded.free).toNat == 0xFFFF ||
      (assoc ((List.range 65535).map fun i => (i, placedCode)) (Config.objId crowded.free).toNat).isSome) = true := by
    by_cases h : (Config.objId crowded.free).toNat < 65535
    · rw [all _ h]; simp
    · have : (Config.objId crowded.free).toNat = 65535 := by omega
      rw [this]; rfl
  rw [if_pos used]
  have none_left : (List.range 0xFFFF).filter (fun i => !(i == 0 || i == 0xFFFF ||
      (assoc ((List.range 65535).map fun i => (i, placedCode)) i).isSome) && i != (Config.objId crowded.free).toNat) = [] := by
    rw [List.filter_eq_nil_iff]
    intro i hi
    rw [all i (List.mem_range.1 hi)]
    simp
  rw [none_left]
  simp

/-- A context's supervisor code object of no words takes no page, whatever its identifier. -/
theorem load_nothing (s : State) (x id p : Nat) : s.loadSupervisor x id p [] = some s := by
  have none_todo : ∀ (ps : List Nat), (ps.flatMap fun c => (List.range (pageCount (wordBytes []).length)).map fun q => (c, q)) = [] := fun ps => by
    induction ps with
    | nil => rfl
    | cons a t ih => rw [List.flatMap_cons, ih]; rfl
  unfold State.loadSupervisor
  dsimp only
  rw [none_todo]
  rfl

/-- The device that has made an empty context. -/
def adminCtx : State := { admin [] .none with contexts := [(0, (admin [] .none).newContext 0 5 65536 (addrOf 0xFFFF 0))] }

/-- The states of `witness_context_commands` and `witness_device_commands` have such an identifier, with which a supervisor code object of no words loads. -/
theorem witness_free_ids :
    (∃ id, (mailing (some 0) [0x10] false (.obj 0 (imageOf 1))).freeIds 0 1 = some [id]) ∧
    ∃ id s3, adminCtx.freeIds 0 1 = some [id] ∧
      (adminCtx.modCtx 0 fun c => { c with tvec := addrOf id 0, objs := [(id, supervisorObj (admin [] .none) 0 0)] }).loadSupervisor 0 id 0 [] = some s3 := by
  refine ⟨free_id _ 0 8 9 _ rfl (by decide) ⟨by decide, by decide, rfl⟩ ⟨by decide, by decide, rfl⟩, ?_⟩
  obtain ⟨id, h⟩ := free_id adminCtx 0 8 9 _ rfl (by decide) ⟨by decide, by decide, rfl⟩ ⟨by decide, by decide, rfl⟩
  exact ⟨id, _, h, load_nothing _ _ _ _⟩

end Sys2Proof.Tests
end

section
/-!
PROOF. The family 00_scope.md. `Obligations.FailuresAreContained` (O49) fails: its part on REGISTER_UNCORRECTABLE says of every state that a team outside
the fatal workgroup keeps its registers, and does not ask that the outstanding operations have numbers of their own.
-/

namespace Sys2Proof.Scope

open Sys2Proof.Machine

/-- A workgroup that is resident in column 0, with one team. -/
def residentWg (u : Nat) : Workgroup := { (default : Workgroup) with st := .resident, teams := [u] }

/-- An active team of a workgroup, with every register zero. -/
def activeTeam (w : Nat) : Team := { (default : Team) with wg := w, st := .active }

/-- An integer operation that has issued, number 5, which will write scalar 0 of its team. -/
def pendingScalar (u : Nat) : Op :=
  { Op.blank 5 (.team u) u 0 .alu with dests := [.s 0], writes := [.s 0 7] }

/-- Teams 0 and 1, alone in workgroups 0 and 1, each with an operation outstanding; the two operations share the number 5, and team 1's stands first.
The step's operand names team 0. -/
def sharedNumber : State :=
  { State.reset with
    arg := .id 0
    wgs := [(0, residentWg 0), (1, residentWg 1)]
    teams := [(0, activeTeam 0), (1, activeTeam 1)]
    ops := [pendingScalar 1, pendingScalar 0] }

/-- REGISTER_UNCORRECTABLE of team 0 writes scalar 0 of team 1, which is none of the fatal workgroup's teams: what a killed team has issued performs its
writes first (R242), and `State.performFirst`, which looks it up by number, finds and completes the operation of team 1. -/
theorem exec_registerUncorrectable_sharedNumber :
    ∃ s', exec .registerUncorrectable sharedNumber = .next s' ∧ (s'.team? 1).map Team.sregs = some [(0, 7)] :=
  ⟨_, rfl, by decide +kernel⟩

/-- Refutes O49, in its part on REGISTER_UNCORRECTABLE: where operations of two teams share a number (no hypothesis excludes it; the statement on KILL
has one that does), the fatal team's end completes the other team's operation, so that a team outside the workgroup does not keep its registers. -/
theorem not_failuresAreContained : ¬ Obligations.FailuresAreContained := by
  unfold Obligations.FailuresAreContained Claims.FailuresAreContained
  rintro ⟨-, ⟨registerUncorrectable, -⟩, -⟩
  obtain ⟨s', hexec, -, -, -, keepsOthers, -⟩ :=
    (registerUncorrectable sharedNumber 0 (activeTeam 0) (residentWg 0) rfl rfl rfl).1 rfl
  obtain ⟨t', hteam, sameRegs, -⟩ := keepsOthers 1 (activeTeam 1) (by decide) rfl
  obtain ⟨s'', hexec', hwritten⟩ := exec_registerUncorrectable_sharedNumber
  obtain rfl : s' = s'' := by
    rw [hexec] at hexec'
    exact Host.Outcome.next.inj hexec'
  have kept : t'.sregs = [] := sameRegs.1
  have written : t'.sregs = [(0, 7)] := by simpa [hteam] using hwritten
  simp [kept] at written

end Sys2Proof.Scope
end

section
/-!
PROOF. The family of the document on number forms, first part. `Obligations.RoundingIsExact` (O9) holds. A rounding is cut into an integer and a
fraction (`RoundsTo`), and `shiftRound` is that for a shift within the significant bits and for a greater one; sums are integer multiples of one power
of two, a quotient's sticky bit is its remainder, and `isqrt` is `Nat.sqrt`.
-/

namespace Sys2Proof.Rounding

open Sys2Proof.Machine

/-! ### The rounding step (R26, R157) -/

/-- A mode rounds the magnitude q + f, of a given sign, up to q + 1 (R26). -/
def roundsUp (mode : RMode) (neg : Bool) (q : Nat) (f : ℝ) : Prop :=
  match mode with
  | .rn => 1 / 2 < f ∨ (f = 1 / 2 ∧ q % 2 = 1)
  | .rz => False
  | .rd => neg = true ∧ 0 < f
  | .ru => neg = false ∧ 0 < f

/-- r is the rounding of v in a mode: v is an integer and a fraction, and r the integer or the next one, as the mode says. -/
def RoundsTo (mode : RMode) (neg : Bool) (v : ℝ) (r : Nat × Bool) : Prop :=
  ∃ (q : Nat) (f : ℝ), 0 ≤ f ∧ f < 1 ∧ v = q + f ∧ (r.2 = true ↔ 0 < f) ∧
    (r.1 = q + 1 ∧ roundsUp mode neg q f ∨ r.1 = q ∧ ¬ roundsUp mode neg q f)

/-- The choice that `shiftRound` makes between q and q + 1 is that of the mode, when it decides "inexact" and "above half" as the fraction is. -/
theorem roundsTo_of_parts {mode : RMode} {neg inexact above : Bool} {q : Nat} {f v : ℝ} (h0 : 0 ≤ f) (h1 : f < 1) (hv : v = q + f)
    (hx : inexact = true ↔ 0 < f) (ha : above = true ↔ 1 / 2 < f ∨ (f = 1 / 2 ∧ q % 2 = 1)) :
    RoundsTo mode neg v
      (if (match mode with | .rn => above | .rz => false | .rd => neg && inexact | .ru => !neg && inexact) then q + 1 else q, inexact) := by
  refine ⟨q, f, h0, h1, hv, hx, ?_⟩
  cases mode <;> simp only [roundsUp, ← hx, ← ha]
  case rn => cases above <;> simp
  case rz => simp
  case rd => cases neg <;> cases inexact <;> simp
  case ru => cases neg <;> cases inexact <;> simp

/-- A remainder of a division by 2^(k+1), with what lies below it, compared with a half. -/
theorem half_lt_iff {k rem : Nat} {d : ℝ} (h0 : 0 ≤ d) (h1 : d < 1) :
    (1 / 2 < ((rem : ℝ) + d) / 2 ^ (k + 1) ↔ 2 ^ k < rem ∨ (rem = 2 ^ k ∧ 0 < d)) ∧
    (((rem : ℝ) + d) / 2 ^ (k + 1) = 1 / 2 ↔ rem = 2 ^ k ∧ d = 0) := by
  have hp : (0 : ℝ) < 2 ^ (k + 1) := by positivity
  have hk : (2 : ℝ) ^ (k + 1) = 2 * ((2 ^ k : Nat) : ℝ) := by push_cast; ring
  rw [lt_div_iff₀ hp, div_eq_iff hp.ne', hk]
  generalize 2 ^ k = h
  rcases lt_trichotomy rem h with hlt | rfl | hgt
  · have : (rem : ℝ) + 1 ≤ h := by exact_mod_cast hlt
    constructor <;> constructor <;> intro g
    · exfalso; linarith
    · omega
    · exfalso; linarith
    · omega
  · constructor <;> constructor <;> intro g
    · exact .inr ⟨rfl, by linarith⟩
    · rcases g with g | g
      · omega
      · linarith [g.2]
    · exact ⟨rfl, by linarith⟩
    · linarith [g.2]
  · have : (h : ℝ) + 1 ≤ rem := by exact_mod_cast hgt
    constructor <;> constructor <;> intro g
    · exact .inl hgt
    · linarith
    · exfalso; linarith
    · omega

/-- A shift by no more than the significant bits and two: quotient and remainder are the value's. -/
theorem shiftRound_roundsTo_of_le (mode : RMode) (neg : Bool) {sticky : Bool} {m shift : Nat} {d : ℝ} (h0 : 0 ≤ d) (h1 : d < 1)
    (hs : sticky = true ↔ 0 < d) (hp : sticky = true → 1 ≤ shift) (hle : shift ≤ Nat.log2 m + 3) :
    RoundsTo mode neg (((m : ℝ) + d) / 2 ^ shift) (shiftRound mode neg m sticky shift) := by
  have hpos : (0 : ℝ) < 2 ^ shift := by positivity
  have hrem : ((m % 2 ^ shift : Nat) : ℝ) + 1 ≤ 2 ^ shift := by exact_mod_cast Nat.mod_lt m (Nat.two_pow_pos shift)
  have hdiv : (m : ℝ) = 2 ^ shift * (m / 2 ^ shift : Nat) + (m % 2 ^ shift : Nat) := by exact_mod_cast (Nat.div_add_mod m (2 ^ shift)).symm
  have hr0 : (0 : ℝ) ≤ (m % 2 ^ shift : Nat) := by positivity
  simp only [shiftRound, min_eq_left hle]
  refine roundsTo_of_parts (f := (((m % 2 ^ shift : Nat) : ℝ) + d) / 2 ^ shift) (by positivity) ?_ ?_ ?_ ?_
  · rw [div_lt_one hpos]; linarith
  · rw [div_eq_iff hpos.ne', add_mul, div_mul_cancel₀ _ hpos.ne']; linarith
  · rw [div_pos_iff_of_pos_right hpos]
    have : sticky = false → d = 0 := fun h => le_antisymm (not_lt.1 fun g => by simp [hs.2 g] at h) h0
    cases hst : sticky
    · simp only [this hst, add_zero, Bool.or_false, bne_iff_ne, ne_eq, Nat.cast_pos, Nat.pos_iff_ne_zero]
    · simp only [Bool.or_true, true_iff]; linarith [hs.1 hst]
  · cases shift with
    | zero =>
      have hf : sticky = false := by cases sticky <;> simp_all
      have hd : d = 0 := le_antisymm (not_lt.1 fun g => by simp [hs.2 g] at hf) h0
      simp [hd, Nat.mod_one]
    | succ k =>
      obtain ⟨hlt, heq⟩ := half_lt_iff (k := k) (rem := m % 2 ^ (k + 1)) h0 h1
      rw [hlt, heq]
      have hd : d = 0 ↔ ¬ 0 < d := ⟨fun h => by simp [h], fun h => le_antisymm (not_lt.1 h) h0⟩
      rw [hd, ← hs]
      cases sticky <;> simp

/-- A greater shift: the value is below a half. -/
theorem shiftRound_roundsTo_of_gt (mode : RMode) (neg : Bool) {sticky : Bool} {m shift : Nat} {d : ℝ} (h0 : 0 ≤ d) (h1 : d < 1)
    (hs : sticky = true ↔ 0 < d) (hgt : Nat.log2 m + 3 < shift) :
    RoundsTo mode neg (((m : ℝ) + d) / 2 ^ shift) (shiftRound mode neg m sticky shift) := by
  have hm : m < 2 ^ (Nat.log2 m + 1) := Nat.lt_log2_self
  have hpow : 2 ^ (Nat.log2 m + 1) < 2 ^ (Nat.log2 m + 2) ∧ 2 ^ (Nat.log2 m + 2) < 2 ^ (Nat.log2 m + 3) :=
    ⟨Nat.pow_lt_pow_right (by decide) (by omega), Nat.pow_lt_pow_right (by decide) (by omega)⟩
  have hpos : (0 : ℝ) < 2 ^ shift := by positivity
  have hsmall : ((m : ℝ) + d) / 2 ^ shift < 1 / 2 := by
    have h2 : m + 1 ≤ 2 ^ (shift - 1) := hm.trans_le (Nat.pow_le_pow_right (by decide) (by omega))
    have h3 : (m : ℝ) + 1 ≤ 2 ^ (shift - 1) := by exact_mod_cast h2
    have h4 : (2 : ℝ) ^ shift = 2 * 2 ^ (shift - 1) := by rw [← pow_succ']; congr 1; omega
    rw [div_lt_iff₀ hpos, h4]; linarith
  simp only [shiftRound, min_eq_right hgt.le, Nat.div_eq_of_lt (hm.trans (hpow.1.trans hpow.2)), Nat.mod_eq_of_lt (hm.trans (hpow.1.trans hpow.2))]
  refine roundsTo_of_parts (f := ((m : ℝ) + d) / 2 ^ shift) (by positivity) (by linarith) (by simp) ?_ ?_
  · rw [div_pos_iff_of_pos_right hpos, Bool.or_eq_true, hs, bne_iff_ne]
    rcases Nat.eq_zero_or_pos m with rfl | hm0
    · simp
    · have : (1 : ℝ) ≤ m := by exact_mod_cast hm0
      exact ⟨fun _ => by linarith, fun _ => .inl hm0.ne'⟩
  · have hhalf : ¬ 2 ^ (Nat.log2 m + 2) < m ∧ m ≠ 2 ^ (Nat.log2 m + 2) := by omega
    have hfalse : ¬ (1 / 2 < ((m : ℝ) + d) / 2 ^ shift ∨ ((m : ℝ) + d) / 2 ^ shift = 1 / 2 ∧ 0 % 2 = 1) := by
      rintro (g | g)
      · linarith
      · simp at g
    rw [iff_false_right hfalse]
    simp [hhalf]

/-- `shiftRound` rounds (m + d) ÷ 2^shift (R26). -/
theorem shiftRound_roundsTo (mode : RMode) (neg : Bool) {sticky : Bool} {m shift : Nat} {d : ℝ} (h0 : 0 ≤ d) (h1 : d < 1)
    (hs : sticky = true ↔ 0 < d) (hp : sticky = true → 1 ≤ shift) :
    RoundsTo mode neg (((m : ℝ) + d) / 2 ^ shift) (shiftRound mode neg m sticky shift) :=
  (Nat.lt_or_ge (Nat.log2 m + 3) shift).elim (shiftRound_roundsTo_of_gt mode neg h0 h1 hs) (shiftRound_roundsTo_of_le mode neg h0 h1 hs hp)

/-- What a rounding is, in the words of R26. -/
theorem roundingStep : Claims.RoundingStep := by
  intro mode neg sticky m shift d h0 h1 hs hp r v
  obtain ⟨q, f, hf0, hf1, hv, hx, hr⟩ := shiftRound_roundsTo mode neg h0 h1 hs hp (m := m) (shift := shift)
  change v = q + f at hv
  change r.2 = true ↔ 0 < f at hx
  change r.1 = q + 1 ∧ _ ∨ r.1 = q ∧ _ at hr
  rw [hx, hv]
  rcases hr with ⟨hr, hup⟩ | ⟨hr, hup⟩
  · have hpos : 0 < f := by cases mode <;> simp only [roundsUp] at hup <;> grind
    rw [hr]; push_cast
    refine ⟨⟨fun _ => by intro h; linarith, fun _ => hpos⟩, ?_, ?_, fun _ => ⟨by linarith, by linarith⟩⟩
    · rintro rfl
      have : (q : ℝ) + f - (q + 1) = -(1 - f) := by ring
      rw [this, abs_neg, abs_of_nonneg (by linarith)]
      rcases hup with hup | ⟨hup, hodd⟩
      · exact ⟨by linarith, fun h => by exfalso; linarith⟩
      · exact ⟨by linarith, fun _ => by omega⟩
    · rintro (rfl | ⟨rfl, rfl⟩ | ⟨rfl, rfl⟩) <;> simp [roundsUp] at hup
  · rw [hr]
    refine ⟨⟨fun h => by intro e; linarith, fun h => lt_of_le_of_ne hf0 fun e => h (by linarith)⟩, ?_, fun _ => ⟨by linarith, by linarith⟩, ?_⟩
    · rintro rfl
      rw [add_sub_cancel_left, abs_of_nonneg hf0]
      simp only [roundsUp, not_or, not_lt, not_and] at hup
      exact ⟨hup.1, fun h => by have := hup.2 h; omega⟩
    · rintro (⟨rfl, rfl⟩ | ⟨rfl, rfl⟩) <;> simp only [roundsUp, true_and, not_lt] at hup <;> exact ⟨by linarith, by linarith⟩

/-! ### Exact sums (R157, R174) -/

/-- The real number of a finite value, by its signed magnitude. -/
theorem real_fin (n : Bool) (m : Nat) (e : Int) : Val.real (.fin n m e) = (sgn n m : ℝ) * 2 ^ e := by
  cases n <;> simp [Val.real, sgn]

/-- An integer multiple of a power of two is what its exact value stands for. -/
theorem exOfInt_represents (i e : Int) (z : Bool) : (exOfInt i e z).represents ((i : ℝ) * 2 ^ e) := by
  refine ⟨0, le_rfl, zero_lt_one, by simp [exOfInt], ?_⟩
  simp only [exOfInt, add_zero]
  congr 1
  rcases lt_trichotomy i 0 with h | rfl | h
  · simp [h, h.ne, Nat.cast_natAbs, abs_of_neg h]
  · simp
  · simp [h.not_gt, h.ne', Nat.cast_natAbs, abs_of_pos h]

/-- The least exponent of some terms is no greater than the one it begins with, nor than that of any term. -/
theorem foldl_min_le (ts : List (Bool × (Nat × Int))) (a : Int) :
    ts.foldl (fun a t => min a t.2.2) a ≤ a ∧ ∀ t ∈ ts, ts.foldl (fun a t => min a t.2.2) a ≤ t.2.2 := by
  induction ts generalizing a with
  | nil => simp
  | cons t ts ih =>
    obtain ⟨h1, h2⟩ := ih (min a t.2.2)
    simp only [List.foldl_cons, List.mem_cons, forall_eq_or_imp]
    exact ⟨h1.trans (min_le_left _ _), h1.trans (min_le_right _ _), h2⟩

/-- The sum of terms whose exponents are at least e, as a multiple of 2^e. -/
theorem foldl_sgn_eq (ts : List (Bool × (Nat × Int))) (e a : Int) (h : ∀ t ∈ ts, e ≤ t.2.2) :
    ((ts.foldl (fun a t => a + sgn t.1 t.2.1 * (2 ^ (t.2.2 - e).toNat : Nat)) a : Int) : ℝ) * 2 ^ e =
      a * 2 ^ e + (ts.map fun x => Val.real (.fin x.1 x.2.1 x.2.2)).sum := by
  induction ts generalizing a with
  | nil => simp
  | cons t ts ih =>
    simp only [List.mem_cons, forall_eq_or_imp] at h
    have ht : (2 : ℝ) ^ t.2.2 = ((2 ^ (t.2.2 - e).toNat : Nat) : ℝ) * 2 ^ e := by
      rw [Nat.cast_pow, ← zpow_natCast, Int.toNat_of_nonneg (by omega), Nat.cast_ofNat, ← zpow_add₀ two_ne_zero, sub_add_cancel]
    rw [List.foldl_cons, ih _ h.2, List.map_cons, List.sum_cons, real_fin, ht]
    push_cast
    ring

/-- The sum of a list of terms is a multiple of the power of two that `sumEx` takes. -/
theorem sumEx_eq (mode : RMode) (ts : List (Bool × (Nat × Int))) : ∃ i e,
    sumEx mode ts = exOfInt i e (zeroSign mode (ts.map (·.1))) ∧ (i : ℝ) * 2 ^ e = (ts.map fun x => Val.real (.fin x.1 x.2.1 x.2.2)).sum := by
  refine ⟨_, _, rfl, ?_⟩
  rw [foldl_sgn_eq _ _ _ (foldl_min_le _ _).2]
  simp

/-- The sign of an exactly zero sum (R157). -/
theorem zeroSign_eq (mode : RMode) {ts : List (Bool × (Nat × Int))} (h : ts ≠ []) : zeroSign mode (ts.map (·.1)) =
    if ts.all fun x => x.1 then true else if ts.all fun x => !x.1 then false else decide (mode = .rd) := by
  cases ts with
  | nil => exact absurd rfl h
  | cons t ts =>
    rcases t with ⟨n, x⟩
    have hrd : (mode == .rd) = decide (mode = .rd) := rfl
    cases n
    · cases h : ts.all fun x => !x.1 <;> simp [zeroSign, List.all_map, Function.comp_def, h, hrd]
    · cases h : ts.all fun x => x.1 <;> simp [zeroSign, List.all_map, Function.comp_def, h, hrd]

/-- `sumEx` is the sum of its terms, and has the sign of R157 where that is zero. -/
theorem sumEx_exact (mode : RMode) (ts : List (Bool × Nat × Int)) (h : ts ≠ []) :
    (sumEx mode ts).represents (ts.map fun x => Val.real (.fin x.1 x.2.1 x.2.2)).sum ∧
    ((ts.map fun x => Val.real (.fin x.1 x.2.1 x.2.2)).sum = 0 →
      (sumEx mode ts).neg = if ts.all fun x => x.1 then true else if ts.all fun x => !x.1 then false else decide (mode = .rd)) := by
  obtain ⟨i, e, hs, hv⟩ := sumEx_eq mode ts
  rw [hs, ← hv, ← zeroSign_eq mode h]
  refine ⟨exOfInt_represents i e _, fun h0 => ?_⟩
  have hi : i = 0 := by simpa [zpow_ne_zero] using h0
  simp [exOfInt, hi]

/-! ### Exact quotients (R174) -/

/-- `divEx` is the quotient: its remainder, over the divisor, is the part that the sticky bit stands for. -/
theorem divEx_represents (an bn : Bool) (am bm : Nat) (ae be : Int) (hb : bm ≠ 0) :
    (divEx an am ae bn bm be).represents (Val.real (.fin an am ae) / Val.real (.fin bn bm be)) := by
  have hbr : (0 : ℝ) < bm := by exact_mod_cast Nat.pos_of_ne_zero hb
  unfold Ex.represents divEx
  dsimp only
  generalize Nat.log2 bm + 80 = k
  have hdiv : (am : ℝ) * 2 ^ k = bm * (am * 2 ^ k / bm : Nat) + (am * 2 ^ k % bm : Nat) := by exact_mod_cast (Nat.div_add_mod _ bm).symm
  have hlt : ((am * 2 ^ k % bm : Nat) : ℝ) < bm := by exact_mod_cast Nat.mod_lt _ (Nat.pos_of_ne_zero hb)
  refine ⟨((am * 2 ^ k % bm : Nat) : ℝ) / bm, by positivity, (div_lt_one hbr).2 hlt, ?_, ?_⟩
  · rw [div_pos_iff_of_pos_right hbr, Nat.cast_pos, bne_iff_ne, Nat.pos_iff_ne_zero]
  · have hm : ((am * 2 ^ k / bm : Nat) : ℝ) + ((am * 2 ^ k % bm : Nat) : ℝ) / bm = am * 2 ^ k / bm := by rw [hdiv]; field_simp
    have hsign : (if (an != bn) = true then (-1 : ℝ) else 1) = (if an then -1 else 1) / if bn then -1 else 1 := by cases an <;> cases bn <;> norm_num
    rw [hm, hsign, zpow_sub₀ two_ne_zero, zpow_sub₀ two_ne_zero, zpow_natCast]
    simp only [Val.real]
    field_simp

/-- A quotient that is not zero has 80 significant bits. -/
theorem le_divEx_m (an bn : Bool) {am bm : Nat} (ae be : Int) (ha : am ≠ 0) (hb : bm ≠ 0) : 2 ^ 79 ≤ (divEx an am ae bn bm be).m := by
  refine (Nat.le_div_iff_mul_le (Nat.pos_of_ne_zero hb)).2 ?_
  calc 2 ^ 79 * bm ≤ 2 ^ 79 * 2 ^ (Nat.log2 bm + 1) := Nat.mul_le_mul_left _ Nat.lt_log2_self.le
    _ = 1 * 2 ^ (Nat.log2 bm + 80) := by rw [← pow_add, one_mul]; congr 1; omega
    _ ≤ am * 2 ^ (Nat.log2 bm + 80) := Nat.mul_le_mul_right _ (Nat.pos_of_ne_zero ha)

/-! ### Exact square roots (R174) -/

/-- The bits from n down complete a root that is right above them. -/
theorem isqrtBits_spec (x n r : Nat) (h1 : r * r ≤ x) (h2 : x < (r + 2 ^ (n + 1)) * (r + 2 ^ (n + 1))) :
    isqrtBits x n r * isqrtBits x n r ≤ x ∧ x < (isqrtBits x n r + 1) * (isqrtBits x n r + 1) := by
  induction n generalizing r with
  | zero =>
    unfold isqrtBits
    split
    next h => exact ⟨h, h2⟩
    next h => exact ⟨h1, not_le.1 h⟩
  | succ n ih =>
    unfold isqrtBits
    split
    next h => exact ih _ h (by rwa [add_assoc, ← two_mul, ← pow_succ'])
    next h => exact ih _ h1 (not_le.1 h)

/-- `isqrt` is the integer square root. -/
theorem isqrt_eq_sqrt (x : Nat) : isqrt x = Nat.sqrt x := by
  have hx : x < (0 + 2 ^ (Nat.log2 x / 2 + 1 + 1)) * (0 + 2 ^ (Nat.log2 x / 2 + 1 + 1)) := by
    rw [zero_add, ← pow_add]
    exact Nat.lt_log2_self.trans_le (Nat.pow_le_pow_right (by decide) (by omega))
  exact Nat.eq_sqrt.2 (isqrtBits_spec x _ 0 (by simp) hx)

/-- The root of M × 2^160 × 2^(2k), in the form that `sqrtEx` gives it. -/
theorem sqrt_represents (m : Nat) (k : Int) :
    ({ neg := false, m := isqrt m, e := k, sticky := isqrt m * isqrt m != m } : Ex).represents (Real.sqrt (m * 2 ^ (2 * k))) := by
  have hle : ((isqrt m : Nat) : ℝ) ≤ Real.sqrt m := by rw [isqrt_eq_sqrt]; exact Real.nat_sqrt_le_real_sqrt
  have hlt : Real.sqrt m < (isqrt m : Nat) + 1 := by rw [isqrt_eq_sqrt]; exact Real.real_sqrt_lt_nat_sqrt_succ
  refine ⟨Real.sqrt m - isqrt m, by linarith, by linarith, ?_, ?_⟩
  · rw [bne_iff_ne, sub_pos, hle.lt_iff_ne, ne_eq, ne_eq, not_iff_not, eq_comm (b := Real.sqrt m), Real.sqrt_eq_iff_mul_self_eq (by positivity) (by positivity)]
    rw [eq_comm]; norm_cast
  · rw [mul_comm 2 k, zpow_mul, Real.sqrt_mul (by positivity), zpow_ofNat, Real.sqrt_sq (by positivity)]
    simp

/-- The radicand that `sqrtEx` takes: 160 bits more, doubled where the exponent is odd. -/
def radicand (m : Nat) (e : Int) : Nat := (if e % 2 ≠ 0 then 2 * m else m) * 2 ^ 160

/-- Half of the exponent that goes with it. -/
def rootExponent (e : Int) : Int := ((if e % 2 ≠ 0 then e - 1 else e) - 160) / 2

/-- `sqrtEx` in these terms. -/
theorem sqrtEx_eq (m : Nat) (e : Int) : sqrtEx m e =
    { neg := false, m := isqrt (radicand m e), e := rootExponent e, sticky := isqrt (radicand m e) * isqrt (radicand m e) != radicand m e } := by
  simp only [sqrtEx, radicand, rootExponent, decide_eq_true_eq]

/-- The radicand and its exponent are the value. -/
theorem radicand_mul (m : Nat) (e : Int) : (radicand m e : ℝ) * 2 ^ (2 * rootExponent e) = Val.real (.fin false m e) := by
  have hz : (2 : ℝ) ^ (161 : Int) ≠ 0 ∧ (2 : ℝ) ^ (160 : Int) ≠ 0 := ⟨zpow_ne_zero _ two_ne_zero, zpow_ne_zero _ two_ne_zero⟩
  simp only [Val.real, radicand, rootExponent, Bool.false_eq_true, if_false, one_mul]
  split
  next h =>
    rw [show 2 * ((e - 1 - 160) / 2) = e - 161 by omega, zpow_sub₀ two_ne_zero]
    push_cast
    field_simp
    norm_num
    ring
  next h =>
    rw [show 2 * ((e - 160) / 2) = e - 160 by omega, zpow_sub₀ two_ne_zero]
    push_cast
    field_simp
    norm_num

/-- The radicand of a value that is not zero has more than 160 bits. -/
theorem le_radicand {m : Nat} (e : Int) (hm : m ≠ 0) : 2 ^ 160 ≤ radicand m e := by
  refine Nat.le_mul_of_pos_left _ ?_
  split <;> omega

/-- `sqrtEx` is the square root, to 80 significant bits and more. -/
theorem sqrtEx_exact (m : Nat) (e : Int) (hm : m ≠ 0) :
    (sqrtEx m e).represents (Real.sqrt (Val.real (.fin false m e))) ∧ 2 ^ 79 ≤ (sqrtEx m e).m := by
  rw [sqrtEx_eq, ← radicand_mul]
  refine ⟨sqrt_represents _ _, ?_⟩
  rw [isqrt_eq_sqrt, Nat.le_sqrt]
  exact le_trans (by norm_num) (le_radicand e hm)

/-- Settles O9: the parts above, sums, quotients, roots and the rounding step, each under its own name. -/
theorem roundingIsExact : Obligations.RoundingIsExact :=
  ⟨⟨sumEx_exact, fun an bn am bm ae be hb => ⟨divEx_represents an bn am bm ae be hb, fun ha => le_divEx_m an bn ae be ha hb⟩, sqrtEx_exact⟩, roundingStep⟩

end Sys2Proof.Rounding
end

section
/-!
PROOF. The family of the document on number forms, second part. `Obligations.DecodingUndoesEncoding` (O55) holds: `Laws.Enc` has a lemma for each row of
the opcode table, which this part puts together.
-/

namespace Sys2Proof.Coding

/-! ### From an instruction to its word and back -/

open Laws.Enc in
/-- The word of a well-formed instruction selects that very instruction: the lemmas of `Laws.Enc`, one for each row of the opcode table, in its order. -/
theorem selectOpcode_encode (i : Instr) : Statement i :=
  Instr.casesOn (motive := Statement) i
    smov sadd ssub smul smulh sdiv srem sand sor sxor snot sshl sshr ssar srot scmp ssel smin smax sclz spop slea smovi saddImm ssubImm
    smulImm sandImm sorImm sxorImm sshlImm sshrImm ssarImm srotImm sminImm smaxImm sleaImm vmov vadd vsub vmul vmulh vmad vdiv vrem vand
    vor vxor vnot vshl vshr vsar vrot vcmp vsel vmin vmax vabs vneg vclz vpop vbrev vbfe vbfi vlea vidx vsplat vext vcvti spk24 vmovi
    vaddImm vsubImm vmulImm vandImm vorImm vxorImm vshlImm vshrImm vsarImm vrotImm vminImm vmaxImm vleaImm fadd fsub fmul ffma fmin fmax
    fmaxi fmini fabs fneg fcmp fclass fdiv fsqrt frnd fscl fdot2 fcvt fcvti icvtf faddImm fsubImm fmulImm fminImm fmaxImm qsin qcos qsc
    qsinp qcosp qscp qex2 qlg2 qtnh qrcp qrsq ncvt rnenc rndec rnadd rnmul rng ld st lds sts ldc ldsp stsp pref clnv atomAdd atomSub
    atomMin atomMax atomAnd atomOr atomXor atomXchg atomCas atomFadd atomMaxi atomMini atomrAdd atomfAdd atomfSub atomfMin atomfMax
    atomfAnd atomfOr atomfXor atomfXchg atomfCas atomfFadd atomfMaxi atomfMini fence fences fencex xlane xshuf xred xscan xcol xvote gen
    yield gdone gcon gfr gfrInfo gbar gpost gpostWd gqry ldgAdd ldgMin ldgMax ldgAnd ldgOr ldgXor ldgFadd ldgFmin ldgFmax ldgMaxi ldgMini
    bra brac brav call callReg ret exit forkCopy forkMatrix forkReg waitk setk clrk iter rdv lnch cntw cntwQuery cancel cpy cpym cpyf cpyg
    cpys csig cwait cfence cmx mldn mldw mma mmas mclr mdrn msig trap csrr csrw csrwFstat csrwFctl csrwElogInfo csrwTrapCause qfeat qphys
    mapft catld catsetAccess catsetBound catsetHwm catsetPg catsnap catsnapRel ctxsv ctxld wfi gsw kill bar nop nopSet0 nopSet1 yld cend
    mend rte sfdrn clauseStart writePerformed sfQueueWrite stallThreshold teamExchange timeSliceExpiry teamRetire workgroupRetire
    counterDecrement unitBegin recordLaunch recordNewGraph recordNewPhase recordQuery cancelRequest cnclDelivery curatorBind dispatch
    preempt trapEntry contextSave restore barOpen gpostTakesEffect gbarComplete xcolComplete waitkComplete wfiWake rdvComplete
    pendingForkStart iterAnswer streamEnd fifoBytesLand followOnTrigger followOnExecute cpymRequestArrival cpymSectorRead mmIssue mmPerform
    mmExport mmTransfer mmApply fenceComplete speculationConflict registrarRelease loanLend loanReclaimComplete farFirstTouchMap
    copyOnWrite pageMigration pageDuplication liveMigration poolRefill readPacket writePacket atomicPacket scrubGranule
    errorRecordMergeFlush registerUncorrectable dramDieRemoval coreFailure dmaWrite dmaRead cxlPoisonReport cxlHotRemove
    scaleoutFrameReceive portFailure deliveryTimeout startJob mbCancel mbStatus createObject deleteObject mailboxOverrun setPartitions
    setInstallationEntry createContext destroyContext attest stageFirmware setPowerLimit hostRegisterWrite powerGood stage0Complete
    stage1Complete criticalTemperature deviceReset matrixCommandComplete powerOrThermalLimiting

/-- An instruction has a word exactly when it is no step of the machine. -/
theorem encode_isSome (i : Instr) : (encode i).isSome = !i.isStep := by
  cases i <;> rfl

/-- The decoder answers a word whose opcode selects a well-formed instruction. -/
theorem decodeWord_of_select {w : Word} {i : Instr} (hs : selectOpcode (opcodeOf w) w = some i) (hw : i.wellFormed = true) :
    decodeWord w = some i := by
  simp [decodeWord, hs, hw]

/-- What the decoder answers has been selected by the word's opcode. -/
theorem select_of_decodeWord {w : Word} {i : Instr} (h : decodeWord w = some i) : selectOpcode (opcodeOf w) w = some i := by
  unfold decodeWord at h
  split at h
  next j hj => split at h <;> simp_all
  next => cases h

/-- Settles O55: a well-formed instruction is no step, so it has a word; that word selects it again, and its checks pass. -/
theorem decodingUndoesEncoding : Obligations.DecodingUndoesEncoding := by
  intro i hw
  have hstep : i.isStep = false := by
    simp only [Instr.wellFormed, Bool.and_eq_true, Bool.not_eq_true'] at hw
    exact hw.1.1
  obtain ⟨w, he⟩ := Option.isSome_iff_exists.1 ((encode_isSome i).trans (congrArg not hstep))
  exact ⟨w, he, decodeWord_of_select (selectOpcode_encode i hw w he) hw⟩

end Sys2Proof.Coding
end

section
/-!
PROOF. The family of the document on number forms, third part: two statements that fail. `Obligations.ControlRegisters` (O35) says of every form of
`csrwTrapCause` what holds of the forms that name TRAP_CAUSE, and `Obligations.ChecksComeFirst` (O53) reads the flag that a NOP selects by
`Instr.flagSel`, which gives none.
-/

namespace Sys2Proof.Refuted

open Sys2Proof.Machine

/-- Team 0, resident in column 0 with one scalar register, runs a clause whose header makes no flag valid. -/
def runningTeam : Team := { (default : Team) with st := .active, started := true, ns := 1 }

/-- Only that team, whose turn it is. -/
def runningAlone : State :=
  { State.reset with
    wgs := [(0, Scope.residentWg 0)]
    teams := [(0, runningTeam)] }

/-! ### O35 -/

/-- The form that `csrwTrapCause` has for a write of FSTAT, number 0x100, from scalar 0: it passes the checks of a CSRW at user privilege. -/
def writesFstat : IForm := { (default : IForm) with ty := .i8, cls := 1, imm := 0x100 }

/-- `csrwTrapCause` with that form may issue. -/
theorem ready_csrwTrapCause : runningAlone.Ready 0 runningTeam (.csrwTrapCause writesFstat) false false where
  cur := rfl
  team := rfl
  started := rfl
  admits := by decide
  window := by rintro sp ⟨⟩
  port := by decide +kernel
  operands := fun _ _ _ _ => rfl

/-- It raises IINS: the team enters its handler. -/
theorem exec_csrwTrapCause : ∃ s', exec (.csrwTrapCause writesFstat) runningAlone = .next s' ∧ (s'.team? 0).map Team.st = some .handler :=
  ⟨_, rfl, by decide +kernel⟩

/-- Refutes O35, in its part on CSRW of TRAP_CAUSE: nothing there asks that the form names register 0x800 (the other parts ask for their number, or hold
for every number), and with a number below 0x800 the instruction may issue at user privilege, where it traps. -/
theorem not_controlRegisters : ¬ Obligations.ControlRegisters := by
  unfold Obligations.ControlRegisters Claims.ControlRegistersWritten
  rintro ⟨-, written, -⟩
  obtain ⟨-, -, -, -, trapCause⟩ := written runningAlone 0 runningTeam writesFstat
  obtain ⟨y, ⟨s', t', hexec, hteam, same, -, -⟩, -⟩ := trapCause ready_csrwTrapCause
  obtain ⟨s'', hexec', hst⟩ := exec_csrwTrapCause
  obtain rfl : s' = s'' := by
    rw [hexec] at hexec'
    exact Host.Outcome.next.inj hexec'
  obtain ⟨active, -, -⟩ := same.mode
  simp [hteam, active, runningTeam] at hst

/-! ### O53 -/

/-- An outstanding read of its scratchpad by team 0, of a given place in issue order. -/
def portRead (id sq : Nat) : Op :=
  { Op.blank id (.team 0) 0 sq .mem with acc := [{ (default : Access) with path := .T, space := .spad 0 }] }

/-- The team has two scratchpad accesses outstanding: the second waits at the vector port behind the first. -/
def portTaken : State := { runningAlone with ops := [portRead 1 0, portRead 2 1], seq := 2 }

/-- NOP with the set-A flag stops the clause: the header makes that flag not valid. -/
theorem exec_nopSet0 : ∃ s', exec .nopSet0 portTaken = .next s' ∧ (s'.team? 0).map Team.started = some false :=
  ⟨_, rfl, by decide +kernel⟩

/-- Refutes O53, in its part on the vector port: `Instr.flagSel` gives the NOP with the set-A flag no flag, so that the statement takes it for admitted,
and unchanged while the port is held; but it selects flag A, which the header here does not give, and raises IINS first. -/
theorem not_checksComeFirst : ¬ Obligations.ChecksComeFirst := by
  unfold Obligations.ChecksComeFirst
  rintro ⟨teams, -⟩
  obtain ⟨-, -, portHeld, -⟩ := teams .nopSet0 portTaken 0 runningTeam rfl rfl rfl rfl rfl rfl
  have hexec : exec .nopSet0 portTaken = .next portTaken := portHeld (by decide) (by decide +kernel)
  obtain ⟨s', hexec', hstarted⟩ := exec_nopSet0
  obtain rfl : portTaken = s' := by
    rw [hexec] at hexec'
    exact Host.Outcome.next.inj hexec'
  exact absurd hstarted (by decide)

end Sys2Proof.Refuted
end

section
/-!
PROOF. The family of the document on number forms, fourth part. `Obligations.FlagsAndNops` (O27) holds: each body ends with `State.done`, the end of a
slot, of which `done_spec` says what it leaves, and `masked_iff` reads KSTAT.
-/

namespace Sys2Proof.Flags

open Sys2Proof.Machine

/-! ### The end of an instruction that leaves no operation -/

/-- The end of a slot whose instruction adds no operation moves the team on and changes nothing else. -/
theorem done_spec {s : State} {u : Nat} {t : Team} (h : s.team? u = some t) :
    ∃ t', (s.done u).team? u = some t' ∧ t.SameButPc t' ∧ s.SameBut (s.done u) u ∧ (s.done u).ops = s.ops := by
  obtain ⟨t', hteam, same, ⟨store, others, wgs, units, contexts, bufs, poison, intake, device⟩, hops⟩ := State.advance_spec h
  exact ⟨t', hteam, same, ⟨store, others, wgs, units, contexts, bufs, poison, intake, device⟩, hops⟩

variable {s : State} {u : Nat} {t t1 : Team} {i : Instr}

/-- An instruction that only ends its slot only goes on. -/
theorem completes_of_done (ht : s.team? u = some t) (he : exec i s = .next (s.done u)) : Completes s u t i := by
  obtain ⟨t', hteam, same, frame, hops⟩ := done_spec ht
  exact ⟨_, t', he, hteam, same, frame, hops⟩

/-- One that changes its team before the slot ends. -/
theorem completes_of_setTeam (he : exec i s = .next ((s.setTeam u t1).done u)) : Completes s u t1 i := by
  obtain ⟨t', hteam, same, frame, hops⟩ := done_spec (State.team?_setTeam_self s u t1)
  exact ⟨_, t', he, hteam, same, (State.SameBut.setTeam s u t1).trans frame, hops⟩

/-! ### KSTAT (R87) -/

/-- A fold that sets bits of KSTAT adds to each bit whether it is among those that are set. -/
theorem getLsbD_foldl_twoPow (p : Nat → Bool) (ns : List Nat) (acc : BitVec 12) (k : Nat) :
    (ns.foldl (fun acc n => if p n then acc ||| BitVec.twoPow 12 n else acc) acc).getLsbD k =
      (acc.getLsbD k || (decide (k < 12) && decide (k ∈ ns) && p k)) := by
  induction ns generalizing acc with
  | nil => simp
  | cons n ns ih =>
    rw [List.foldl_cons, ih]
    by_cases hkn : n = k
    · subst hkn
      cases hp : p n
      · simp
      · cases hn : decide (n < 12) <;> simp [BitVec.getLsbD_twoPow, hn]
    · cases hp : p n <;> simp [BitVec.getLsbD_twoPow, hkn, Ne.symm hkn]

/-- The bits of KSTAT are the flags. -/
theorem getLsbD_kstat (s : State) (u : Nat) {k : Nat} (hk : k < 12) : (s.kstat u).getLsbD k = s.flag u k := by
  unfold State.kstat
  rw [getLsbD_foldl_twoPow]
  simp [hk]

/-- A wait mask holds a team when a flag that it names is set. -/
theorem masked_iff (s : State) (u : Nat) (wait : BitVec 12) :
    s.masked u wait = true ↔ ∃ n < 12, wait.getLsbD n = true ∧ s.flag u n = true := by
  unfold State.masked
  rw [bne_iff_ne, ne_eq, BitVec.eq_of_getLsbD_eq_iff]
  simp only [not_forall, exists_prop]
  refine exists_congr fun n => and_congr_right fun hn => ?_
  rw [BitVec.getLsbD_and, getLsbD_kstat s u hn]
  simp [and_comm]

/-! ### The instructions -/

/-- SETK and CLRK. -/
theorem completes_setk {f : VForm} (hr : s.Ready u t (.setk f) false false) :
    Completes s u { t with holds := t.holds ||| Fields.flagSet f } (.setk f) := by
  have hexec : exec (.setk f) s = execSetk f s := rfl
  refine completes_of_setTeam ?_
  rw [hexec, execSetk, State.issue_ready _ hr, State.modTeam_of _ _ hr.team]

theorem completes_clrk {f : VForm} (hr : s.Ready u t (.clrk f) false false) :
    Completes s u { t with holds := t.holds &&& ~~~Fields.flagSet f } (.clrk f) := by
  have hexec : exec (.clrk f) s = execClrk f s := rfl
  refine completes_of_setTeam ?_
  rw [hexec, execClrk, State.issue_ready _ hr, State.modTeam_of _ _ hr.team]

/-- WAITK by whether a flag that it names is set. -/
theorem exec_waitk {f : VForm} (hr : s.Ready u t (.waitk f) false false) : exec (.waitk f) s =
    .next (if s.masked u (Fields.flagSet f) then (s.setTeam u (t.waitFor (.waitk (Fields.flagSet f)))).done u else s.done u) := by
  have hexec : exec (.waitk f) s = execWaitk f s := rfl
  rw [hexec, execWaitk, State.issue_ready _ hr, State.modTeam_of _ _ hr.team]

/-- WAITK of flags that are all clear goes on. -/
theorem completes_waitk_clear {f : VForm} (hr : s.Ready u t (.waitk f) false false)
    (hclear : ∀ n < 12, (Fields.flagSet f).getLsbD n = true → s.flag u n = false) : Completes s u t (.waitk f) := by
  have hm : ¬ s.masked u (Fields.flagSet f) = true := by
    rw [masked_iff]
    rintro ⟨n, hn, hnamed, hset⟩
    simp [hclear n hn hnamed] at hset
  exact completes_of_done hr.team (by rw [exec_waitk hr, if_neg hm])

/-- WAITK of a flag that is set waits. -/
theorem completes_waitk_set {f : VForm} (hr : s.Ready u t (.waitk f) false false) {n : Nat} (hn : n < 12)
    (hnamed : (Fields.flagSet f).getLsbD n = true) (hset : s.flag u n = true) :
    Completes s u (t.waitFor (.waitk (Fields.flagSet f))) (.waitk f) := by
  have hm : s.masked u (Fields.flagSet f) = true := (masked_iff s u _).2 ⟨n, hn, hnamed, hset⟩
  exact completes_of_setTeam (by rw [exec_waitk hr, if_pos hm])

/-- The NOPs. -/
theorem completes_nop (hr : s.Ready u t .nop false false) : Completes s u t .nop :=
  completes_of_done hr.team (State.issue_ready (fun s u _ => s.done u) hr)

theorem completes_nopSet0 (hr : s.Ready u t .nopSet0 true false) : Completes s u t .nopSet0 :=
  completes_of_done hr.team (State.issue_ready (fun s u _ => s.done u) hr)

theorem completes_nopSet1 (hr : s.Ready u t .nopSet1 true true) : Completes s u t .nopSet1 :=
  completes_of_done hr.team (State.issue_ready (fun s u _ => s.done u) hr)

/-- SFDRN by whether a special-function instruction of the team is outstanding. -/
theorem exec_sfdrn (hr : s.Ready u t .sfdrn false false) : exec .sfdrn s =
    .next (if s.ops.any fun o => o.team == u && o.kind == .sf then s else s.done u) := by
  have hexec : exec .sfdrn s = execSfdrn s := rfl
  rw [hexec, execSfdrn, State.issue_ready _ hr]

/-- That test as SFDRN makes it. -/
theorem any_sf_iff (s : State) (u : Nat) :
    (s.ops.any fun o => o.team == u && o.kind == .sf) = true ↔ ∃ o ∈ s.ops, o.team = u ∧ o.kind = .sf := by
  simp

/-- SFDRN with none outstanding goes on. -/
theorem completes_sfdrn (hr : s.Ready u t .sfdrn false false) (hnone : ∀ o ∈ s.ops, o.team = u → o.kind ≠ .sf) : Completes s u t .sfdrn := by
  have hany : ¬ (s.ops.any fun o => o.team == u && o.kind == .sf) = true := by
    rw [any_sf_iff]
    rintro ⟨o, ho, hteam, hkind⟩
    exact hnone o ho hteam hkind
  exact completes_of_done hr.team (by rw [exec_sfdrn hr, if_neg hany])

/-- SFDRN with one outstanding holds the slot. -/
theorem exec_sfdrn_held (hr : s.Ready u t .sfdrn false false) (hsome : ∃ o ∈ s.ops, o.team = u ∧ o.kind = .sf) : exec .sfdrn s = .next s := by
  rw [exec_sfdrn hr, if_pos ((any_sf_iff s u).2 hsome)]

/-- Settles O27, instruction by instruction. -/
theorem flagsAndNops : Obligations.FlagsAndNops := fun _ _ _ =>
  ⟨fun _ => completes_setk, fun _ => completes_clrk,
    fun _ hr => ⟨completes_waitk_clear hr, fun _ hn hnamed hset => completes_waitk_set hr hn hnamed hset⟩,
    completes_nop, completes_nopSet0, completes_nopSet1, completes_sfdrn, exec_sfdrn_held⟩

end Sys2Proof.Flags
end

section
/-!
PROOF. The family of the document on number forms, fifth part. `Obligations.WritesBecomeVisible` (O21) holds: of an operation that completes,
`State.writeRegs` changes the registers of its team and what is kept for the operations outstanding, `Team.raise` its flags, and `State.delOp` takes it away.
-/

namespace Sys2Proof.Performed

open Sys2Proof.Machine

/-! ### Register writes and raised flags -/

/-- What of a team a register write leaves unchanged: all but the registers. -/
structure SameButRegs (t t' : Team) : Prop where
  pc : t'.pc = t.pc
  live : t'.live = t.live
  elogInfo : t'.elogInfo = t.elogInfo
  status : t'.fstat = t.fstat ∧ t'.fctl = t.fctl
  pendFpen : t'.pendFpen = t.pendFpen
  st : t'.st = t.st
  spec : t'.spec = t.spec

/-- One register write. -/
theorem applyWr_sameButRegs (t : Team) (w : RegWr) : SameButRegs t (t.applyWr w) := by
  cases w <;> constructor <;> simp [Team.applyWr]

/-- Several register writes. -/
theorem applyAll_sameButRegs (t : Team) (ws : List RegWr) : SameButRegs t (t.applyAll ws) := by
  induction ws generalizing t with
  | nil => constructor <;> simp [Team.applyAll]
  | cons w ws ih =>
    have h := applyWr_sameButRegs t w
    have g := ih (t.applyWr w)
    exact ⟨g.pc.trans h.pc, g.live.trans h.live, g.elogInfo.trans h.elogInfo,
      ⟨g.status.1.trans h.status.1, g.status.2.trans h.status.2⟩, g.pendFpen.trans h.pendFpen, g.st.trans h.st, g.spec.trans h.spec⟩

/-- A team that raises no flag. -/
theorem raise_zero (t : Team) : t.raise 0 = t := by simp [Team.raise]

/-- The flags that a team has raised, and what it leaves unchanged in doing so (R89). -/
theorem raise_fields (t : Team) (f : Sticky) : (t.raise f).fstat = t.fstat ||| f ∧ (t.raise f).sregs = t.sregs ∧ (t.raise f).vregs = t.vregs ∧
    (t.raise f).masks = t.masks ∧ (t.raise f).pc = t.pc ∧ (t.raise f).live = t.live ∧ (t.raise f).elogInfo = t.elogInfo := by
  unfold Team.raise
  dsimp only
  split <;> simp

/-- FPEN is due where an enabled flag rises in a team that is not Retiring (R58, R91). -/
theorem raise_pendFpen (t : Team) (f : Sticky) : (t.raise f).pendFpen = true ↔ t.pendFpen = true ∨ (f &&& t.fctl ≠ 0 ∧ t.st ≠ .retiring) := by
  unfold Team.raise
  dsimp only
  split
  next h => simp_all
  next h =>
    simp only [Bool.and_eq_true, bne_iff_ne] at h
    exact ⟨.inl, fun g => g.resolve_right h⟩

/-! ### The operation completes -/

/-- What `State.writeRegs` makes of the operations outstanding (R77): they keep their numbers, writes and destinations. -/
theorem mem_writeRegs_ops {s : State} {u sq : Nat} {sup : Bool} {ws : List RegWr} {later : List LaterWr} {p : Op}
    (hp : p ∈ (s.writeRegs u sq sup ws later).ops) : ∃ q ∈ s.ops, p.id = q.id ∧ p.writes = q.writes ∧ p.dests = q.dests := by
  simp only [State.writeRegs, State.modTeam_ops, List.mem_map] at hp
  obtain ⟨q, hq, rfl⟩ := hp
  refine ⟨q, hq, ?_⟩
  split <;> simp

section
variable {s : State} {o : Op} {t : Team} (ht : s.team? o.team = some t) (hspec : t.spec = none)
include ht hspec

/-- The team that `State.writeRegs` leaves. -/
theorem team?_writeRegs : (s.writeRegs o.team o.seq o.sup o.writes o.later).team? o.team = some (t.applyAll (o.writes ++ o.later.map (·.wr))) := by
  change (s.modTeam o.team _).team? o.team = _
  rw [State.modTeam_of s _ ht, State.team?_setTeam_self]
  simp only [hspec]

/-- The team of an operation that has completed. -/
theorem team?_completeOp : (s.completeOp o).team? o.team = some ((t.applyAll (o.writes ++ o.later.map (·.wr))).raise o.raises) := by
  have hteam := team?_writeRegs ht hspec
  have hwindow : (t.applyAll (o.writes ++ o.later.map (·.wr))).inWindow o.seq = false := by
    rw [Team.inWindow, (applyAll_sameButRegs t _).spec, hspec]
  unfold State.completeOp
  dsimp only
  rw [State.team?_delOp]
  split
  next h0 =>
    rw [hteam, eq_of_beq h0, raise_zero]
  next =>
    rw [State.giveRaise, State.modTeam_of _ _ hteam, State.team?_setTeam_self, hwindow]
    simp

end

/-- The other teams. -/
theorem team?_completeOp_other (s : State) (o : Op) {v : Nat} (hv : v ≠ o.team) : (s.completeOp o).team? v = s.team? v := by
  have hregs : (s.writeRegs o.team o.seq o.sup o.writes o.later).team? v = s.team? v := State.team?_modTeam_other s _ hv
  unfold State.completeOp
  dsimp only
  rw [State.team?_delOp]
  split
  · exact hregs
  · exact (State.team?_modTeam_other _ _ hv).trans hregs

/-- The operations outstanding. -/
theorem mem_completeOp_ops {s : State} {o p : Op} (hp : p ∈ (s.completeOp o).ops) :
    p.id ≠ o.id ∧ p ∈ (s.writeRegs o.team o.seq o.sup o.writes o.later).ops := by
  have hops : (s.completeOp o).ops = (s.writeRegs o.team o.seq o.sup o.writes o.later).ops.filter fun q => q.id != o.id := by
    unfold State.completeOp
    dsimp only
    split
    · rfl
    · exact congrArg _ (State.modTeam_ops _ _ _)
  rw [hops, List.mem_filter, bne_iff_ne] at hp
  exact hp.symm

/-- WRITE_PERFORMED of an operation whose accesses are performed. -/
theorem exec_writePerformed {s : State} {n : Nat} {o : Op} (harg : s.arg = .id n) (ho : s.op? n = some o)
    (hkind : o.kind = .alu ∨ o.kind = .mem ∨ o.kind = .yield) (hdrained : s.opDrained o = true) :
    exec .writePerformed s = .next (s.completeOp o) := by
  have hexec : exec .writePerformed s = execWritePerformed s := rfl
  simp only [hexec, execWritePerformed, harg, ho, State.finishOp]
  obtain h | h | h := hkind <;> simp [h, hdrained]

/-- Settles O21: the team that completion leaves, then what it leaves of the rest. -/
theorem writesBecomeVisible : Obligations.WritesBecomeVisible := by
  intro s n o t harg ho hkind hdrained ht hspec
  have hid : o.id = n := by simpa using List.find?_some ho
  subst hid
  have regs := applyAll_sameButRegs t (o.writes ++ o.later.map (·.wr))
  obtain ⟨fstat, sregs, vregs, masks, pc, live, elogInfo⟩ := raise_fields (t.applyAll (o.writes ++ o.later.map (·.wr))) o.raises
  refine ⟨_, _, exec_writePerformed harg ho hkind hdrained, team?_completeOp ht hspec, ?_, State.completeOp_store s o, sregs, vregs, masks,
    fstat.trans (by rw [regs.status.1]), ?_, pc.trans regs.pc, live.trans regs.live, elogInfo.trans regs.elogInfo,
    fun v hv => team?_completeOp_other s o hv, ?_⟩
  · refine List.find?_eq_none.2 fun p hp => ?_
    simpa using (mem_completeOp_ops hp).1
  · rw [raise_pendFpen, regs.pendFpen, regs.status.2, regs.st]
  · intro p hp
    obtain ⟨hne, hp⟩ := mem_completeOp_ops hp
    obtain ⟨q, hq, hid, hwrites, hdests⟩ := mem_writeRegs_ops hp
    exact ⟨q, hq, hid ▸ hne, hid, hwrites, hdests⟩

end Sys2Proof.Performed
end

section
/-!
PROOF. The family of the document on number forms, sixth part. `Obligations.LoadsAndStores` (O14) holds. All its instructions but PREF have one frame,
`memT`, of which `memResult_of_memT` says once what it does: the pages that its writes share with a snapshot are parted, which no statement about the
team or the operations sees, and the accesses are issued; or, with a precise fault, the team traps (`trapsAtIssue_of_trap`).
-/

namespace Sys2Proof.Accesses

open Sys2Proof.Machine

/-! ### A trap at issue (R101, R350) -/

/-- What of a team decides whether it has arrived at an XCOL, and who its partners are. -/
def xcolView (t : Team) : Nat × Nat × Nat × TState := (t.wg, t.twg, t.xcount, t.st)

/-- Two states in which the XCOLs wait for the same teams. -/
structure SameXcols (s s' : State) : Prop where
  wgs : s'.wgs = s.wgs
  teams : ∀ v, (s'.team? v).map xcolView = (s.team? v).map xcolView

/-- The arrival of a partner. -/
theorem xcolArrived_congr (k : Nat) {a b : Option Team} (h : a.map xcolView = b.map xcolView) : xcolArrived k a = xcolArrived k b := by
  cases a <;> cases b <;> simp_all [xcolView, xcolArrived]

/-- The partners. -/
theorem SameXcols.partner {s s' : State} (h : SameXcols s s') {t t' : Team} (ht : xcolView t' = xcolView t) (c : Nat) :
    (s'.partner t' c).map xcolView = (s.partner t c).map xcolView := by
  simp only [xcolView, Prod.mk.injEq] at ht
  obtain ⟨hwg, htwg, -⟩ := ht
  simp only [State.partner, State.wg?, h.wgs, hwg, htwg]
  split
  · rfl
  · split
    · rfl
    · simp only [Option.map_bind, Function.comp_def, h.teams]

/-- An XCOL that is due. -/
theorem SameXcols.xcolDue {s s' : State} (h : SameXcols s s') (o : Op) : s'.xcolDue o = s.xcolDue o := by
  have ht := h.teams o.team
  unfold State.xcolDue
  cases hs : s.team? o.team <;> cases hs' : s'.team? o.team <;> simp only [hs, hs', Option.map_none, Option.map_some, Option.some.injEq, reduceCtorEq] at ht
  case none.none => cases o.kind <;> rfl
  case some.some t t' =>
    have harrived : ∀ k c, xcolArrived k (s'.partner t' c) = xcolArrived k (s.partner t c) := fun k c => xcolArrived_congr k (h.partner ht c)
    cases o.kind
    case xcol k _ _ _ _ => simp only [harrived]
    all_goals rfl

/-- All that a team has issued has settled. -/
theorem SameXcols.settled {s s' : State} (h : SameXcols s s') (hops : s'.ops = s.ops) (u : Nat) : s'.settled u = s.settled u := by
  simp only [State.settled, hops, h.xcolDue]

/-- The trap vector of a team of an unchanged workgroup. -/
theorem tvecOf_congr {s s' : State} {u : Nat} {t t' : Team} (h : s.SameBut s' u) (hwg : t'.wg = t.wg) : s'.tvecOf t' = s.tvecOf t := by
  simp only [State.tvecOf, State.ctx?, State.ctxOf, State.ctxOfWg, State.unit?, State.launchKey, State.wg?, hwg, h.contexts, h.units, h.wgs]

/-- The clock when a team leaves the datapath. -/
theorem freeDp_now (s : State) (u : Nat) : (s.freeDp u).now = s.now := by
  unfold State.freeDp
  repeat' (first | rfl | split | dsimp only)

/-- The trap that an instruction takes at issue. -/
def issueTrapOf (t : Team) (c : Cause) (rskip : Nat) (arg : BitVec 32) (laddr : Store 64) (lanes : Option Lanes) : IssueTrap :=
  { cause := c, slot := t.slot, rslot := t.slot + rskip, arg := arg, lanes := lanes.getD (t.mask 0), laddr := laddr, addr := t.pc }

/-- The state in which a trap taken at issue waits for what has been issued to settle. -/
def beforeTrap (s : State) (u : Nat) (t : Team) (it : IssueTrap) : State :=
  (s.freeDp u).setTeam u { t.atBoundary s.now with issueTrap := some it }

/-- The frame of that state. -/
theorem beforeTrap_sameBut (s : State) (u : Nat) (t : Team) (it : IssueTrap) : s.SameBut (beforeTrap s u t it) u :=
  (State.SameBut.freeDp s u).trans (.setTeam _ _ _)

/-- All that the team has issued has settled in it just when it had before. -/
theorem beforeTrap_settled {s : State} {u : Nat} {t : Team} (ht : s.team? u = some t) (it : IssueTrap) :
    (beforeTrap s u t it).settled u = s.settled u := by
  refine SameXcols.settled ⟨(beforeTrap_sameBut s u t it).wgs, fun v => ?_⟩ (State.freeDp_ops s u) u
  by_cases hv : v = u
  · subst hv
    rw [beforeTrap, State.team?_setTeam_self, ht]
    rfl
  · rw [(beforeTrap_sameBut s u t it).others v hv]

/-- A team outside Handler and outside a speculative window takes a trap at issue. -/
theorem trap_eq {s : State} {u : Nat} {t : Team} (ht : s.team? u = some t) (hpriv : t.priv = false) (hspec : t.spec = none) (c : Cause) (rskip : Nat)
    (arg : BitVec 32) (laddr : Store 64) (lanes : Option Lanes) :
    s.trap u c rskip arg laddr lanes = (beforeTrap s u t (issueTrapOf t c rskip arg laddr lanes)).enterIssueTrap u := by
  simp [State.trap, ht, hpriv, hspec, beforeTrap, issueTrapOf]

/-- An instruction that traps at issue. -/
theorem trapsAtIssue_of_trap {s : State} {u : Nat} {t : Team} {i : Instr} {c : Cause} {rskip : Nat} {arg : BitVec 32} {laddr : Store 64}
    {lanes : Option Lanes} (ht : s.team? u = some t) (hpriv : t.priv = false) (hspec : t.spec = none)
    (he : exec i s = .next (s.trap u c rskip arg laddr lanes)) : TrapsAtIssue s u t i c (t.slot + rskip) arg laddr (lanes.getD (t.mask 0)) := by
  rw [trap_eq ht hpriv hspec] at he
  generalize hit : issueTrapOf t c rskip arg laddr lanes = it at he
  have hteam : (beforeTrap s u t it).team? u = some { t.atBoundary s.now with issueTrap := some it } := State.team?_setTeam_self _ _ _
  have hframe := beforeTrap_sameBut s u t it
  have hops : (beforeTrap s u t it).ops = s.ops := State.freeDp_ops s u
  have hnow : (beforeTrap s u t it).now = s.now := freeDp_now s u
  rw [State.enterIssueTrap, hteam] at he
  dsimp only at he
  rw [beforeTrap_settled ht] at he
  cases hsettled : s.settled u <;> simp only [hsettled, Bool.false_eq_true, if_false, if_true] at he
  case true =>
    refine ⟨_, _, he, State.team?_setTeam_self _ _ _, hframe.trans (.setTeam _ _ _), hops, fun _ => ?_, by simp [hsettled]⟩
    rw [hnow, tvecOf_congr hframe rfl, ← hit]
    rfl
  case false =>
    refine ⟨_, _, he, hteam, hframe, hops, by simp [hsettled], fun _ => ⟨by rw [← hit]; rfl, rfl, rfl, rfl, rfl, rfl, rfl⟩⟩

/-! ### Accesses that issue -/

/-- What an operation that holds accesses leaves when it issues (R99, R314). -/
theorem addAccesses_spec {s : State} {u : Nat} {t1 : Team} (h : s.team? u = some t1) (hc : s.cur = .team u) (t : Team) (se fs : Bool) (dests : List Dest)
    (acc : List Access) (raiser : Bool) :
    ∃ t' o, (s.addAccesses u t se fs dests acc raiser).team? u = some t' ∧ t1.SameButPc t' ∧
      s.SameBut (s.addAccesses u t se fs dests acc raiser) u ∧ (s.addAccesses u t se fs dests acc raiser).ops = s.ops ++ [o] ∧
      o.agent = .team u ∧ o.team = u ∧ o.seq = s.seq ∧ o.kind = .mem ∧ o.flag = selFlag t.hdr se fs ∧ o.dests = dests ∧ o.writes = [] ∧
      o.later = [] ∧ o.raises = 0 ∧ o.raiser = raiser ∧ o.queued = false ∧ o.acc = acc := by
  have ha : ∀ f, (s.addOp u .mem f).team? u = some t1 := fun f => h
  obtain ⟨t', h1, h2, h3, h4⟩ := State.advance_spec (ha fun o =>
    { o with flag := selFlag t.hdr se fs, dests := dests, acc := acc, raiser := raiser, slot := t.slot })
  refine ⟨t', _, h1, h2, (State.SameBut.addOp s u _ _).trans h3, h4, ?_⟩
  simp [Op.blank, hc]

/-- Parting pages from a snapshot leaves the teams, the operations and the issue order (R381). -/
structure SameIssue (s s' : State) : Prop where
  teams : ∀ v, s'.team? v = s.team? v
  ops : s'.ops = s.ops
  cur : s'.cur = s.cur
  seq : s'.seq = s.seq

theorem SameIssue.refl (s : State) : SameIssue s s := ⟨fun _ => rfl, rfl, rfl, rfl⟩

theorem SameIssue.trans {s s' s'' : State} (h : SameIssue s s') (g : SameIssue s' s'') : SameIssue s s'' :=
  ⟨fun v => (g.teams v).trans (h.teams v), g.ops.trans h.ops, g.cur.trans h.cur, g.seq.trans h.seq⟩

theorem SameIssue.modCtx (s : State) (x : Nat) (f : Context → Context) : SameIssue s (s.modCtx x f) := by
  constructor <;> simp

theorem SameIssue.mapPage {s s' : State} {r : PageRef} {o : Obj} {e : Pte} (h : s.mapPage r o e = some s') : SameIssue s s' := by
  unfold State.mapPage at h
  split at h
  · cases h
  · obtain rfl := Option.some.inj h
    refine SameIssue.trans ?_ (SameIssue.modCtx _ _ _)
    split <;> exact ⟨fun _ => rfl, rfl, rfl, rfl⟩

theorem SameIssue.partPage (s : State) (r : PageRef) : SameIssue s (s.partPage r) := by
  unfold State.partPage
  split
  · exact .refl s
  · dsimp only
    split
    · split
      next h => exact (SameIssue.mapPage h).trans ((SameIssue.modCtx _ _ _).trans (SameIssue.modCtx _ _ _))
      next => exact .refl s
    · exact .refl s

theorem SameIssue.partAll (s : State) (acc : List Access) : SameIssue s (s.partAll acc) := by
  unfold State.partAll
  induction s.partsOf acc generalizing s with
  | nil => exact .refl s
  | cons r rs ih => exact (SameIssue.partPage s r).trans (ih _)

/-- Where no write reaches a shared page, nothing is parted. -/
theorem partAll_of_none {s : State} {acc : List Access} (h : ∀ a ∈ acc, s.partWanted a = none) : s.partAll acc = s := by
  have hnil : acc.filterMap s.partWanted = [] := List.filterMap_eq_nil_iff.2 h
  simp [State.partAll, State.partsOf, hnil]

/-! ### The frame of the memory instructions of path T -/

/-- The state in which a store of a speculative window has been counted. -/
def countStore (s : State) (u : Nat) (t : Team) (i : Instr) : State :=
  match t.spec with
  | some sp => if windowStore i then s.setTeam u { t with spec := some { sp with stores := sp.stores + 1 } } else s
  | none => s

/-- Where there is no store to count, the team is as before. -/
theorem counted_of_map {t : Team} {i : Instr}
    (h : (t.spec.map fun sp => if windowStore i then { sp with stores := sp.stores + 1 } else sp) = t.spec) : t.counted i = t := by
  rw [Team.counted, h]

/-- That state is as before, with the store counted. -/
theorem countStore_eq (s : State) (u : Nat) (t : Team) (i : Instr) :
    countStore s u t i = s ∧ t.counted i = t ∨ countStore s u t i = s.setTeam u (t.counted i) := by
  cases hspec : t.spec with
  | none => exact .inl ⟨by simp [countStore, hspec], counted_of_map (by simp [hspec])⟩
  | some sp =>
    by_cases hstore : windowStore i = true
    · exact .inr (by simp [countStore, Team.counted, hspec, hstore])
    · exact .inl ⟨by simp [countStore, hspec, hstore], counted_of_map (by simp [hspec, hstore])⟩

/-- The team, the frame, and what the accesses depend on. -/
theorem countStore_spec {s : State} {u : Nat} {t : Team} (ht : s.team? u = some t) (i : Instr) :
    (countStore s u t i).team? u = some (t.counted i) ∧ s.SameBut (countStore s u t i) u ∧ (countStore s u t i).ops = s.ops ∧
      (countStore s u t i).cur = s.cur ∧ (countStore s u t i).seq = s.seq ∧ (countStore s u t i).partWanted = s.partWanted := by
  obtain ⟨hs, hc⟩ | hs := countStore_eq s u t i
  · rw [hs, hc]
    exact ⟨ht, .refl s u, rfl, rfl, rfl, rfl⟩
  · rw [hs]
    exact ⟨State.team?_setTeam_self _ _ _, .setTeam _ _ _, rfl, rfl, rfl, rfl⟩

/-- The accesses of an instruction, or the precise fault that one of them meets (R199, R201). -/
theorem memResult_of_memT {i : Instr} {f : MForm} {dests : List Dest} {raiser : State → Team → Bool} {acc : State → Nat → Team → List Access}
    (he : ∀ s, exec i s = memT i f dests raiser acc s) : MemResult i f dests raiser acc := by
  intro s u t hr
  have hissue := (he s).trans (State.issue_ready _ hr)
  constructor
  · intro hnone
    have hexec : exec i s = .next (((countStore s u t i).partAll ((acc s u t).filter fun a => s.checkAccess u a == .ok)).addAccesses u t f.se f.fs dests
        (acc s u t) (raiser s t)) := hissue.trans (by simp only [hnone]; rfl)
    obtain ⟨hteam, hframe, hops, hcur, hseq, hwanted⟩ := countStore_spec hr.team i
    have hpart := SameIssue.partAll (countStore s u t i) ((acc s u t).filter fun a => s.checkAccess u a == .ok)
    obtain ⟨t', o, h1, h2, h3, h4, hagent, hoteam, hoseq, hrest⟩ := addAccesses_spec ((hpart.teams u).trans hteam) (hpart.cur.trans (hcur.trans hr.cur)) t f.se f.fs
      dests (acc s u t) (raiser s t)
    refine ⟨_, t', o, hexec, h1, h2, ?_, hagent, hoteam, ?_, ?_⟩
    · exact h4.trans (by rw [hpart.ops, hops])
    · rw [hoseq, hpart.seq, hseq]
    · obtain ⟨hkind, hflag, hdests, hwrites, hlater, hraises, hraiser, hqueued, hacc⟩ := hrest
      refine ⟨hkind, hflag, hdests, hwrites, hlater, hraises, hraiser, hqueued, hacc, fun hshared => ?_⟩
      have hkeep := partAll_of_none (s := countStore s u t i) (acc := (acc s u t).filter fun a => s.checkAccess u a == .ok)
        fun a ha => hwanted ▸ hshared a (List.mem_filter.1 ha).1
      rw [hkeep] at h3
      exact hframe.trans (by rw [hkeep]; exact h3)
  · intro c lanes laddr hsome hpriv hspec
    have hexec : exec i s = .next (s.trap u c 0 0 laddr (some lanes)) := hissue.trans (by simp only [hsome]; rfl)
    exact trapsAtIssue_of_trap (rskip := 0) hr.team hpriv hspec hexec

/-- The bytes of an element that a store writes, as the w low bits of its register (R216). -/
theorem dataBytes_eq (t : Team) (ty : Ty) (n l : Nat) : t.dataBytes ty n l = bytesOfNat (t.vbits ty n l) ty.bytes := by
  rw [Team.dataBytes, Team.pat_toNat]

/-- PREF issues the lanes that pass the checks (R218). -/
theorem issues_pref {f : MForm} {s : State} {u : Nat} {t : Team} (hr : s.Ready u t (.pref f) f.se f.fs) :
    IssuesAccesses s u t t (.pref f) f.se f.fs []
      (((t.active f.m).map fun l => s.sliceAcc u t (effAddr t f f.ty.bytes l) l f.ty.bytes .pref .none).filter fun a => s.checkAccess u a == .ok) false := by
  have hexec : exec (.pref f) s = execPref f s := rfl
  rw [execPref, State.issue_ready _ hr] at hexec
  obtain ⟨t', o, h1, h2, h3, h4, hagent, hoteam, hoseq, hkind, hflag, hdests, hwrites, hlater, hraises, hraiser, hqueued, hacc⟩ :=
    addAccesses_spec hr.team hr.cur t f.se f.fs [] _ false
  exact ⟨_, t', o, hexec, h1, h2, h4, hagent, hoteam, hoseq, hkind, hflag, hdests, hwrites, hlater, hraises, hraiser, hqueued, hacc, fun _ => h3⟩

/-- Settles O14, instruction by instruction. -/
theorem loadsAndStores : Obligations.LoadsAndStores := by
  intro f
  refine ⟨memResult_of_memT fun s => rfl, ?_, memResult_of_memT fun s => rfl, ?_, ?_, memResult_of_memT fun s => rfl, ?_⟩
  · simp only [← dataBytes_eq]
    exact memResult_of_memT fun s => rfl
  · simp only [← beq_iff_eq (a := f.ty)]
    exact memResult_of_memT fun s => rfl
  · simp only [← beq_iff_eq (a := f.ty)]
    exact memResult_of_memT fun s => rfl
  · intro s u t hr
    refine ⟨_, issues_pref hr, fun a => ?_⟩
    simp only [List.mem_filter, List.mem_map, beq_iff_eq]
    constructor
    · rintro ⟨⟨l, hl, rfl⟩, hok⟩
      exact ⟨l, hl, rfl, hok⟩
    · rintro ⟨l, hl, rfl, hok⟩
      exact ⟨⟨l, hl, rfl⟩, hok⟩

end Sys2Proof.Accesses
end

section
/-!
PROOF. The family of the document on number forms, seventh part. `Obligations.EncodingUndoesDecoding` (O56) holds: for each format, a word is packed
from its opcode and its fields (`packV_fieldsV` and its like), and each row of the opcode table selects an instruction whose encoding is that packing
(`KeepsWord`).
-/

namespace Sys2Proof.Coding

/-! ### From a word to its instruction and back -/

/-- One bit of a word as a field. -/
theorem bit1_bitOf (w : Word) (k : Nat) : bit1 (bitOf w k) = w.extractLsb' k 1 := by
  ext i hi
  obtain rfl : i = 0 := by omega
  simp [bit1, bitOf, BitVec.getElem_ofBool]

/-- The opcode of a word as a field. -/
theorem opcode_field {w : Word} {op : BitVec 10} (h : opcodeOf w = op.toNat) : op = w.extractLsb' 54 10 :=
  BitVec.eq_of_toNat_eq h.symm

/-- A V-format word is packed from its opcode and its fields. -/
theorem packV_fieldsV {w : Word} {op : BitVec 10} (h : opcodeOf w = op.toNat) : packV op (fieldsV w) = w := by
  simp only [packV, fieldsV, Ty.code_ofCode, RMode.code_ofCode, bit1_bitOf, opcode_field h, BitVec.extractLsb'_append_extractLsb'_eq_extractLsb']
  exact extract_self w

/-- An I-format word is packed from its opcode and its fields. -/
theorem packI_fieldsI {w : Word} {op : BitVec 10} (h : opcodeOf w = op.toNat) : packI op (fieldsI w) = w := by
  simp only [packI, fieldsI, Ty.code_ofCode, opcode_field h, BitVec.extractLsb'_append_extractLsb'_eq_extractLsb']
  exact extract_self w

/-- An M-format word is packed from its opcode and its fields. -/
theorem packM_fieldsM {w : Word} {op : BitVec 10} (h : opcodeOf w = op.toNat) : packM op (fieldsM w) = w := by
  simp only [packM, fieldsM, Ty.code_ofCode, bit1_bitOf, opcode_field h, BitVec.extractLsb'_append_extractLsb'_eq_extractLsb']
  exact extract_self w

/-- An X-format word is packed from its opcode and its fields. -/
theorem packX_fieldsX {w : Word} {op : BitVec 10} (h : opcodeOf w = op.toNat) : packX op (fieldsX w) = w := by
  simp only [packX, fieldsX, Ty.code_ofCode, opcode_field h, BitVec.extractLsb'_append_extractLsb'_eq_extractLsb']
  exact extract_self w

/-- A B-format word is packed from its opcode and its fields. -/
theorem packB_fieldsB {w : Word} {op : BitVec 10} (h : opcodeOf w = op.toNat) : packB op (fieldsB w) = w := by
  simp only [packB, fieldsB, opcode_field h, BitVec.extractLsb'_append_extractLsb'_eq_extractLsb']
  exact extract_self w

/-- A data command of the copy engine is packed from its opcode and its fields. -/
theorem packC_fieldsC {w : Word} {op : BitVec 10} (h : opcodeOf w = op.toNat) : packC op (fieldsC w) = w := by
  simp only [packC, fieldsC, Ty.code_ofCode, bit1_bitOf, opcode_field h, BitVec.extractLsb'_append_extractLsb'_eq_extractLsb']
  exact extract_self w

/-- Another copy command is packed from its opcode and its fields. -/
theorem packK_fieldsK {w : Word} {op : BitVec 10} (h : opcodeOf w = op.toNat) : packK op (fieldsK w) = w := by
  simp only [packK, fieldsK, bit1_bitOf, opcode_field h, BitVec.extractLsb'_append_extractLsb'_eq_extractLsb']
  exact extract_self w

/-- A matrix command is packed from its opcode and its fields. -/
theorem packG_fieldsG {w : Word} {op : BitVec 10} (h : opcodeOf w = op.toNat) : packG op (fieldsG w) = w := by
  simp only [packG, fieldsG, Ty.code_ofCode, bit1_bitOf, opcode_field h, BitVec.extractLsb'_append_extractLsb'_eq_extractLsb']
  exact extract_self w

/-- The selections between the forms of one opcode keep its fields: here GFR, then GPOST, CALL, FORK, CNTW, CSRW, CATSET and CATSNAP. -/
theorem encode_selectGfr (f : VForm) : encode (selectGfr f) = some (packV 0x285 f) := by
  unfold selectGfr
  split <;> rfl

theorem encode_selectGpost (f : VForm) : encode (selectGpost f) = some (packV 0x291 f) := by
  unfold selectGpost
  split <;> rfl

theorem encode_selectCall (f : BForm) : encode (selectCall f) = some (packB 0x2C3 f) := by
  unfold selectCall
  split <;> rfl

theorem encode_selectFork (f : BForm) : encode (selectFork f) = some (packB 0x2C7 f) := by
  unfold selectFork
  repeat' split
  all_goals rfl

theorem encode_selectCntw (f : VForm) : encode (selectCntw f) = some (packV 0x2D1 f) := by
  unfold selectCntw
  split <;> rfl

theorem encode_selectCsrw (f : IForm) : encode (selectCsrw f) = some (packI 0x383 f) := by
  unfold selectCsrw
  dsimp only
  repeat' split
  all_goals rfl

theorem encode_selectCatset (f : VForm) : encode (selectCatset f) = some (packV 0x38A f) := by
  unfold selectCatset
  repeat' split
  all_goals rfl

theorem encode_selectCatsnap (f : VForm) : encode (selectCatsnap f) = some (packV 0x38B f) := by
  unfold selectCatsnap
  split <;> rfl

/-- A field that lies in a field of zeros is zero. -/
theorem extract_of_zero {w : Word} {a n s m : Nat} (h : w.extractLsb' a n = 0) (hs : a ≤ s) (hm : s + m ≤ a + n) : w.extractLsb' s m = 0 := by
  ext i hi
  have hbit : (w.extractLsb' a n).getLsbD (s - a + i) = false := by simp [h]
  have hlt : s - a + i < n := by omega
  have hpos : a + (s - a + i) = s + i := by omega
  simpa [hlt, hpos] using hbit

/-- So is a bit. -/
theorem bitOf_of_zero {w : Word} {a n k : Nat} (h : w.extractLsb' a n = 0) (ha : a ≤ k) (hk : k < a + n) : bitOf w k = false := by
  have hbit : (w.extractLsb' k 1).getLsbD 0 = false := by simp [extract_of_zero h ha (m := 1) hk]
  simpa [bitOf] using hbit

/-- The fields of a word that has none but its opcode. -/
theorem fieldsV_zero {w : Word} (h : w.extractLsb' 0 54 = 0) : fieldsV w = VForm.zero := by
  simp only [fieldsV, extract_of_zero h, bitOf_of_zero h, Nat.zero_le, Nat.reduceAdd, Nat.reduceLeDiff, Nat.reduceLT]
  rfl

theorem fieldsB_zero {w : Word} (h : w.extractLsb' 0 54 = 0) : fieldsB w = BForm.zero := by
  simp only [fieldsB, extract_of_zero h, Nat.zero_le, Nat.reduceAdd, Nat.reduceLeDiff]
  rfl

theorem fieldsK_zero {w : Word} (h : w.extractLsb' 0 54 = 0) : fieldsK w = KForm.zero := by
  simp only [fieldsK, extract_of_zero h, bitOf_of_zero h, Nat.zero_le, Nat.reduceAdd, Nat.reduceLeDiff, Nat.reduceLT]
  rfl

theorem fieldsG_zero {w : Word} (h : w.extractLsb' 0 54 = 0) : fieldsG w = GForm.zero := by
  simp only [fieldsG, extract_of_zero h, bitOf_of_zero h, Nat.zero_le, Nat.reduceAdd, Nat.reduceLeDiff, Nat.reduceLT]
  rfl

/-- A word whose only fields are set enable and flag select, as `selectNop` has it. -/
theorem fieldsV_flags {w : Word} (hi : w.extractLsb' 14 40 = 0) (lo : w.extractLsb' 0 12 = 0) :
    fieldsV w = { VForm.zero with se := bitOf w 12, fs := bitOf w 13 } := by
  simp only [fieldsV, extract_of_zero hi, extract_of_zero lo, bitOf_of_zero lo, Nat.zero_le, Nat.reduceAdd, Nat.reduceLeDiff, Nat.reduceLT]
  rfl

/-- What a word selects that has no field but its opcode. -/
theorem eq_of_selectBare {i j : Instr} {w : Word} (h : selectBare i w = some j) : j = i ∧ w.extractLsb' 0 54 = 0 := by
  unfold selectBare at h
  split at h
  next hz => exact ⟨(Option.some.inj h).symm, eq_of_beq hz⟩
  next => cases h

/-- The instruction that NOP's opcode selects has the word of its flags. -/
theorem encode_selectNop {w : Word} {i : Instr} (h : selectNop w = some i) : encode i = some (packV 0x2CC (fieldsV w)) := by
  unfold selectNop at h
  split at h
  next hz =>
    simp only [Bool.and_eq_true, beq_iff_eq] at hz
    rw [fieldsV_flags hz.1 hz.2]
    cases hse : bitOf w 12 <;> cases hfs : bitOf w 13 <;> simp only [hse, hfs, Bool.not_false, Bool.not_true, Bool.false_eq_true, if_true, if_false,
      Option.some.injEq, reduceCtorEq] at h
    all_goals exact h ▸ rfl
  next => cases h

/-- What an opcode selects in a word of that opcode is an instruction whose word it is. -/
def KeepsWord (w : Word) (op : Nat) (x : Option Instr) : Prop := opcodeOf w = op → ∀ i, x = some i → encode i = some w

variable {w : Word} {op k : Nat}

/-- A row of the opcode table and those after it, in the form to which the table compiles. -/
theorem keepsWord_rows {x : Option Instr} {y : ¬ op = k → Option Instr} (hx : KeepsWord w k x) (hy : ∀ h, KeepsWord w op (y h)) :
    KeepsWord w op (dite (op = k) (Eq.ndrec_symm (motive := fun _ => Option Instr) x) y) := by
  split
  next h => exact h ▸ hx
  next h => exact hy h

/-- The opcodes that are not assigned. -/
theorem keepsWord_none : KeepsWord w op none := fun _ _ h => nomatch h

/-- A row of one instruction whose fields come back from a word of the opcode. -/
theorem keepsWord_row {F : Type} {fields : Word → F} {pack : BitVec 10 → F → Word} {c : F → Instr} {o : BitVec 10}
    (hp : ∀ {w o}, opcodeOf w = o.toNat → pack o (fields w) = w) (hc : encode (c (fields w)) = some (pack o (fields w)))
    (hk : o.toNat = k) : KeepsWord w k (some (c (fields w))) := by
  rintro hop i ⟨⟩
  rw [hc, hp (hop.trans hk.symm)]

/-- A row whose words have no field but the opcode. -/
theorem keepsWord_bare {F : Type} {fields : Word → F} {pack : BitVec 10 → F → Word} {zero : F} {i : Instr} {o : BitVec 10}
    (hp : ∀ {w o}, opcodeOf w = o.toNat → pack o (fields w) = w) (hz : w.extractLsb' 0 54 = 0 → fields w = zero)
    (hc : encode i = some (pack o zero)) (hk : o.toNat = k) : KeepsWord w k (selectBare i w) := by
  intro hop j hj
  obtain ⟨rfl, h⟩ := eq_of_selectBare hj
  rw [hc, ← hz h, hp (hop.trans hk.symm)]

/-- The row of NOP. -/
theorem keepsWord_nop : KeepsWord w 0x2CC (selectNop w) := by
  intro hop i hi
  rw [encode_selectNop hi, packV_fieldsV hop]

set_option linter.auxLemma false in
/-- The opcode table keeps every word: one line for each run of rows of one format, in the table's order. The table's `match` is opened as the chain of
tests to which it compiles, which `split` cannot take apart. -/
theorem keepsWord_selectOpcode (op : Nat) (w : Word) : KeepsWord w op (selectOpcode op w) := by
  delta selectOpcode selectOpcode.match_1
  iterate 22 refine keepsWord_rows (keepsWord_row packV_fieldsV rfl rfl) fun _ => ?_
  iterate 14 refine keepsWord_rows (keepsWord_row packI_fieldsI rfl rfl) fun _ => ?_
  iterate 33 refine keepsWord_rows (keepsWord_row packV_fieldsV rfl rfl) fun _ => ?_
  iterate 14 refine keepsWord_rows (keepsWord_row packI_fieldsI rfl rfl) fun _ => ?_
  iterate 20 refine keepsWord_rows (keepsWord_row packV_fieldsV rfl rfl) fun _ => ?_
  iterate 5 refine keepsWord_rows (keepsWord_row packI_fieldsI rfl rfl) fun _ => ?_
  iterate 17 refine keepsWord_rows (keepsWord_row packV_fieldsV rfl rfl) fun _ => ?_
  iterate 9 refine keepsWord_rows (keepsWord_row packM_fieldsM rfl rfl) fun _ => ?_
  iterate 3 refine keepsWord_rows (keepsWord_row packV_fieldsV rfl rfl) fun _ => ?_
  iterate 25 refine keepsWord_rows (keepsWord_row packM_fieldsM rfl rfl) fun _ => ?_
  iterate 6 refine keepsWord_rows (keepsWord_row packX_fieldsX rfl rfl) fun _ => ?_
  refine keepsWord_rows (keepsWord_row packB_fieldsB rfl rfl) fun _ => ?_
  iterate 2 refine keepsWord_rows (keepsWord_row packV_fieldsV rfl rfl) fun _ => ?_
  refine keepsWord_rows (keepsWord_row packB_fieldsB rfl rfl) fun _ => ?_
  refine keepsWord_rows (keepsWord_bare packV_fieldsV fieldsV_zero rfl rfl) fun _ => ?_
  refine keepsWord_rows (keepsWord_row packV_fieldsV (encode_selectGfr _) rfl) fun _ => ?_
  refine keepsWord_rows (keepsWord_row packV_fieldsV rfl rfl) fun _ => ?_
  refine keepsWord_rows (keepsWord_row packV_fieldsV (encode_selectGpost _) rfl) fun _ => ?_
  refine keepsWord_rows (keepsWord_row packV_fieldsV rfl rfl) fun _ => ?_
  iterate 11 refine keepsWord_rows (keepsWord_row packM_fieldsM rfl rfl) fun _ => ?_
  iterate 3 refine keepsWord_rows (keepsWord_row packB_fieldsB rfl rfl) fun _ => ?_
  refine keepsWord_rows (keepsWord_row packB_fieldsB (encode_selectCall _) rfl) fun _ => ?_
  iterate 2 refine keepsWord_rows (keepsWord_row packB_fieldsB rfl rfl) fun _ => ?_
  refine keepsWord_rows (keepsWord_bare packB_fieldsB fieldsB_zero rfl rfl) fun _ => ?_
  refine keepsWord_rows (keepsWord_row packB_fieldsB (encode_selectFork _) rfl) fun _ => ?_
  refine keepsWord_rows (keepsWord_bare packV_fieldsV fieldsV_zero rfl rfl) fun _ => ?_
  iterate 3 refine keepsWord_rows (keepsWord_row packV_fieldsV rfl rfl) fun _ => ?_
  refine keepsWord_rows keepsWord_nop fun _ => ?_
  refine keepsWord_rows (keepsWord_bare packV_fieldsV fieldsV_zero rfl rfl) fun _ => ?_
  iterate 3 refine keepsWord_rows (keepsWord_row packV_fieldsV rfl rfl) fun _ => ?_
  refine keepsWord_rows (keepsWord_row packV_fieldsV (encode_selectCntw _) rfl) fun _ => ?_
  refine keepsWord_rows (keepsWord_row packV_fieldsV rfl rfl) fun _ => ?_
  iterate 5 refine keepsWord_rows (keepsWord_row packC_fieldsC rfl rfl) fun _ => ?_
  iterate 4 refine keepsWord_rows (keepsWord_row packK_fieldsK rfl rfl) fun _ => ?_
  refine keepsWord_rows (keepsWord_bare packK_fieldsK fieldsK_zero rfl rfl) fun _ => ?_
  iterate 7 refine keepsWord_rows (keepsWord_row packG_fieldsG rfl rfl) fun _ => ?_
  refine keepsWord_rows (keepsWord_bare packG_fieldsG fieldsG_zero rfl rfl) fun _ => ?_
  refine keepsWord_rows (keepsWord_row packI_fieldsI rfl rfl) fun _ => ?_
  refine keepsWord_rows (keepsWord_bare packV_fieldsV fieldsV_zero rfl rfl) fun _ => ?_
  refine keepsWord_rows (keepsWord_row packI_fieldsI rfl rfl) fun _ => ?_
  refine keepsWord_rows (keepsWord_row packI_fieldsI (encode_selectCsrw _) rfl) fun _ => ?_
  iterate 2 refine keepsWord_rows (keepsWord_row packI_fieldsI rfl rfl) fun _ => ?_
  iterate 2 refine keepsWord_rows (keepsWord_row packV_fieldsV rfl rfl) fun _ => ?_
  refine keepsWord_rows (keepsWord_row packV_fieldsV (encode_selectCatset _) rfl) fun _ => ?_
  refine keepsWord_rows (keepsWord_row packV_fieldsV (encode_selectCatsnap _) rfl) fun _ => ?_
  iterate 2 refine keepsWord_rows (keepsWord_row packV_fieldsV rfl rfl) fun _ => ?_
  refine keepsWord_rows (keepsWord_bare packV_fieldsV fieldsV_zero rfl rfl) fun _ => ?_
  refine keepsWord_rows (keepsWord_row packV_fieldsV rfl rfl) fun _ => ?_
  exact keepsWord_none

/-- Settles O56: what the decoder answers has been selected by the word's own opcode, and the opcode table keeps the word. -/
theorem encodingUndoesDecoding : Obligations.EncodingUndoesDecoding := fun w i h =>
  keepsWord_selectOpcode _ w rfl i (select_of_decodeWord h)

end Sys2Proof.Coding
end

section
/-!
PROOF. The family of the document on the device's organisation, first part: what the end of a workgroup that becomes fatal leaves of the machine
(R353, R425). The functions that end its teams change neither the workgroup that a team belongs to, nor the device's mailbox, and take no workgroup
away; none that is fatal stops being so.
-/

namespace Sys2Proof.Fatal

open Sys2Proof.Machine

/-- What the end of teams leaves: each team in its workgroup, every workgroup there and as fatal as it was, and the device's mailbox. -/
structure Leaves (s s' : State) : Prop where
  teams : ∀ v, (s'.team? v).map Team.wg = (s.team? v).map Team.wg
  wgs : ∀ w g, s.wg? w = some g → ∃ g', s'.wg? w = some g' ∧ (g.fatal = true → g'.fatal = true)
  devMb : s'.devMb = s.devMb

/-! ### The updates of the state -/

theorem Leaves.of_eq {s s' : State} (ht : s'.teams = s.teams) (hw : s'.wgs = s.wgs) (hd : s'.devMb = s.devMb) : Leaves s s' where
  teams v := by simp only [State.team?, ht]
  wgs w g hg := ⟨g, by simpa only [State.wg?, hw] using hg, id⟩
  devMb := hd

theorem Leaves.refl (s : State) : Leaves s s := .of_eq rfl rfl rfl

theorem Leaves.trans {s s' s'' : State} (h : Leaves s s') (h' : Leaves s' s'') : Leaves s s'' where
  teams v := (h'.teams v).trans (h.teams v)
  wgs w g hg := by
    obtain ⟨g', hg', hfatal⟩ := h.wgs w g hg
    obtain ⟨g'', hg'', hfatal'⟩ := h'.wgs w g' hg'
    exact ⟨g'', hg'', hfatal' ∘ hfatal⟩
  devMb := h'.devMb.trans h.devMb

/-- A team stays in its workgroup. -/
theorem Leaves.team {s s' : State} (h : Leaves s s') {u : Nat} {t : Team} (ht : s.team? u = some t) : ∃ t', s'.team? u = some t' ∧ t'.wg = t.wg := by
  have hwg := h.teams u
  rwa [ht, Option.map_some, Option.map_eq_some_iff] at hwg

/-- A team is replaced by one of the same workgroup. -/
theorem Leaves.setTeam {s : State} {u : Nat} {t t' : Team} (ht : s.team? u = some t) (hwg : t'.wg = t.wg) : Leaves s (s.setTeam u t') where
  teams v := by
    by_cases hv : v = u
    · rw [hv, State.team?_setTeam_self, ht, Option.map_some, Option.map_some, hwg]
    · rw [State.team?_setTeam_other s _ hv]
  wgs w g hg := ⟨g, hg, id⟩
  devMb := rfl

theorem Leaves.modTeam (s : State) (u : Nat) {f : Team → Team} (hf : ∀ t, (f t).wg = t.wg) : Leaves s (s.modTeam u f) := by
  cases ht : s.team? u with
  | none => rw [State.modTeam_none s f ht]; exact .refl s
  | some t => rw [State.modTeam_of s f ht]; exact .setTeam ht (hf t)

/-- The workgroup just changed. -/
theorem wg?_modWg_self {s : State} {w : Nat} {g : Workgroup} (f : Workgroup → Workgroup) (hg : s.wg? w = some g) :
    (s.modWg w f).wg? w = some (f g) := by
  simp only [State.modWg, hg]
  exact assoc_assocSet_self _ _ _

/-- Another workgroup. -/
theorem wg?_modWg_other (s : State) {w x : Nat} (f : Workgroup → Workgroup) (hx : x ≠ w) : (s.modWg w f).wg? x = s.wg? x := by
  unfold State.modWg
  split
  · exact assoc_assocSet_other _ _ hx
  · rfl

theorem Leaves.modWg (s : State) (w : Nat) {f : Workgroup → Workgroup} (hf : ∀ g, g.fatal = true → (f g).fatal = true) : Leaves s (s.modWg w f) where
  teams v := by rw [State.team?_modWg]
  wgs x g hg := by
    by_cases hx : x = w
    · subst hx
      exact ⟨f g, wg?_modWg_self f hg, hf g⟩
    · exact ⟨g, (wg?_modWg_other s f hx).trans hg, id⟩
  devMb := State.modWg_devMb s w f

theorem Leaves.modCol (s : State) (c : Nat) (f : Column → Column) : Leaves s (s.modCol c f) := .of_eq rfl rfl rfl

theorem Leaves.delOp (s : State) (n : Nat) : Leaves s (s.delOp n) := .of_eq rfl rfl rfl

theorem Leaves.modUnit (s : State) (n : Nat) (f : Completion → Completion) : Leaves s (s.modUnit n f) :=
  .of_eq (State.modUnit_teams s n f) (State.modUnit_wgs s n f) (State.modUnit_devMb s n f)

theorem Leaves.modCtx (s : State) (x : Nat) (f : Context → Context) : Leaves s (s.modCtx x f) :=
  .of_eq (State.modCtx_teams s x f) (State.modCtx_wgs s x f) (State.modCtx_devMb s x f)

/-- The operations and buffers become others. -/
theorem Leaves.withOps (s : State) (ops : List Op) (bufs : List BufWrite) : Leaves s { s with ops := ops, bufs := bufs } := .of_eq rfl rfl rfl

/-- A fold whose every step leaves them. -/
theorem Leaves.foldl {α : Type} {f : State → α → State} (h : ∀ s a, Leaves s (f s a)) (l : List α) (s : State) : Leaves s (l.foldl f s) := by
  induction l generalizing s with
  | nil => exact .refl s
  | cons a l ih => exact (h s a).trans (ih _)

/-! ### An operation completes (R77, R242) -/

theorem applyWr_wg (t : Team) (w : RegWr) : (t.applyWr w).wg = t.wg := by cases w <;> rfl

theorem applyAll_wg (t : Team) (ws : List RegWr) : (t.applyAll ws).wg = t.wg := by
  induction ws generalizing t with
  | nil => rfl
  | cons w ws ih => exact (ih _).trans (applyWr_wg t w)

theorem raise_wg (t : Team) (f : Sticky) : (t.raise f).wg = t.wg := by
  unfold Team.raise
  dsimp only
  split <;> rfl

theorem wakeFrom_wg (t : Team) (now : Nat) (w : Wait) : (t.wakeFrom now w).wg = t.wg := by
  unfold Team.wakeFrom
  dsimp only
  split
  · split <;> rfl
  · rfl

theorem Leaves.writeRegs (s : State) (u sq : Nat) (sup : Bool) (ws : List RegWr) (later : List LaterWr) : Leaves s (s.writeRegs u sq sup ws later) := by
  unfold State.writeRegs
  refine .trans (.modTeam s u fun t => ?_) (.of_eq rfl rfl rfl)
  dsimp only
  split
  · split <;> exact applyAll_wg _ _
  · exact applyAll_wg _ _

theorem Leaves.giveRaise (s : State) (u : Nat) (f : Sticky) (sq : Nat) : Leaves s (s.giveRaise u f sq) := by
  refine .modTeam s u fun t => ?_
  split
  · split <;> rfl
  · exact raise_wg t f

theorem Leaves.completeOp (s : State) (o : Op) : Leaves s (s.completeOp o) := by
  have write := Leaves.writeRegs s o.team o.seq o.sup o.writes o.later
  unfold State.completeOp
  dsimp only
  split
  · exact write.trans (.delOp ..)
  · exact (write.trans (.giveRaise ..)).trans (.delOp ..)

theorem Leaves.completeUser (s : State) (o : Op) : Leaves s (s.completeUser o) := by
  unfold State.completeUser
  split
  next => exact .of_eq rfl rfl rfl
  next t ht =>
    split
    next => exact .completeOp s o
    next b hb =>
      dsimp only
      refine .trans (.setTeam ht ?_) (.completeOp ..)
      rfl

theorem Leaves.completeWait (s : State) (o : Op) (w : Wait) : Leaves s (s.completeWait o w) := by
  unfold State.completeWait
  split
  next => exact .of_eq rfl rfl rfl
  next t ht =>
    refine .trans (.setTeam ht (wakeFrom_wg t s.now w)) ?_
    split
    · exact .completeOp _ _
    · exact .completeUser _ _

theorem Leaves.endXcol (s : State) (o : Op) : Leaves s (s.endXcol o) := by
  unfold State.endXcol
  split
  · exact .completeWait ..
  · exact .refl s

theorem Leaves.performFirst (s : State) (u : Nat) : Leaves s (s.performFirst u) := by
  refine .foldl (fun s n => ?_) _ s
  split
  · split
    · exact .completeOp ..
    · split
      · exact .endXcol ..
      · exact .refl s
  · exact .refl s

/-! ### A team is killed (R122, R292, R309) -/

theorem Leaves.unwind (s : State) (u : Nat) : Leaves s (s.unwind u) := by
  unfold State.unwind
  split
  next => exact .refl s
  next t ht =>
    split
    next => exact .refl s
    next sp hsp =>
      have back : ∀ ops bufs t1, t1.wg = t.wg → Leaves s (({ s with ops := ops, bufs := bufs } : State).setTeam u t1) :=
        fun ops bufs t1 hwg => (Leaves.withOps s ops bufs).trans (.setTeam ht hwg)
      dsimp only
      split
      all_goals split
      · refine .trans (back _ _ _ ?_) (.modCol ..)
        rfl
      · exact back _ _ _ rfl
      · refine .trans (back _ _ _ ?_) (.modCol ..)
        rfl
      · exact back _ _ _ rfl

theorem Leaves.freeDp (s : State) (u : Nat) : Leaves s (s.freeDp u) := by
  unfold State.freeDp
  split
  · exact .refl s
  · dsimp only
    split
    · exact .modCol ..
    · exact .refl s

theorem startFork_wg (t : Team) (mtx : Bool) : (t.startFork mtx).wg = t.wg := by
  unfold Team.startFork
  split
  · rfl
  · cases mtx <;> rfl

theorem Leaves.grantMx (s : State) (c : Nat) : Leaves s (s.grantMx c) := by
  unfold State.grantMx
  dsimp only
  split
  next => exact .refl s
  next =>
    split
    next u hu => exact .trans (.modCol s c _) (.modWg _ _ fun _ => id)
    next =>
      split
      next => exact .refl s
      next e he =>
        refine .trans (.modCol s c _) (.modTeam _ _ fun t => ?_)
        split
        · rfl
        · exact startFork_wg t true

theorem Leaves.releaseMx (s : State) (u : Nat) : Leaves s (s.releaseMx u) := by
  unfold State.releaseMx
  split
  next => exact .refl s
  next t ht =>
    dsimp only
    split
    · exact .trans (.modCol ..) (.grantMx ..)
    · exact .trans (.modCol ..) (.modWg _ _ fun _ => id)

theorem Leaves.dropFollow (s : State) (c : Nat) : Leaves s (s.dropFollow c) := .of_eq rfl rfl rfl

theorem Leaves.dropMx (s : State) (c : Nat) : Leaves s (s.dropMx c) := by
  unfold State.dropMx
  split
  · exact .of_eq rfl rfl rfl
  · exact .refl s

theorem Leaves.settleDying (s : State) (u : Nat) : Leaves s (s.settleDying u) := by
  unfold State.settleDying
  split
  next => exact .refl s
  next t ht =>
    split
    next => exact .refl s
    next =>
      dsimp only
      cases (s.column (s.colOf t)).mxHolder == some u
      · exact .trans (.withOps s _ s.bufs) (.releaseMx ..)
      · simp only [Bool.not_true, Bool.false_eq_true, if_true, if_false]
        have fall : ∀ ops, Leaves s { s.dropFollow (s.colOf t) with ops := ops } := fun ops =>
          (Leaves.dropFollow s (s.colOf t)).trans (.withOps _ ops (s.dropFollow (s.colOf t)).bufs)
        split_ifs
        · refine (fall _).trans (.trans (.dropMx ..) (.trans (.modTeam _ u fun t => ?_) (.releaseMx ..)))
          rfl
        · exact (fall _).trans (.releaseMx ..)
        · exact fall _

/-- KILL. -/
theorem Leaves.killTeam (s : State) (u : Nat) : Leaves s (s.killTeam u) := by
  unfold State.killTeam
  dsimp only
  split
  next => exact .refl s
  next t ht =>
    split
    next => exact .refl s
    next =>
      have perform : Leaves s ((s.unwind u).performFirst u) := .trans (.unwind s u) (.performFirst _ u)
      have kill : Leaves ((s.unwind u).performFirst u) ((((s.unwind u).performFirst u).freeDp u).setTeam u (t.kill s.now)) := by
        obtain ⟨t', ht', hwg⟩ := (Leaves.freeDp ((s.unwind u).performFirst u) u).team ht
        exact .trans (.freeDp ..) (.setTeam ht' hwg.symm)
      exact perform.trans (kill.trans (.trans (.settleDying _ u) (.of_eq rfl rfl rfl)))

/-! ### A fatal workgroup (R353) -/

theorem Leaves.fatal (s : State) (u : Nat) (c : Cause) : Leaves s (s.fatal u c) := by
  unfold State.fatal
  split
  next => exact .refl s
  next t ht =>
    dsimp only
    refine .trans (.trans (Leaves.foldl Leaves.killTeam _ s) (.modWg _ t.wg fun _ _ => ?_)) (.trans (.modUnit ..) (.modCtx ..))
    rfl

/-- The workgroup of the team is fatal. -/
theorem wg?_fatal {s : State} {u : Nat} {t : Team} {g : Workgroup} (c : Cause) (ht : s.team? u = some t) (hg : s.wg? t.wg = some g) :
    ∃ g', (s.fatal u c).wg? t.wg = some g' ∧ g'.fatal = true := by
  obtain ⟨g1, hg1, -⟩ := (Leaves.foldl Leaves.killTeam g.teams s).wgs t.wg g hg
  refine ⟨{ g1 with fatal := true, staged := [], cancelled := true }, ?_, rfl⟩
  simp only [State.fatal, ht, hg, State.wg?_modCtx, State.wg?_modUnit]
  exact wg?_modWg_self _ hg1

/-- What `State.fatalWhere` does with a workgroup. -/
def endWg (c : Cause) (s : State) (e : Nat × Workgroup) : State :=
  match e.2.teams with
  | u :: _ => s.fatal u c
  | [] => s

theorem fatalWhere_eq (s : State) (c : Cause) (cols : Nat → Bool) :
    s.fatalWhere c cols = (s.wgs.filter fun e => e.2.st == .resident && cols e.2.col).foldl (endWg c) s := rfl

theorem Leaves.endWg (c : Cause) (s : State) (e : Nat × Workgroup) : Leaves s (endWg c s e) := by
  unfold Fatal.endWg
  split
  · exact .fatal ..
  · exact .refl s

/-- `State.fatalWhere`. -/
theorem Leaves.fatalWhere (s : State) (c : Cause) (cols : Nat → Bool) : Leaves s (s.fatalWhere c cols) :=
  .foldl (Leaves.endWg c) _ s

/-- Of the workgroups of a list that are ended in turn, each that is there, and whose first team is one of its own, is fatal in the end. -/
theorem wg?_foldl_endWg (c : Cause) {l : List (Nat × Workgroup)} {s : State} {w u : Nat} {g : Workgroup} {t : Team} (hmem : (w, g) ∈ l)
    (hg : s.wg? w = some g) (hhead : g.teams.head? = some u) (ht : s.team? u = some t) (hwg : t.wg = w) :
    ∃ g', (l.foldl (endWg c) s).wg? w = some g' ∧ g'.fatal = true := by
  obtain ⟨before, after, rfl⟩ := List.append_of_mem hmem
  rw [List.foldl_append, List.foldl_cons]
  have hbefore : Leaves s (before.foldl (endWg c) s) := .foldl (Leaves.endWg c) before s
  obtain ⟨g1, hg1, -⟩ := hbefore.wgs w g hg
  obtain ⟨t1, ht1, hwg1⟩ := hbefore.team ht
  obtain rfl : t1.wg = w := hwg1.trans hwg
  obtain ⟨rest, hteams⟩ := List.head?_eq_some_iff.1 hhead
  have hend : endWg c (before.foldl (endWg c) s) (t1.wg, g) = (before.foldl (endWg c) s).fatal u c := by simp only [endWg, hteams]
  obtain ⟨g2, hg2, hfatal⟩ := wg?_fatal c ht1 hg1
  obtain ⟨g3, hg3, hstays⟩ := (Leaves.foldl (Leaves.endWg c) after _).wgs _ g2 (hend ▸ hg2)
  exact ⟨g3, hg3, hstays hfatal⟩

/-- A resident workgroup of the columns named, whose first team is its own, is fatal. -/
theorem wg?_fatalWhere {s : State} (c : Cause) {cols : Nat → Bool} {w u : Nat} {g : Workgroup} {t : Team} (hg : s.wg? w = some g)
    (hresident : g.st = .resident) (hcol : cols g.col = true) (hhead : g.teams.head? = some u) (ht : s.team? u = some t) (hwg : t.wg = w) :
    ∃ g', (s.fatalWhere c cols).wg? w = some g' ∧ g'.fatal = true := by
  rw [fatalWhere_eq]
  refine wg?_foldl_endWg c (List.mem_filter.2 ⟨mem_of_assoc hg, ?_⟩) hg hhead ht hwg
  simp [hresident, hcol]

end Sys2Proof.Fatal
end

section
/-!
PROOF. The family of the document on the device's organisation, second part. `Obligations.ResetState` (O59) holds: each field of `State.reset` is
written out there, and its remap table is an association of each core with a function of its number.
-/

namespace Sys2Proof.Reset

open Sys2Proof.Machine

/-- An association of each key of a list with a function of the key. -/
theorem assoc_map_self {α : Type} (f : Nat → α) {l : List Nat} {k : Nat} (hk : k ∈ l) : assoc (l.map fun i => (i, f i)) k = some (f k) := by
  induction l with
  | nil => simp at hk
  | cons j l ih =>
    by_cases hj : j = k
    · simp [assoc, hj]
    · have hl : k ∈ l := (List.mem_cons.1 hk).resolve_left (Ne.symm hj)
      simp [assoc, hj, ih hl]

/-- The remap table at reset (R33). -/
theorem assoc_remapInitial {i : Nat} (hi : i < 128) : assoc remapInitial i = some (i % 16) :=
  assoc_map_self (· % 16) (List.mem_range.2 hi)

/-- Every core is served by one of its own die, which serves no other of that die. -/
theorem remapInitial_served {i : Nat} (hi : i < 128) :
    ∃ p, assoc remapInitial i = some p ∧ p < 17 ∧ ∀ j < 128, j / 16 = i / 16 → assoc remapInitial j = some p → j = i := by
  refine ⟨i % 16, assoc_remapInitial hi, by omega, fun j hj hdie hp => ?_⟩
  rw [assoc_remapInitial hj, Option.some.injEq] at hp
  omega

/-- The clocks at reset (R320). -/
theorem getD_zeroClocks {n d : Nat} (hd : d < n) : (zeroClocks n).getD d [] = List.replicate 8 0 := by
  simp [zeroClocks, List.getD_eq_getElem?_getD, hd]

/-- The memories at reset (log 3). -/
theorem reset_canonical : State.reset.Canonical where
  mem := rfl
  dram := rfl
  spads _ he := nomatch he
  moved _ hm := nomatch hm

/-- The matrix unit of a column that has run nothing. -/
theorem mxInitial_stored : MxState.initial.Stored := by
  constructor <;> decide

/-- The numbers, registers and matrix units at reset (log 3). -/
theorem reset_orderly : State.reset.Orderly where
  here :=
    { teams := List.nodup_nil, wgs := List.nodup_nil, units := List.nodup_nil
      below := fun _ he => nomatch he
      stored := fun _ he => nomatch he
      saved := fun _ he => nomatch he }
  units _ := mxInitial_stored
  host := rfl
  away _ hm := nomatch hm

/-- Settles O59: the remap table, the clocks and the canonical forms by the lemmas above, the other fields as `State.reset` gives them. -/
theorem resetState : Obligations.ResetState :=
  ⟨rfl, rfl, rfl, rfl, rfl, rfl, rfl, rfl, rfl, rfl, rfl, rfl, rfl, fun _ => rfl, fun _ => getD_zeroClocks, fun _ => getD_zeroClocks,
    fun _ => remapInitial_served, reset_canonical, reset_orderly⟩

end Sys2Proof.Reset
end

section
/-!
PROOF. The family of the document on the device's organisation, third part: the steps of bring-up (R425 to R428).
-/

namespace Sys2Proof.Startup

open Sys2Proof.Machine

/-! ### Firmware images (R427) -/

/-- The check of a firmware image, in its two parts. -/
theorem fwOk_iff (s : State) (img : FwImage) :
    s.fwOk img = true ↔ Config.slhVerify Config.romKey (img.bytes ++ [img.version.setWidth 8]) img.sig = true ∧ s.rollback.toNat ≤ img.version.toNat := by
  simp [State.fwOk, fwSigned]

/-- The rollback counter that an image which was staged leaves. -/
theorem toNat_max_rollback (a b : BitVec 6) : (BitVec.ofNat 6 (max a.toNat b.toNat)).toNat = max a.toNat b.toNat := by
  have ha := a.isLt
  have hb := b.isLt
  rw [BitVec.toNat_ofNat, Nat.mod_eq_of_lt (by omega)]

/-! ### The stages (R425) -/

section
variable {s : State}

theorem powerGood_reset (hs : s.stage = .reset) :
    exec .powerGood s = .next { s with stage := .stage0, m0 := extendM s.m0 Config.stage0Image, boot := s.staged, staged := none } := by
  have hexec : exec .powerGood s = execPowerGood s := rfl
  rw [hexec, execPowerGood, if_pos hs]

theorem powerGood_other (hs : s.stage ≠ .reset) : exec .powerGood s = .next s := by
  have hexec : exec .powerGood s = execPowerGood s := rfl
  rw [hexec, execPowerGood, if_neg hs]

/-- The state in which stage 1 runs an image. -/
def inStage1 (s : State) (run : FwImage) : State :=
  { s with stage := .stage1, m1 := extendM s.m1 run.bytes, fwver := run.version.setWidth 12, boot := none,
           rollback := if s.boot.isSome then BitVec.ofNat 6 (max s.rollback.toNat run.version.toNat) else s.rollback }

/-- STAGE0_COMPLETE by whether the image passes. -/
theorem exec_stage0Complete {img : FwImage} (harg : s.arg = .fw img) (hs : s.stage = .stage0) :
    exec .stage0Complete s =
      .next (if s.fwOk (s.boot.getD img) then inStage1 s (s.boot.getD img) else { s with stage := .recovery, boot := none }) := by
  have hexec : exec .stage0Complete s = execStage0Complete s := rfl
  rw [hexec]
  by_cases hok : s.fwOk (s.boot.getD img) = true
  · simp [execStage0Complete, harg, hs, hok, inStage1]
  · simp [execStage0Complete, harg, hs, hok]

theorem stage0Complete_passes {img : FwImage} (harg : s.arg = .fw img) (hs : s.stage = .stage0) (hok : s.fwOk (s.boot.getD img) = true) :
    Does s .stage0Complete fun s' => s'.stage = .stage1 ∧ s'.m1 = extendM s.m1 (s.boot.getD img).bytes ∧
      s'.fwver.toNat = (s.boot.getD img).version.toNat ∧ s'.boot = none ∧ s'.staged = s.staged ∧
      (s.boot.isSome = true → s'.rollback.toNat = max s.rollback.toNat (s.boot.getD img).version.toNat) ∧
      (s.boot = none → s'.rollback = s.rollback) ∧ s'.store = s.store ∧ s'.removed = s.removed := by
  refine ⟨inStage1 s (s.boot.getD img), ?_, rfl, rfl, ?_, rfl, rfl, fun hstaged => ?_, fun hnone => ?_, rfl, rfl⟩
  · rw [exec_stage0Complete harg hs, if_pos hok]
  · exact BitVec.toNat_setWidth_of_le (by omega)
  · simp only [inStage1, hstaged, if_true, toNat_max_rollback]
  · simp only [inStage1, hnone, Option.isSome_none, Bool.false_eq_true, if_false]

theorem stage0Complete_fails {img : FwImage} (harg : s.arg = .fw img) (hs : s.stage = .stage0) (hok : ¬ s.fwOk (s.boot.getD img) = true) :
    Does s .stage0Complete fun s' => s'.stage = .recovery ∧ s'.boot = none ∧ s'.staged = s.staged ∧ s'.m1 = s.m1 ∧ s'.rollback = s.rollback :=
  ⟨{ s with stage := .recovery, boot := none }, by rw [exec_stage0Complete harg hs, if_neg hok], rfl, rfl, rfl, rfl, rfl⟩

/-- The state in which stage 2 runs (R33, R35, R415). -/
def inStage2 (s : State) (r : BringUp) : State :=
  { s with stage := .stage2, remap := r.remap,
           unavail := (List.range 128).filter fun i => (assoc r.remap i).isNone || r.badStacks.contains (i / 16),
           removed := s.recorded, mem := [], dram := [], poison := [], m1 := extendM s.m1 Config.trainingConfig, m2 := extendM s.m2 r.firmware.bytes }

/-- STAGE1_COMPLETE by whether its conditions hold. -/
theorem exec_stage1Complete {r : BringUp} (harg : s.arg = .bringUp r) :
    exec .stage1Complete s =
      .next (if s.stage = .stage1 ∧ remapOk r.badCores r.remap = true ∧ s.fwOk r.firmware = true then inStage2 s r else s) := by
  have hexec : exec .stage1Complete s = execStage1Complete s := rfl
  rw [hexec]
  by_cases h : s.stage = .stage1 ∧ remapOk r.badCores r.remap = true ∧ s.fwOk r.firmware = true
  · obtain ⟨hs, hremap, hok⟩ := h
    simp [execStage1Complete, harg, hs, hremap, hok, inStage2]
  · have hnot : s.stage ≠ .stage1 ∨ !remapOk r.badCores r.remap ∨ !s.fwOk r.firmware := by
      simpa [Decidable.imp_iff_not_or] using h
    simp only [execStage1Complete, harg, if_pos hnot, if_neg h]

/-- The cores that are not available in stage 2. -/
theorem mem_unavail_inStage2 (r : BringUp) (i : Nat) :
    i ∈ (inStage2 s r).unavail ↔ i < 128 ∧ (assoc r.remap i = none ∨ i / 16 ∈ r.badStacks) := by
  simp [inStage2]

/-- CRITICAL_TEMPERATURE: the resident workgroups end as `State.fatalWhere` says, and a record of KIND 4 enters the device's error queue (R413). -/
theorem criticalTemperature : Does s .criticalTemperature fun s' => s'.stage = .halted ∧ s'.mem = s.mem ∧
    (∃ r, s'.devMb = s.devMb.push r ∧ (r.getD 0 0).toNat % 2 ^ 4 = 4) ∧
    ∀ w g, s.wg? w = some g → g.st = .resident → (∃ u t, g.teams.head? = some u ∧ s.team? u = some t ∧ t.wg = w) →
      ∃ g', s'.wg? w = some g' ∧ g'.fatal = true := by
  have hmem : (s.fatalWhere .euce fun _ => true).mem = s.mem := congrArg Prod.fst (State.fatalWhere_store s .euce fun _ => true)
  have hmb : (s.fatalWhere .euce fun _ => true).devMb = s.devMb := (Fatal.Leaves.fatalWhere s .euce fun _ => true).devMb
  refine ⟨_, rfl, rfl, hmem, ⟨errRecord 4 4 0 0 0xFFFF 0xFFFF 0xFFFF 0 0 0 0 0 1, congrArg (Mailbox.push · _) hmb, by decide⟩, ?_⟩
  rintro w g hg hresident ⟨u, t, hhead, ht, hwg⟩
  exact Fatal.wg?_fatalWhere .euce hg hresident rfl hhead ht hwg

/-- DEVICE_RESET: each of these fields is one that `State.toReset` takes from `State.reset`, or one that the package keeps. -/
theorem deviceReset : Does s .deviceReset fun s' => s'.stage = .reset ∧ s'.teams = [] ∧ s'.contexts = [] ∧ s'.wgs = [] ∧ s'.units = [] ∧ s'.ops = [] ∧
    s'.nPart = 1 ∧ s'.m0 = 0 ∧ s'.m1 = 0 ∧ s'.m2 = 0 ∧ s'.removed = [] ∧ s'.recorded = s.recorded ∧ s'.rollback = s.rollback ∧
    s'.staged = s.staged.or s.boot ∧ s'.boot = none ∧ s'.devMb = Mailbox.initial :=
  ⟨s.toReset, rfl, rfl, rfl, rfl, rfl, rfl, rfl, rfl, rfl, rfl, rfl, rfl, rfl, rfl, rfl, rfl, rfl⟩

end

/-- The steps of bring-up, for every state. -/
theorem bringUp : Claims.BringUp := by
  intro s
  refine ⟨powerGood_reset, powerGood_other, fun img harg hs => ⟨fun hpasses => ?_, fun hfails => ?_⟩, fun r harg hs hremap hpasses => ?_, fun r harg hnot => ?_,
    criticalTemperature, deviceReset, fun b harg => ?_⟩
  · exact stage0Complete_passes harg hs ((fwOk_iff s _).2 hpasses)
  · exact stage0Complete_fails harg hs (mt (fwOk_iff s _).1 hfails)
  · refine ⟨inStage2 s r, ?_, rfl, rfl, fun _ => rfl, rfl, rfl, rfl, rfl, mem_unavail_inStage2 r⟩
    rw [exec_stage1Complete harg, if_pos ⟨hs, hremap, (fwOk_iff s _).2 hpasses⟩]
  · rw [exec_stage1Complete harg, if_neg]
    rintro ⟨hs, hremap, hok⟩
    rcases hnot with hnot | hnot | hnot
    · exact hnot hs
    · simp [hremap] at hnot
    · exact hnot ((fwOk_iff s _).1 hok)
  · have hexec : exec .powerOrThermalLimiting s = execPowerOrThermalLimiting s := rfl
    rw [hexec, execPowerOrThermalLimiting, harg]

end Sys2Proof.Startup
end

section
/-!
PROOF. The family of the document on the device's organisation, fourth part. `Obligations.BringUpAndAttestation` (O51) holds. The report is written at
one place of the host's memory, so that each byte there is the byte of the report at its offset; and the report is the concatenation of its head, the
signature over it and the certificate, in each of which a byte is found by its own offset.
-/

namespace Sys2Proof.Attestation

open Sys2Proof.Machine

/-! ### Bytes written and bytes listed -/

/-- A byte of those read. -/
theorem getD_bytes (m : Memory) (a : Nat) {n i : Nat} (hi : i < n) : (Memory.bytes m a n).getD i 0 = Store.get (w := 8) m (a + i) := by
  induction n generalizing a i with
  | zero => omega
  | succ n ih =>
    cases i with
    | zero => rfl
    | succ i => rw [Memory.bytes, List.getD_cons_succ, ih (a + 1) (by omega), Nat.add_right_comm, Nat.add_assoc]

/-- A byte of a memory after consecutive bytes are written: one of those, where they stand. -/
theorem get_setBytes {m : Memory} (bs : List Byte) (a k : Nat) (hm : m.wf = true) :
    Store.get (w := 8) (Memory.setBytes m a bs) k = if k < a ∨ a + bs.length ≤ k then Store.get (w := 8) m k else bs.getD (k - a) 0 := by
  split
  next hout => exact Memory.get_setBytes_other bs hm hout
  next hin =>
    obtain ⟨i, rfl⟩ := Nat.exists_eq_add_of_le (show a ≤ k by omega)
    rw [← getD_bytes _ a (show i < bs.length by omega), Memory.bytes_setBytes bs hm, Nat.add_sub_cancel_left]

/-- A byte of a list of consecutive values of a function. -/
theorem getD_map_range {f : Nat → Byte} {n k : Nat} (hk : k < n) : ((List.range n).map f).getD k 0 = f k := by
  simp [List.getD_eq_getElem?_getD, hk]

theorem length_wordBytes (ws : List Word) : (wordBytes ws).length = 8 * ws.length := by
  simp [wordBytes, List.length_flatMap, Nat.mul_comm]

/-! ### The report (R429) -/

/-- The bytes of the nonce fill its field. -/
theorem reportHead_eq (s : State) {nonce : List Byte} (hn : nonce.length = 32) : s.reportHead nonce =
    bytesOfNat 1 8 ++ bytesOfNat s.statWord.toNat 8 ++ bytesOfNat s.rollback.toNat 8 ++ bytesOfNat 0x1F01 8 ++
      bytesOfNat Config.sfRevision.toNat 8 ++ bytesOfNat (s.removed.length % 2 ^ 64) 8 ++ List.replicate 16 0 ++
      bytesOfNat s.m0.toNat 64 ++ bytesOfNat s.m1.toNat 64 ++ bytesOfNat s.m2.toNat 64 ++ nonce ++ (List.range 64).map Config.devicePublicKey := by
  have hroll : (s.rollback.setWidth 64).toNat = s.rollback.toNat := BitVec.toNat_setWidth_of_le (by omega)
  have hrev : (Config.sfRevision.setWidth 64).toNat = Config.sfRevision.toNat := BitVec.toNat_setWidth_of_le (by omega)
  have hwords : wordBytes [1, s.statWord, s.rollback.setWidth 64, 0x1F01, Config.sfRevision.setWidth 64, BitVec.ofNat 64 s.removed.length] =
      bytesOfNat 1 8 ++ bytesOfNat s.statWord.toNat 8 ++ bytesOfNat s.rollback.toNat 8 ++ bytesOfNat 0x1F01 8 ++
        bytesOfNat Config.sfRevision.toNat 8 ++ bytesOfNat (s.removed.length % 2 ^ 64) 8 := by
    simp only [wordBytes, List.flatMap_cons, List.flatMap_nil, hroll, hrev, BitVec.toNat_ofNat, List.append_assoc, List.append_nil]
    rfl
  rw [State.reportHead, hwords, ← hn, List.take_left]

theorem length_reportHead (s : State) (nonce : List Byte) : (s.reportHead nonce).length = 352 := by
  simp [State.reportHead, length_wordBytes]

theorem length_report (s : State) (nonce : List Byte) : (s.report nonce).length = 60016 := by
  simp only [State.report, deviceCertificate, certifiedBytes, List.length_append, List.length_map, List.length_range, length_reportHead]

/-- A byte of two lists that stand one after the other from offset a on. -/
theorem getD_append_at {l l' : List Byte} {a b k : Nat} (hb : a + l.length = b) (hk : a ≤ k) :
    (l ++ l').getD (k - a) 0 = if k < b then l.getD (k - a) 0 else l'.getD (k - b) 0 := by
  split
  · exact List.getD_append _ _ _ _ (by omega)
  · rw [List.getD_append_right _ _ _ _ (by omega), show k - a - l.length = k - b by omega]

/-- A byte of the report, by the field that its offset is in. -/
theorem getD_report (s : State) (nonce : List Byte) {k : Nat} (hk : k < 60016) : (s.report nonce).getD k 0 =
    if k < 352 then (s.reportHead nonce).getD k 0
    else if k < 30144 then Config.attestSignature (s.reportHead nonce) (k - 352)
    else if k < 30208 then Config.devicePublicKey (k - 30144)
    else if k < 30224 then Config.serialNumber (k - 30208)
    else Config.rootSignature certifiedBytes (k - 30224) := by
  have hfields : s.report nonce = s.reportHead nonce ++ ((List.range 29792).map (Config.attestSignature (s.reportHead nonce)) ++
      ((List.range 64).map Config.devicePublicKey ++ ((List.range 16).map Config.serialNumber ++
        (List.range 29792).map (Config.rootSignature certifiedBytes)))) := by
    simp only [State.report, deviceCertificate, List.append_assoc]
    rw [certifiedBytes, List.append_assoc]
  rw [hfields]
  refine (getD_append_at (a := 0) (b := 352) (by simp [length_reportHead]) (Nat.zero_le k)).trans (ite_congr rfl (fun _ => rfl) fun h1 => ?_)
  refine (getD_append_at (b := 30144) (by simp) (by omega)).trans (ite_congr rfl (fun _ => getD_map_range (by omega)) fun h2 => ?_)
  refine (getD_append_at (b := 30208) (by simp) (by omega)).trans (ite_congr rfl (fun _ => getD_map_range (by omega)) fun h3 => ?_)
  refine (getD_append_at (b := 30224) (by simp) (by omega)).trans (ite_congr rfl (fun _ => getD_map_range (by omega)) fun h4 => ?_)
  exact getD_map_range (by omega)

/-! ### The commands (R420) -/

section
variable {s : State}

/-- A command that waits in the device's mailbox, and that the stage accepts, is executed. -/
theorem execute_pending {code : Nat} (body : State → Mailbox → State) (hp : s.devMb.pending code = true)
    (ha : s.accepts none (s.devMb.cmd.getD 0 0) = true) : s.execute none code body = body s s.devMb := by
  simp only [State.execute, State.mailbox, Mailbox.arg, hp, ha, if_true]

/-- The state after an image is staged. -/
def staging (s : State) (img : FwImage) : State := { s with staged := some img, devMb := s.devMb.respond 0 0 }

/-- STAGE_FIRMWARE by whether the image passes, and the stage. -/
theorem exec_stageFirmware {img : FwImage} (harg : s.arg = .fw img) (hp : s.devMb.pending 0x85 = true)
    (ha : s.accepts none (s.devMb.cmd.getD 0 0) = true) : exec .stageFirmware s =
    .next (if s.fwOk img then (if s.stage = .recovery then (staging s img).toReset else staging s img) else s.respond none 1 0) := by
  have hexec : exec .stageFirmware s = execStageFirmware s := rfl
  simp only [hexec, execStageFirmware, staging, harg, execute_pending _ hp ha]
  rfl

theorem stageFirmware_passes {img : FwImage} (harg : s.arg = .fw img) (hp : s.devMb.pending 0x85 = true)
    (ha : s.accepts none (s.devMb.cmd.getD 0 0) = true) (hok : s.fwOk img = true) :
    Does s .stageFirmware fun s' => s'.staged = some img ∧ s'.rollback = s.rollback ∧ (s.stage = .recovery → s'.stage = .reset) ∧
      (s.stage ≠ .recovery → s'.stage = s.stage ∧ s'.devMb = s.devMb.respond 0 0 ∧ s'.store = s.store) := by
  have hexec := exec_stageFirmware harg hp ha
  rw [if_pos hok] at hexec
  by_cases hs : s.stage = .recovery
  · rw [if_pos hs] at hexec
    exact ⟨_, hexec, rfl, rfl, fun _ => rfl, fun hn => absurd hs hn⟩
  · rw [if_neg hs] at hexec
    exact ⟨_, hexec, rfl, rfl, fun h => absurd h hs, fun _ => ⟨rfl, rfl, rfl⟩⟩

theorem stageFirmware_fails {img : FwImage} (harg : s.arg = .fw img) (hp : s.devMb.pending 0x85 = true)
    (ha : s.accepts none (s.devMb.cmd.getD 0 0) = true) (hok : ¬ s.fwOk img = true) :
    Does s .stageFirmware fun s' => s'.staged = s.staged ∧ s'.stage = s.stage ∧ s'.devMb = s.devMb.respond 1 0 :=
  ⟨s.respond none 1 0, by rw [exec_stageFirmware harg hp ha, if_neg hok], rfl, rfl, rfl⟩

/-- The nonce that the host hands over. -/
def nonceOf (m : Mailbox) : List Byte := wordBytes [m.arg 2, m.arg 3, m.arg 4, m.arg 5]

/-- The response to ATTEST: the report's length. -/
def attested (m : Mailbox) : Mailbox := { m.respond 0 0 with resp := (m.respond 0 0).resp.set 2 60016 }

/-- The state after the report is written. -/
def reported (s : State) : State :=
  { s with hostMem := Memory.setBytes s.hostMem (s.devMb.cmd.getD 1 0).toNat (s.report (nonceOf s.devMb)), devMb := attested s.devMb }

theorem hostMem_reported (s : State) :
    (reported s).hostMem = Memory.setBytes s.hostMem (s.devMb.cmd.getD 1 0).toNat (s.report (nonceOf s.devMb)) := by
  simp only [reported]

/-- ATTEST by whether the buffer is mapped. -/
theorem exec_attest {mapped : Bool} {nonce : List Byte} (harg : s.arg = .attest mapped nonce) (hp : s.devMb.pending 0x84 = true)
    (ha : s.accepts none (s.devMb.cmd.getD 0 0) = true) : exec .attest s =
    .next (if mapped then reported s else s.respond none 1 0) := by
  have hexec : exec .attest s = execAttest s := rfl
  simp only [hexec, execAttest, reported, attested, nonceOf, Mailbox.arg, State.respond, State.modMb, harg, execute_pending _ hp ha]
  cases mapped <;> rfl

/-- The response slot of eight words names the length, and reads DONE. -/
theorem attested_resp {m : Mailbox} (hlen : m.resp.length = 8) :
    (attested m).resp.getD 2 0 = 60016 ∧ ((attested m).resp.getD 0 0).getLsbD 0 = true := by
  simp only [attested, Mailbox.respond, List.getD_eq_getElem?_getD]
  constructor
  · rw [List.getElem?_set_self (by simp [hlen]), Option.getD_some]
  · rw [List.getElem?_set_ne (by decide), List.getElem?_set_ne (by decide), List.getElem?_set_self (by omega)]
    simp

/-- ATTEST writes the report at the address given, and nothing else of the host's memory. -/
theorem get_attested (hm : Memory.wf s.hostMem = true) (a k : Nat) (nonce : List Byte) :
    Store.get (w := 8) (Memory.setBytes s.hostMem a (s.report nonce)) k =
      if k < a ∨ a + 60016 ≤ k then Store.get (w := 8) s.hostMem k
      else if k < a + 352 then (s.reportHead nonce).getD (k - a) 0
      else if k < a + 30144 then Config.attestSignature (s.reportHead nonce) (k - a - 352)
      else if k < a + 30208 then Config.devicePublicKey (k - a - 30144)
      else if k < a + 30224 then Config.serialNumber (k - a - 30208)
      else Config.rootSignature certifiedBytes (k - a - 30224) := by
  rw [get_setBytes _ _ _ hm, length_report]
  refine ite_congr rfl (fun _ => rfl) fun hin => ?_
  obtain ⟨j, rfl⟩ := Nat.exists_eq_add_of_le (show a ≤ k by omega)
  simp only [Nat.add_sub_cancel_left, Nat.add_lt_add_iff_left]
  exact getD_report s nonce (by omega)

end

/-- STAGE_FIRMWARE and ATTEST, for every state. -/
theorem firmwareAndAttestation : Claims.FirmwareAndAttestation := by
  intro s
  refine ⟨fun img harg hp ha => ⟨fun hpasses => ?_, fun hfails => ?_⟩, fun mapped nonce harg hp ha => ⟨fun hunmapped => ?_, fun hmapped hm hlen => ?_⟩⟩
  · exact stageFirmware_passes harg hp ha ((Startup.fwOk_iff s img).2 hpasses)
  · exact stageFirmware_fails harg hp ha (mt (Startup.fwOk_iff s img).1 hfails)
  · subst hunmapped
    exact ⟨_, exec_attest harg hp ha, rfl, rfl⟩
  · subst hmapped
    have hhead := reportHead_eq s (nonce := nonceOf s.devMb) (length_wordBytes _)
    have hexec := exec_attest harg hp ha
    rw [if_pos rfl] at hexec
    refine ⟨_, hexec, rfl, rfl, rfl, (attested_resp hlen).1, (attested_resp hlen).2, ?_⟩
    -- `stat` and `non` are by definition the value of `State.statWord` and the bytes of `nonceOf`, so that `head` is the report's head
    intro a non stat head
    rw [← show s.reportHead (nonceOf s.devMb) = head from hhead]
    refine ⟨length_reportHead s _, fun k => ?_⟩
    rw [hostMem_reported]
    exact get_attested hm a k _

/-- Settles O51: bring-up, then firmware and attestation. -/
theorem bringUpAndAttestation : Obligations.BringUpAndAttestation := ⟨Startup.bringUp, firmwareAndAttestation⟩

end Sys2Proof.Attestation
end

section
/-!
PROOF. The family 04_program_state.md. `Obligations.ContextImages` (O37) fails: `Claims.ContextLoads` says of a team in Handler that the interrupted team
has the scalars of the image, and asks of the bank only that it is canonical, not that it holds no more than a trap banks (R350: s0 to s7).
-/

namespace Sys2Proof.Images

open Sys2Proof.Machine

/-- A team in Handler with one lane and nine scalars, whose bank holds a value for s8, which no trap banks. -/
def overbankedTeam : Team := { (default : Team) with st := .handler, lanes := 1, ns := 9, bank := some { (default : Bank) with s := [(8, 1)] } }

/-- The first word of an image of that team's shape: one lane, no vector register, nine scalars; all else of the image is zero (R362). -/
def zeroImage : Memory := [(1, 0x01), (3, 0x90)]

/-- CTXLD of that image, number 5, with all its bytes read. -/
def imageLoad : Op := { Op.blank 5 (.team 0) 0 0 (.image true) with data := zeroImage, sup := true }

/-- That team alone, with the CTXLD outstanding, which the step's operand names. -/
def imageLoaded : State := { State.reset with arg := .id 5, teams := [(0, overbankedTeam)], ops := [imageLoad] }

theorem overbankedTeam_stored : overbankedTeam.Stored where
  sregs := rfl
  vregs := rfl
  masks := rfl
  ra := rfl
  pra := rfl
  bank := by rintro b ⟨⟩; decide
  spec := by rintro c ⟨⟩

/-- The load writes zero to s8 of the handler's registers, but the interrupted team, to which `Team.unbank` restores all that the bank holds, has the bank's
value there. -/
theorem exec_writePerformed_imageLoaded :
    ∃ s', exec .writePerformed imageLoaded = .next s' ∧ (s'.team? 0).map (fun t => t.interrupted.scal 8) = some 1 :=
  ⟨_, rfl, by decide +kernel⟩

/-- Refutes O37, in its part on what CTXLD loads: with a bank that holds scalar 8 (no hypothesis excludes it), an image of the team's shape whose s8 is 0 leaves
the interrupted team with the bank's 1 in s8. -/
theorem not_contextImages : ¬ Obligations.ContextImages := by
  unfold Obligations.ContextImages Claims.ContextLoads
  rintro ⟨-, -, loads⟩
  obtain ⟨-, sameShape⟩ := loads imageLoaded 5 imageLoad overbankedTeam rfl rfl rfl rfl rfl rfl rfl rfl rfl overbankedTeam_stored
  obtain ⟨s', t', hexec, hteam, -, -, -, -, -, -, -, scalars, -⟩ := sameShape (by decide +kernel) (by decide) (by decide) (by decide)
  obtain ⟨s'', hexec', hbanked⟩ := exec_writePerformed_imageLoaded
  obtain rfl : s' = s'' := by
    rw [hexec] at hexec'
    exact Host.Outcome.next.inj hexec'
  have ofImage : (t'.interrupted.scal 8).toNat = 0 := (scalars 8 (by decide)).trans (by decide +kernel)
  have ofBank : t'.interrupted.scal 8 = 1 := by
    change s'.team? 0 = some t' at hteam
    simpa [hteam] using hbanked
  simp [ofBank] at ofImage

end Sys2Proof.Images
end

section
/-!
PROOF. The family 06_control_flow.md, HostCommands. `Obligations.HostCommands` (O50) fails: its part on DELETE_OBJECT says of every context that the other
objects keep their descriptors, and does not exclude a snapshot whose scale snapshot is the object deleted.
-/

namespace Sys2Proof.Mailboxes

open Sys2Proof.Machine

/-- An object that is no snapshot, with a scale snapshot of the number given, if any. -/
def plainObj (mate : Option Nat) : Obj := { (default : Obj) with mate := mate }

/-- DELETE_OBJECT of object 1 waits in the mailbox of a context whose object 2 names object 1 as its scale snapshot. -/
def matedCtx : Context :=
  { (default : Context) with
    objs := [(1, plainObj none), (2, plainObj (some 1))]
    mb := { (default : Mailbox) with cmd := [0x11, 1] } }

/-- The device in stage 2 with that context alone; the step's operand names its mailbox. -/
def deletingMate : State := { State.reset with stage := .stage2, contexts := [(0, matedCtx)], arg := .mb (some 0) }

/-- DELETE_OBJECT of object 1 changes object 2, which loses its scale snapshot (`Context.dropObj`). -/
theorem exec_deleteObject_deletingMate :
    ∃ s', exec .deleteObject deletingMate = .next s' ∧ (s'.ctx? 0).bind (fun c => assoc c.objs 2) = some (plainObj none) :=
  ⟨_, rfl, by decide⟩

/-- Refutes O50, in its part on DELETE_OBJECT: where another object names the deleted one as its scale snapshot (no hypothesis excludes it), that
object does not keep its descriptor. -/
theorem not_hostCommands : ¬ Obligations.HostCommands := by
  unfold Obligations.HostCommands Claims.ContextCommands
  rintro ⟨-, commands, -⟩
  obtain ⟨-, -, -, -, delete, -⟩ := commands deletingMate 0 matedCtx rfl rfl
  obtain ⟨s', hexec, -, -, c', hctx, -, keepsOthers, -⟩ := (delete rfl rfl).1 (plainObj none) rfl rfl
  obtain ⟨s'', hexec', hdropped⟩ := exec_deleteObject_deletingMate
  obtain rfl : s' = s'' := by
    rw [hexec] at hexec'
    exact Host.Outcome.next.inj hexec'
  have kept : assoc c'.objs 2 = some (plainObj (some 1)) := keepsOthers 2 (by decide)
  simp [hctx, kept, plainObj] at hdropped

end Sys2Proof.Mailboxes
end

section

-- The proofs below are elaborated one after another: as many threads as there are lemmas here would outgrow the memory in which this text is checked.
set_option Elab.async false

section
/-!
SUPPORT. What it takes to keep a state orderly: the parts of a state and of a team on which `State.Orderly` rests, and the rule of each operation that
changes one of them (R133, log 3).
-/

namespace Sys2Proof.Machine

/-! ### Associations -/

/-- Setting a key adds no key but that one. -/
theorem map_fst_assocSet {α : Type} (l : List (Nat × α)) (k : Nat) (v : α) :
    (assocSet l k v).map (·.1) = if k ∈ l.map (·.1) then l.map (·.1) else l.map (·.1) ++ [k] := by
  induction l with
  | nil => rfl
  | cons e r ih =>
    obtain ⟨j, x⟩ := e
    by_cases hj : j = k
    · simp [assocSet, hj]
    · have hk : k ≠ j := Ne.symm hj
      simp only [assocSet, if_neg hj, List.map_cons, ih, List.mem_cons, hk, false_or]
      split <;> simp

/-- Setting a key keeps the keys apart. -/
theorem nodup_assocSet {α : Type} {l : List (Nat × α)} {k : Nat} {v : α} (h : (l.map (·.1)).Nodup) : ((assocSet l k v).map (·.1)).Nodup := by
  rw [map_fst_assocSet]
  split
  · exact h
  · exact List.nodup_append.2 ⟨h, List.nodup_singleton k, by grind⟩

/-- A selection of an association keeps the keys apart. -/
theorem nodup_filter {α : Type} {l : List (Nat × α)} (p : Nat × α → Bool) (h : (l.map (·.1)).Nodup) : ((l.filter p).map (·.1)).Nodup :=
  List.Nodup.sublist (List.filter_sublist.map _) h

/-- Values may be changed at their keys. -/
theorem nodup_map {α β : Type} {l : List (Nat × α)} {f : Nat × α → Nat × β} (hf : ∀ e, (f e).1 = e.1) (h : (l.map (·.1)).Nodup) :
    ((l.map f).map (·.1)).Nodup := by
  have keys : (l.map f).map (·.1) = l.map (·.1) := by
    rw [List.map_map]
    exact List.map_congr_left fun e _ => hf e
  exact keys ▸ h

/-- A key that an association does not have is none of its keys. -/
theorem not_mem_keys_of_assoc {α : Type} {l : List (Nat × α)} {k : Nat} (h : assoc l k = none) : k ∉ l.map (·.1) := by
  induction l with
  | nil => simp
  | cons e r ih =>
    obtain ⟨j, x⟩ := e
    by_cases hj : j = k
    · simp [assoc, hj] at h
    · simp only [assoc, if_neg hj] at h
      simpa [Ne.symm hj] using ih h

/-- Two associations without a common key. -/
theorem nodup_append_keys {α : Type} {l r : List (Nat × α)} (hl : (l.map (·.1)).Nodup) (hr : (r.map (·.1)).Nodup)
    (apart : ∀ e ∈ r, assoc l e.1 = none) : ((l ++ r).map (·.1)).Nodup := by
  rw [List.map_append]
  refine List.nodup_append.2 ⟨hl, hr, fun a ha b hb e => ?_⟩
  obtain ⟨x, hx, rfl⟩ := List.mem_map.1 hb
  exact not_mem_keys_of_assoc (apart x hx) (e ▸ ha)

/-! ### Sparse data -/

/-- No entry at all is the canonical form of nothing. -/
theorem Store.wf_nil {w : Nat} : Store.wf (w := w) [] = true := rfl

/-- Writes of several keys, one after another, keep the canonical form. -/
theorem Store.wf_foldl_set {w : Nat} {α : Type} (key : α → Nat) (val : Store w → α → BitVec w) (l : List α) {st : Store w}
    (h : Store.wf st = true) : Store.wf (l.foldl (fun r a => Store.set r (key a) (val r a)) st) = true := by
  induction l generalizing st with
  | nil => exact h
  | cons a r ih => exact ih (Store.wf_set h)

/-! ### A team -/

/-- The parts of a team that its canonical form speaks of. -/
def Team.stores (t : Team) : Store 64 × Store 32 × Store 1024 × Store 64 × Store 64 × Option Bank × Option Spec :=
  (t.sregs, t.vregs, t.masks, t.ra, t.vit.pra, t.bank, t.spec)

/-- The canonical form of a team is that of those parts. -/
theorem Team.Stored.same {t t' : Team} (h : t.Stored) (e : t'.stores = t.stores := by rfl) : t'.Stored := by
  simp only [Team.stores, Prod.mk.injEq] at e
  obtain ⟨hs, hv, hm, hra, hpra, hbank, hspec⟩ := e
  exact ⟨hs ▸ h.sregs, hv ▸ h.vregs, hm ▸ h.masks, hra ▸ h.ra, hpra ▸ h.pra, hbank ▸ h.bank, hspec ▸ h.spec⟩

section Teams

variable {t : Team}

/-- One register write (R47, R73 to R75). -/
theorem Team.Stored.applyWr (h : t.Stored) (w : RegWr) : (t.applyWr w).Stored := by
  cases w with
  | v n l bits val => exact { h with vregs := Store.wf_set h.vregs }
  | s n val => exact { h with sregs := Store.wf_set h.sregs }
  | m n lanes vals => exact { h with masks := Store.wf_set h.masks }

/-- Several register writes. -/
theorem Team.Stored.applyAll (h : t.Stored) (ws : List RegWr) : (t.applyAll ws).Stored := by
  unfold Team.applyAll
  induction ws generalizing t with
  | nil => exact h
  | cons w ws ih => exact ih (h.applyWr w)

/-- An open window with the same checkpoint registers. -/
theorem Team.Stored.withSpec {c : Spec} (h : t.Stored) (hc : Store.wf c.sregs = true ∧ Store.wf c.vregs = true ∧ Store.wf c.masks = true ∧ Store.wf c.ra = true) :
    ({ t with spec := some c } : Team).Stored :=
  { h with spec := by rintro _ ⟨⟩; exact hc }

/-- The registers of a checkpoint take writes (R327). -/
theorem Team.Stored.applySpec {c : Spec} (h : t.Stored) (hc : t.spec = some c) (ws : List RegWr) :
    Store.wf (c.applyAll t ws).sregs = true ∧ Store.wf (c.applyAll t ws).vregs = true ∧ Store.wf (c.applyAll t ws).masks = true ∧
      Store.wf (c.applyAll t ws).ra = true := by
  obtain ⟨hs, hv, hm, hra⟩ := h.spec c hc
  have held : ({ t with sregs := c.sregs, vregs := c.vregs, masks := c.masks } : Team).Stored := { h with sregs := hs, vregs := hv, masks := hm }
  exact ⟨(held.applyAll ws).sregs, (held.applyAll ws).vregs, (held.applyAll ws).masks, hra⟩

/-- The lanes that run are set (R115). -/
theorem Team.Stored.setMask (h : t.Stored) (n : Nat) (m : Lanes) : ({ t with masks := Store.set t.masks n m } : Team).Stored :=
  { h with masks := Store.wf_set h.masks }

/-- An error response in ELOG (R91). -/
theorem Team.Stored.elog {now : Nat} {p : Path} {lane : Nat} {c : Cause} {a : Addr} {slot sq : Nat} (h : t.Stored) : (t.elog now p lane c a slot sq).Stored := by
  unfold Team.elog
  dsimp only
  split
  · exact h.same
  · refine h.same ?_
    rw [apply_ite Team.stores]
    exact ite_self _

/-- ELOG cleared (R92). -/
theorem Team.Stored.elogClear {now : Nat} (h : t.Stored) : (t.elogClear now).Stored := by
  unfold Team.elogClear
  split
  · split <;> exact h.same
  · exact h.same

/-- An error response (R200). -/
theorem Team.Stored.errResp {now : Nat} {p : Path} {lane : Nat} {c : Cause} {a : Addr} {slot sq : Nat} (h : t.Stored) :
    (t.errResp now p lane c a slot sq).Stored := by
  unfold Team.errResp
  dsimp only
  repeat' split
  all_goals exact h.elog.same

/-- Flags raised (R88). -/
theorem Team.Stored.raise {f : BitVec 5} (h : t.Stored) : (t.raise f).Stored := by
  unfold Team.raise
  dsimp only
  split <;> exact h.same

/-- A wait (R57). -/
theorem Team.Stored.waitFor {w : Wait} (h : t.Stored) : (t.waitFor w).Stored := by
  unfold Team.waitFor
  split <;> exact h.same

/-- A wait that is over (R58). -/
theorem Team.Stored.wakeFrom {now : Nat} {w : Wait} (h : t.Stored) : (t.wakeFrom now w).Stored := by
  unfold Team.wakeFrom
  dsimp only
  repeat' split
  all_goals exact h.same

/-- A clause boundary. -/
theorem Team.Stored.atBoundary {now : Nat} (h : t.Stored) : (t.atBoundary now).Stored := h.same

/-- Select (R115). -/
theorem Team.Stored.select (h : t.Stored) : t.select.Stored := by
  unfold Team.select
  dsimp only
  split
  · exact (h.setMask 0 0).same
  · exact (h.setMask 0 _).same

/-- A block entry (R116). -/
theorem Team.Stored.enterBlock {w : Word} (h : t.Stored) : (t.enterBlock w).Stored := by
  unfold Team.enterBlock Team.merge
  split
  · exact (h.setMask 0 _).same
  · exact h.same

/-- Falling through (R116). -/
theorem Team.Stored.fallTo {s : State} {pc : Addr} (h : t.Stored) : (s.fallTo t pc).Stored := by
  have moved : ({ t with pc := pc } : Team).Stored := h.same
  unfold State.fallTo
  dsimp only
  split
  · exact moved.enterBlock
  · exact moved.same

/-- A stream replaced. -/
theorem Team.Stored.setStream {mtx : Bool} {x : Option Stream} (h : t.Stored) : (t.setStream mtx x).Stored := by
  cases mtx <;> exact h.same

/-- A pending FORK started (R78, R130). -/
theorem Team.Stored.startFork {mtx : Bool} (h : t.Stored) : (t.startFork mtx).Stored := by
  unfold Team.startFork
  split
  · exact h
  · exact h.setStream.same

/-- A stream's cause posted (R101). -/
theorem Team.Stored.postEng {mtx : Bool} {e : EngCause} (h : t.Stored) : (t.postEng mtx e).Stored := by
  unfold Team.postEng
  split
  · exact h
  · split <;> exact h.same

/-- KILL (R122). -/
theorem Team.Stored.kill {now : Nat} (h : t.Stored) : (t.kill now).Stored where
  sregs := h.sregs
  vregs := h.vregs
  masks := Store.wf_set (w := 1024) h.masks
  ra := h.ra
  pra := h.pra
  bank := by rintro _ ⟨⟩
  spec := h.spec

/-- RTE's return of the bank (R350, R356). -/
theorem Team.Stored.unbank (h : t.Stored) : t.unbank.Stored := by
  unfold Team.unbank
  split
  · exact h
  · rename_i b hb
    exact
      { sregs := Store.wf_restore (w := 64) b.s (fun k => decide (k < 8)) h.sregs
        vregs := Store.wf_restore (w := 32) b.v (fun k => decide (k < 4096)) h.vregs
        masks := Store.wf_restore (w := 1024) b.m (fun k => decide (k < 4)) h.masks
        ra := (h.bank b hb).2.2.2
        pra := h.pra
        bank := by rintro _ ⟨⟩
        spec := h.spec }

/-- RTE (R356). -/
theorem Team.Stored.leaveTrap {now : Nat} (h : t.Stored) : (t.leaveTrap now).Stored := h.unbank.same

/-- Trap entry (R350). -/
theorem Team.Stored.enterTrap {tvec : Addr} {now : Nat} {c : Cause} {slot rslot eng : Nat} {addr rpc : Addr} {arg : BitVec 32} {laddr : Store 64} (h : t.Stored)
    {lanes : Lanes} : (t.enterTrap tvec now c slot rslot eng addr rpc arg laddr lanes).Stored where
  sregs := h.sregs
  vregs := h.vregs
  masks := Store.wf_set (w := 1024) (Store.wf_keep (w := 1024) _ h.masks)
  ra := Store.wf_foldl_set (fun l => l) (fun _ _ => tvec) _ h.ra
  pra := h.pra
  bank := by
    rintro _ ⟨⟩
    exact ⟨Store.wf_keep (w := 64) (fun k => decide (k < 8)) h.sregs, Store.wf_keep (w := 32) (fun k => decide (k < 4096)) h.vregs, Store.wf_keep (w := 1024) (fun k => decide (k < 4)) h.masks, h.ra⟩
  spec := h.spec

/-- A window that is rolled back (R328). -/
theorem Team.Stored.rollBack {c : Spec} (h : t.Stored) (hc : t.spec = some c) :
    ({ t with sregs := c.sregs, vregs := c.vregs, masks := c.masks, ra := c.ra, spec := none } : Team).Stored := by
  obtain ⟨hs, hv, hm, hra⟩ := h.spec c hc
  exact { sregs := hs, vregs := hv, masks := hm, ra := hra, pra := h.pra, bank := h.bank, spec := by rintro _ ⟨⟩ }

/-- The writes of user code that go to the bank (R127, R350). -/
theorem Team.Stored.writeBank {b : Bank} (h : t.Stored) (hb : t.bank = some b) (ws : List RegWr) :
    let c := ({ t with sregs := b.s, vregs := b.v, masks := b.m } : Team).applyAll ws
    ({ t with bank := some { b with s := c.sregs, v := c.vregs, m := c.masks } } : Team).Stored := by
  obtain ⟨hs, hv, hm, hra⟩ := h.bank b hb
  have held : ({ t with sregs := b.s, vregs := b.v, masks := b.m } : Team).Stored := { h with sregs := hs, vregs := hv, masks := hm }
  refine { h with bank := ?_ }
  rintro _ ⟨⟩
  exact ⟨(held.applyAll ws).sregs, (held.applyAll ws).vregs, (held.applyAll ws).masks, hra⟩

/-- Resume addresses given to the lanes of a set (R114). -/
theorem Team.Stored.setRa {m : Lanes} {a : Addr} (h : t.Stored) : (t.setRa m a).Stored :=
  { h with ra := Store.wf_foldl_set (fun l => l) (fun _ _ => a) _ h.ra }

end Teams

end Sys2Proof.Machine
end

section
/-!
SUPPORT. The rule of each operation on the parts of a state that `State.Orderly` speaks of; and Machine/Regs.lean.
-/

namespace Sys2Proof.Machine

/-! ### The lists -/

/-- What a workgroup saves of the matrix unit has the canonical form. -/
def Workgroup.Saved (g : Workgroup) : Prop := ∀ u m, g.savedMx = some (u, m) → m.Stored

/-- A workgroup that saves nothing. -/
theorem Workgroup.Saved.none {g : Workgroup} (e : g.savedMx = none) : g.Saved := by
  intro u m h
  rw [e] at h
  cases h

section Lists

variable {n : Nat} {ts : List (Nat × Team)} {gs : List (Nat × Workgroup)} {us : List (Nat × Completion)}

/-- A team is set. -/
theorem Kept.setTeam {u : Nat} {t : Team} (h : Kept n ts gs us) (ht : t.Stored) : Kept n (assocSet ts u t) gs us :=
  { h with teams := nodup_assocSet h.teams, stored := fun e he => (mem_assocSet he).elim (fun e => e ▸ ht) (h.stored e) }

/-- A workgroup is set. -/
theorem Kept.setWg {w : Nat} {g : Workgroup} (h : Kept n ts gs us) (hg : g.Saved) : Kept n ts (assocSet gs w g) us :=
  { h with wgs := nodup_assocSet h.wgs, saved := fun e he => (mem_assocSet he).elim (fun e => e ▸ hg) (h.saved e) }

/-- A unit is set. -/
theorem Kept.setUnit {k : Nat} {c : Completion} (h : Kept n ts gs us) (hk : k < n) : Kept n ts gs (assocSet us k c) where
  teams := h.teams
  wgs := h.wgs
  units := nodup_assocSet h.units
  stored := h.stored
  saved := h.saved
  below := fun e he => by
    have : e.1 ∈ (assocSet us k c).map (·.1) := List.mem_map_of_mem he
    rw [map_fst_assocSet] at this
    have old : ∀ j ∈ us.map (·.1), j < n := List.forall_mem_map.2 h.below
    grind

/-- The bound of the units' numbers rises. -/
theorem Kept.mono {m : Nat} (h : Kept n ts gs us) (hm : n ≤ m) : Kept m ts gs us := { h with below := fun e he => Nat.lt_of_lt_of_le (h.below e he) hm }

/-- Some of each list. -/
theorem Kept.filter (h : Kept n ts gs us) (p : Nat × Team → Bool) (q : Nat × Workgroup → Bool) (r : Nat × Completion → Bool) :
    Kept n (ts.filter p) (gs.filter q) (us.filter r) where
  teams := nodup_filter p h.teams
  wgs := nodup_filter q h.wgs
  units := nodup_filter r h.units
  below := fun e he => h.below e (List.mem_of_mem_filter he)
  stored := fun e he => h.stored e (List.mem_of_mem_filter he)
  saved := fun e he => h.saved e (List.mem_of_mem_filter he)

end Lists

/-! ### The matrix unit -/

/-- The canonical form of the matrix unit is that of its accumulators. -/
theorem MxState.Stored.same {m m' : MxState} (h : m.Stored) (e : (m'.accA, m'.accW) = (m.accA, m.accW) := by rfl) : m'.Stored := by
  obtain ⟨ha, hw⟩ := Prod.mk.inj e
  exact ⟨ha ▸ h.a, hw ▸ h.w⟩

/-- The matrix unit at first. -/
theorem MxState.Stored.initial : MxState.initial.Stored := by
  refine ⟨fun n _ => ?_, fun n _ => ?_⟩
  · rw [show MxState.initial.accA n = [] by simp [MxState.accA, MxState.initial]]
    rfl
  · rw [show MxState.initial.accW n = [] by simp [MxState.accW, MxState.initial]]
    rfl

/-! ### A state -/

/-- The parts of a state that its order speaks of. -/
def State.orderParts (s : State) : Nat × List (Nat × Team) × List (Nat × Workgroup) × List (Nat × Completion) × List (Nat × Column) × Memory × List Migrated :=
  (s.nextId, s.teams, s.wgs, s.units, s.columns, s.hostMem, s.elsewhere)

/-- The order of a state is that of those parts. -/
theorem State.Orderly.same {s s' : State} (h : s.Orderly) (e : s'.orderParts = s.orderParts := by rfl) : s'.Orderly := by
  simp only [State.orderParts, Prod.mk.injEq] at e
  obtain ⟨hn, ht, hg, hu, hc, hm, he⟩ := e
  refine ⟨hn ▸ ht ▸ hg ▸ hu ▸ h.here, fun c => ?_, hm ▸ h.host, hn ▸ he ▸ h.away⟩
  have : s'.column c = s.column c := by simp only [State.column, hc]
  exact this ▸ h.units c

/-- A fold whose every step keeps the order. -/
theorem State.Orderly.foldl {α : Type} {f : State → α → State} (hf : ∀ s a, s.Orderly → (f s a).Orderly) (l : List α) {s : State} (h : s.Orderly) :
    (l.foldl f s).Orderly := by
  induction l generalizing s with
  | nil => exact h
  | cons a r ih => exact ih (hf s a h)

/-- A fold of a state with something beside it, whose every step keeps the order. -/
theorem State.Orderly.foldl_fst {α β : Type} {f : State × β → α → State × β} (hf : ∀ p a, p.1.Orderly → (f p a).1.Orderly) (l : List α) {p : State × β}
    (h : p.1.Orderly) : (l.foldl f p).1.Orderly := by
  induction l generalizing p with
  | nil => exact h
  | cons a r ih => exact ih (hf p a h)

section Primitives

variable {s : State}

/-- A team of the machine. -/
theorem State.Orderly.team {u : Nat} {t : Team} (h : s.Orderly) (e : s.team? u = some t) : t.Stored := h.here.stored _ (mem_of_assoc e)

/-- A workgroup of the machine. -/
theorem State.Orderly.wg {w : Nat} {g : Workgroup} (h : s.Orderly) (e : s.wg? w = some g) : g.Saved := h.here.saved _ (mem_of_assoc e)

/-- A team is set. -/
theorem State.Orderly.setTeam {u : Nat} {t : Team} (h : s.Orderly) (ht : t.Stored) : (s.setTeam u t).Orderly :=
  ⟨h.here.setTeam ht, h.units, h.host, h.away⟩

/-- A team is changed. -/
theorem State.Orderly.modTeam {u : Nat} {f : Team → Team} (h : s.Orderly) (hf : ∀ t, t.Stored → (f t).Stored) : (s.modTeam u f).Orderly := by
  unfold State.modTeam
  split
  · exact h.setTeam (hf _ (h.team ‹_›))
  · exact h

/-- A workgroup is set. -/
theorem State.Orderly.setWg {w : Nat} {g : Workgroup} (h : s.Orderly) (hg : g.Saved) : ({ s with wgs := assocSet s.wgs w g } : State).Orderly :=
  ⟨h.here.setWg hg, h.units, h.host, h.away⟩

/-- A workgroup is changed. -/
theorem State.Orderly.modWg {w : Nat} {f : Workgroup → Workgroup} (h : s.Orderly) (hf : ∀ g, g.Saved → (f g).Saved) : (s.modWg w f).Orderly := by
  unfold State.modWg
  split
  · exact h.setWg (hf _ (h.wg ‹_›))
  · exact h

/-- A completion unit is changed. -/
theorem State.Orderly.modUnit {n : Nat} {f : Completion → Completion} (h : s.Orderly) : (s.modUnit n f).Orderly := by
  unfold State.modUnit
  split
  · exact ⟨h.here.setUnit (h.here.below _ (mem_of_assoc ‹_›)), h.units, h.host, h.away⟩
  · exact h

/-- A column is changed. -/
theorem State.Orderly.modCol {c : Nat} {f : Column → Column} (h : s.Orderly) (hf : (s.column c).mx.Stored → (f (s.column c)).mx.Stored) : (s.modCol c f).Orderly := by
  refine ⟨h.here, fun d => ?_, h.host, h.away⟩
  by_cases hd : d = c
  · subst hd
    exact State.column_modCol_self s d f ▸ hf (h.units d)
  · exact State.column_modCol_other s f hd ▸ h.units d

/-- A context is changed. -/
theorem State.Orderly.modCtx {x : Nat} {f : Context → Context} (h : s.Orderly) : (s.modCtx x f).Orderly := by
  unfold State.modCtx
  split
  · exact h.same
  · exact h

/-- An operation is replaced. -/
theorem State.Orderly.setOp {o : Op} (h : s.Orderly) : (s.setOp o).Orderly := h.same

/-- An operation is removed. -/
theorem State.Orderly.delOp {n : Nat} (h : s.Orderly) : (s.delOp n).Orderly := h.same

/-- The numbers up to a later one are used. -/
theorem State.Orderly.useIds {n : Nat} (h : s.Orderly) (hn : s.nextId ≤ n) : ({ s with nextId := n } : State).Orderly :=
  ⟨h.here.mono hn, h.units, h.host, fun m hm => (h.away m hm).mono hn⟩

/-- An operation is added. -/
theorem State.Orderly.addOp {u : Nat} {k : OpKind} {f : Op → Op} (h : s.Orderly) : (s.addOp u k f).Orderly := (h.useIds (Nat.le_succ _)).same

/-! ### Registers -/

/-- An error response is given. -/
theorem State.Orderly.giveErr {u : Nat} {p : Path} {lane : Nat} {c : Cause} {a : Addr} {slot sq : Nat} (h : s.Orderly) : (s.giveErr u p lane c a slot sq).Orderly := by
  unfold State.giveErr
  refine h.modTeam fun t ht => ?_
  split
  · split
    · have hc := ht.spec _ ‹_›
      exact ht.withSpec hc
    · exact ht
  · exact ht.errResp

/-- Flags are raised. -/
theorem State.Orderly.giveRaise {u : Nat} {f : BitVec 5} {sq : Nat} (h : s.Orderly) : (s.giveRaise u f sq).Orderly := by
  unfold State.giveRaise
  refine h.modTeam fun t ht => ?_
  split
  · split
    · have hc := ht.spec _ ‹_›
      exact ht.withSpec hc
    · exact ht
  · exact ht.raise

/-- Registers are written. -/
theorem State.Orderly.writeRegs {u sq : Nat} {sup : Bool} {ws : List RegWr} {later : List LaterWr} (h : s.Orderly) : (s.writeRegs u sq sup ws later).Orderly := by
  unfold State.writeRegs
  refine State.Orderly.same (h.modTeam (u := u) fun t ht => ?_)
  dsimp only
  split
  · split
    · exact (ht.applyAll _).withSpec (ht.applySpec ‹_› _)
    · exact ht.applyAll _
  · exact ht.applyAll _

/-- An operation completes. -/
theorem State.Orderly.completeOp {o : Op} (h : s.Orderly) : (s.completeOp o).Orderly := by
  unfold State.completeOp
  dsimp only
  split
  · exact h.writeRegs.delOp
  · exact h.writeRegs.giveRaise.delOp

end Primitives

end Sys2Proof.Machine
end

section
/-!
SUPPORT. The functions of Machine/Ops.lean keep a state orderly.
-/

namespace Sys2Proof.Machine

/-- One of two states. -/
theorem State.Orderly.ite {p : Prop} [Decidable p] {a b : State} (ha : a.Orderly) (hb : b.Orderly) : (if p then a else b).Orderly := by
  split
  · exact ha
  · exact hb

/-- A state that is given is orderly. -/
def Gives (r : Option State) : Prop := ∀ t, r = some t → t.Orderly

/-- A state. -/
theorem State.Orderly.gives {s : State} (h : s.Orderly) : Gives (some s) := fun _ e => Option.some.inj e ▸ h

/-- No state. -/
theorem Gives.empty : Gives none := fun _ e => nomatch e

/-- One of two. -/
theorem Gives.ite {p : Prop} [Decidable p] {a b : Option State} (ha : Gives a) (hb : Gives b) : Gives (if p then a else b) := by
  split
  · exact ha
  · exact hb

/-- A state, and what comes of it. -/
theorem Gives.bind {a : Option State} {f : State → Option State} (ha : Gives a) (hf : ∀ s, s.Orderly → Gives (f s)) : Gives (a.bind f) := by
  cases a with
  | none => exact .empty
  | some s => exact hf s (ha s rfl)

/-- An outcome that is a next state is orderly. -/
def Leads (o : Out) : Prop := ∀ t, o = .next t → t.Orderly

/-- One of two outcomes. -/
theorem Leads.ite {p : Prop} [Decidable p] {a b : Out} (ha : Leads a) (hb : Leads b) : Leads (if p then a else b) := by
  split
  · exact ha
  · exact hb

/-- A next state. -/
theorem State.Orderly.next {s : State} (h : s.Orderly) : Leads (.next s) := fun _ e => Host.Outcome.next.inj e ▸ h

section

variable {s : State}

theorem State.Orderly.setPte {r : PageRef} {e : Pte} (h : s.Orderly) : (s.setPte r e).Orderly := h.modCtx

theorem State.Orderly.logError {owner : Option Nat} {r : List Word} (h : s.Orderly) : (s.logError owner r).Orderly := by
  have h1 : ({ s with devMb := s.devMb.push r } : State).Orderly := h.same
  unfold State.logError
  split
  · exact h1.modCtx
  · exact h1

theorem State.Orderly.logPoison {x : Nat} {sp : Space} {a : Addr} {lower : Bool} (h : s.Orderly) : (s.logPoison x sp a lower).Orderly := by
  unfold State.logPoison
  split
  · exact h.logError
  · split
    · exact h
    · exact h.logError
  · exact h
  · exact h

theorem State.Orderly.logFetch {x col : Nat} {c : Cause} {a : Addr} (h : s.Orderly) : (s.logFetch x col c a).Orderly := by
  unfold State.logFetch
  split
  · exact h.logPoison
  · exact h

theorem State.Orderly.clearCovered {sp : Space} {lower : Bool} {ws : List (Addr × Nat)} (h : s.Orderly) : (s.clearCovered sp lower ws).Orderly := by
  unfold State.clearCovered
  split
  · exact h.modWg fun _ hg => hg
  · exact h.same
  · exact h
  · exact h

theorem State.Orderly.writeMem {sp : Space} {a : Addr} {lower : Bool} {bs : List Byte} (h : s.Orderly) : (s.writeMem sp a lower bs).Orderly := by
  unfold State.writeMem
  split
  · exact h.modWg fun _ hg => hg
  · split
    · exact h.same
    · exact h
  · exact h
  · exact h

/-! ### Clauses -/

theorem State.Orderly.freeDp {u : Nat} (h : s.Orderly) : (s.freeDp u).Orderly := by
  unfold State.freeDp
  dsimp only
  repeat' split
  · exact h
  · exact h.modCol id
  · exact h

theorem State.Orderly.endClause {u : Nat} (h : s.Orderly) : (s.endClause u).Orderly := by
  unfold State.endClause
  split
  · exact h
  · exact h.freeDp.setTeam (h.team ‹_›).fallTo.atBoundary

theorem State.Orderly.advance {u : Nat} (h : s.Orderly) : (s.advance u).Orderly := by
  unfold State.advance
  split
  · exact h
  · rename_i t et
    split
    · exact h.endClause
    · exact h.setTeam ((h.team et).same)

theorem State.Orderly.transfer {u : Nat} {t : Team} (h : s.Orderly) (ht : t.Stored) : (s.transfer u t).Orderly := by
  have h1 : ({ t with fell := false } : Team).Stored := ht.same
  exact h.freeDp.setTeam h1.select.atBoundary

theorem State.Orderly.lastExit {u : Nat} (h : s.Orderly) : (s.lastExit u).Orderly := by
  unfold State.lastExit
  refine h.modTeam fun t ht => ?_
  split
  · exact ht.same
  · exact ht

/-! ### The matrix unit and streams -/

theorem State.Orderly.grantMx {c : Nat} (h : s.Orderly) : (s.grantMx c).Orderly := by
  unfold State.grantMx
  dsimp only
  split
  · exact h
  · split
    · refine State.Orderly.modWg (h.modCol fun _ => ?_) fun _ _ => .none rfl
      dsimp only
      split
      · rename_i e he
        obtain ⟨g, hg, hs⟩ := Option.bind_eq_some_iff.1 he
        exact h.wg hg _ _ hs
      · exact .initial
    · split
      · exact h
      · refine State.Orderly.modTeam (h.modCol fun _ => .initial) fun t ht => ?_
        split
        · exact ht
        · exact ht.startFork

theorem State.Orderly.releaseMx {u : Nat} (h : s.Orderly) : (s.releaseMx u).Orderly := by
  unfold State.releaseMx
  dsimp only
  split
  · exact h
  · split
    · exact (h.modCol fun _ => .initial).grantMx
    · refine (h.modCol id).modWg fun g hg v m e => ?_
      dsimp only at e
      split at e
      · split at e
        · cases e
        · rename_i e' he _
          cases e
          exact hg _ _ he
      · cases e

theorem State.Orderly.unwind {u : Nat} (h : s.Orderly) : (s.unwind u).Orderly := by
  unfold State.unwind
  dsimp only
  split
  · exact h
  · rename_i t et
    split
    · exact h
    · have back := (h.team et).rollBack ‹_›
      exact .ite (.ite (.modCol (.setTeam h.same back.same) id) (.setTeam h.same back.same))
        (.ite (.modCol (.setTeam h.same back.same) id) (.setTeam h.same back.same))

theorem State.Orderly.dropFollow {c : Nat} (h : s.Orderly) : (s.dropFollow c).Orderly := by
  have h1 : (s.modCol c fun k => { k with mx := { k.mx with follow := [] } }).Orderly := h.modCol fun hk => hk.same
  exact h1.same

theorem State.Orderly.dropMx {c : Nat} (h : s.Orderly) : (s.dropMx c).Orderly := by
  unfold State.dropMx
  split
  · refine (h.modCol fun hk => ?_).delOp
    exact hk.same
  · exact h

theorem State.Orderly.settleDying {u : Nat} (h : s.Orderly) : (s.settleDying u).Orderly := by
  unfold State.settleDying
  dsimp only
  split
  · exact h
  · have h1 : ∀ c, (if (s.column c).mxHolder == some u then s.dropFollow c else s).Orderly := fun c => h.dropFollow.ite h
    exact .ite h (.ite (.releaseMx (.same (h1 _))) (.ite (.releaseMx (.modTeam (.dropMx (.same (h1 _))) fun _ ht => ht.same))
      (.ite (.releaseMx (.same (h1 _))) (.same (h1 _)))))

/-! ### Operations that user code waits for -/

theorem State.Orderly.completeUser {o : Op} (h : s.Orderly) : (s.completeUser o).Orderly := by
  unfold State.completeUser
  dsimp only
  split
  · exact h.delOp
  · split
    · exact h.completeOp
    · exact (h.setTeam ((h.team ‹_›).writeBank ‹_› _)).completeOp

theorem State.Orderly.completeWait {o : Op} {w : Wait} (h : s.Orderly) : (s.completeWait o w).Orderly := by
  unfold State.completeWait
  dsimp only
  split
  · exact h.delOp
  · have h1 := fun w => h.setTeam (u := o.team) ((h.team ‹_›).wakeFrom (now := s.now) (w := w))
    split
    · exact (h1 w).completeOp
    · exact (h1 w).completeUser

theorem State.Orderly.endXcol {o : Op} (h : s.Orderly) : (s.endXcol o).Orderly := by
  unfold State.endXcol
  split
  · exact h.completeWait
  · exact h

theorem State.Orderly.performFirst {u : Nat} (h : s.Orderly) : (s.performFirst u).Orderly := by
  unfold State.performFirst
  refine h.foldl (fun s n h => ?_) _
  repeat' split
  · exact h.completeOp
  · exact h.endXcol
  · exact h
  · exact h

theorem State.Orderly.killTeam {u : Nat} (h : s.Orderly) : (s.killTeam u).Orderly := by
  unfold State.killTeam
  dsimp only
  have h0 : ((s.unwind u).performFirst u).Orderly := h.unwind.performFirst
  split
  · exact h
  · split
    · exact h
    · exact .same (h0.freeDp.setTeam (h0.team ‹_›).kill).settleDying

theorem State.Orderly.fatal {u : Nat} {second : Cause} (h : s.Orderly) : (s.fatal u second).Orderly := by
  unfold State.fatal
  dsimp only
  split
  · exact h
  · exact .modCtx (.modUnit (.modWg (.foldl (fun _ _ h => h.killTeam) _ h) fun _ hg => hg))

/-! ### Traps -/

theorem State.Orderly.enterIssueTrap {u : Nat} (h : s.Orderly) : (s.enterIssueTrap u).Orderly := by
  unfold State.enterIssueTrap
  split
  · exact h
  · rename_i t et
    repeat' split
    · exact h
    · exact h.setTeam (h.team et).enterTrap
    · exact h

theorem State.Orderly.trap {u : Nat} {c : Cause} {rskip : Nat} {arg : BitVec 32} {laddr : Store 64} {lanes : Option Lanes} (h : s.Orderly) :
    (s.trap u c rskip arg laddr lanes).Orderly := by
  unfold State.trap
  dsimp only
  split
  · exact h
  · split
    · exact h.fatal
    · have h0 : ∀ p : Prop, [Decidable p] → (if p then s.unwind u else s).Orderly := fun _ => h.unwind.ite h
      split
      · exact h
      · exact ((h0 _).freeDp.setTeam (.same ((h0 _).team ‹_›))).enterIssueTrap

theorem State.Orderly.trapAt {u : Nat} {c : Cause} (h : s.Orderly) : (s.trapAt u c).Orderly := h.trap

theorem State.Orderly.preciseFault {u : Nat} {c : Cause} {lanes : Lanes} {laddr : Store 64} (h : s.Orderly) : (s.preciseFault u c lanes laddr).Orderly := h.trap

theorem State.Orderly.haltStream {u : Nat} {mtx : Bool} {c : Cause} {addr : Addr} {slot : Nat} {laddr : Addr} (h : s.Orderly) :
    (s.haltStream u mtx c addr slot laddr).Orderly := by
  unfold State.haltStream
  dsimp only
  split
  · exact h
  · have h1 := h.modTeam (u := u) fun t ht =>
      (ht.setStream (mtx := mtx) (x := (t.stream mtx).map fun x => { x with halted := true, started := false })).postEng (mtx := mtx)
        (e := engCause mtx c addr slot laddr 0)
    repeat' split
    · exact h1.dropFollow
    · exact h1
    · exact h1
    · exact h1.same

theorem State.Orderly.stopStream {u : Nat} {mtx : Bool} {c : Cause} {addr : Addr} {slot : Nat} {laddr : Addr} {op : Nat} (h : s.Orderly) :
    (s.stopStream u mtx c addr slot laddr op).Orderly := by
  unfold State.stopStream
  split
  · exact h
  · exact h.modTeam fun _ ht => ht.setStream.postEng

/-! ### Post slots -/

theorem State.Orderly.setPost {col : Nat} {p : PostSlot} (h : s.Orderly) : (s.setPost col p).Orderly := h.modCol id

theorem State.Orderly.gbarArrive {w : Nat} {g : Workgroup} (h : s.Orderly) : (s.gbarArrive w g).Orderly := by
  unfold State.gbarArrive
  dsimp only
  repeat' split
  · exact h
  · exact h
  · exact h.setPost.modWg fun _ hg => hg
  · exact h.modWg fun _ hg => hg

/-! ### Issuing an instruction of a team -/

theorem State.Orderly.hazard {u : Nat} (h : s.Orderly) : (s.hazard u).Orderly := h.modTeam fun _ ht => ht.same

theorem State.Orderly.emit {u : Nat} {t : Team} {se fs : Bool} {dests : List Dest} {ws : List RegWr} {raises : BitVec 5} {raiser : Bool} (h : s.Orderly) :
    (s.emit u t se fs dests ws raises raiser).Orderly := h.addOp.advance

theorem State.Orderly.done {u : Nat} (h : s.Orderly) : (s.done u).Orderly := h.advance.same

/-- An instruction of a team issues: the order is a matter of what it does when it is admitted. -/
theorem State.Orderly.issue {i : Instr} {se fs : Bool} {body : State → Nat → Team → State} (h : s.Orderly) (hb : ∀ u t, s.team? u = some t → (body s u t).Orderly) :
    Leads (s.issue i se fs body) := by
  unfold State.issue
  split
  · split
    · exact h.next
    · exact .ite h.next (.ite h.trapAt.next (.ite h.next (.ite h.next (.ite h.hazard.next (hb _ _ ‹_›).next))))
  · refine State.Orderly.next ?_
    repeat' split
    · exact h.haltStream
    · exact h
    · exact h
  · refine State.Orderly.next ?_
    repeat' split
    · exact h.haltStream
    · exact h
    · exact h

end

end Sys2Proof.Machine
end

section
/-!
SUPPORT. The functions of Machine/MemSys.lean and Machine/Frames.lean keep a state orderly.
-/

namespace Sys2Proof.Machine

section

variable {s : State} {u d e lane slot sq k n : Nat} {t : Team} {ag : Agent} {p : Path} {sp : Space} {a : Addr} {lower : Bool} {bs : List Byte} {o : Op}
  {b : BufWrite} {acc : Access} {aop : AOp} {ty : Ty} {xs cmp : List Byte}

/-- An entry keeps its number, and its team its canonical form. -/
def KeepsTeam (e x : Nat × Team) : Prop := x.1 = e.1 ∧ (e.2.Stored → x.2.Stored)

/-- Teams are changed at their numbers. -/
theorem State.Orderly.mapTeams {f : Nat × Team → Nat × Team} (h : s.Orderly) (hf : ∀ e, KeepsTeam e (f e)) :
    ({ s with teams := s.teams.map f } : State).Orderly := by
  refine ⟨{ h.here with teams := nodup_map (fun e => (hf e).1) h.here.teams, stored := fun e he => ?_ }, h.units, h.host, h.away⟩
  obtain ⟨x, hx, rfl⟩ := List.mem_map.1 he
  exact (hf x).2 (h.here.stored x hx)

theorem State.Orderly.noteConflict {secs : List Nat} {only : Option Nat} (h : s.Orderly) : (s.noteConflict ag p secs only).Orderly := by
  refine h.mapTeams fun e => ?_
  split
  · rename_i c hc
    refine iteInduction (motive := KeepsTeam e) (fun _ => ⟨rfl, fun he => ?_⟩) fun _ => ⟨rfl, id⟩
    have hs := he.spec c hc
    exact he.withSpec hs
  · exact ⟨rfl, id⟩

theorem State.Orderly.update (h : s.Orderly) : (s.update ag p sp a lower bs).Orderly := h.noteConflict.writeMem

theorem State.Orderly.updateAll {ws : List (Addr × List Byte)} {before : List (Addr × Nat)} (h : s.Orderly) :
    (s.updateAll ag p sp lower ws before).Orderly :=
  .clearCovered (.foldl (fun _ _ h => h.update) _ h)

theorem State.Orderly.mergeV {v : List Nat} (h : s.Orderly) : (s.mergeV d v).Orderly := h.same

theorem State.Orderly.crossBack (h : s.Orderly) : (s.crossBack d e).Orderly := h.mergeV

theorem State.Orderly.enterSend (h : s.Orderly) : (s.enterSend b d).1.Orderly := h.same

theorem State.Orderly.notePoison (h : s.Orderly) : (s.notePoison u sp a lower).Orderly := by
  unfold State.notePoison
  split
  · exact h.logPoison
  · exact h

theorem State.Orderly.failAccess {c : Cause} (h : s.Orderly) : (s.failAccess o acc c).Orderly := by
  unfold State.failAccess
  exact .ite h.setOp (.setOp (.giveErr (.ite h.notePoison h)))

theorem State.Orderly.finishAccess {el : Nat} {ld : Land} (h : s.Orderly) : (s.finishAccess o el ld lane bs).Orderly := h.setOp

theorem State.Orderly.atomicAt (h : s.Orderly) : (s.atomicAt ag p sp a aop ty xs cmp).1.Orderly := h.update

theorem State.Orderly.stage1 {x : Staged} (h : s.Orderly) : Gives (s.stage1 u t p x) := by
  unfold State.stage1
  dsimp only
  split
  · exact h.gives
  · exact .ite h.gives (.ite .empty (.gives (.ite (.noteConflict (h.modWg fun _ hg => hg)) (h.modWg fun _ hg => hg))))

theorem State.Orderly.stageAccess (h : s.Orderly) : (s.stageAccess o acc).Orderly := by
  unfold State.stageAccess
  split
  · exact h
  · split
    · exact (h.stage1 _ ‹_›).setOp
    · exact h.failAccess

theorem State.Orderly.sendRemote (h : s.Orderly) : (s.sendRemote b).Orderly := by
  unfold State.sendRemote
  dsimp only
  split
  · split <;> exact h.same
  · exact h.same

theorem State.Orderly.fresh (h : s.Orderly) : s.fresh.Orderly := h.useIds (Nat.le_succ _)

theorem State.Orderly.performRead (h : s.Orderly) : (s.performRead o acc).Orderly := by
  unfold State.performRead
  dsimp only
  split
  · exact h.fresh.sendRemote.setOp
  · split
    · exact h
    · split
      · exact h.failAccess
      · have h1 : (match s.crossing o.team acc.space with | some (d, e) => s.crossBack d e | none => s).Orderly := by
          split
          · exact h.crossBack
          · exact h
        split
        · exact h
        · rename_i t et
          split
          · have hs := (h1.team et).spec _ ‹_›
            exact .ite (.ite h1.finishAccess (.ite h (.finishAccess (h1.setTeam ((h1.team et).withSpec hs))))) h1.finishAccess
          · exact h1.finishAccess

theorem State.Orderly.performWrite (h : s.Orderly) : (s.performWrite o acc).Orderly := by
  unfold State.performWrite
  exact .ite h (.ite h.stageAccess (.setOp (.same h.fresh)))

theorem State.Orderly.performAtomic (h : s.Orderly) : (s.performAtomic o acc aop ty xs cmp).Orderly := by
  unfold State.performAtomic
  refine .ite h (.ite (.ite h.failAccess h.stageAccess) (.ite h ?_))
  split
  · exact h.fresh.sendRemote.setOp
  · split
    · exact .setOp (.same h.fresh)
    · exact .ite h (.ite h.failAccess (.setOp h.atomicAt))

theorem State.Orderly.cleanLine (h : s.Orderly) : (s.cleanLine k).Orderly := h.same

/-- An access whose checks have passed. -/
theorem State.Orderly.performAct (h : s.Orderly) :
    (match acc.act with
      | .read => s.performRead o acc
      | .pref => s.setOp (o.dropEl acc.el)
      | .clean l3 =>
        (if l3 then (match s.physAt acc.space acc.addr acc.lower with | some k => s.cleanLine k | none => s) else s).setOp (o.dropEl acc.el)
      | .write _ => s.performWrite o acc
      | .atomic aop ty x cmp => s.performAtomic o acc aop ty x cmp).Orderly := by
  split
  · exact h.performRead
  · exact h.setOp
  · refine .setOp (.ite ?_ h)
    split
    · exact h.cleanLine
    · exact h
  · exact h.performWrite
  · exact h.performAtomic

theorem State.Orderly.performAccess (h : s.Orderly) : (s.performAccess o acc).Orderly := by
  unfold State.performAccess
  dsimp only
  refine .ite h ?_
  split
  · exact h.performAct
  · exact h.failAccess
  · exact .ite h.performAct (.ite h.setOp h)

theorem State.Orderly.delBuf (h : s.Orderly) : (s.delBuf n).Orderly := h.same

theorem State.Orderly.setBuf (h : s.Orderly) : (s.setBuf b).Orderly := h.same

theorem State.Orderly.delBufs {ms : List BufWrite} (h : s.Orderly) : (s.delBufs ms).Orderly := h.same

theorem State.Orderly.storeAll {ws : List (Addr × List Byte)} (h : s.Orderly) : (s.storeAll b ws).Orderly := .same h.updateAll

theorem State.Orderly.exportBuf (h : s.Orderly) : (s.exportBuf b).Orderly := by
  unfold State.exportBuf
  dsimp only
  split
  · exact h.delBuf.sendRemote
  · split
    · exact h.enterSend.setBuf
    · exact h.storeAll.delBufs

/-- A write of memory uses no number. -/
theorem State.writeMem_nextId : (s.writeMem sp a lower bs).nextId = s.nextId := by
  unfold State.writeMem
  split
  · simp
  · split <;> rfl
  · rfl
  · rfl

theorem State.clearCovered_nextId {ws : List (Addr × Nat)} : (s.clearCovered sp lower ws).nextId = s.nextId := by
  unfold State.clearCovered
  split <;> simp

theorem State.storeAll_nextId {ws : List (Addr × List Byte)} : (s.storeAll b ws).nextId = s.nextId := by
  have fold : ∀ (l : List (Addr × List Byte)) (s : State),
      (l.foldl (fun s e => s.update b.agent b.path b.space e.1 b.lower e.2) s).nextId = s.nextId := by
    intro l
    induction l with
    | nil => exact fun _ => rfl
    | cons e r ih => exact fun s => (ih _).trans State.writeMem_nextId
  exact State.clearCovered_nextId.trans (fold ws s)

theorem State.Orderly.exportWord (h : s.Orderly) : (s.exportWord b k).Orderly := by
  unfold State.exportWord
  dsimp only
  refine .ite h.exportBuf (.ite ?_ h)
  exact .same (.useIds h.storeAll (Nat.le_trans (Nat.le_of_eq State.storeAll_nextId) (Nat.le_add_right _ _))) rfl

theorem State.Orderly.advanceP (h : s.Orderly) : (s.advanceP d n).Orderly := h.same

theorem State.Orderly.applyBuf (h : s.Orderly) : (s.applyBuf b).Orderly := by
  unfold State.applyBuf
  dsimp only
  split
  · exact h
  · refine .ite h ?_
    split
    · exact h.storeAll.delBuf.advanceP.mergeV
    · split
      · exact .ite h.notePoison.delBuf.advanceP.mergeV h.atomicAt.modUnit.delBuf.advanceP.mergeV
      · exact .ite (.crossBack (.mergeV (.advanceP (.delBuf (.setOp (.giveErr (.ite h.notePoison h)))))))
          h.atomicAt.setOp.delBuf.advanceP.mergeV.crossBack
    · exact h.delBuf.advanceP.mergeV
    · exact h.delBuf.advanceP.mergeV
    · exact h.delBuf.advanceP.mergeV

/-! ### Frames -/

theorem State.Orderly.takeFrame {col : Nat} (h : s.Orderly) : (s.takeFrame col lower).Orderly := by
  refine h.modCol fun hk => ?_
  split <;> exact hk

theorem State.Orderly.copyFrame {src dst : Nat} (h : s.Orderly) : (s.copyFrame src dst).Orderly := h.same

theorem State.Orderly.discardFrame (h : s.Orderly) : (s.discardFrame k).Orderly := h.same

theorem State.Orderly.zeroFrame (h : s.Orderly) : (s.zeroFrame k).Orderly := h.same

theorem State.Orderly.mapPage {r : PageRef} {ob : Obj} {x : Pte} (h : s.Orderly) : Gives (s.mapPage r ob x) := by
  unfold State.mapPage
  dsimp only
  split
  · exact .empty
  · exact .gives (.setPte (.ite h.takeFrame.copyFrame h.takeFrame.zeroFrame))

theorem State.Orderly.partPage {r : PageRef} (h : s.Orderly) : (s.partPage r).Orderly := by
  unfold State.partPage
  dsimp only
  split
  · exact h
  · refine .ite ?_ h
    split
    · exact (h.mapPage _ ‹_›).setPte.modCtx
    · exact h

theorem State.Orderly.partAll {as : List Access} (h : s.Orderly) : (s.partAll as).Orderly := h.foldl (fun _ _ h => h.partPage) _

/-! ### Memory instructions -/

theorem State.Orderly.addAccesses {se fs raiser : Bool} {dests : List Dest} {as : List Access} (h : s.Orderly) :
    (s.addAccesses u t se fs dests as raiser).Orderly := h.addOp.advance

/-- One more store in the window of a team. -/
theorem Team.Stored.countStore {i : Instr} (h : t.Stored) :
    (match t.spec with
      | some sp => if windowStore i then { t with spec := some { sp with stores := sp.stores + 1 } } else t
      | none => t : Team).Stored := by
  split
  · rename_i c hc
    split
    · have hs := h.spec c hc
      exact h.withSpec hs
    · exact h
  · exact h

section Instructions

variable {i : Instr} {f : MForm} {g : VForm} {j : IForm} {dests : List Dest} {raiser : Bool}

theorem State.Orderly.scalarV {op : Team → Word} (h : s.Orderly) : Leads (scalarV i g op s) := h.issue fun _ _ _ => h.emit

theorem State.Orderly.scalarI {op : Team → Word} (h : s.Orderly) : Leads (scalarI i j op s) := h.issue fun _ _ _ => h.emit

theorem State.Orderly.vectorV {op : Team → Nat → Word × Sticky} (h : s.Orderly) : Leads (vectorV i g ty raiser op s) := h.issue fun _ _ _ => h.emit

theorem State.Orderly.vectorI {op : Team → Nat → Word × Sticky} (h : s.Orderly) : Leads (vectorI i j raiser op s) := h.issue fun _ _ _ => h.emit

theorem State.Orderly.maskV {op : Team → Nat → Bool × Sticky} (h : s.Orderly) : Leads (maskV i g raiser op s) := h.issue fun _ _ _ => h.emit

theorem State.Orderly.memT {raiser : State → Team → Bool} {mk : State → Nat → Team → List Access} (h : s.Orderly) :
    Leads (memT i f dests raiser mk s) := by
  refine h.issue fun u t et => ?_
  dsimp only
  split
  · exact h.preciseFault
  · refine .addAccesses (.partAll ?_)
    split
    · rename_i c hc
      have hs := (h.team et).spec c hc
      exact .ite (h.setTeam ((h.team et).withSpec hs)) h
    · exact h

theorem State.Orderly.spadT {mk : Team → Nat → Act × Land} (h : s.Orderly) : Leads (spadT i f dests mk s) := by
  unfold Machine.spadT
  dsimp only
  refine h.issue fun u t et => ?_
  refine .addAccesses (h.setTeam ?_)
  have h1 := (h.team et).countStore (i := i)
  split
  · exact h1.same
  · exact h1

theorem State.Orderly.execPref (h : s.Orderly) : Leads (execPref f s) := h.issue fun _ _ _ => h.addAccesses

theorem State.Orderly.atomT (h : s.Orderly) : Leads (atomT i f aop s) := h.memT

theorem State.Orderly.atomF (h : s.Orderly) : Leads (atomF i f aop s) := h.issue fun _ _ _ => h.addAccesses

theorem State.Orderly.execAtomrAdd (h : s.Orderly) : Leads (execAtomrAdd f s) :=
  h.issue fun _ _ et => .ite h.trapAt (.emit (.foldl (fun _ _ h => h.giveErr) _ (h.setTeam (h.team et).same)))

end Instructions

end

end Sys2Proof.Machine
end

section
/-!
SUPPORT. The functions of Machine/Turn.lean, Machine/Units.lean, Machine/Clauses.lean, Machine/Generator.lean and Machine/Control.lean keep a state orderly.
-/

namespace Sys2Proof.Machine

/-- A fold over things of which something holds, whose every step keeps the order. -/
theorem State.Orderly.foldl_mem {α : Type} {f : State → α → State} {l : List α} {s : State} (h : s.Orderly)
    (hf : ∀ a ∈ l, ∀ s, s.Orderly → (f s a).Orderly) : (l.foldl f s).Orderly := by
  induction l generalizing s with
  | nil => exact h
  | cons a r ih => exact ih (hf a List.mem_cons_self s h) fun b hb => hf b (List.mem_cons_of_mem a hb)

/-! ### Teams -/

section Teams

variable {t : Team} {now : Nat}

theorem Team.Stored.postCncl (h : t.Stored) : (t.postCncl now).Stored := by
  unfold Team.postCncl
  split
  · exact h
  · exact h.same

theorem Team.Stored.postPree (h : t.Stored) : (t.postPree now).Stored := by
  unfold Team.postPree
  split
  · exact h
  · exact h.same

theorem Team.Stored.stopStreams (h : t.Stored) : t.stopStreams.Stored := h.same

/-- One of two teams. -/
theorem Team.Stored.ite {p : Prop} [Decidable p] {a b : Team} (ha : a.Stored) (hb : b.Stored) : (if p then a else b).Stored := by
  split
  · exact ha
  · exact hb

/-- A fold whose every step keeps the canonical form. -/
theorem Team.Stored.foldl {α : Type} {f : Team → α → Team} (h : t.Stored) (hf : ∀ t a, t.Stored → (f t a).Stored) (l : List α) :
    (l.foldl f t).Stored := by
  induction l generalizing t with
  | nil => exact h
  | cons a r ih => exact ih (hf t a h)

/-- A change of the Vitrine that keeps the producers' resume addresses. -/
theorem Team.Stored.withVit {v : Vitrine} (h : t.Stored) (hv : Store.wf v.pra = true) : ({ t with vit := v } : Team).Stored := { h with pra := hv }

/-- The lanes of a set go to addresses of their own (R114). -/
theorem Team.Stored.eachRa {l : List Nat} {a : Nat → Addr} (h : t.Stored) :
    ({ t with ra := l.foldl (fun r n => Store.set r n (a n)) t.ra } : Team).Stored :=
  { h with ra := Store.wf_foldl_set (fun n => n) (fun _ n => a n) l h.ra }

theorem Team.Stored.beginPass {f : Nat} {drain : Bool} {next : Addr} (h : t.Stored) : (t.beginPass f drain next).Stored := by
  unfold Team.beginPass
  dsimp only
  have h1 : (if (t.vit.phase == .producing) = true then t.setRa (t.mask 0 &&& t.vit.pset) next else t).Stored := .ite h.setRa h
  refine { h1 with masks := Store.wf_set (w := 1024) h1.masks, pra := ?_ }
  split
  · exact Store.wf_foldl_set (fun l => l) (fun _ l => _) _ Store.wf_nil
  · exact h.pra

theorem Team.Stored.closeCur {drain : Bool} {next : Addr} (h : t.Stored) : (t.closeCur drain next).Stored := .beginPass h.same

theorem Team.Stored.exitLoop (h : t.Stored) : t.exitLoop.Stored := .select (.same h.setRa)

/-- The waits of a team that end with their flags. -/
theorem Team.Stored.endWaitks {s : State} {u : Nat} (h : t.Stored) : (s.endWaitks u t).Stored := by
  have step : ∀ (w : Wait) (t : Team), t.Stored →
      (match w with | .waitk fl => if s.masked u fl then t else t.wakeFrom s.now w | _ => t : Team).Stored := by
    intro w t ht
    split
    · exact .ite ht ht.wakeFrom
    · exact ht
  exact step _ _ (step _ _ h)

theorem Team.Stored.tidyTeam {s : State} {u : Nat} (h : t.Stored) : (s.tidyTeam u t).Stored := by
  unfold State.tidyTeam
  dsimp only
  have h1 := h.endWaitks (s := s) (u := u)
  exact .ite h1.same (.ite h1.same (.ite h1.same h1.same))

end Teams

section

variable {s : State} {u v n c : Nat} {t : Team} {mtx : Bool} {x : Stream} {slot : Nat} {a : Addr}

/-! ### Turns -/

theorem State.Orderly.tickOver (h : s.Orderly) : s.tickOver.Orderly := h.same

theorem State.Orderly.streamFetchFail {c : Cause} {pc : Addr} (h : s.Orderly) : (s.streamFetchFail u mtx c pc slot a).Orderly := by
  unfold State.streamFetchFail
  dsimp only
  refine .ite h.stopStream (.ite h (.haltStream ?_))
  split
  · exact h.logFetch
  · exact h

theorem State.Orderly.badWord {ag : Agent} (h : s.Orderly) : (s.badWord ag).Orderly := by
  unfold State.badWord
  split
  · exact h.trapAt
  · split
    · exact h.haltStream
    · exact h
  · split
    · exact h.haltStream
    · exact h

/-- A fetch that fails (R103). -/
theorem State.Orderly.fetchFor {ag : Agent} {s' : State} (h : s.Orderly) (e : s.fetchFor ag = .fail s') : s'.Orderly := by
  have stream : ∀ u mtx, s.fetchStream u mtx ≠ .fail s' := by
    intro u mtx
    unfold State.fetchStream
    repeat' split
    all_goals simp
  unfold State.fetchFor at e
  split at e
  · cases e
  · split at e
    · unfold State.fetchTeam at e
      repeat' split at e
      · cases e
      · cases e
      · cases e
      · cases e
        exact h.logFetch.trapAt
    · exact absurd e (stream _ _)
    · exact absurd e (stream _ _)

theorem State.Orderly.enterIntake {col : Nat} {e : Intake} (h : s.Orderly) : (s.enterIntake col e).Orderly := h.same

/-! ### Clauses -/

theorem State.Orderly.startClause (h : s.Orderly) (ht : t.Stored) : (s.startClause u t).Orderly := by
  unfold State.startClause
  dsimp only
  have h1 : ({ t with pc := s.headerAt t, slot := 0 } : Team).Stored := ht.same
  split
  · exact (h.setTeam h1).logFetch.trapAt
  · refine .ite (h.setTeam h1).trapAt (.ite (.setTeam (h.setTeam h1) (.atBoundary (.fallTo h1.same))) (.modCol ?_ id))
    exact .setTeam (h.setTeam h1) (.same (.ite h1.enterBlock h1))

theorem State.Orderly.startStream (h : s.Orderly) : (s.startStream u mtx t x).Orderly := by
  unfold State.startStream
  dsimp only
  have put : ∀ x, (s.modTeam u fun t => t.setStream mtx (some x)).Orderly := fun x => h.modTeam fun _ ht => ht.setStream
  split
  · exact (put _).streamFetchFail
  · refine .ite (put _).haltStream (.ite h ?_)
    split
    · exact (put _).streamFetchFail
    · exact put _

theorem State.Orderly.execClauseStart (h : s.Orderly) : Leads (execClauseStart s) := by
  unfold Machine.execClauseStart
  split
  · refine State.Orderly.next ?_
    split
    · exact .ite (h.startClause (h.team ‹_›)) h
    · exact h
  · refine State.Orderly.next ?_
    repeat' split
    · exact h.startStream
    · exact h
    · exact h
    · exact h
  · refine State.Orderly.next ?_
    repeat' split
    · exact h.startStream
    · exact h
    · exact h
    · exact h
  · exact h.next

theorem State.Orderly.enterBoundary {c : Cause} (h : s.Orderly) (ht : t.Stored) : (s.enterBoundary u t c).Orderly := by
  unfold State.enterBoundary
  dsimp only
  split
  · exact .settleDying (h.setTeam (.enterTrap (.same ht.stopStreams)))
  · exact h.setTeam (.enterTrap ht.same)
  · exact h.setTeam (.enterTrap ht.same)
  · exact h.setTeam (.enterTrap ht.same)
  · exact .ite (h.setTeam (.enterTrap ht.same)) (.ite (h.setTeam (.enterTrap ht.same)) (h.setTeam (.enterTrap ht.same)))

theorem State.Orderly.parkWindow (h : s.Orderly) : (s.parkWindow u).Orderly :=
  h.unwind.freeDp.modTeam fun _ ht => .ite ht.same ht

theorem State.Orderly.execTrapEntry (h : s.Orderly) : Leads (execTrapEntry s) := by
  unfold Machine.execTrapEntry
  split
  · refine State.Orderly.next ?_
    split
    · exact h
    · refine .ite h.enterIssueTrap ?_
      split
      · exact h
      · exact .ite h (.ite h.parkWindow (.ite (h.enterBoundary (h.team ‹_›)) h))
  · exact h.next

/-! ### The moves between the sets -/

theorem State.Orderly.execStallThreshold (h : s.Orderly) : Leads (execStallThreshold s) := by
  unfold Machine.execStallThreshold
  split
  · refine State.Orderly.next ?_
    split
    · rename_i t et
      exact .ite (h.setTeam (h.team et).same) h
    · exact h
  · exact h.next

theorem State.Orderly.activate (h : s.Orderly) : (s.activate u).Orderly := h.modTeam fun _ ht => ht.same

theorem State.Orderly.swap (h : s.Orderly) : (s.swap u v).Orderly := .activate (h.modTeam fun _ ht => ht.same)

theorem State.Orderly.execTeamExchange (h : s.Orderly) : Leads (execTeamExchange s) := by
  unfold Machine.execTeamExchange
  dsimp only
  split
  · refine State.Orderly.next ?_
    split
    · exact h
    · rename_i t et
      refine .ite (.ite (h.setTeam (h.team et).same) h) (.ite h ?_)
      split
      · exact .ite h.activate h.swap
      · exact .ite h.activate h
      · exact h.swap
      · exact h
  · exact h.next

theorem State.Orderly.execTimeSliceExpiry (h : s.Orderly) : Leads (execTimeSliceExpiry s) := by
  unfold Machine.execTimeSliceExpiry
  split
  · refine State.Orderly.next ?_
    split
    · exact h
    · rename_i t et
      exact .ite (h.setTeam (h.team et).same) h
  · exact h.next

/-! ### What comes about at once -/

theorem State.Orderly.fillSlot (h : s.Orderly) : (s.fillSlot c).Orderly := by
  unfold State.fillSlot
  refine .ite ?_ h
  split
  · exact h.activate
  · exact h

theorem State.Orderly.fillColumn (h : s.Orderly) : (s.fillColumn c).Orderly := by
  unfold State.fillColumn
  have h1 : ∀ l : List Nat, (l.foldl (fun s _ => s.fillSlot c) s).Orderly := fun l => h.foldl (fun _ _ h => h.fillSlot) l
  generalize List.range 8 = slots
  specialize h1 slots
  generalize slots.foldl (fun s _ => s.fillSlot c) s = s1 at h1
  dsimp only
  split
  · exact h1.modCol id
  · exact h1

theorem State.Orderly.tidy (h : s.Orderly) : s.tidy.Orderly := by
  unfold State.tidy
  refine .ite h ?_
  extract_lets cs s1 s2 s3
  have h1 : s1.Orderly := by
    refine h.foldl_mem fun e he r hr => hr.setTeam (.tidyTeam ?_)
    obtain ⟨c, -, hc⟩ := List.mem_flatMap.1 he
    exact h.here.stored e (List.mem_of_mem_filter hc)
  have h2 : s2.Orderly := h1.foldl (fun _ _ h => h.fillColumn) _
  have h3 : s3.Orderly := h2.foldl (fun _ _ h => h.settleDying) _
  exact h3.foldl (fun _ _ h => h.gbarArrive) _

theorem State.Orderly.execTeamRetire (h : s.Orderly) : Leads (execTeamRetire s) := by
  unfold Machine.execTeamRetire
  split
  · refine State.Orderly.next ?_
    split
    · exact .ite (.releaseMx (h.modTeam fun _ ht => ht.same)) h
    · exact h
  · exact h.next

/-! ### Generator loops -/

/-- An instruction of a loop: its order is a matter of what it does in its phase. -/
theorem State.Orderly.genPhase {ph : Phase} {body : State → Nat → Team → State} (h : s.Orderly) (hb : (body s u t).Orderly) :
    (genPhase ph body s u t).Orderly := .ite h.trapAt hb

theorem State.Orderly.goTo (h : s.Orderly) (ht : t.Stored) : (s.goTo u t).Orderly := h.freeDp.setTeam (.atBoundary ht.same)

theorem State.Orderly.execGen {f : BForm} (h : s.Orderly) : Leads (execGen f s) := by
  refine h.issue fun u t et => h.genPhase ?_
  exact .ite h.trapAt (.ite (.trapAt (h.modTeam fun _ ht => ht.elog)) (.done (h.setTeam ((h.team et).withVit Store.wf_nil))))

theorem State.Orderly.switchCheck {least : Nat} (h : s.Orderly) : (s.switchCheck u least).Orderly := by
  unfold State.switchCheck
  split
  · exact h
  · exact .ite (.same (h.goTo (h.team ‹_›).closeCur)) h.done

/-- The number of records of a frame leaves the producers' resume addresses. -/
theorem Vitrine.setFill_pra (v : Vitrine) (k n : Nat) : (v.setFill k n).pra = v.pra := by
  unfold Vitrine.setFill
  split <;> rfl

/-- So does a record appended. -/
theorem Vitrine.append_pra (v : Vitrine) (k : Nat) : (v.append k).2.2.pra = v.pra := by
  unfold Vitrine.append
  dsimp only
  exact Vitrine.setFill_pra _ _ _

/-- So do those of all lanes of a YIELD. -/
theorem Vitrine.foldl_append_pra {α : Type} {f : Nat × Vitrine × α → Nat → Nat × Vitrine × α} (hf : ∀ p l, (f p l).2.1.pra = p.2.1.pra)
    (ls : List Nat) (p : Nat × Vitrine × α) : (ls.foldl f p).2.1.pra = p.2.1.pra := by
  induction ls generalizing p with
  | nil => rfl
  | cons l ls ih => exact (ih _).trans (hf p l)

theorem State.Orderly.execYield {f : VForm} (h : s.Orderly) : Leads (execYield f s) := by
  refine h.issue fun u t et => h.genPhase ?_
  refine .ite h.trapAt (.ite h.hazard (.switchCheck (.addOp (h.setTeam ((h.team et).withVit ?_)))))
  rw [Vitrine.foldl_append_pra fun p l => Vitrine.append_pra p.2.1 p.1]
  exact (h.team et).pra

theorem State.Orderly.execGsw (h : s.Orderly) : Leads (execGsw s) := h.issue fun _ _ _ => h.genPhase h.switchCheck

/-- The lanes that stop running, and those that leave a set (R251, R255). -/
theorem Team.Stored.leaveLanes {m act : Lanes} {next : Addr} {v : Vitrine} (h : t.Stored) (hv : v.pra = t.vit.pra) :
    ({ t.setRa (m &&& ~~~act) next with masks := Store.set (t.setRa (m &&& ~~~act) next).masks 0 0, vit := v } : Team).Stored :=
  { h with masks := Store.wf_set (w := 1024) h.masks, pra := hv ▸ h.pra, ra := (h.setRa (m := m &&& ~~~act) (a := next)).ra }

theorem State.Orderly.execGdone {f : VForm} (h : s.Orderly) : Leads (execGdone f s) := by
  refine h.issue fun u t et => h.genPhase ?_
  have h1 : ({ s with seq := s.seq + 1 } : State).Orderly := h.same
  have ht := (h.team et).leaveLanes (m := t.mask 0 &&& t.all) (act := t.activeSet f.m) (next := s.nextClause t)
    (v := { t.vit with pset := t.vit.pset &&& ~~~t.activeSet f.m }) rfl
  exact .ite (h1.transfer ht) (.ite (h1.goTo ht.closeCur) (h1.goTo ht.exitLoop))

theorem State.Orderly.execGcon {f : BForm} (h : s.Orderly) : Leads (execGcon f s) := by
  refine h.issue fun u t et => h.genPhase ?_
  extract_lets next act t1 _ v1 t2 s1 _ v2 t3 other
  have h1 : s1.Orderly := h.same
  have h2 : t2.Stored := (h.team et).leaveLanes rfl
  refine .ite (h1.transfer h2) ?_
  have hv : Store.wf v2.pra = true := (Vitrine.setFill_pra v1 v1.cfr 0).symm ▸ (h.team et).pra
  have h3 : t3.Stored := h2.withVit hv
  refine .ite (.ite (h1.goTo h3.beginPass) (h1.transfer (.withVit ?_ hv))) (.ite (h1.goTo h3.beginPass) (h1.goTo h3.exitLoop))
  refine h3.foldl (fun t l ht => ?_) _
  exact { ht with ra := Store.wf_set ht.ra }

theorem State.Orderly.execGfr {f : VForm} (h : s.Orderly) : Leads (execGfr f s) :=
  h.issue fun _ _ _ => h.genPhase (.ite h.trapAt h.addAccesses)

theorem State.Orderly.execGfrInfo {f : VForm} (h : s.Orderly) : Leads (execGfrInfo f s) := h.issue fun _ _ _ => h.genPhase h.emit

/-! ### Control flow -/

theorem State.Orderly.branch {i : Instr} {m : BitVec 4} {taken : Team → Bool} {target : Team → Nat → Addr} {link : Option Nat} (h : s.Orderly) :
    Leads (branch i m taken target link s) := by
  refine h.issue fun u t et => .ite h.trapAt ?_
  extract_lets next t1 t2
  have h1 : t1.Stored := (h.team et).setRa
  have h2 : t2.Stored := { h1.eachRa with masks := Store.wf_set (w := 1024) h1.masks }
  split
  · exact .transfer h.same h2
  · exact h.addOp.transfer h2

theorem State.Orderly.execExit {f : BForm} (h : s.Orderly) : Leads (execExit f s) := by
  refine h.issue fun u t et => h.genPhase (.lastExit (.transfer h.same ?_))
  exact ((h.team et).setRa.setMask 0 0).same

theorem State.Orderly.execKill (h : s.Orderly) : Leads (execKill s) := h.issue fun _ _ _ => .same h.killTeam

theorem State.Orderly.execSetk {f : VForm} (h : s.Orderly) : Leads (execSetk f s) := h.issue fun _ _ _ => .done (h.modTeam fun _ ht => ht.same)

theorem State.Orderly.execClrk {f : VForm} (h : s.Orderly) : Leads (execClrk f s) := h.issue fun _ _ _ => .done (h.modTeam fun _ ht => ht.same)

theorem State.Orderly.execWaitk {f : VForm} (h : s.Orderly) : Leads (execWaitk f s) :=
  h.issue fun _ _ _ => .ite (.done (h.modTeam fun _ ht => ht.waitFor)) h.done

theorem State.Orderly.endWaitk {w : Wait} (h : s.Orderly) : (s.endWaitk u w).Orderly := by
  unfold State.endWaitk
  split
  · exact .ite h (h.modTeam fun _ ht => ht.wakeFrom)
  · exact h

theorem State.Orderly.execWaitkComplete (h : s.Orderly) : Leads (execWaitkComplete s) := by
  unfold Machine.execWaitkComplete
  split
  · refine State.Orderly.next ?_
    split
    · exact h.endWaitk
    · exact h
  · exact h.next

theorem State.Orderly.nopOf {i : Instr} {se fs : Bool} (h : s.Orderly) : Leads (nopOf i se fs s) := h.issue fun _ _ _ => h.done

theorem State.Orderly.execYld (h : s.Orderly) : Leads (execYld s) := h.issue fun _ _ _ => .ite (h.done.modTeam fun _ ht => ht.same) h.done

theorem State.Orderly.openBar {g : Workgroup} (h : s.Orderly) : (s.openBar g).Orderly :=
  h.foldl (fun _ _ h => h.modTeam fun _ ht => .ite (.wakeFrom ht.same) ht) _

theorem State.Orderly.execBar (h : s.Orderly) : Leads (execBar s) := by
  refine h.issue fun u t et => .ite h.trapAt ?_
  extract_lets s1
  have h1 : s1.Orderly := .done (h.setTeam (.waitFor (.same (h.team et))))
  split
  · exact .ite h1.openBar h1
  · exact h1

theorem State.Orderly.execBarOpen (h : s.Orderly) : Leads (execBarOpen s) := by
  unfold Machine.execBarOpen
  split
  · refine State.Orderly.next ?_
    split
    · exact .ite h.openBar h
    · exact h
  · exact h.next

theorem State.Orderly.tryFork (h : s.Orderly) : (s.tryFork u mtx).Orderly := by
  unfold State.tryFork
  split
  · exact h
  · exact .ite h (.ite (h.setTeam (h.team ‹_›).startFork) (.ite (h.setTeam (h.team ‹_›).startFork) h.grantMx))

theorem State.Orderly.fork {i : Instr} {target : Team → Addr} (h : s.Orderly) : Leads (fork i mtx target s) :=
  h.issue fun _ _ et => .ite h.hazard (.ite h.trapAt (.ite h.trapAt (.done (.tryFork (h.setTeam (.same (h.team et)))))))

theorem State.Orderly.execPendingForkStart (h : s.Orderly) : Leads (execPendingForkStart s) := by
  unfold Machine.execPendingForkStart
  split
  · exact h.tryFork.next
  · exact h.next

theorem State.Orderly.execIter {f : VForm} (h : s.Orderly) : Leads (execIter f s) := h.issue fun _ _ _ => h.addOp.advance

theorem State.Orderly.execIterAnswer (h : s.Orderly) : Leads (execIterAnswer s) := by
  unfold Machine.execIterAnswer
  dsimp only
  split
  · refine State.Orderly.next ?_
    split
    · exact h
    · split
      · split
        · exact .ite (.completeOp (h.modWg fun _ hg => hg)) h.completeOp
        · exact h
      · exact h
  · exact h.next

theorem State.Orderly.execLnch {f : VForm} (h : s.Orderly) : Leads (execLnch f s) := by
  refine h.issue fun u t et => ?_
  dsimp only
  split
  · exact h.preciseFault
  · exact h.addOp.advance

theorem State.Orderly.execCntw {f : VForm} (h : s.Orderly) : Leads (execCntw f s) :=
  h.issue fun _ _ et => .ite h.emit (.advance (.addOp (h.setTeam (.waitFor (h.team et)))))

theorem State.Orderly.execCntwQuery {f : VForm} (h : s.Orderly) : Leads (execCntwQuery f s) := h.issue fun _ _ _ => h.emit

theorem State.Orderly.execCancel {f : VForm} (h : s.Orderly) : Leads (execCancel f s) := by
  refine h.issue fun u t et => ?_
  extract_lets d x own s1
  have h1 : s1.Orderly := .ite (h.setTeam (h.team et).postCncl) h
  exact .ite h1.addOp.advance h1.enterIntake.done

theorem State.Orderly.sendIntake {o : Op} (h : s.Orderly) : (s.sendIntake o).Orderly := by
  unfold State.sendIntake
  dsimp only
  refine .ite h ?_
  split
  · exact .ite h.completeOp (.ite h h.enterIntake.setOp)
  · exact .ite h h.enterIntake.delOp
  · exact h

theorem State.Orderly.endCntw {o : Op} {d : Nat} {w : Word} (h : s.Orderly) : (s.endCntw o d w).Orderly := by
  unfold State.endCntw
  split
  · exact h.delOp
  · exact .ite h.completeWait h

end

end Sys2Proof.Machine
end

section
/-!
SUPPORT. The functions of Machine/Engine.lean and Machine/Copy.lean keep a state orderly.
-/

namespace Sys2Proof.Machine

section

variable {s : State} {u n : Nat} {t : Team} {mtx : Bool} {x : Stream} {o : Op} {c : CopyCmd} {i ix : Nat} {a : Addr} {acc : Access} {k : Cause} {bs : List Byte}

/-! ### Engines -/

theorem State.Orderly.advanceEng {j : Nat} (h : s.Orderly) : (s.advanceEng u mtx j).Orderly := h.modTeam fun _ ht => ht.setStream

/-- A command of an engine stream issues: the order is a matter of what it does when it is admitted. -/
theorem State.Orderly.issueEng {ins : Instr} {se fs : Bool} {body : State → Nat → Team → Stream → State} (h : s.Orderly)
    (hb : ∀ u t x, s.team? u = some t → (body s u t x).Orderly) : Leads (s.issueEng mtx ins se fs body) := by
  have go : ∀ u, Leads (match s.team? u with
      | none => .next s
      | some t =>
        match t.stream mtx with
        | none => .next s
        | some x =>
          if !x.started || x.halted || x.stopped then .next s
          else if !x.admits t ins mtx se fs then .next (s.haltStream u mtx .iins x.pc x.slot 0)
          else .next (body s u t x)) := by
    intro u
    split
    · exact h.next
    · split
      · exact h.next
      · exact .ite h.next (.ite h.haltStream.next (hb _ _ _ ‹_›).next)
  unfold State.issueEng
  dsimp only
  split
  · exact go _
  · exact go _
  · exact h.issue fun _ _ _ => h

theorem State.Orderly.addEng {se fs : Bool} {kind : OpKind} (h : s.Orderly) : (s.addEng u x se fs kind).Orderly := h.addOp

theorem State.Orderly.endStream (h : s.Orderly) : (s.endStream u mtx).Orderly := by
  unfold State.endStream
  split
  · exact h
  · split
    · exact h
    · exact .ite (h.setTeam (h.team ‹_›).setStream) h

theorem State.Orderly.execStreamEnd (h : s.Orderly) : Leads (execStreamEnd s) := by
  unfold Machine.execStreamEnd
  split
  · exact h.endStream.next
  · exact h.endStream.next
  · exact h.next

theorem State.Orderly.endRdv {cls : Nat} (h : s.Orderly) : (s.endRdv u cls).Orderly := by
  have h1 : (s.modTeam u fun t => t.wakeFrom s.now (.rdv cls)).Orderly := h.modTeam fun _ ht => ht.wakeFrom
  exact .ite h1 h1.releaseMx

theorem State.Orderly.execRdv {f : VForm} (h : s.Orderly) : Leads (execRdv f s) :=
  h.issue fun _ _ _ => .ite h.endRdv.done (.done (h.modTeam fun _ ht => ht.waitFor))

theorem State.Orderly.execRdvComplete (h : s.Orderly) : Leads (execRdvComplete s) := by
  unfold Machine.execRdvComplete
  split
  · refine State.Orderly.next ?_
    split
    · split
      · exact .ite h.endRdv h
      · exact h
    · exact h
  · exact h.next

/-! ### Range checks and issue -/

theorem State.Orderly.cpJudge (h : s.Orderly) : (s.cpJudge o c).Orderly := by
  unfold State.cpJudge
  split
  · exact h.giveErr.setOp
  · exact h.setOp

theorem State.Orderly.askRange {e : Nat × CpOperand × Nat × Bool} (h : s.Orderly) : (s.askRange o c e).Orderly := h.fresh.sendRemote

theorem State.Orderly.startCopy {se fs : Bool} (h : s.Orderly) : (s.startCopy u x se fs c).Orderly := by
  unfold State.startCopy
  extract_lets far c1
  split
  · exact h.addEng.giveErr
  · exact h.addEng.foldl (fun _ _ h => h.askRange) _

theorem State.Orderly.copyData {ins : Instr} {cop : COp} {f : CForm} (h : s.Orderly) : Leads (copyData ins cop f s) := by
  have h1 : ({ s with seq := s.seq + 1 } : State).Orderly := h.same
  exact h.issueEng fun _ _ _ _ => .advanceEng (.ite h1 (.ite h1.giveErr h.startCopy))

/-! ### Elements -/

theorem State.Orderly.cpFail (h : s.Orderly) : (s.cpFail o c i k a).Orderly := h.giveErr.setOp

theorem State.Orderly.cpStop (h : s.Orderly) : (s.cpStop o c k a).Orderly := by
  unfold State.cpStop
  split
  · exact h.delOp
  · exact .ite h.delOp (.ite h h.stopStream.setOp)

theorem State.Orderly.cpRead {r : State × List Byte × Bool} (h : s.Orderly) (e : s.cpRead u acc = some r) : r.1.Orderly := by
  unfold State.cpRead at e
  split at e
  · cases e
  · cases e
    dsimp only
    split
    · exact h.crossBack
    · exact h

theorem State.Orderly.cpIndex {s' : State} (h : s.Orderly) (e : s.cpIndex o c i = some (.error s')) : s'.Orderly := by
  unfold State.cpIndex at e
  dsimp only at e
  split at e
  · cases e
  · split at e
    · cases e
      exact h.cpFail
    · cases e
      exact h.cpStop
    · split at e
      · cases e
      · split at e
        · cases e
          exact h.notePoison.cpFail
        · cases e

theorem State.Orderly.askDest (h : s.Orderly) : (s.askDest o c i ix).Orderly := .ite h h.fresh.sendRemote.setOp

theorem State.Orderly.askReserved (h : s.Orderly) : (s.askReserved o c).Orderly := h.setOp.foldl (fun _ _ h => h.askRange) _

theorem State.Orderly.cpTake (h : s.Orderly) : (s.cpTake o c i).Orderly := by
  unfold State.cpTake
  dsimp only
  split
  · exact h
  · refine .ite h (.ite h.askReserved ?_)
    split
    · exact h
    · exact h.cpIndex ‹_›
    · refine .ite h.askDest ?_
      split
      · exact h.cpFail
      · exact .ite h h.cpStop
      · exact h.cpFail
      · exact .ite h h.cpStop
      · split
        · exact h.fresh.sendRemote.setOp
        · split
          · exact h
          · exact .ite h.notePoison.cpFail (h.cpRead ‹_›).setOp

theorem State.Orderly.cpStage (h : s.Orderly) : (s.cpStage o c t acc i).Orderly := by
  unfold State.cpStage
  dsimp only
  split
  · exact h
  · exact .ite h.setOp (.ite h.giveErr.setOp (.setOp (.noteConflict (h.modWg fun _ hg => hg))))

theorem State.Orderly.cpPut (h : s.Orderly) : (s.cpPut o c i ix bs).Orderly := by
  unfold State.cpPut
  dsimp only
  split
  · exact h
  · refine .ite h ?_
    split
    · exact h.cpFail
    · exact .ite h h.cpStop
    · exact .ite (.ite h (.ite h.fresh.sendRemote.setOp h.cpStage)) (.setOp (.same h.fresh))

theorem State.Orderly.performCopy (h : s.Orderly) : (s.performCopy o c i).Orderly := by
  unfold State.performCopy
  refine .ite h (.ite (.ite h h.cpTake) ?_)
  split
  · exact .ite h h.cpPut
  · exact h

theorem MxState.setFifo_acc (m : MxState) (j : Nat) (bs : List Byte) : ((m.setFifo j bs).accA, (m.setFifo j bs).accW) = (m.accA, m.accW) := by
  unfold MxState.setFifo
  repeat' split
  all_goals rfl

theorem State.Orderly.execFifoBytesLand (h : s.Orderly) : Leads (execFifoBytesLand s) := by
  unfold Machine.execFifoBytesLand
  dsimp only
  split
  · refine State.Orderly.next ?_
    split
    · exact h
    · split
      · split
        · exact .ite h (.setOp (h.modCol fun hk => hk.same (MxState.setFifo_acc _ _ _)))
        · exact h
      · exact h
  · exact h.next

/-! ### Merged multicast reads -/

theorem State.Orderly.execCpymRequestArrival (h : s.Orderly) : Leads (execCpymRequestArrival s) := by
  unfold Machine.execCpymRequestArrival
  dsimp only
  split
  · refine State.Orderly.next ?_
    split
    · exact h
    · split
      · split
        · exact .ite h (.ite (h.setOp.modCol id) (.ite (h.setOp.modCol id) h.setOp))
        · exact h
      · exact h
  · exact h.next

theorem State.Orderly.cpymTake {sector : Nat} (h : s.Orderly) : (s.cpymTake n sector).Orderly := by
  unfold State.cpymTake
  split
  · exact h
  · split
    · refine h.foldl (fun s i h => ?_) _
      repeat' split
      · exact h.cpTake
      · exact h
      · exact h
    · exact h

theorem State.Orderly.execCpymSectorRead (h : s.Orderly) : Leads (execCpymSectorRead s) := by
  unfold Machine.execCpymSectorRead
  dsimp only
  split
  · refine State.Orderly.next ?_
    split
    · exact h
    · refine State.Orderly.modCol (h.foldl (fun _ _ h => h.cpymTake) _) fun hk => ?_
      split <;> exact hk
  · refine State.Orderly.next ?_
    split
    · exact h
    · split
      · split
        · exact .ite h.cpymTake h
        · exact h
      · exact h
  · exact h.next

/-! ### Follow-ons, signals, waits, fences, the end -/

theorem State.Orderly.execCmx {f : KForm} (h : s.Orderly) : Leads (execCmx f s) :=
  h.issueEng fun _ _ _ _ => .ite h.haltStream (.ite h.haltStream h.addEng.advanceEng)

theorem State.Orderly.execFollowOnTrigger (h : s.Orderly) : Leads (execFollowOnTrigger s) := by
  unfold Machine.execFollowOnTrigger
  dsimp only
  split
  · refine State.Orderly.next ?_
    split
    · exact h
    · split
      · exact .ite h (.setOp (h.modCol fun hk => hk.same))
      · exact h
  · exact h.next

theorem State.Orderly.execCsig {f : KForm} (h : s.Orderly) : Leads (execCsig f s) := h.issueEng fun _ _ _ _ => h.addEng.advanceEng

theorem State.Orderly.execCwait {f : KForm} (h : s.Orderly) : Leads (execCwait f s) :=
  h.issueEng fun _ _ _ _ => h.advanceEng.modTeam fun _ ht => ht.same

theorem State.Orderly.execCfence {f : KForm} (h : s.Orderly) : Leads (execCfence f s) := h.issueEng fun _ _ _ _ => h.addEng.advanceEng

theorem State.Orderly.execCend (h : s.Orderly) : Leads (execCend s) := h.issueEng fun _ _ _ _ => h.advanceEng.modTeam fun _ ht => ht.same

theorem State.Orderly.finishCopy (h : s.Orderly) : (s.finishCopy o).Orderly := by
  unfold State.finishCopy
  split
  · exact .ite h.delOp h
  · exact .ite h.delOp h
  · exact .ite h.delOp h
  · exact h

end

end Sys2Proof.Machine
end

section
/-!
SUPPORT. The functions of Machine/Float.lean, Machine/Special.lean, Machine/Exchange.lean and Machine/GroupOps.lean keep a state orderly.
-/

namespace Sys2Proof.Machine

section

variable {s : State} {u w g n x col : Nat} {t : Team} {o : Op} {i : Instr} {acc : Access}

/-! ### Float, special functions and exchange -/

theorem State.Orderly.fmaxi {f : VForm} {isMax : Bool} (h : s.Orderly) : Leads (fmaxi i f isMax s) := h.issue fun _ _ _ => h.emit

theorem State.Orderly.execRng {f : VForm} (h : s.Orderly) : Leads (execRng f s) := h.issue fun _ _ et => .emit (h.setTeam (.same (h.team et)))

theorem State.Orderly.special {f : VForm} {fns : List (SfFn × Nat)} (h : s.Orderly) : Leads (special i f fns s) :=
  h.issue fun _ _ _ => .ite h (.advance (h.addOp.modCol id))

theorem State.Orderly.execSpk24 {f : VForm} (h : s.Orderly) : Leads (execSpk24 f s) := h.issue fun _ _ _ => h.emit

theorem State.Orderly.permX {f : XForm} {src : Team → Nat → Nat × Int} (h : s.Orderly) : (permX f src s u t).Orderly := h.emit

theorem State.Orderly.execXlane {f : XForm} (h : s.Orderly) : Leads (execXlane f s) := by
  refine h.issue fun u t et => .ite h.permX ?_
  split
  · exact h.trapAt
  · exact .ite h.trapAt h.permX

theorem State.Orderly.execXshuf {f : XForm} (h : s.Orderly) : Leads (execXshuf f s) := h.issue fun _ _ _ => .ite h.emit h.permX

theorem State.Orderly.segX {f : XForm} {res : Nat → List (Option CElem) → List (Option CElem × Sticky)} (h : s.Orderly) : Leads (segX i f res s) := by
  refine h.issue fun u t et => ?_
  split
  · exact h.trapAt
  · exact .ite h.trapAt h.emit

theorem State.Orderly.execXvote {f : XForm} (h : s.Orderly) : Leads (execXvote f s) := h.issue fun _ _ _ => h.emit

theorem State.Orderly.execXcol {f : XForm} (h : s.Orderly) : Leads (execXcol f s) :=
  h.issue fun _ _ et => .ite h.trapAt (.advance (.addOp (h.setTeam (.waitFor (.same (h.team et))))))

theorem State.Orderly.execXcolComplete (h : s.Orderly) : Leads (execXcolComplete s) := by
  unfold Machine.execXcolComplete
  split
  · refine State.Orderly.next ?_
    split
    · exact .ite h.endXcol h
    · exact h
  · exact h.next

/-! ### Posts and the group barrier -/

theorem Team.Stored.gbarDrop {now : Nat} (h : t.Stored) : (t.gbarDrop now g).Stored := by
  have h1 : ({ t with gbarArr := none } : Team).Stored := h.same
  exact .ite (.ite h1.wakeFrom (.same (h1.wakeFrom (now := now) (w := .gbar g)))) h

theorem State.Orderly.withdrawPost (h : s.Orderly) : (s.withdrawPost x g col w).Orderly := by
  unfold State.withdrawPost
  dsimp only
  split
  · exact h.setPost
  · exact .ite (.modWg (h.setPost.foldl (fun _ _ h => h.modTeam fun _ ht => ht.gbarDrop) _) fun _ hg => hg) h.setPost

theorem State.Orderly.gpost {f : VForm} {wd : Bool} (h : s.Orderly) : Leads (gpost i f wd s) := h.issue fun _ _ _ => .ite h.trapAt h.addOp.advance

theorem State.Orderly.takeEffect {wd : Bool} (h : s.Orderly) : (s.takeEffect o g wd).Orderly := by
  unfold State.takeEffect
  dsimp only
  split
  · exact h.delOp
  · refine .ite h (.ite (.ite h.withdrawPost.delOp h.delOp) ?_)
    split
    · exact h.setPost.delOp
    · exact .ite h.delOp h

theorem State.Orderly.execGpostTakesEffect (h : s.Orderly) : Leads (execGpostTakesEffect s) := by
  unfold Machine.execGpostTakesEffect
  split
  · refine State.Orderly.next ?_
    repeat' split
    · exact h.takeEffect
    · exact h
    · exact h
  · exact h.next

theorem State.Orderly.execGbar {f : VForm} (h : s.Orderly) : Leads (execGbar f s) :=
  h.issue fun _ _ et => .ite h.trapAt (.ite h (.ite h.trapAt (.ite h.trapAt
    (.done (.modWg (h.setTeam (.waitFor (.same (h.team et)))) fun _ hg => hg)))))

theorem State.Orderly.execGbarComplete (h : s.Orderly) : Leads (execGbarComplete s) := by
  unfold Machine.execGbarComplete
  dsimp only
  split
  · refine State.Orderly.next ?_
    split
    · exact h
    · split
      · exact h
      · refine .ite (.modWg (h.foldl (fun _ _ h => h.modTeam fun _ ht => .ite (.wakeFrom ht.same) ht) _) fun _ hg => hg) h
  · exact h.next

theorem State.Orderly.execGqry {f : VForm} (h : s.Orderly) : Leads (execGqry f s) := h.issue fun _ _ _ => h.emit

/-! ### LDG -/

theorem State.Orderly.ldg {f : MForm} {code : Nat} (h : s.Orderly) : Leads (ldg i f code s) := h.issue fun _ _ _ => h.addOp.advance

theorem State.Orderly.sampleLdg {grp : Option Nat} {ls : List (Nat × Addr)} (h : s.Orderly) : (s.sampleLdg o t grp w ls).Orderly := by
  refine .setOp (.foldl_fst (fun p la hp => ?_) ls h)
  refine iteInduction (motive := fun r : State × Op => r.1.Orderly) (fun _ => hp.giveErr) fun _ => ?_
  refine iteInduction (motive := fun r : State × Op => r.1.Orderly) (fun _ => hp.giveErr) fun _ => ?_
  exact iteInduction (motive := fun r : State × Op => r.1.Orderly) (fun _ => hp.giveErr) fun _ => hp

theorem State.Orderly.performLdg {grp : Option Nat} {code : Nat} {ty : Ty} {ls : List (Nat × Addr)} (h : s.Orderly) :
    (s.performLdg o acc grp code ty ls).Orderly := by
  unfold State.performLdg
  refine .ite h ?_
  split
  · exact h
  · exact .ite h.sampleLdg (.ite h.notePoison.setOp h.performRead)

theorem State.Orderly.finishLdg {code d : Nat} {ty : Ty} {ls : List (Nat × Addr)} (h : s.Orderly) : (s.finishLdg o code ty d ls).Orderly := by
  refine .completeOp (.foldl_fst (fun p la hp => ?_) ls h)
  split
  · exact hp
  · split
    · exact hp.giveErr
    · exact hp

end

end Sys2Proof.Machine
end

section
/-!
SUPPORT. The functions of Machine/Curator.lean keep a state orderly.
-/

namespace Sys2Proof.Machine

/-- A reservation step leaves an orderly state. -/
def ResvStep.Orderly (r : ResvStep) : Prop := r.state.Orderly

/-- One of two steps. -/
theorem ResvStep.Orderly.ite {p : Prop} [Decidable p] {a b : ResvStep} (ha : a.Orderly) (hb : b.Orderly) : (if p then a else b).Orderly := by
  split
  · exact ha
  · exact hb

/-- The processing of a record leaves an orderly state. -/
def Processed.Orderly (r : Processed) : Prop := r.state.Orderly

/-- A record is done with. -/
theorem State.Orderly.isDone {s : State} (h : s.Orderly) : (Processed.done s).Orderly := h

/-- One of two. -/
theorem Processed.Orderly.ite {p : Prop} [Decidable p] {a b : Processed} (ha : a.Orderly) (hb : b.Orderly) : (if p then a else b).Orderly := by
  split
  · exact ha
  · exact hb

/-- A unit is added under the next number. -/
theorem State.Orderly.addUnit {s : State} {c : Completion} (h : s.Orderly) : (s.addUnit c).Orderly := by
  have h1 := h.useIds (Nat.le_succ s.nextId)
  refine ⟨?_, h1.units, h1.host, h1.away⟩
  refine { h1.here with units := ?_, below := fun e he => ?_ }
  · change ((s.units ++ [(s.nextId, { c with ident := s.freshIdent })]).map Prod.fst).Nodup
    rw [List.map_append]
    refine List.nodup_append.2 ⟨h.here.units, List.nodup_singleton _, fun a ha b hb e => ?_⟩
    obtain ⟨x, hx, rfl⟩ := List.mem_map.1 ha
    have hlt := h.here.below x hx
    rw [List.mem_singleton.1 hb] at e
    exact absurd e (Nat.ne_of_lt hlt)
  · rcases List.mem_append.1 he with he | he
    · exact h1.here.below e he
    · exact List.mem_singleton.1 he ▸ Nat.lt_succ_self _

section

variable {s : State} {u w k n x g col : Nat} {t : Team} {op : Option Nat} {ws : List Word} {desc : Option JobDesc}

/-! ### Counters and beginning -/

theorem State.Orderly.settleUnit (h : s.Orderly) : (s.settleUnit k).Orderly := by
  unfold State.settleUnit
  split
  · exact h
  · refine .ite h ?_
    dsimp only
    split
    · exact h.modUnit.modUnit
    · exact h.modUnit

theorem State.Orderly.decrement (h : s.Orderly) : (s.decrement k n).Orderly := h.modUnit.settleUnit

theorem State.Orderly.execCounterDecrement (h : s.Orderly) : Leads (execCounterDecrement s) := by
  unfold Machine.execCounterDecrement
  split
  · refine State.Orderly.next ?_
    split
    · exact .ite (.decrement (h.modWg fun _ hg => hg)) h
    · exact h
  · refine State.Orderly.next ?_
    repeat' split
    · exact h.modUnit.decrement
    · exact h
    · exact h
    · exact h
    · exact h
  · exact h.next

theorem State.Orderly.execUnitBegin (h : s.Orderly) : Leads (execUnitBegin s) := by
  unfold Machine.execUnitBegin
  split
  · refine State.Orderly.next ?_
    split
    · exact .ite h.modUnit h
    · exact h
  · exact h.next

/-! ### Cancellation -/

theorem State.Orderly.clearSlot (h : s.Orderly) : (s.clearSlot col w).Orderly := h.modCol id

theorem State.Orderly.withdrawAll (h : s.Orderly) : (s.withdrawAll col w).Orderly := h.foldl (fun _ _ h => h.withdrawPost) _

theorem State.Orderly.cancelWg {q : Workgroup} (h : s.Orderly) : (s.cancelWg w q).Orderly := by
  have h1 : (s.modWg w fun g => { g with staged := [], cancelled := true }).Orderly := h.modWg fun _ hg => hg
  unfold State.cancelWg
  dsimp only
  split
  · exact h1.clearSlot.modWg fun _ hg => hg
  · have h2 : (((s.modWg w fun g => { g with staged := [], cancelled := true }).clearSlot q.col w).withdrawAll q.col w).Orderly := h1.clearSlot.withdrawAll
    refine State.Orderly.same (State.Orderly.foldl (fun _ _ h => h.modTeam fun _ ht => ?_) q.teams (h2.modWg fun _ _ => .none rfl)) rfl
    exact { ht with bank := by rintro _ ⟨⟩ }
  · exact .foldl (fun _ _ h => h.modTeam fun _ ht => ht.postCncl) _ (h1.modWg fun _ hg => hg)
  · exact h1
  · exact h1
  · exact h1

theorem State.Orderly.cancelLaunch {c : Completion} (h : s.Orderly) : (s.cancelLaunch k c).Orderly :=
  .settleUnit (.modUnit (h.foldl (fun _ _ h => h.cancelWg) _))

theorem State.Orderly.cancelUnit (h : s.Orderly) : (s.cancelUnit k).Orderly := by
  unfold State.cancelUnit
  dsimp only
  split
  · exact h
  · exact .ite h (.foldl (fun _ _ h => h.modUnit) _ (h.foldl (fun _ _ h => .ite h.cancelLaunch h.modUnit) _))

theorem State.Orderly.execCancelRequest (h : s.Orderly) : Leads (execCancelRequest s) := by
  unfold Machine.execCancelRequest
  dsimp only
  refine State.Orderly.next ?_
  split
  · split
    · split
      · exact .cancelUnit h.same
      · exact h.same
    · exact h
  · exact h

theorem State.Orderly.execCnclDelivery (h : s.Orderly) : Leads (execCnclDelivery s) := by
  unfold Machine.execCnclDelivery
  split
  · refine State.Orderly.next ?_
    repeat' split
    · exact .modTeam (h.modWg fun _ hg => hg) fun _ ht => ht.postCncl
    · exact h
    · exact h
    · exact h
  · exact h.next

/-! ### Records -/

theorem State.Orderly.answerLnch {v : Word} (h : s.Orderly) : (s.answerLnch op v).Orderly := by
  unfold State.answerLnch
  repeat' split
  · exact h.completeOp
  · exact h
  · exact h

theorem State.Orderly.rejectRecord {lv : Level} {parent : Option Nat} (h : s.Orderly) : (s.rejectRecord lv x op parent).Orderly := by
  unfold State.rejectRecord
  dsimp only
  refine .answerLnch ?_
  split
  · exact h.addUnit.modUnit
  · exact h.addUnit

theorem State.Orderly.processRecord {kind : Nat} {body : State → Nat → Option Nat → List Word → Option JobDesc → Processed} (h : s.Orderly)
    (hb : ∀ s x op ws desc, s.Orderly → (body s x op ws desc).Orderly) : Leads (s.processRecord kind body) := by
  unfold State.processRecord
  refine State.Orderly.next ?_
  split
  · rename_i a rest _
    split
    · rename_i x op ws desc _
      refine .ite h ?_
      have h1 := hb { s with intake := rest } x op ws desc h.same
      split
      · rename_i e
        rw [e] at h1
        exact h1
      · rename_i e
        rw [e] at h1
        exact h1.same
    · exact h
  · exact h

theorem State.Orderly.attach {lv : Level} {p want : Nat} {c : Completion} (h : s.Orderly) : (s.attach lv x op p c want).Orderly :=
  h.addUnit.modUnit.answerLnch

theorem State.Orderly.execRecordNewGraph (h : s.Orderly) : Leads (execRecordNewGraph s) := by
  refine h.processRecord fun s x op ws desc h => ?_
  dsimp only [Processed.Orderly, Processed.state]
  split
  · exact .ite h.attach h.rejectRecord
  · exact h.rejectRecord

theorem State.Orderly.execRecordNewPhase (h : s.Orderly) : Leads (execRecordNewPhase s) := by
  refine h.processRecord fun s x op ws desc h => ?_
  dsimp only [Processed.Orderly, Processed.state]
  split
  · exact .ite h.attach h.rejectRecord
  · exact h.rejectRecord

theorem State.Orderly.execRecordQuery (h : s.Orderly) : Leads (execRecordQuery s) := by
  refine h.processRecord fun s x op ws desc h => ?_
  dsimp only [Processed.Orderly, Processed.state]
  exact .ite h.answerLnch h.rejectRecord

/-! ### Reservations -/

theorem State.Orderly.resvDone1 {e : List Word} {old total : Nat} {cs : List Nat} (h : s.Orderly) : (s.resvDone1 e old total cs).Orderly := by
  unfold State.resvDone1
  split <;> exact h

theorem State.Orderly.askRemote {sp : Space} {a : Addr} {act : Act} (h : s.Orderly) : (s.askRemote sp a n act).Orderly :=
  .same (h.fresh.sendRemote) rfl

theorem State.Orderly.reserveFar {e : List Word} {sp : Space} (h : s.Orderly) : (s.reserveFar g e sp).Orderly := by
  unfold State.reserveFar
  dsimp only
  have asks : ∀ l : List Nat, (l.foldl (fun s i => s.askRemote sp (e.getD 2 0 + BitVec.ofNat 64 (4 * i)) 4 .read) s).Orderly :=
    fun l => h.foldl (fun _ _ h => h.askRemote) l
  refine .ite (asks _) (.ite h (.ite h (.ite h ?_)))
  split
  · exact h.askRemote
  · exact h.resvDone1

theorem State.Orderly.reserve {e : List Word} (h : s.Orderly) : (s.reserve x g e).Orderly := by
  unfold State.reserve
  dsimp only
  refine .ite h (.ite h ?_)
  split
  · split
    · exact h
    · exact .ite h h.atomicAt.resvDone1
  · exact h.reserveFar
  · exact h
  · exact h

theorem State.Orderly.resvClear (h : s.Orderly) : s.resvClear.Orderly := h.same

theorem State.Orderly.reserveAll {es : List (List Word)} (h : s.Orderly) : (s.reserveAll x g es).Orderly := by
  induction es generalizing s with
  | nil => exact h
  | cons e es ih =>
    unfold State.reserveAll
    have h1 := h.reserve (x := x) (g := g) (e := e)
    split
    · rename_i s1 r er
      rw [er] at h1
      exact ih h1.same
    · exact h1

theorem State.Orderly.acceptLaunch {graph : Option Nat} {l : Launch} {dropped : Bool} (h : s.Orderly) : (s.acceptLaunch x op graph l dropped).Orderly := by
  unfold State.acceptLaunch
  dsimp only
  refine .answerLnch ?_
  split
  · exact h.addUnit.modUnit
  · split
    · exact h.addUnit.modWg fun _ hg => hg
    · exact h.addUnit

theorem State.Orderly.launchRecord {graph : Option Nat} (h : s.Orderly) : (s.launchRecord x op ws desc graph).Orderly := by
  have no : ∀ s : State, s.Orderly → Processed.Orderly (.done (s.resvClear.rejectRecord .launch x op (if desc.isSome then graph else none))) :=
    fun _ h => h.resvClear.rejectRecord
  unfold State.launchRecord
  dsimp only
  split
  · exact no s h
  · refine .ite (no s h) ?_
    split
    · exact h
    · exact h
    · exact no s h
    · exact no s h
    · refine .ite h.resvClear.acceptLaunch (.ite h.same ?_)
      have h1 : ∀ es r, s.reserveAll x (recField ws 2 31 0) es = r → r.Orderly := fun es _ e => e ▸ h.reserveAll
      split
      · rename_i e
        exact h1 _ _ e
      · rename_i s1 e
        exact no s1 (h1 _ _ e)
      · rename_i s1 r e
        have h2 : s1.Orderly := h1 _ _ e
        exact h2.resvClear.acceptLaunch

theorem State.Orderly.execRecordLaunch (h : s.Orderly) : Leads (execRecordLaunch s) := by
  refine h.processRecord fun s x op ws desc h => ?_
  dsimp only
  refine .ite (.ite h.launchRecord h.rejectRecord.isDone) ?_
  split
  · exact .ite h.launchRecord h.rejectRecord.isDone
  · exact h.rejectRecord.isDone

end

end Sys2Proof.Machine
end

section
/-!
SUPPORT. The functions of Machine/System.lean and Machine/Residency.lean keep a state orderly.
-/

namespace Sys2Proof.Machine

section

variable {s : State} {u w n x c col : Nat} {t : Team} {o : Op} {i : Instr} {f : IForm} {v : VForm}

/-! ### System instructions -/

theorem State.Orderly.execTrap (h : s.Orderly) : Leads (execTrap f s) := h.issue fun _ _ _ => .ite h.trapAt h.trap

theorem State.Orderly.resumeStream {eng : Nat} (h : s.Orderly) : (s.resumeStream u eng).Orderly := by
  unfold State.resumeStream
  dsimp only
  split
  · exact h
  · have h1 : ∀ (p : Prop) [Decidable p] (y : Option Stream), (if p then s else s.setTeam u (‹Team›.setStream (eng == 2) y)).Orderly :=
      fun p _ y => .ite h (h.setTeam (h.team ‹_›).setStream)
    exact .ite (.same (h1 _ _) rfl) (.ite (h1 _ _) h)

theorem State.Orderly.execRte (h : s.Orderly) : Leads (execRte s) := by
  refine h.issue fun u t et => .ite h.trapAt (.ite h ?_)
  have h1 : ({ s with seq := s.seq + 1 } : State).Orderly := h.same
  exact .ite h1.killTeam (.ite (h1.goTo (.same (h.team et))) (.resumeStream (h1.goTo (h.team et).leaveTrap)))

theorem State.Orderly.execCsrr (h : s.Orderly) : Leads (execCsrr f s) := by
  refine h.issue fun u t et => .ite h.emit (.ite (.ite h.emit h.trapAt) ?_)
  split
  · exact h.trapAt
  · exact .ite h h.emit

theorem State.Orderly.execCsrw (h : s.Orderly) : Leads (execCsrw f s) := by
  refine h.issue fun u t et => ?_
  dsimp only
  split
  · exact .done (h.setTeam (.same (h.team et)))
  · exact .done (h.setTeam (.same (h.team et)))
  · exact h.trapAt

theorem State.Orderly.execCsrwFstat (h : s.Orderly) : Leads (execCsrwFstat f s) :=
  h.issue fun _ _ et => .ite h (.done (h.setTeam (.same (h.team et))))

theorem State.Orderly.execCsrwFctl (h : s.Orderly) : Leads (execCsrwFctl f s) :=
  h.issue fun _ _ et => .ite h (.done (h.setTeam (.same (h.team et))))

theorem State.Orderly.execCsrwElogInfo (h : s.Orderly) : Leads (execCsrwElogInfo f s) :=
  h.issue fun _ _ et => .done (.ite h (h.setTeam (h.team et).elogClear))

theorem State.Orderly.execCsrwTrapCause (h : s.Orderly) : Leads (execCsrwTrapCause f s) :=
  h.issue fun _ _ et => .ite h.trapAt (.done (h.setTeam (.same (h.team et))))

theorem State.Orderly.execQfeat (h : s.Orderly) : Leads (execQfeat f s) := h.issue fun _ _ _ => h.emit

theorem State.Orderly.execQphys (h : s.Orderly) : Leads (execQphys f s) := h.issue fun _ _ _ => h.emit

theorem State.Orderly.execSfdrn (h : s.Orderly) : Leads (execSfdrn s) := h.issue fun _ _ _ => .ite h h.done

theorem State.Orderly.execWfi (h : s.Orderly) : Leads (execWfi v s) :=
  h.issue fun _ _ et => .ite (.done (h.setTeam (.same (h.team et)))) (.done (h.setTeam (.waitFor (.same (h.team et)))))

theorem State.Orderly.execWfiWake (h : s.Orderly) : Leads (execWfiWake s) := by
  unfold Machine.execWfiWake
  split
  · refine State.Orderly.next ?_
    split
    · rename_i t et
      split
      · exact .ite (h.setTeam (.wakeFrom (.same (h.team et)))) h
      · exact h
    · exact h
  · exact h.next

theorem State.Orderly.ctxImage {load : Bool} (h : s.Orderly) : Leads (ctxImage i v load s) := by
  refine h.issue fun u t et => .ite h.hazard ?_
  split
  · exact h.giveErr.done
  · exact h.addOp.advance

theorem State.Orderly.finishImage {load : Bool} (h : s.Orderly) : (s.finishImage o load).Orderly := by
  unfold State.finishImage
  dsimp only
  split
  · exact h.delOp
  · rename_i t et
    exact .ite h.delOp (.ite h.giveErr.delOp (.completeUser (h.setTeam (h.team et).same)))

/-! ### Loan -/

theorem State.Orderly.setLoan {j : Nat} {st : LoanState} (h : s.Orderly) : (s.setLoan c j st).Orderly := h.modCol id

theorem State.Orderly.freeLoan (h : s.Orderly) : (s.freeLoan c).Orderly := by
  unfold State.freeLoan
  exact h.modCol id

theorem State.Orderly.execLoanLend (h : s.Orderly) : Leads (execLoanLend s) := by
  unfold Machine.execLoanLend
  split
  · refine State.Orderly.next ?_
    split
    · exact .ite h.setLoan h
    · exact h
  · exact h.next

theorem State.Orderly.execLoanReclaimComplete (h : s.Orderly) : Leads (execLoanReclaimComplete s) := by
  unfold Machine.execLoanReclaimComplete
  split
  · exact State.Orderly.next (.ite h.setLoan h)
  · exact h.next

/-! ### Binding and dispatch -/

theorem State.Orderly.writeSlot {e : SlotEntry} (h : s.Orderly) : Gives (s.writeSlot col e) := .ite (.gives (h.modCol id)) .empty

/-- A state that is given, or the one before. -/
theorem Gives.getD {r : Option State} (hr : Gives r) (h : s.Orderly) : (r.getD s).Orderly := by
  cases r with
  | none => exact h
  | some s1 => exact hr s1 rfl

theorem State.Orderly.writeRestore {g : Workgroup} (h : s.Orderly) : (s.writeRestore w g).Orderly := .ite h (h.writeSlot.getD h)

theorem State.Orderly.execCuratorBind (h : s.Orderly) : Leads (execCuratorBind s) := by
  unfold Machine.execCuratorBind
  dsimp only
  split
  · refine State.Orderly.next ?_
    split
    · split
      · refine .ite ?_ h
        split
        · exact (h.writeSlot _ ‹_›).setWg (.none rfl)
        · exact h
      · exact h
    · exact h
  · refine State.Orderly.next ?_
    split
    · exact .ite h.writeRestore h
    · exact h
  · exact h.next

theorem State.Orderly.takeRoom {rst : Bool} (h : s.Orderly) : Gives (s.takeRoom w rst) := by
  unfold State.takeRoom
  split
  · split
    · exact .ite (.gives (h.modWg fun _ hg => hg)) .empty
    · exact .empty
  · exact .empty

theorem State.Orderly.takeRooms {rst : Bool} {ws : List Nat} (h : s.Orderly) : Gives (s.takeRooms rst ws) := by
  induction ws generalizing s with
  | nil => exact h.gives
  | cons w ws ih =>
    unfold State.takeRooms
    split
    · exact ih (h.takeRoom _ ‹_›)
    · exact .empty

theorem State.Orderly.makeResident {ws : List Nat} {rst : Bool} {go : State → Nat → State} (h : s.Orderly)
    (hg : ∀ s w, s.Orderly → (go s w).Orderly) : (s.makeResident ws rst go).Orderly := by
  unfold State.makeResident
  split
  · exact h
  · rename_i s1 e
    have h1 : s1.Orderly := h.takeRooms _ e
    dsimp only
    refine .ite (.foldl (fun _ _ h => .ite h.setLoan h) _ h) (.ite h (.foldl (fun _ _ h => h.fillColumn) _ (.foldl hg _ ?_)))
    exact .foldl (fun _ _ h => h.setLoan) _ h1

/-- A team as it starts. -/
theorem Team.Stored.start {wg twg now hwm : Nat} {sh : Shape} {pc : Addr} {params : List (Nat × Word)} {resv : List Resv} :
    (Team.start wg twg sh pc params now hwm resv).Stored where
  sregs := Store.wf_foldl_set Prod.fst (fun _ p => p.2) params Store.wf_nil
  vregs := Store.wf_nil
  masks := Store.wf_set (w := 1024) Store.wf_nil
  ra := Store.wf_foldl_set (fun l => l) (fun _ _ => pc) _ Store.wf_nil
  pra := Store.wf_nil
  bank := by rintro _ ⟨⟩
  spec := by rintro _ ⟨⟩

theorem State.Orderly.startWg (h : s.Orderly) : (s.startWg w).Orderly := by
  unfold State.startWg
  dsimp only
  split
  · exact .foldl (fun _ _ h => h.setTeam .start) _ (h.modWg fun _ hg => hg)
  · exact h

theorem State.Orderly.execDispatch (h : s.Orderly) : Leads (execDispatch s) := by
  unfold Machine.execDispatch
  dsimp only
  split
  · refine State.Orderly.next ?_
    split
    · exact .ite h (.ite (h.makeResident fun _ _ h => h.startWg) h)
    · exact h
  · exact h.next

/-! ### Retirement -/

theorem State.Orderly.bindLowest {k : Nat} (h : s.Orderly) : (s.bindLowest k).Orderly := by
  unfold State.bindLowest
  dsimp only
  split
  · exact .ite h.writeRestore h
  · exact h

theorem State.Orderly.execWorkgroupRetire (h : s.Orderly) : Leads (execWorkgroupRetire s) := by
  unfold Machine.execWorkgroupRetire
  dsimp only
  split
  · refine State.Orderly.next ?_
    split
    · refine .ite (.bindLowest (.freeLoan (.foldl (fun _ _ h => h.modTeam fun _ ht => ?_) _ (h.withdrawAll.clearSlot.modWg fun _ hg => hg)))) h
      exact { ht with sregs := Store.wf_nil, vregs := Store.wf_nil }
    · exact h
  · exact h.next

/-! ### Pre-emption and restoration -/

theorem State.Orderly.execPreempt (h : s.Orderly) : Leads (execPreempt s) := by
  unfold Machine.execPreempt
  split
  · refine State.Orderly.next (.ite h (.foldl (fun s v h => ?_) _ h))
    split
    · exact .ite (.foldl (fun _ _ h => h.modTeam fun _ ht => ht.postPree) _ (h.modWg fun _ hg => hg)) h
    · exact h
  · exact h.next

/-- Columns are changed but for their matrix units. -/
theorem State.Orderly.mapColumns {f : Nat × Column → Column} (h : s.Orderly) (hf : ∀ e, (f e).mx = e.2.mx) :
    ({ s with columns := s.columns.map fun e => (e.1, f e) } : State).Orderly := by
  refine ⟨h.here, fun c => ?_, h.host, h.away⟩
  have mxOf : ∀ l : List (Nat × Column),
      ((assoc (l.map fun e => (e.1, f e)) c).getD Column.initial).mx = ((assoc l c).getD Column.initial).mx := by
    intro l
    induction l with
    | nil => rfl
    | cons e l ih =>
      by_cases hk : e.1 = c
      · simp [assoc, hk, hf]
      · simpa [assoc, hk] using ih
  exact mxOf s.columns ▸ h.units c

theorem State.Orderly.saveTeam (h : s.Orderly) : (s.saveTeam u).Orderly := by
  unfold State.saveTeam
  dsimp only
  split
  · exact h
  · rename_i t et
    refine .ite h (.setTeam (.freeDp (.same (h.mapColumns ?_) rfl)) (h.team et).same)
    exact fun _ => rfl

theorem State.Orderly.saveMx (h : s.Orderly) : (s.saveMx u).Orderly := by
  unfold State.saveMx
  dsimp only
  split
  · exact h
  · refine .ite (.releaseMx (h.modWg fun g _ v m e => ?_)) (h.modCol id)
    cases e
    exact h.units _

theorem State.Orderly.saveWg (h : s.Orderly) : (s.saveWg w).Orderly := by
  unfold State.saveWg
  dsimp only
  split
  · exact h
  · refine .freeLoan (.foldl (fun _ _ h => h.saveMx) _ (.modWg (.clearSlot ?_) fun _ hg => hg))
    exact h.foldl (fun _ _ h => h.saveTeam) _

theorem State.Orderly.execContextSave (h : s.Orderly) : Leads (execContextSave s) := by
  unfold Machine.execContextSave
  split
  · exact State.Orderly.next (.ite (.foldl (fun _ _ h => h.saveWg) _ h) h)
  · exact h.next

theorem Team.Stored.restored {now : Nat} (h : t.Stored) : (t.restored now).Stored := .ite h (.same (h.leaveTrap (now := now)))

theorem State.Orderly.restoreWg (h : s.Orderly) : (s.restoreWg w).Orderly := by
  unfold State.restoreWg
  split
  · exact h
  · extract_lets s1
    have h1 : s1.Orderly := .foldl (fun _ _ h => h.modTeam fun _ ht => ht.restored) _ (h.modWg fun _ hg => hg)
    split
    · exact h1
    · exact .grantMx (h1.modCol id)

theorem State.Orderly.execRestore (h : s.Orderly) : Leads (execRestore s) := by
  unfold Machine.execRestore
  split
  · exact State.Orderly.next (.ite (h.makeResident fun _ _ h => h.restoreWg) h)
  · exact h.next

/-! ### The Registrar -/

theorem State.Orderly.gatherFl {fl : Sticky} (h : s.Orderly) : (s.gatherFl w fl).Orderly := h.modUnit

theorem State.Orderly.releaseOne {e : Staged} (h : s.Orderly) : (s.releaseOne w e).Orderly := by
  have gone : (s.modWg w fun g => { g with staged := (g.staged.filter fun f => f != e).map (s.noteReleased e) }).Orderly := h.modWg fun _ hg => hg
  unfold State.releaseOne
  dsimp only
  split
  · exact gone.fresh.sendRemote
  · refine .ite h ?_
    split
    · exact gone.fresh.same
    · split
      · exact gone.updateAll
      · exact .ite gone.logPoison gone.atomicAt.gatherFl
      · exact gone
      · exact gone
      · exact gone
  · exact gone
  · exact gone

theorem State.Orderly.execRegistrarRelease (h : s.Orderly) : Leads (execRegistrarRelease s) := by
  unfold Machine.execRegistrarRelease
  split
  · refine State.Orderly.next ?_
    split
    · refine .ite ?_ h
      split
      · exact h.releaseOne
      · exact h.modWg fun _ hg => hg
    · exact h
  · exact h.next

end

end Sys2Proof.Machine
end

section
/-!
SUPPORT. The functions of Machine/Catalogue.lean keep a state orderly.
-/

namespace Sys2Proof.Machine

section

variable {s : State} {u x col id : Nat} {o : Op} {i : Instr} {f : VForm} {a b : Word} {lanes : List (Nat × Addr)} {r : PageRef}

theorem State.Orderly.modObj {g : Obj → Obj} (h : s.Orderly) : (s.modObj x id g).Orderly := by
  unfold State.modObj
  split
  · exact h.modCtx
  · exact h

theorem State.Orderly.catIssue {dests : List Dest} {lanes : Team → List (Nat × Addr)} (h : s.Orderly) : Leads (catIssue i f dests lanes s) :=
  h.issue fun _ _ _ => h.addOp.advance

theorem State.Orderly.execCatsetHwm (h : s.Orderly) : Leads (execCatsetHwm f s) := h.issue fun _ _ _ => .ite h.trapAt h.addOp.advance

/-! ### Effects -/

/-- The pages of a lane of MAPFT are mapped in turn. -/
theorem State.Orderly.mapPages {ob : Obj} {l : List (PageRef × Pte)} {acc : Option State} (h : Gives acc) :
    Gives (l.foldl (fun (acc : Option State) e => acc.bind fun s => s.mapPage e.1 ob e.2) acc) := by
  induction l generalizing acc with
  | nil => exact h
  | cons e l ih => exact ih (h.bind fun _ h => h.mapPage)

theorem State.Orderly.mapftLane (h : s.Orderly) : (s.mapftLane x u col a).1.Orderly := by
  unfold State.mapftLane
  dsimp only
  split
  · exact h
  · split
    · exact h
    · split
      · exact h
      · split
        · exact h
        · split
          · exact h
          · split
            · exact State.Orderly.mapPages h.gives _ ‹_›
            · exact h

theorem State.Orderly.doMapft {d : Nat} (h : s.Orderly) : (s.doMapft o d x col lanes).Orderly := by
  refine .completeOp (.foldl_fst (fun p la hp => ?_) lanes h)
  exact hp.mapftLane

theorem State.Orderly.setBound {n : Nat} (h : s.Orderly) : (s.setBound x id n).Orderly := by
  unfold State.setBound
  dsimp only
  split
  · exact .foldl (fun _ _ h => .ite h.discardFrame h) _ h.modCtx
  · exact h

theorem State.Orderly.setPage {ob : Obj} (h : s.Orderly) : (s.setPage x u col a b ob).Orderly := .ite h (h.foldl (fun _ _ h => h.setPte) _)

theorem State.Orderly.doCatset (h : s.Orderly) : (s.doCatset o i x col a b).Orderly := by
  unfold State.doCatset
  dsimp only
  split
  · exact h
  · refine .ite h ?_
    split
    · exact h.modObj
    · exact h.setBound
    · have h1 : (s.modTeam o.team fun t => { t with hwm := offOf b }).Orderly := h.modTeam fun _ ht => ht.same
      exact .ite h (.ite h1.modCtx h1)
    · exact h.setPage
    · exact h

theorem State.Orderly.doSnap (h : s.Orderly) : (s.doSnap x a).1.Orderly := by
  unfold State.doSnap
  dsimp only
  split
  · exact h
  · split
    · exact h
    · split
      · exact h.modCtx.same
      · exact h.modCtx.same
      · exact h

theorem State.Orderly.finishCat (h : s.Orderly) : (s.finishCat o i a b lanes).Orderly := by
  unfold State.finishCat
  dsimp only
  split
  · exact h.delOp
  · split
    · exact h.doMapft
    · exact h.completeOp
    · exact .ite h.doSnap.completeOp h
    · exact h.modCtx.completeOp
    · exact .ite h.doCatset.completeOp h

/-! ### Steps on pages -/

theorem State.Orderly.touchMap (h : s.Orderly) : (s.touchMap r).Orderly := by
  unfold State.touchMap
  dsimp only
  split
  · exact .ite (h.mapPage.getD h) h
  · exact h

theorem State.Orderly.execFarFirstTouchMap (h : s.Orderly) : Leads (execFarFirstTouchMap s) := by
  unfold Machine.execFarFirstTouchMap
  split
  · exact State.Orderly.next (.ite h.touchMap h)
  · refine State.Orderly.next ?_
    split
    · exact h.touchMap
    · exact h
  · exact h.next

theorem State.Orderly.copyPage (h : s.Orderly) : (s.copyPage r).Orderly := by
  unfold State.copyPage
  split
  · exact .ite h.partPage h
  · exact h

theorem State.Orderly.execCopyOnWrite (h : s.Orderly) : Leads (execCopyOnWrite s) := by
  unfold Machine.execCopyOnWrite
  split
  · exact State.Orderly.next (.ite h.copyPage h)
  · refine State.Orderly.next ?_
    split
    · exact h.copyPage
    · exact h
  · exact h.next

theorem State.Orderly.movePage {tier : BitVec 2} {frame : Nat} (h : s.Orderly) : (s.movePage r tier frame).Orderly := by
  unfold State.movePage
  dsimp only
  split
  · exact h
  · exact .ite h h.copyFrame.modCtx

theorem State.Orderly.execPageMigration (h : s.Orderly) : Leads (execPageMigration s) := by
  unfold Machine.execPageMigration
  split
  · exact h.movePage.next
  · exact h.next

theorem State.Orderly.execPageDuplication (h : s.Orderly) : Leads (execPageDuplication s) := by
  unfold Machine.execPageDuplication
  dsimp only
  split
  · refine State.Orderly.next ?_
    split
    · exact .ite h.copyFrame.modObj h
    · exact h
  · exact h.next

theorem State.Orderly.execPoolRefill (h : s.Orderly) : Leads (execPoolRefill s) := by
  unfold Machine.execPoolRefill
  dsimp only
  split
  · refine State.Orderly.next ?_
    split
    · exact h
    · refine .ite (.foldl (fun _ _ h => h.modTeam fun t ht => ?_) _ (h.modCtx.modCol fun hk => ?_)) h
      · split
        · exact ht.same
        · exact ht
      · split <;> exact hk
  · exact h.next

/-! ### Live migration -/

theorem State.Orderly.leave {mac : BitVec 48} (h : s.Orderly) : (s.leave x mac).Orderly := by
  unfold State.leave
  split
  · exact h
  · refine .ite h ?_
    extract_lets ts mine inF m s1
    have h1 : s1.Orderly := by
      have cols := h.mapColumns (f := fun k => { k.2 with posts := k.2.posts.filter fun p => p.ctx != x }) fun _ => rfl
      refine ⟨h.here.filter _ _ _, cols.units, h.host, fun q hq => ?_⟩
      rcases List.mem_append.1 hq with hq | hq
      · exact h.away q hq
      · exact List.mem_singleton.1 hq ▸ h.here.filter _ _ _
    exact .ite h1 h1.same

/-- Work of another place is added, numbered apart from what is here. -/
theorem Kept.addWork {n : Nat} {ts ts' : List (Nat × Team)} {gs gs' : List (Nat × Workgroup)} {us us' : List (Nat × Completion)}
    (h : Kept n ts gs us) (k : Kept n ts' gs' us') (hg : ∀ e ∈ gs', assoc gs e.1 = none) (hu : ∀ e ∈ us', assoc us e.1 = none) :
    Kept n ts (gs ++ gs') (us ++ us') where
  teams := h.teams
  wgs := nodup_append_keys h.wgs k.wgs hg
  units := nodup_append_keys h.units k.units hu
  below := fun e he => (List.mem_append.1 he).elim (h.below e) (k.below e)
  stored := h.stored
  saved := fun e he => (List.mem_append.1 he).elim (h.saved e) (k.saved e)

/-- Teams of another place are added, numbered apart from those that are here. -/
theorem Kept.addTeams {n : Nat} {ts ts' : List (Nat × Team)} {gs : List (Nat × Workgroup)} {us : List (Nat × Completion)}
    (h : Kept n ts gs us) (nodup : (ts'.map (·.1)).Nodup) (stored : ∀ e ∈ ts', e.2.Stored) (ht : ∀ e ∈ ts', assoc ts e.1 = none) :
    Kept n (ts ++ ts') gs us :=
  { h with teams := nodup_append_keys h.teams nodup ht, stored := fun e he => (List.mem_append.1 he).elim (h.stored e) (stored e) }

/-- Posts change no team. -/
theorem State.teams_setPosts (l : List (Nat × PostSlot)) (s : State) : (l.foldl (fun s e => s.setPost e.1 e.2) s).teams = s.teams := by
  induction l generalizing s with
  | nil => rfl
  | cons e l ih => exact ih _

/-- What has room here is numbered apart from what is here. -/
theorem State.roomFor_iff (m : Migrated) : s.roomFor m = true ↔
    (∀ e ∈ m.teams, assoc s.teams e.1 = none) ∧ (∀ e ∈ m.wgs, assoc s.wgs e.1 = none) ∧ ∀ e ∈ m.units, assoc s.units e.1 = none := by
  simp [State.roomFor, State.team?, State.wg?, State.unit?, and_assoc]

/-- Teams of another place come to a state (R384), numbered apart from those that are here. -/
theorem State.Orderly.addTeams {ts : List (Nat × Team)} (h : s.Orderly) (nodup : (ts.map (·.1)).Nodup) (stored : ∀ e ∈ ts, e.2.Stored)
    (ht : ∀ e ∈ ts, assoc s.teams e.1 = none) : ({ s with teams := s.teams ++ ts } : State).Orderly :=
  ⟨h.here.addTeams nodup stored ht, h.units, h.host, h.away⟩

theorem State.Orderly.arrive (h : s.Orderly) : (s.arrive x).Orderly := by
  unfold State.arrive
  split
  · exact h
  · rename_i m em
    extract_lets inF s1 s1' s2
    split
    · exact h
    · rename_i hc
      have room : s.roomFor m = true := by
        simp only [Bool.or_eq_true, Bool.not_eq_true', not_or] at hc
        exact eq_true_of_ne_false hc.1.2
      obtain ⟨ht, hg, hu⟩ := (State.roomFor_iff m).1 room
      have away := h.away m (List.mem_of_find?_eq_some em)
      have h1 : s1.Orderly := ⟨h.here.addWork away hg hu, h.units, h.host, fun q hq => h.away q (List.mem_of_mem_filter hq)⟩
      have h1' : s1'.orderParts = s1.orderParts := by
        simp only [s1']
        split
        · split <;> rfl
        · rfl
      have h2 : s2.Orderly := .foldl (fun _ _ h => h.setPost) _ (h1.same h1')
      have teams : s2.teams = s.teams := (State.teams_setPosts _ _).trans (congrArg (·.2.1) h1')
      refine h2.addTeams (nodup_map (fun _ => rfl) away.teams) (fun e he => ?_) fun e he => ?_
      · obtain ⟨q, hq, rfl⟩ := List.mem_map.1 he
        exact (away.stored q hq).same
      · obtain ⟨q, hq, rfl⟩ := List.mem_map.1 he
        exact teams ▸ ht q hq

theorem State.Orderly.execLiveMigration (h : s.Orderly) : Leads (execLiveMigration s) := by
  unfold Machine.execLiveMigration
  split
  · exact h.leave.next
  · exact h.arrive.next
  · exact h.next

end

end Sys2Proof.Machine
end

section
/-!
SUPPORT. The functions of Machine/Fences.lean and Machine/Reliability.lean keep a state orderly.
-/

namespace Sys2Proof.Machine

section

variable {s : State} {u w n k x col port tag kind count loc : Nat} {t : Team} {o : Op} {i : Instr} {f : VForm} {p q : Path} {b : BufWrite} {acc : Access}
  {c : Cause} {a : Addr} {bs : List Byte} {bits : List Nat} {site : ErrSite} {bey : EccBeyond} {obs : EccObs} {fr : EtherFrame} {pk : FarPacket} {v : Nat × Nat}

/-! ### Fences -/

theorem State.Orderly.fence (h : s.Orderly) : Leads (fence i f p q s) := h.issue fun _ _ _ => h.addOp.advance

theorem State.Orderly.checkpoint {op sq : Nat} (h : s.Orderly) : (s.checkpoint u op sq).Orderly :=
  h.modTeam fun _ ht => ht.withSpec ⟨ht.sregs, ht.vregs, ht.masks, ht.ra⟩

theorem State.Orderly.execFences (h : s.Orderly) : Leads (execFences f s) := h.issue fun _ _ _ => h.addOp.advance.checkpoint

theorem State.Orderly.releaseStore (h : s.Orderly) : (s.releaseStore u t b).Orderly := by
  unfold State.releaseStore
  dsimp only
  split
  · split
    · exact (h.stage1 _ ‹_›).delBuf
    · exact .same h.giveErr
  · exact h.same

theorem State.Orderly.closeWindow (h : s.Orderly) : (s.closeWindow u).Orderly := by
  unfold State.closeWindow
  split
  · exact h
  · rename_i t et
    split
    · exact h
    · have closed : ({ t with spec := none } : Team).Stored := { h.team et with spec := by rintro _ ⟨⟩ }
      exact .foldl (fun _ _ h => .ite h.releaseStore h) _ (h.setTeam (closed.raise.foldl (fun _ _ h => h.errResp) _))

theorem State.Orderly.fenceDone (h : s.Orderly) : (s.fenceDone o).Orderly := by
  unfold State.fenceDone
  split
  · refine .ite h (.ite ?_ h.completeOp)
    split
    · exact .ite h h.closeWindow.completeOp
    · exact h.completeOp
  · exact h

theorem State.Orderly.execFenceComplete (h : s.Orderly) : Leads (execFenceComplete s) := by
  unfold Machine.execFenceComplete
  split
  · refine State.Orderly.next ?_
    split
    · exact h.fenceDone
    · exact h
  · exact h.next

theorem State.Orderly.execSpeculationConflict (h : s.Orderly) : Leads (execSpeculationConflict s) := by
  unfold Machine.execSpeculationConflict
  split
  · refine State.Orderly.next ?_
    split
    · exact .ite h.unwind h
    · exact h
  · exact h.next

/-! ### Queues and buffers -/

theorem State.Orderly.execMmIssue (h : s.Orderly) : Leads (execMmIssue s) := by
  unfold Machine.execMmIssue
  split
  · refine State.Orderly.next ?_
    split
    · exact h.setOp
    · exact h
  · exact h.next

theorem State.Orderly.execMmExport (h : s.Orderly) : Leads (execMmExport s) := by
  unfold Machine.execMmExport
  split
  · refine State.Orderly.next ?_
    split
    · exact .ite h.exportBuf h
    · exact h
  · refine State.Orderly.next ?_
    split
    · exact .ite h.exportWord h
    · exact h
  · exact h.next

theorem State.Orderly.execMmTransfer (h : s.Orderly) : Leads (execMmTransfer s) := by
  unfold Machine.execMmTransfer
  split
  · refine State.Orderly.next ?_
    split
    · exact .ite h.setBuf h
    · exact h
  · exact h.next

theorem State.Orderly.execMmApply (h : s.Orderly) : Leads (execMmApply s) := by
  unfold Machine.execMmApply
  split
  · refine State.Orderly.next ?_
    split
    · exact .ite h.applyBuf h
    · exact h
  · exact h.next

theorem State.Orderly.execSfQueueWrite (h : s.Orderly) : Leads (execSfQueueWrite s) := by
  unfold Machine.execSfQueueWrite
  split
  · refine State.Orderly.next ?_
    split
    · have h1 := fun c rest => h.modCol (c := c) (f := fun k => { k with sfq := rest }) id
      dsimp only
      split
      · exact (h1 _ _).completeOp
      · exact h1 _ _
    · exact h
  · exact h.next

/-! ### Errors -/

theorem State.Orderly.recordCharged {ch : Charge} (h : s.Orderly) : (s.recordCharged kind site k count ch).Orderly := h.logError

theorem State.Orderly.recordAt (h : s.Orderly) : (s.recordAt kind site k count).Orderly := h.recordCharged

theorem State.Orderly.noteCorrected (h : s.Orderly) : (s.noteCorrected site k).Orderly := h.same

theorem State.Orderly.poisonGranule (h : s.Orderly) : (s.poisonGranule k).Orderly := h.same

theorem State.Orderly.flipDram (h : s.Orderly) : (s.flipDram k bits).Orderly := h.same

theorem State.Orderly.observeGranule (h : s.Orderly) : (s.observeGranule k site bits bey).Orderly := by
  unfold State.observeGranule
  extract_lets e s1
  have h1 : s1.Orderly := h.flipDram
  split
  · exact h1
  · exact h1.noteCorrected
  · exact h1.poisonGranule.recordAt
  · exact .ite h1.flipDram.noteCorrected h1.flipDram

theorem State.Orderly.observe {via : Option (Nat × Nat)} (h : s.Orderly) : (s.observe k via obs).Orderly :=
  .ite h (.foldl (fun _ _ h => h.observeGranule) (List.range 4) h)

theorem State.Orderly.observeWord (h : s.Orderly) : (s.observeWord k site bits bey).Orderly := by
  unfold State.observeWord
  split
  · exact h
  · exact h.noteCorrected
  · exact State.Orderly.recordAt h.same
  · exact .ite (.noteCorrected h.same) h.same

theorem State.Orderly.recordSpad (h : s.Orderly) : (s.recordSpad w kind n).Orderly := by
  unfold State.recordSpad
  exact h.logError

theorem State.Orderly.observeSpad (h : s.Orderly) : (s.observeSpad w k bits bey).Orderly := by
  unfold State.observeSpad
  dsimp only
  split
  · exact h
  · exact h.recordSpad
  · exact .recordSpad (h.modWg fun _ hg => hg)
  · exact .ite (.recordSpad (h.modWg fun _ hg => hg)) (h.modWg fun _ hg => hg)

theorem State.Orderly.observeAccess (h : s.Orderly) : (s.observeAccess acc w loc obs).Orderly := by
  unfold State.observeAccess
  split
  · exact .ite h.observeSpad h
  · exact .ite h.observeWord h
  · exact h
  · exact h

theorem State.Orderly.observeEvicted {trig : Nat} (h : s.Orderly) : (s.observeEvicted k trig loc obs).Orderly :=
  .ite h (.foldl (fun _ _ h => h.observeWord) (List.range 32) h)

/-! ### Packets -/

theorem State.Orderly.replyTo {poison : BitVec 32} (h : s.Orderly) : (s.replyTo tag bs poison).Orderly := h.same

theorem State.Orderly.readPacket {via : Option (Nat × Nat)} (h : s.Orderly) : (s.readPacket tag n via obs).Orderly := h.observe.replyTo

theorem State.Orderly.execReadPacket (h : s.Orderly) : Leads (execReadPacket s) := by
  unfold Machine.execReadPacket
  split
  · exact h.readPacket.next
  · exact h.readPacket.next
  · exact h.next

theorem State.Orderly.writeBack {mask : BitVec 128} (h : s.Orderly) : (s.writeBack k mask).Orderly := h.same

theorem State.Orderly.execWritePacket (h : s.Orderly) : Leads (execWritePacket s) := by
  unfold Machine.execWritePacket
  split
  · exact h.writeBack.replyTo.next
  · exact h.observeEvicted.writeBack.replyTo.next
  · exact h.next

theorem State.Orderly.atomReply {s1 : State} {sp : Space} {lower : Bool} (h : s1.Orderly) : (s.atomReply s1 tag sp a lower n).Orderly := by
  unfold State.atomReply
  refine State.Orderly.replyTo ?_
  split
  · exact h.writeBack
  · exact h

theorem State.Orderly.execAtomicPacket (h : s.Orderly) : Leads (execAtomicPacket s) := by
  unfold Machine.execAtomicPacket
  split
  · refine State.Orderly.next ?_
    split
    · exact h
    · split
      · exact h
      · split
        · refine .ite h ?_
          dsimp only
          split
          · exact .ite h.performAccess h.performAccess.atomReply
          · exact h.performAccess
        · exact h
  · refine State.Orderly.next ?_
    split
    · exact h
    · split
      · exact .ite (.ite h.applyBuf h.applyBuf.atomReply) h
      · exact h
  · exact h.next

/-! ### The Conservator -/

theorem State.Orderly.retireFrame (h : s.Orderly) : (s.retireFrame k col n).Orderly := by
  unfold State.retireFrame
  extract_lets s1
  have h1 : s1.Orderly := h.modCol fun hk => by split <;> exact hk
  exact h1.same

theorem State.Orderly.execScrubGranule (h : s.Orderly) : Leads (execScrubGranule s) := by
  unfold Machine.execScrubGranule
  split
  · exact State.Orderly.next (.ite h (.ite h.recordAt.retireFrame h.observeGranule))
  · exact h.next

theorem State.Orderly.execErrorRecordMergeFlush (h : s.Orderly) : Leads (execErrorRecordMergeFlush s) := by
  unfold Machine.execErrorRecordMergeFlush
  split
  · refine State.Orderly.next ?_
    split
    · exact State.Orderly.recordCharged h.same
    · exact h
  · exact h.next

/-! ### Fatal errors -/

theorem State.Orderly.fatalWhere {cols : Nat → Bool} (h : s.Orderly) : (s.fatalWhere c cols).Orderly := by
  refine .foldl (fun s e h => ?_) _ h
  split
  · exact h.fatal
  · exact h

theorem State.Orderly.recordReg (h : s.Orderly) : (s.recordReg t kind).Orderly := by
  unfold State.recordReg
  exact h.logError

theorem State.Orderly.regFatal (h : s.Orderly) : (s.regFatal u t).Orderly := by
  unfold State.regFatal
  split
  · exact .ite h.recordReg.fatal h
  · exact h

/-- Bits of a register turn over. -/
theorem Team.Stored.flipReg {lane : Nat} {scalar : Bool} (h : t.Stored) : (t.flipReg n lane scalar k bits).Stored := by
  unfold Team.flipReg
  exact .ite { h with sregs := Store.wf_set h.sregs } { h with vregs := Store.wf_set h.vregs }

theorem State.Orderly.observeReg {lane : Nat} {scalar : Bool} (h : s.Orderly) : (s.observeReg u n lane scalar k obs).Orderly := by
  unfold State.observeReg
  split
  · exact h
  · rename_i t et
    have h1 := fun w => h.setTeam (u := u) ((h.team et).flipReg (n := n) (lane := lane) (scalar := scalar) (k := k) (bits := w))
    split
    · exact h
    · exact h.recordReg
    · exact h.regFatal
    · exact .ite (h1 _).recordReg (h1 _)

theorem State.Orderly.execRegisterUncorrectable (h : s.Orderly) : Leads (execRegisterUncorrectable s) := by
  unfold Machine.execRegisterUncorrectable
  split
  · refine State.Orderly.next ?_
    split
    · exact h.regFatal
    · exact h
  · exact State.Orderly.next (.foldl (fun _ _ h => h.observeReg) _ h)
  · exact h.next

/-! ### Removal -/

theorem State.Orderly.leavePool {g : BitVec 2 × Nat} (h : s.Orderly) : (s.leavePool col g).Orderly := by
  refine h.modCol fun hk => ?_
  split <;> exact hk

theorem State.Orderly.evacuate {r : PageRef} (h : s.Orderly) : (s.evacuate k n x r).Orderly := by
  unfold State.evacuate
  split
  · exact h
  · refine .ite h ?_
    split
    · exact h.leavePool.movePage
    · exact h.recordAt.setPte

theorem State.Orderly.announce {who : Nat → Context → Bool} (h : s.Orderly) : (s.announce who).Orderly := h.same

theorem State.Orderly.execDramDieRemoval (h : s.Orderly) : Leads (execDramDieRemoval s) := by
  unfold Machine.execDramDieRemoval
  split
  · refine State.Orderly.next (.ite h ?_)
    extract_lets onDie s1 s2 s3 pages s4
    have h1 : s1.Orderly := h.same
    have h2 : s2.Orderly := h1.foldl (fun _ _ h => .ite (h.modCol id) h) _
    have h3 : s3.Orderly := h2.same
    exact .announce (h3.foldl (fun _ _ h => h.evacuate) _)
  · exact h.next

/-- Work is removed. -/
theorem State.Orderly.delWg (h : s.Orderly) : ({ s with wgs := assocDel s.wgs w } : State).Orderly :=
  ⟨{ h.here with wgs := nodup_filter _ h.here.wgs, saved := fun e he => h.here.saved e (List.mem_of_mem_filter he) }, h.units, h.host, h.away⟩

theorem State.Orderly.execCoreFailure (h : s.Orderly) : Leads (execCoreFailure s) := by
  unfold Machine.execCoreFailure
  split
  · refine State.Orderly.next ?_
    split
    · refine .ite h (.logError (.same (.foldl (fun s e h => ?_) _ h.fatalWhere) rfl))
      exact .ite h.clearSlot h.clearSlot.delWg
    · exact h
  · exact h.next

/-! ### DMA and CXL -/

theorem State.Orderly.execDmaWrite (h : s.Orderly) : Leads (execDmaWrite s) := by
  unfold Machine.execDmaWrite
  split
  · refine State.Orderly.next (.ite h ?_)
    extract_lets secs s1
    have h1 : s1.Orderly := h.noteConflict
    exact h1.same
  · exact h.next

theorem State.Orderly.execDmaRead (h : s.Orderly) : Leads (execDmaRead s) := by
  unfold Machine.execDmaRead
  split
  · exact State.Orderly.next (.ite h.same h)
  · exact h.next

theorem State.Orderly.execCxlPoisonReport (h : s.Orderly) : Leads (execCxlPoisonReport s) := by
  unfold Machine.execCxlPoisonReport
  split
  · exact State.Orderly.next (.ite (.foldl (fun _ _ h => h.poisonGranule.recordAt) _ h) h)
  · exact h.next

theorem State.Orderly.execCxlHotRemove (h : s.Orderly) : Leads (execCxlHotRemove s) := by
  unfold Machine.execCxlHotRemove
  split
  · refine State.Orderly.next (.ite (.announce ?_) h)
    have h1 : ∀ m, ({ s with cxlLost := m } : State).Orderly := fun _ => h.same
    exact (h1 _).mapColumns fun _ => rfl
  · exact h.next

/-! ### Scale-out -/

theorem State.Orderly.send (h : s.Orderly) : (s.send port fr pk).Orderly := h.same

theorem State.Orderly.countFar {r : PageRef} {src : BitVec 48} (h : s.Orderly) : (s.countFar r src).Orderly := h.same

theorem State.Orderly.serveFar {write reads : Bool} {go : State → State × List Byte} (h : s.Orderly) (hg : ∀ s, s.Orderly → (go s).1.Orderly) :
    Gives (s.serveFar port fr tag x col a n write reads go) := by
  unfold State.serveFar
  extract_lets sp s1
  have h1 : s1.Orderly := h.countFar
  split
  · exact h1.send.gives
  · exact .empty
  · exact .ite .empty (.ite h1.logPoison.send.gives (hg _ h1).send.gives)

theorem State.Orderly.serveCheck {write atomic : Bool} (h : s.Orderly) : Gives (s.serveCheck port fr tag x col a n k write atomic) := by
  unfold State.serveCheck
  split
  · split
    · exact h.send.gives
    · exact .empty
    · exact .ite h.logPoison.send.gives h.send.gives
  · split
    · exact h.send.gives
    · refine .ite h.send.gives (.ite h.send.gives ?_)
      split
      · exact h.send.gives
      · exact h.send.gives

theorem State.Orderly.serveFrame (h : s.Orderly) : Gives (s.serveFrame port fr) := by
  unfold State.serveFrame
  split
  · exact State.Orderly.gives h.same
  · split
    · exact h.serveFar fun _ h => h
    · refine h.serveFar fun _ h => ?_
      dsimp only
      exact h.update
    · refine h.serveFar fun _ h => ?_
      dsimp only
      exact h.atomicAt
    · exact h.serveCheck
    · exact h.gives
    · exact h.gives

theorem State.Orderly.cpAnswered {cc : CopyCmd} {r : Option (Cause × Addr)} (h : s.Orderly) : (s.cpAnswered o cc b r).Orderly := h.cpJudge

theorem State.Orderly.probed (h : s.Orderly) : (s.probed b).Orderly := by
  unfold State.probed
  split
  · split
    · exact .ite h.setOp (.ite h.cpAnswered (.ite h h.cpStage))
    · split
      · exact h.stage1 _ ‹_›
      · exact h.failAccess
  · exact h

theorem State.Orderly.resvAnswer {r : Option (List Byte)} (h : s.Orderly) : (s.resvAnswer n r).Orderly := h.same

theorem State.Orderly.answered (h : s.Orderly) : (s.answered b bs).Orderly := by
  unfold State.answered
  extract_lets s1 flags
  have h1 : s1.Orderly := h.delBuf.resvAnswer
  refine .ite h1.probed ?_
  split
  · split
    · exact .ite h1 h1.setOp
    · exact h1.setOp
  · exact h1.setOp
  · exact .ite h1.gatherFl h1
  · exact h1

theorem State.Orderly.answeredErr (h : s.Orderly) : (s.answeredErr b c a).Orderly := by
  unfold State.answeredErr
  extract_lets s1
  have h1 : s1.Orderly := h.delBuf.resvAnswer
  refine .ite h1 ?_
  split
  · split
    · exact .ite h1.cpAnswered (.ite h1 h1.cpFail)
    · exact h1.giveErr.setOp
  · exact h1.giveErr

theorem State.Orderly.execScaleoutFrameReceive (h : s.Orderly) : Leads (execScaleoutFrameReceive s) := by
  have wait : ∀ l, ({ s with inbox := l } : State).Orderly := fun _ => h.same
  unfold Machine.execScaleoutFrameReceive
  split
  · refine State.Orderly.next (.ite h ?_)
    split
    · split
      · exact h.answered
      · exact h
    · split
      · exact h.answeredErr
      · exact h
    all_goals exact .ite (wait _) (h.serveFrame.getD (wait _))
  · refine State.Orderly.next ?_
    split
    · refine .ite h ?_
      split
      · exact .same (h.serveFrame _ ‹_›)
      · exact h
    · exact h
  · exact h.next

theorem State.Orderly.reroute (h : s.Orderly) : (s.reroute port fr).Orderly := by
  unfold State.reroute
  dsimp only
  split
  · exact h.same
  · exact h

theorem State.Orderly.execPortFailure (h : s.Orderly) : Leads (execPortFailure s) := by
  unfold Machine.execPortFailure
  split
  · exact State.Orderly.next (.ite h (.foldl (fun _ _ h => h.reroute) _ h.same))
  · exact h.next

theorem State.Orderly.execDeliveryTimeout (h : s.Orderly) : Leads (execDeliveryTimeout s) := by
  unfold Machine.execDeliveryTimeout
  split
  · refine State.Orderly.next ?_
    split
    · split
      · exact .same h.answeredErr
      · exact h
    · exact h
  · exact h.next

end

end Sys2Proof.Machine
end

section
/-!
SUPPORT. The functions of Machine/HostSide.lean keep a state orderly.
-/

namespace Sys2Proof.Machine

section

variable {s : State} {x n code : Nat} {who : Option Nat} {m : Mailbox} {v : Word}

/-! ### Mailboxes -/

theorem State.Orderly.modMb {f : Mailbox → Mailbox} (h : s.Orderly) : (s.modMb who f).Orderly := by
  unfold State.modMb
  split
  · exact h.same
  · split
    · exact h.modCtx
    · exact h.same

theorem State.Orderly.execMailboxOverrun (h : s.Orderly) : Leads (execMailboxOverrun s) := by
  unfold Machine.execMailboxOverrun
  split
  · exact h.modMb.next
  · exact h.next

theorem State.Orderly.respond {status : Nat} {result : Word} (h : s.Orderly) : (s.respond who status result).Orderly := h.modMb

theorem State.Orderly.command (h : s.Orderly) : (s.command who m v).Orderly := .ite h (.ite h.modMb (.ite h.modMb h.modMb.respond))

theorem State.Orderly.pageWrite (h : s.Orderly) : (s.pageWrite who n v).Orderly := by
  unfold State.pageWrite
  split
  · exact h
  · exact .ite h.command (.ite h.modMb (.ite h.modMb h))

theorem State.Orderly.execHostRegisterWrite (h : s.Orderly) : Leads (execHostRegisterWrite s) := by
  unfold Machine.execHostRegisterWrite
  split
  · exact State.Orderly.next (.ite h.pageWrite (.ite h h.pageWrite))
  · exact h.next

/-- A command is executed: the order is a matter of what it does when it is accepted. -/
theorem State.Orderly.execute {body : State → Mailbox → State} (h : s.Orderly) (hb : ∀ m, (body s m).Orderly) : (s.execute who code body).Orderly := by
  unfold State.execute
  split
  · exact .ite (.ite (hb _) h.respond) h
  · exact h

/-! ### Jobs -/

theorem State.Orderly.startJob {d : JobDesc} (h : s.Orderly) : (s.startJob x d).Orderly :=
  .respond (.enterIntake (.addUnit (.addUnit (.addUnit h.modCtx))))

theorem State.Orderly.execStartJob (h : s.Orderly) : Leads (execStartJob s) := by
  unfold Machine.execStartJob
  split
  · refine State.Orderly.next (h.execute fun m => ?_)
    split
    · exact .ite h.respond (.ite h h.startJob)
    · exact h
  · exact h.next

theorem State.Orderly.execMbCancel (h : s.Orderly) : Leads (execMbCancel s) := by
  unfold Machine.execMbCancel
  split
  · exact State.Orderly.next (h.execute fun m => .ite h h.enterIntake.respond)
  · exact h.next

theorem State.Orderly.execMbStatus (h : s.Orderly) : Leads (execMbStatus s) := by
  unfold Machine.execMbStatus
  split
  · exact State.Orderly.next (h.execute fun m => h.respond)
  · exact h.next

/-! ### Objects -/

theorem State.Orderly.execCreateObject (h : s.Orderly) : Leads (execCreateObject s) := by
  unfold Machine.execCreateObject
  split
  · refine State.Orderly.next (h.execute fun m => ?_)
    dsimp only
    split
    · exact .ite h.respond (.ite h (.respond (.same h.modCtx)))
    · exact h.respond
  · exact h.next

theorem State.Orderly.execDeleteObject (h : s.Orderly) : Leads (execDeleteObject s) := by
  unfold Machine.execDeleteObject
  split
  · refine State.Orderly.next (h.execute fun m => ?_)
    dsimp only
    split
    · exact .ite h.respond h.modCtx.respond
    · exact h.respond
  · exact h.next

/-! ### Partitions, the installation and contexts -/

theorem State.Orderly.execSetPartitions (h : s.Orderly) : Leads (execSetPartitions s) :=
  State.Orderly.next (h.execute fun _ => .ite (.respond h.same) h.respond)

theorem State.Orderly.execSetInstallationEntry (h : s.Orderly) : Leads (execSetInstallationEntry s) :=
  State.Orderly.next (h.execute fun _ => .ite h.respond (.respond h.same))

theorem State.Orderly.loadPage {id col q : Nat} {bytes : List Byte} (h : s.Orderly) : Gives (s.loadPage x id col q bytes) := by
  unfold State.loadPage
  split
  · exact .empty
  · extract_lets e body s1 s2
    have h1 : s1.Orderly := h.zeroFrame
    have h2 : s2.Orderly := h1.same
    exact h2.modCtx.gives

/-- The pages of the supervisor code object are loaded in turn. -/
theorem State.Orderly.loadPages {id : Nat} {bytes : List Byte} {l : List (Nat × Nat)} {acc : Option State} (h : Gives acc) :
    Gives (l.foldl (fun (acc : Option State) e => acc.bind fun s => s.loadPage x id e.1 e.2 bytes) acc) := by
  induction l generalizing acc with
  | nil => exact h
  | cons e l ih => exact ih (h.bind fun _ h => h.loadPage)

theorem State.Orderly.loadSupervisor {id p : Nat} {ws : List Word} (h : s.Orderly) : Gives (s.loadSupervisor x id p ws) := .loadPages h.gives

theorem State.Orderly.execCreateContext (h : s.Orderly) : Leads (execCreateContext s) := by
  unfold Machine.execCreateContext
  split
  · refine State.Orderly.next (h.execute fun m => ?_)
    dsimp only
    split
    · refine .ite h.respond ?_
      split
      · split
        · rename_i s3 e
          have h2 : s3.Orderly := State.Orderly.loadSupervisor (.modCtx h.same) _ e
          exact .respond h2.same
        · exact h.respond
      · exact h.respond
    · exact h.respond
  · exact h.next

theorem State.Orderly.dropContext (h : s.Orderly) : (s.dropContext x).Orderly := by
  have cols := h.mapColumns (f := fun k => { k.2 with posts := k.2.posts.filter fun p => p.ctx != x }) fun _ => rfl
  exact ⟨h.here.filter _ _ _, cols.units, h.host, h.away⟩

theorem State.Orderly.execDestroyContext (h : s.Orderly) : Leads (execDestroyContext s) :=
  State.Orderly.next (h.execute fun _ => .ite (.foldl (fun _ _ h => h.cancelUnit) _ h) (.ite h h.dropContext.respond))

/-! ### Power, firmware and start -/

theorem State.Orderly.execSetPowerLimit (h : s.Orderly) : Leads (execSetPowerLimit s) :=
  State.Orderly.next (h.execute fun _ => .ite (.respond h.same) h.respond)

theorem State.Orderly.execPowerOrThermalLimiting (h : s.Orderly) : Leads (execPowerOrThermalLimiting s) := by
  unfold Machine.execPowerOrThermalLimiting
  split
  · exact State.Orderly.next h.same
  · exact h.next

/-- No team, workgroup or unit. -/
theorem Kept.nothing {n : Nat} : Kept n [] [] [] :=
  ⟨List.nodup_nil, List.nodup_nil, List.nodup_nil, by rintro _ ⟨⟩, by rintro _ ⟨⟩, by rintro _ ⟨⟩⟩

theorem State.Orderly.toReset (h : s.Orderly) : s.toReset.Orderly := ⟨.nothing, fun _ => .initial, h.host, h.away⟩

theorem State.Orderly.execStageFirmware (h : s.Orderly) : Leads (execStageFirmware s) := by
  unfold Machine.execStageFirmware
  split
  · have staged : ∀ g, (({ s with staged := g } : State).respond none 0 0).Orderly := fun _ => .respond h.same
    exact State.Orderly.next (h.execute fun m => .ite (.ite (staged _).toReset (staged _)) h.respond)
  · exact h.next

theorem State.Orderly.execPowerGood (h : s.Orderly) : Leads (execPowerGood s) := State.Orderly.next (.ite h.same h)

theorem State.Orderly.execStage0Complete (h : s.Orderly) : Leads (execStage0Complete s) := by
  unfold Machine.execStage0Complete
  split
  · exact State.Orderly.next (.ite h (.ite h.same h.same))
  · exact h.next

theorem State.Orderly.execStage1Complete (h : s.Orderly) : Leads (execStage1Complete s) := by
  unfold Machine.execStage1Complete
  split
  · exact State.Orderly.next (.ite h h.same)
  · exact h.next

theorem State.Orderly.execCriticalTemperature (h : s.Orderly) : Leads (execCriticalTemperature s) := by
  have h1 : ({ s.fatalWhere .euce fun _ => true with stage := .halted } : State).Orderly := State.Orderly.same h.fatalWhere
  exact h1.logError.next

theorem State.Orderly.execDeviceReset (h : s.Orderly) : Leads (execDeviceReset s) := h.toReset.next

/-! ### Attestation -/

/-- The host's memory takes bytes. -/
theorem State.Orderly.writeHost {k : Nat} {bs : List Byte} (h : s.Orderly) : ({ s with hostMem := Memory.setBytes s.hostMem k bs } : State).Orderly :=
  ⟨h.here, h.units, Memory.wf_setBytes _ h.host, h.away⟩

theorem State.Orderly.execAttest (h : s.Orderly) : Leads (execAttest s) := by
  unfold Machine.execAttest
  split
  · exact State.Orderly.next (h.execute fun m => .ite h.respond h.writeHost.respond.modMb)
  · exact h.next

end

end Sys2Proof.Machine
end

section
/-!
SUPPORT. The functions of Machine/Matrix.lean and Machine/MemEvents.lean keep a state orderly.
-/

namespace Sys2Proof.Machine

section

variable {s : State} {u col op k row n el loc : Nat} {t : Team} {m : MxState} {c : MCmd} {o : Op} {i : Instr} {f : GForm} {acc : Access} {obs : EccObs}

/-! ### Accumulators -/

/-- An accumulator after one of a0 to a3 is replaced. -/
theorem MxState.accA_setA (y : Store 32) : (m.setA k y).accA n = y ∨ (m.setA k y).accA n = m.accA n := by
  unfold MxState.setA MxState.accA
  split_ifs <;> simp

theorem MxState.accW_setA (y : Store 32) : (m.setA k y).accW = m.accW := by
  unfold MxState.setA
  split_ifs <;> rfl

/-- An accumulator after one of w0 and w1 is replaced. -/
theorem MxState.accW_setW (y : Store 64) : (m.setW k y).accW n = y ∨ (m.setW k y).accW n = m.accW n := by
  unfold MxState.setW MxState.accW
  split_ifs <;> simp

theorem MxState.accA_setW (y : Store 64) : (m.setW k y).accA = m.accA := by
  unfold MxState.setW
  split_ifs <;> rfl

theorem MxState.Stored.setA {y : Store 32} (h : m.Stored) (hy : Store.wf y = true) : (m.setA k y).Stored where
  a := fun n hn => by
    obtain e | e := MxState.accA_setA (m := m) (k := k) (n := n) y
    · rwa [e]
    · exact e.symm ▸ h.a n hn
  w := fun n hn => (congrFun (MxState.accW_setA y) n).symm ▸ h.w n hn

theorem MxState.Stored.setW {y : Store 64} (h : m.Stored) (hy : Store.wf y = true) : (m.setW k y).Stored where
  a := fun n hn => (congrFun (MxState.accA_setW y) n).symm ▸ h.a n hn
  w := fun n hn => by
    obtain e | e := MxState.accW_setW (m := m) (k := k) (n := n) y
    · rwa [e]
    · exact e.symm ▸ h.w n hn

/-- Every number names one of a0 to a3. -/
theorem MxState.Stored.accA (h : m.Stored) : Store.wf (m.accA k) = true := by
  by_cases hk : k < 4
  · exact h.a k hk
  · have last : m.accA k = m.accA 3 := by simp [MxState.accA, show k ≠ 0 ∧ k ≠ 1 ∧ k ≠ 2 by omega]
    exact last ▸ h.a 3 (by decide)

/-- Every number names one of w0 and w1. -/
theorem MxState.Stored.accW (h : m.Stored) : Store.wf (m.accW k) = true := by
  by_cases hk : k = 4
  · exact hk ▸ h.w 4 (by decide)
  · have last : m.accW k = m.accW 5 := by simp [MxState.accW, hk]
    exact last ▸ h.w 5 (by decide)

theorem MxState.Stored.clear (h : m.Stored) : (m.clear k).Stored := by
  unfold MxState.clear
  split
  · exact h.setA Store.wf_nil
  · exact h.setW Store.wf_nil

theorem MxState.Stored.setFifo {bs : List Byte} (h : m.Stored) : (m.setFifo k bs).Stored := h.same (MxState.setFifo_acc m k bs)

/-- A fold of a unit with something beside it, whose every step keeps the form. -/
theorem MxState.Stored.foldl_fst {α β : Type} {g : MxState × β → α → MxState × β} (hg : ∀ p a, p.1.Stored → (g p a).1.Stored) (l : List α)
    {p : MxState × β} (h : p.1.Stored) : (l.foldl g p).1.Stored := by
  induction l generalizing p with
  | nil => exact h
  | cons a l ih => exact ih (hg p a h)

theorem MxState.Stored.mulRow {ty : Ty} {tile : Store 64} {els : List (Nat × Nat)} (h : m.Stored) : (m.mulRow ty k row tile els).1.Stored := by
  refine .foldl_fst (fun p n hp => ?_) (List.range 64) h
  dsimp only
  split
  · exact hp.setW (Store.wf_set hp.accW)
  · exact hp.setW (Store.wf_set hp.accW)
  · exact hp.setA (Store.wf_set hp.accA)

theorem MxState.Stored.stepMul {sparse : Bool} {vs : List Byte} (h : m.Stored) : (m.stepMul f sparse row vs).1.Stored := by
  unfold MxState.stepMul
  split
  · exact h
  · dsimp only
    split
    · exact h.setFifo.mulRow
    · exact h.mulRow

/-! ### Commands -/

theorem State.Orderly.matrixCmd (h : s.Orderly) : Leads (matrixCmd i f s) := by
  refine h.issueEng fun u t x _ => .ite h (.ite h.haltStream (.advanceEng (h.addEng.modCol fun hk => ?_)))
  exact hk.same

theorem State.Orderly.execMsig (h : s.Orderly) : Leads (execMsig f s) := h.issueEng fun _ _ _ _ => .ite h h.addEng.advanceEng

theorem State.Orderly.execMend (h : s.Orderly) : Leads (execMend s) :=
  h.issueEng fun _ _ _ _ => .ite h (h.advanceEng.modTeam fun _ ht => ht.same)

theorem State.Orderly.finishMsig (h : s.Orderly) : (s.finishMsig o).Orderly := by
  unfold State.finishMsig
  split
  · exact .ite h.delOp h
  · exact h

theorem State.Orderly.endMx (h : s.Orderly) : (s.endMx col op).Orderly := by
  have h1 : (s.modCol col fun k => { k with mx := { k.mx with busy := none } }).Orderly := h.modCol fun hk => hk.same
  exact h1.delOp

theorem State.Orderly.modMx {g : MxState → MxState} (h : s.Orderly) (hg : (s.column col).mx.Stored → (g (s.column col).mx).Stored) :
    (s.modMx col g).Orderly := h.modCol hg

theorem State.Orderly.drain (h : s.Orderly) : (s.drain col u t c f).Orderly := by
  unfold State.drain
  extract_lets m a sc bytes v fail
  have failed : ∀ k a, (fail k a).Orderly := fun k a => .endMx (.giveErr (.ite h.notePoison h))
  refine .ite h ?_
  split
  · exact failed _ _
  · split
    · exact h
    · split
      · exact failed _ _
      · extract_lets es bs fl b s1 s2
        have h1 : s1.Orderly := .same h.fresh
        have h2 : s2.Orderly := .ite (h1.modMx fun hm => hm.clear) h1
        exact (h2.modTeam fun _ ht => ht.raise).endMx

theorem State.Orderly.stepMx (h : s.Orderly) : (s.stepMx col u t c).Orderly := by
  unfold State.stepMx
  extract_lets m row mul ld
  have held : m.Stored := h.units col
  have rowOk : ∀ f sparse m vs, m.Stored → (row f sparse m vs).Orderly := by
    intro f sparse m vs hm
    have h1 := (h.modMx (col := col) (g := fun _ => { (m.stepMul f sparse c.row vs).1 with busy := some { c with row := c.row + 1, vals := none } })
      fun _ => hm.stepMul.same).modTeam (u := u) fun _ ht => ht.raise (f := (m.stepMul f sparse c.row vs).2)
    exact .ite h1.endMx h1
  have mulOk : ∀ f sparse, (mul f sparse).Orderly := by
    intro f sparse
    simp only [mul]
    split
    · exact .ite h (rowOk _ _ _ _ held)
    · exact .ite h (.ite (h.modMx fun _ => held.setFifo.same) (rowOk _ _ _ _ held.setFifo))
  have ldOk : ∀ f byColumn, (ld f byColumn).Orderly := fun f byColumn => .ite h (.endMx (h.modMx fun hm => hm.same))
  split
  · exact .endMx (h.modMx fun hm => hm.clear)
  · exact ldOk _ _
  · exact ldOk _ _
  · exact mulOk _ _
  · exact mulOk _ _
  · exact h.drain
  · exact h.endMx

theorem State.Orderly.execMatrixCommandComplete (h : s.Orderly) : Leads (execMatrixCommandComplete s) := by
  unfold Machine.execMatrixCommandComplete
  split
  · refine State.Orderly.next ?_
    split
    · split
      · exact .ite h.stepMx h
      · exact h
    · exact h
  · exact h.next

theorem State.Orderly.execFollowOnExecute (h : s.Orderly) : Leads (execFollowOnExecute s) := by
  unfold Machine.execFollowOnExecute
  split
  · refine State.Orderly.next ?_
    split
    · split
      · exact h
      · have h1 : ({ s with seq := s.seq + 1 } : State).Orderly := h.same
        refine .ite h (.ite (h1.modMx fun hm => hm.same) (.ite h ?_))
        exact .delOp (.modTeam (h.modMx fun hm => hm.same) fun _ ht => ht.postEng)
    · exact h
  · exact h.next

/-! ### MM_PERFORM and WRITE_PERFORMED -/

theorem State.Orderly.performMates (h : s.Orderly) : (s.performMates o acc).Orderly := by
  unfold State.performMates
  extract_lets els s1
  have h1 : s1.Orderly := by
    refine h.foldl (fun s el h => ?_) _
    split
    · exact h
    · split
      · exact h.performAccess
      · exact h
  refine .ite h1 ?_
  split
  · exact .ite h h1
  · exact h1

theorem State.Orderly.performEl (h : s.Orderly) : (s.performEl o el).Orderly := by
  unfold State.performEl
  split
  · exact h.performCopy
  · split
    · exact h
    · split
      · exact h.performLdg
      · exact h.performMates

theorem State.Orderly.observeReads {as : List Access} (h : s.Orderly) : Gives (s.observeReads as loc n obs) := by
  intro r e
  obtain ⟨p, _, rfl⟩ := Option.map_eq_some_iff.1 e
  exact h.observeAccess

theorem State.Orderly.execMmPerform (h : s.Orderly) : Leads (execMmPerform s) := by
  unfold Machine.execMmPerform
  split
  · refine State.Orderly.next ?_
    split
    · split
      · exact (h.observeReads _ ‹_›).performEl
      · exact h
    · exact h
  · exact State.Orderly.next (h.observeReads.getD h)
  · refine State.Orderly.next ?_
    split
    · exact h.performEl
    · exact h
  · exact h.next

theorem State.Orderly.finishOp (h : s.Orderly) : (s.finishOp o).Orderly := by
  unfold State.finishOp
  split
  · exact .ite h.completeOp h
  · exact .ite h.completeOp h
  · exact .ite h.completeOp h
  · exact .ite h.finishLdg h
  · exact .ite h.sendIntake h
  · exact h.sendIntake
  · exact h.endCntw
  · exact h.finishCopy
  · exact h.finishCopy
  · exact h.finishCopy
  · exact h.finishMsig
  · exact h.finishCat
  · exact .ite h.finishImage h
  all_goals exact h

theorem State.Orderly.execWritePerformed (h : s.Orderly) : Leads (execWritePerformed s) := by
  unfold Machine.execWritePerformed
  split
  · refine State.Orderly.next ?_
    split
    · exact h.finishOp
    · exact h
  · exact h.next

end

end Sys2Proof.Machine
end

section
/-!
PROOF. The family 06_control_flow.md, StateStaysOrderly (O58): the dispatch of instructions and steps, and a step of the machine, keep a state orderly by the
rules of the functions that they are made of.
-/

namespace Sys2Proof.Machine

section

variable {s : State}

/-! ### Instructions whose meaning is a shared function of several arguments -/

theorem State.Orderly.execLd {f : MForm} (h : s.Orderly) : Leads (execLd f s) := by
  unfold Machine.execLd
  exact h.memT

theorem State.Orderly.execSt {f : MForm} (h : s.Orderly) : Leads (execSt f s) := by
  unfold Machine.execSt
  exact h.memT

theorem State.Orderly.execLdc {f : MForm} (h : s.Orderly) : Leads (execLdc f s) := by
  unfold Machine.execLdc
  exact h.memT

theorem State.Orderly.execLdsp {f : MForm} (h : s.Orderly) : Leads (execLdsp f s) := by
  unfold Machine.execLdsp
  exact h.memT

theorem State.Orderly.execStsp {f : MForm} (h : s.Orderly) : Leads (execStsp f s) := by
  unfold Machine.execStsp
  exact h.memT

theorem State.Orderly.execClnv {f : MForm} (h : s.Orderly) : Leads (execClnv f s) := by
  unfold Machine.execClnv
  exact h.memT

theorem State.Orderly.execXred {f : XForm} (h : s.Orderly) : Leads (execXred f s) := by
  unfold Machine.execXred
  exact h.segX

theorem State.Orderly.execXscan {f : XForm} (h : s.Orderly) : Leads (execXscan f s) := by
  unfold Machine.execXscan
  exact h.segX

theorem State.Orderly.execBra {f : BForm} (h : s.Orderly) : Leads (execBra f s) := by
  unfold Machine.execBra
  exact h.branch

theorem State.Orderly.execBrac {f : BForm} (h : s.Orderly) : Leads (execBrac f s) := by
  unfold Machine.execBrac
  exact h.branch

theorem State.Orderly.execBrav {f : BForm} (h : s.Orderly) : Leads (execBrav f s) := by
  unfold Machine.execBrav
  exact h.branch

theorem State.Orderly.execCall {f : BForm} (h : s.Orderly) : Leads (execCall f s) := by
  unfold Machine.execCall
  exact h.branch

theorem State.Orderly.execCallReg {f : BForm} (h : s.Orderly) : Leads (execCallReg f s) := by
  unfold Machine.execCallReg
  exact h.branch

theorem State.Orderly.execRet {f : BForm} (h : s.Orderly) : Leads (execRet f s) := by
  unfold Machine.execRet
  exact h.branch

theorem State.Orderly.execScmp {f : VForm} (h : s.Orderly) : Leads (execScmp f s) := h.issue fun _ _ _ => h.emit

/-! ### The dispatch -/

/-- Every instruction and every step of the machine keeps the order: each by the rule of the function that gives its meaning. -/
theorem State.Orderly.exec {i : Instr} (h : s.Orderly) : Leads (exec i s) := by
  cases i with
  | smov f => exact h.scalarV
  | sadd f => exact h.scalarV
  | ssub f => exact h.scalarV
  | smul f => exact h.scalarV
  | smulh f => exact h.scalarV
  | sdiv f => exact h.scalarV
  | srem f => exact h.scalarV
  | sand f => exact h.scalarV
  | sor f => exact h.scalarV
  | sxor f => exact h.scalarV
  | snot f => exact h.scalarV
  | sshl f => exact h.scalarV
  | sshr f => exact h.scalarV
  | ssar f => exact h.scalarV
  | srot f => exact h.scalarV
  | scmp f => exact h.execScmp
  | ssel f => exact h.scalarV
  | smin f => exact h.scalarV
  | smax f => exact h.scalarV
  | sclz f => exact h.scalarV
  | spop f => exact h.scalarV
  | slea f => exact h.scalarV
  | smovi f => exact h.scalarI
  | saddImm f => exact h.scalarI
  | ssubImm f => exact h.scalarI
  | smulImm f => exact h.scalarI
  | sandImm f => exact h.scalarI
  | sorImm f => exact h.scalarI
  | sxorImm f => exact h.scalarI
  | sshlImm f => exact h.scalarI
  | sshrImm f => exact h.scalarI
  | ssarImm f => exact h.scalarI
  | srotImm f => exact h.scalarI
  | sminImm f => exact h.scalarI
  | smaxImm f => exact h.scalarI
  | sleaImm f => exact h.scalarI
  | vmov f => exact h.vectorV
  | vadd f => exact h.vectorV
  | vsub f => exact h.vectorV
  | vmul f => exact h.vectorV
  | vmulh f => exact h.vectorV
  | vmad f => exact h.vectorV
  | vdiv f => exact h.vectorV
  | vrem f => exact h.vectorV
  | vand f => exact h.vectorV
  | vor f => exact h.vectorV
  | vxor f => exact h.vectorV
  | vnot f => exact h.vectorV
  | vshl f => exact h.vectorV
  | vshr f => exact h.vectorV
  | vsar f => exact h.vectorV
  | vrot f => exact h.vectorV
  | vcmp f => exact h.maskV
  | vsel f => exact h.vectorV
  | vmin f => exact h.vectorV
  | vmax f => exact h.vectorV
  | vabs f => exact h.vectorV
  | vneg f => exact h.vectorV
  | vclz f => exact h.vectorV
  | vpop f => exact h.vectorV
  | vbrev f => exact h.vectorV
  | vbfe f => exact h.vectorV
  | vbfi f => exact h.vectorV
  | vlea f => exact h.vectorV
  | vidx f => exact h.vectorV
  | vsplat f => exact h.vectorV
  | vext f => exact h.scalarV
  | vcvti f => exact h.vectorV
  | spk24 f => exact h.execSpk24
  | vmovi f => exact h.vectorI
  | vaddImm f => exact h.vectorI
  | vsubImm f => exact h.vectorI
  | vmulImm f => exact h.vectorI
  | vandImm f => exact h.vectorI
  | vorImm f => exact h.vectorI
  | vxorImm f => exact h.vectorI
  | vshlImm f => exact h.vectorI
  | vshrImm f => exact h.vectorI
  | vsarImm f => exact h.vectorI
  | vrotImm f => exact h.vectorI
  | vminImm f => exact h.vectorI
  | vmaxImm f => exact h.vectorI
  | vleaImm f => exact h.vectorI
  | fadd f => exact h.vectorV
  | fsub f => exact h.vectorV
  | fmul f => exact h.vectorV
  | ffma f => exact h.vectorV
  | fmin f => exact h.vectorV
  | fmax f => exact h.vectorV
  | fmaxi f => exact h.fmaxi
  | fmini f => exact h.fmaxi
  | fabs f => exact h.vectorV
  | fneg f => exact h.vectorV
  | fcmp f => exact h.maskV
  | fclass f => exact h.vectorV
  | fdiv f => exact h.vectorV
  | fsqrt f => exact h.vectorV
  | frnd f => exact h.vectorV
  | fscl f => exact h.vectorV
  | fdot2 f => exact h.vectorV
  | fcvt f => exact h.vectorV
  | fcvti f => exact h.vectorV
  | icvtf f => exact h.vectorV
  | faddImm f => exact h.vectorI
  | fsubImm f => exact h.vectorI
  | fmulImm f => exact h.vectorI
  | fminImm f => exact h.vectorI
  | fmaxImm f => exact h.vectorI
  | qsin f => exact h.special
  | qcos f => exact h.special
  | qsc f => exact h.special
  | qsinp f => exact h.special
  | qcosp f => exact h.special
  | qscp f => exact h.special
  | qex2 f => exact h.special
  | qlg2 f => exact h.special
  | qtnh f => exact h.special
  | qrcp f => exact h.special
  | qrsq f => exact h.special
  | ncvt f => exact h.vectorV
  | rnenc f => exact h.vectorV
  | rndec f => exact h.vectorV
  | rnadd f => exact h.vectorV
  | rnmul f => exact h.vectorV
  | rng f => exact h.execRng
  | ld f => exact h.execLd
  | st f => exact h.execSt
  | lds f => exact h.spadT
  | sts f => exact h.spadT
  | ldc f => exact h.execLdc
  | ldsp f => exact h.execLdsp
  | stsp f => exact h.execStsp
  | pref f => exact h.execPref
  | clnv f => exact h.execClnv
  | atomAdd f => exact h.atomT
  | atomSub f => exact h.atomT
  | atomMin f => exact h.atomT
  | atomMax f => exact h.atomT
  | atomAnd f => exact h.atomT
  | atomOr f => exact h.atomT
  | atomXor f => exact h.atomT
  | atomXchg f => exact h.atomT
  | atomCas f => exact h.atomT
  | atomFadd f => exact h.atomT
  | atomMaxi f => exact h.atomT
  | atomMini f => exact h.atomT
  | atomrAdd f => exact h.execAtomrAdd
  | atomfAdd f => exact h.atomF
  | atomfSub f => exact h.atomF
  | atomfMin f => exact h.atomF
  | atomfMax f => exact h.atomF
  | atomfAnd f => exact h.atomF
  | atomfOr f => exact h.atomF
  | atomfXor f => exact h.atomF
  | atomfXchg f => exact h.atomF
  | atomfCas f => exact h.atomF
  | atomfFadd f => exact h.atomF
  | atomfMaxi f => exact h.atomF
  | atomfMini f => exact h.atomF
  | fence f => exact h.fence
  | fences f => exact h.execFences
  | fencex f => exact h.fence
  | xlane f => exact h.execXlane
  | xshuf f => exact h.execXshuf
  | xred f => exact h.execXred
  | xscan f => exact h.execXscan
  | xcol f => exact h.execXcol
  | xvote f => exact h.execXvote
  | gen f => exact h.execGen
  | yield f => exact h.execYield
  | gdone f => exact h.execGdone
  | gcon f => exact h.execGcon
  | gfr f => exact h.execGfr
  | gfrInfo f => exact h.execGfrInfo
  | gbar f => exact h.execGbar
  | gpost f => exact h.gpost
  | gpostWd f => exact h.gpost
  | gqry f => exact h.execGqry
  | ldgAdd f => exact h.ldg
  | ldgMin f => exact h.ldg
  | ldgMax f => exact h.ldg
  | ldgAnd f => exact h.ldg
  | ldgOr f => exact h.ldg
  | ldgXor f => exact h.ldg
  | ldgFadd f => exact h.ldg
  | ldgFmin f => exact h.ldg
  | ldgFmax f => exact h.ldg
  | ldgMaxi f => exact h.ldg
  | ldgMini f => exact h.ldg
  | bra f => exact h.execBra
  | brac f => exact h.execBrac
  | brav f => exact h.execBrav
  | call f => exact h.execCall
  | callReg f => exact h.execCallReg
  | ret f => exact h.execRet
  | exit f => exact h.execExit
  | forkCopy f => exact h.fork
  | forkMatrix f => exact h.fork
  | forkReg f => exact h.fork
  | waitk f => exact h.execWaitk
  | setk f => exact h.execSetk
  | clrk f => exact h.execClrk
  | iter f => exact h.execIter
  | rdv f => exact h.execRdv
  | lnch f => exact h.execLnch
  | cntw f => exact h.execCntw
  | cntwQuery f => exact h.execCntwQuery
  | cancel f => exact h.execCancel
  | cpy f => exact h.copyData
  | cpym f => exact h.copyData
  | cpyf f => exact h.copyData
  | cpyg f => exact h.copyData
  | cpys f => exact h.copyData
  | csig f => exact h.execCsig
  | cwait f => exact h.execCwait
  | cfence f => exact h.execCfence
  | cmx f => exact h.execCmx
  | mldn f => exact h.matrixCmd
  | mldw f => exact h.matrixCmd
  | mma f => exact h.matrixCmd
  | mmas f => exact h.matrixCmd
  | mclr f => exact h.matrixCmd
  | mdrn f => exact h.matrixCmd
  | msig f => exact h.execMsig
  | trap f => exact h.execTrap
  | csrr f => exact h.execCsrr
  | csrw f => exact h.execCsrw
  | csrwFstat f => exact h.execCsrwFstat
  | csrwFctl f => exact h.execCsrwFctl
  | csrwElogInfo f => exact h.execCsrwElogInfo
  | csrwTrapCause f => exact h.execCsrwTrapCause
  | qfeat f => exact h.execQfeat
  | qphys f => exact h.execQphys
  | mapft f => exact h.catIssue
  | catld f => exact h.catIssue
  | catsetAccess f => exact h.catIssue
  | catsetBound f => exact h.catIssue
  | catsetHwm f => exact h.execCatsetHwm
  | catsetPg f => exact h.catIssue
  | catsnap f => exact h.catIssue
  | catsnapRel f => exact h.catIssue
  | ctxsv f => exact h.ctxImage
  | ctxld f => exact h.ctxImage
  | wfi f => exact h.execWfi
  | gsw => exact h.execGsw
  | kill => exact h.execKill
  | bar => exact h.execBar
  | nop => exact h.nopOf
  | nopSet0 => exact h.nopOf
  | nopSet1 => exact h.nopOf
  | yld => exact h.execYld
  | cend => exact h.execCend
  | mend => exact h.execMend
  | rte => exact h.execRte
  | sfdrn => exact h.execSfdrn
  | clauseStart => exact h.execClauseStart
  | writePerformed => exact h.execWritePerformed
  | sfQueueWrite => exact h.execSfQueueWrite
  | stallThreshold => exact h.execStallThreshold
  | teamExchange => exact h.execTeamExchange
  | timeSliceExpiry => exact h.execTimeSliceExpiry
  | teamRetire => exact h.execTeamRetire
  | workgroupRetire => exact h.execWorkgroupRetire
  | counterDecrement => exact h.execCounterDecrement
  | unitBegin => exact h.execUnitBegin
  | recordLaunch => exact h.execRecordLaunch
  | recordNewGraph => exact h.execRecordNewGraph
  | recordNewPhase => exact h.execRecordNewPhase
  | recordQuery => exact h.execRecordQuery
  | cancelRequest => exact h.execCancelRequest
  | cnclDelivery => exact h.execCnclDelivery
  | curatorBind => exact h.execCuratorBind
  | dispatch => exact h.execDispatch
  | preempt => exact h.execPreempt
  | trapEntry => exact h.execTrapEntry
  | contextSave => exact h.execContextSave
  | restore => exact h.execRestore
  | barOpen => exact h.execBarOpen
  | gpostTakesEffect => exact h.execGpostTakesEffect
  | gbarComplete => exact h.execGbarComplete
  | xcolComplete => exact h.execXcolComplete
  | waitkComplete => exact h.execWaitkComplete
  | wfiWake => exact h.execWfiWake
  | rdvComplete => exact h.execRdvComplete
  | pendingForkStart => exact h.execPendingForkStart
  | iterAnswer => exact h.execIterAnswer
  | streamEnd => exact h.execStreamEnd
  | fifoBytesLand => exact h.execFifoBytesLand
  | followOnTrigger => exact h.execFollowOnTrigger
  | followOnExecute => exact h.execFollowOnExecute
  | cpymRequestArrival => exact h.execCpymRequestArrival
  | cpymSectorRead => exact h.execCpymSectorRead
  | mmIssue => exact h.execMmIssue
  | mmPerform => exact h.execMmPerform
  | mmExport => exact h.execMmExport
  | mmTransfer => exact h.execMmTransfer
  | mmApply => exact h.execMmApply
  | fenceComplete => exact h.execFenceComplete
  | speculationConflict => exact h.execSpeculationConflict
  | registrarRelease => exact h.execRegistrarRelease
  | loanLend => exact h.execLoanLend
  | loanReclaimComplete => exact h.execLoanReclaimComplete
  | farFirstTouchMap => exact h.execFarFirstTouchMap
  | copyOnWrite => exact h.execCopyOnWrite
  | pageMigration => exact h.execPageMigration
  | pageDuplication => exact h.execPageDuplication
  | liveMigration => exact h.execLiveMigration
  | poolRefill => exact h.execPoolRefill
  | readPacket => exact h.execReadPacket
  | writePacket => exact h.execWritePacket
  | atomicPacket => exact h.execAtomicPacket
  | scrubGranule => exact h.execScrubGranule
  | errorRecordMergeFlush => exact h.execErrorRecordMergeFlush
  | registerUncorrectable => exact h.execRegisterUncorrectable
  | dramDieRemoval => exact h.execDramDieRemoval
  | coreFailure => exact h.execCoreFailure
  | dmaWrite => exact h.execDmaWrite
  | dmaRead => exact h.execDmaRead
  | cxlPoisonReport => exact h.execCxlPoisonReport
  | cxlHotRemove => exact h.execCxlHotRemove
  | scaleoutFrameReceive => exact h.execScaleoutFrameReceive
  | portFailure => exact h.execPortFailure
  | deliveryTimeout => exact h.execDeliveryTimeout
  | startJob => exact h.execStartJob
  | mbCancel => exact h.execMbCancel
  | mbStatus => exact h.execMbStatus
  | createObject => exact h.execCreateObject
  | deleteObject => exact h.execDeleteObject
  | mailboxOverrun => exact h.execMailboxOverrun
  | setPartitions => exact h.execSetPartitions
  | setInstallationEntry => exact h.execSetInstallationEntry
  | createContext => exact h.execCreateContext
  | destroyContext => exact h.execDestroyContext
  | attest => exact h.execAttest
  | stageFirmware => exact h.execStageFirmware
  | setPowerLimit => exact h.execSetPowerLimit
  | hostRegisterWrite => exact h.execHostRegisterWrite
  | powerGood => exact h.execPowerGood
  | stage0Complete => exact h.execStage0Complete
  | stage1Complete => exact h.execStage1Complete
  | criticalTemperature => exact h.execCriticalTemperature
  | deviceReset => exact h.execDeviceReset
  | matrixCommandComplete => exact h.execMatrixCommandComplete
  | powerOrThermalLimiting => exact h.execPowerOrThermalLimiting

theorem State.Orderly.step (h : s.Orderly) : Leads (step s) := by
  have h1 : s.tidy.tickOver.Orderly := h.tidy.tickOver
  unfold Machine.step
  dsimp only
  split
  · exact .ite (State.Orderly.exec h1.same) fun _ e => nomatch e
  · split
    · exact h1.next
    · exact (h1.fetchFor ‹_›).next
    · split
      · exact State.Orderly.exec h1.same
      · exact h1.badWord.next

end

/-- Settles O58: what each instruction and each step of the machine does keeps the numbers apart and the registers in their form. -/
theorem stateStaysOrderly : Obligations.StateStaysOrderly := by
  unfold Obligations.StateStaysOrderly
  intro s s' h e
  exact h.step s' e

end Sys2Proof.Machine
end

end

section
-- These proofs too are elaborated one after another, within the memory in which this text is checked.
set_option Elab.async false

section
/-!
PROOF. The family of the document on integer instructions, first part: what the operations on patterns compute. A write at a type depends on the w low
bits of a word alone, so that an operation is described by an integer that its result is congruent to modulo 2^w (`Stands`); `Computes1` and `Computes2`
say so at every integer type, for the scalar and the vector forms and the twins alike.
-/

namespace Sys2Proof.Integer

open Sys2Proof.Machine

/-! ### Patterns modulo 2^w -/

/-- No type is wider than a word. -/
theorem width_le (ty : Ty) : ty.width ≤ 64 := by
  cases ty <;> decide

/-- Every type has a bit. -/
theorem width_pos (ty : Ty) : 0 < ty.width := by
  cases ty <;> decide

/-- The w low bits of a word are those of y: all that a write at the type depends on (R73, R74). -/
def Stands (ty : Ty) (x : Word) (y : Int) : Prop := (x.toNat : Int) ≡ y [ZMOD 2 ^ ty.width]

/-- An operation of one source gives, at every integer type, a function of the source's pattern. -/
def Computes1 (op : Ty → Word → Word) (y : Ty → Nat → Int) : Prop :=
  ∀ ty a, ty.isInt = true → a.toNat < 2 ^ ty.width → Stands ty (op ty a) (y ty a.toNat)

/-- The same of two sources. -/
def Computes2 (op : Ty → Word → Word → Word) (y : Ty → Nat → Nat → Int) : Prop :=
  ∀ ty a b, ty.isInt = true → a.toNat < 2 ^ ty.width → b.toNat < 2 ^ ty.width → Stands ty (op ty a b) (y ty a.toNat b.toNat)

variable {ty : Ty} {a b x : Word} {p q n : Nat}

/-- Reducing a number to a word keeps its w low bits. -/
theorem mod_word_modEq (ty : Ty) (k : Nat) : ((k % 2 ^ 64 : Nat) : Int) ≡ k [ZMOD 2 ^ ty.width] := by
  rw [Int.natCast_mod]
  exact (Int.mod_modEq _ _).of_dvd (by exact_mod_cast pow_dvd_pow 2 (width_le ty))

/-- How a word comes to stand for a number: it is that number, or is it but for a reduction to 64 or to w bits. -/
theorem stands_of_toNat_eq {k : Nat} (h : x.toNat = k) : Stands ty x k := h ▸ Int.ModEq.refl _

theorem stands_of_toNat_mod {k : Nat} (h : x.toNat = k % 2 ^ 64) : Stands ty x k := by
  unfold Stands
  rw [h]
  exact mod_word_modEq ty k

theorem stands_of_mod_eq {k : Nat} (h : x.toNat % 2 ^ ty.width = k) : Stands ty x k := by
  unfold Stands
  rw [← h, Int.natCast_mod]
  push_cast
  exact (Int.mod_modEq _ _).symm

theorem stands_ofNat (ty : Ty) (k : Nat) : Stands ty (BitVec.ofNat 64 k) k := stands_of_toNat_mod (BitVec.toNat_ofNat ..)

theorem stands_ofInt (ty : Ty) (y : Int) : Stands ty (ofInt y) y := ofInt_emod ty y

theorem stands_readAs (ty : Ty) (x : Word) : Stands ty x (readAs ty x.toNat) := (readAs_emod ty x.toNat).symm

theorem stands_finish (hi : ty.isInt = true) (sat : Bool) (y : Int) : Stands ty (finish ty sat y) (satIf sat ty y) := finish_emod hi sat y

/-- A pattern's integer. -/
theorem intVal_of_lt (h : x.toNat < 2 ^ ty.width) : intVal ty x = readAs ty x.toNat := by
  rw [intVal_eq, Nat.mod_eq_of_lt h]

/-- 2^w is twice the weight of bit w − 1. -/
theorem two_pow_width (ty : Ty) : 2 ^ ty.width = 2 * 2 ^ (ty.width - 1) := by
  rw [← pow_succ', Nat.sub_add_cancel (width_pos ty)]

/-! ### Arithmetic, logic, minima and maxima (R139) -/

theorem computes_mov : Computes1 (fun _ a => a) readAs := fun ty a _ _ => stands_readAs ty a

theorem computes_arith (g : Int → Int → Int) (sat : Bool) :
    Computes2 (opArith g sat) fun ty p q => satIf sat ty (g (readAs ty p) (readAs ty q)) := by
  intro ty a b hi ha hb
  rw [opArith, intVal_of_lt ha, intVal_of_lt hb]
  exact stands_finish hi sat _

theorem computes_mulh : Computes2 opMulh fun ty p q => readAs ty p * readAs ty q / 2 ^ ty.width := by
  intro ty a b _ ha hb
  rw [opMulh, intVal_of_lt ha, intVal_of_lt hb]
  exact_mod_cast stands_ofInt ty _

theorem computes_and : Computes2 (fun _ a b => a &&& b) fun _ p q => (p &&& q : Nat) :=
  fun _ _ _ _ _ _ => stands_of_toNat_eq (BitVec.toNat_and ..)

theorem computes_or : Computes2 (fun _ a b => a ||| b) fun _ p q => (p ||| q : Nat) :=
  fun _ _ _ _ _ _ => stands_of_toNat_eq (BitVec.toNat_or ..)

theorem computes_xor : Computes2 (fun _ a b => a ^^^ b) fun _ p q => (p ^^^ q : Nat) :=
  fun _ _ _ _ _ _ => stands_of_toNat_eq (BitVec.toNat_xor ..)

/-- The complement of a word is that of its w low bits, modulo 2^w. -/
theorem computes_not : Computes1 (fun _ a => ~~~a) fun ty p => (2 ^ ty.width - 1 : Int) - p := by
  intro ty a _ _
  have hword : ((~~~a).toNat : Int) = 2 ^ 64 - 1 - a.toNat := by
    rw [BitVec.toNat_not]; omega
  have hdvd : (2 : Int) ^ ty.width ∣ 2 ^ 64 := pow_dvd_pow 2 (width_le ty)
  have hzero : (2 : Int) ^ 64 ≡ 2 ^ ty.width [ZMOD 2 ^ ty.width] := by
    rw [Int.ModEq, Int.emod_eq_zero_of_dvd hdvd, Int.emod_self]
  unfold Stands
  rw [hword]
  exact (hzero.sub_right 1).sub_right _

theorem computes_min : Computes2 opMin fun ty p q => min (readAs ty p) (readAs ty q) := by
  intro ty a b _ ha hb
  rw [opMin, intVal_of_lt ha, intVal_of_lt hb]
  dsimp only
  split
  next h => rw [min_eq_left h]; exact stands_readAs ty a
  next h => rw [min_eq_right (le_of_not_ge h)]; exact stands_readAs ty b

theorem computes_max : Computes2 opMax fun ty p q => max (readAs ty p) (readAs ty q) := by
  intro ty a b _ ha hb
  rw [opMax, intVal_of_lt ha, intVal_of_lt hb]
  dsimp only
  split
  next h => rw [max_eq_left h]; exact stands_readAs ty a
  next h => rw [max_eq_right (le_of_not_ge h)]; exact stands_readAs ty b

theorem computes_abs (sat : Bool) :
    Computes1 (fun ty a => finish ty sat (intVal ty a).natAbs) fun ty p => satIf sat ty |readAs ty p| := by
  intro ty a hi ha
  dsimp only
  rw [intVal_of_lt ha, Int.natCast_natAbs]
  exact stands_finish hi sat _

theorem computes_neg (sat : Bool) : Computes1 (fun ty a => finish ty sat (-(intVal ty a))) fun ty p => satIf sat ty (-(readAs ty p)) := by
  intro ty a hi ha
  dsimp only
  rw [intVal_of_lt ha]
  exact stands_finish hi sat _

/-! ### Division (R140) -/

/-- The limits of a type, as the model names them. -/
theorem limits_eq (ty : Ty) : limits ty = (Fields.minInt ty, Fields.maxInt ty) := by
  cases hs : ty.isSigned <;> simp [limits, Fields.minInt, Fields.maxInt, hs]

/-- A pattern's integer lies within the limits of its type. -/
theorem readAs_mem_limits (h : p < 2 ^ ty.width) : (limits ty).1 ≤ readAs ty p ∧ readAs ty p ≤ (limits ty).2 := by
  have hp : (p : Int) < 2 ^ ty.width := by exact_mod_cast h
  have hw : (2 : Int) ^ ty.width = 2 * 2 ^ (ty.width - 1) := by exact_mod_cast two_pow_width ty
  have hcast : 2 ^ (ty.width - 1) ≤ p ↔ (2 : Int) ^ (ty.width - 1) ≤ p := by exact_mod_cast Iff.rfl
  cases hs : ty.isSigned
  · simp only [limits, readAs, hs, Bool.false_eq_true, false_and, if_false]
    omega
  · simp only [limits, readAs, hs, true_and, if_true, hcast]
    split <;> omega

/-- Within the limits, .sat changes nothing. -/
theorem satIf_of_mem {y : Int} (sat : Bool) (h : (limits ty).1 ≤ y ∧ y ≤ (limits ty).2) : satIf sat ty y = y := by
  unfold satIf
  split
  · rw [if_neg (not_lt.2 h.1), if_neg (not_lt.2 h.2)]
  · rfl

/-- A quotient lies within the limits, but for that of the least value by −1. -/
theorem tdiv_mem_limits {m n : Int} (hm : (limits ty).1 ≤ m ∧ m ≤ (limits ty).2) (hn : (limits ty).1 ≤ n ∧ n ≤ (limits ty).2)
    (h0 : n ≠ 0) (hne : ¬(ty.isSigned = true ∧ m = (limits ty).1 ∧ n = -1)) :
    (limits ty).1 ≤ m.tdiv n ∧ m.tdiv n ≤ (limits ty).2 := by
  have habs : (m.tdiv n).natAbs = m.natAbs / n.natAbs := Int.natAbs_tdiv ..
  have hpow : (0 : Int) < 2 ^ (ty.width - 1) := by positivity
  cases hs : ty.isSigned
  · simp only [limits, hs, Bool.false_eq_true, if_false] at *
    have hle : m.natAbs / n.natAbs ≤ m.natAbs := Nat.div_le_self ..
    have hpos : 0 ≤ m.tdiv n := Int.tdiv_nonneg hm.1 hn.1
    omega
  · have hmin : n = -1 → m ≠ (limits ty).1 := fun hn h => hne ⟨hs, h, hn⟩
    simp only [limits, hs, if_true] at hm hn hmin ⊢
    by_cases h1 : n = 1
    · rw [h1, Int.tdiv_one]; exact hm
    by_cases h2 : n = -1
    · have := hmin h2
      rw [h2, Int.tdiv_neg, Int.tdiv_one]
      omega
    have hle : m.natAbs / n.natAbs ≤ m.natAbs / 2 := Nat.div_le_div_left (by omega) (by decide)
    omega

/-- The quotient of the least value by −1 exceeds the greatest by one: .sat gives the greatest, and the pattern is the least value's. -/
theorem satIf_min_tdiv (hs : ty.isSigned = true) (sat : Bool) :
    satIf sat ty ((limits ty).1.tdiv (-1)) ≡ if sat then (limits ty).2 else (limits ty).1 [ZMOD 2 ^ ty.width] := by
  have hw : (2 : Int) ^ ty.width = 2 * 2 ^ (ty.width - 1) := by exact_mod_cast two_pow_width ty
  have hpow : (0 : Int) < 2 ^ (ty.width - 1) := by positivity
  rw [Int.tdiv_neg, Int.tdiv_one]
  simp only [satIf, limits, hs, if_true, neg_neg]
  cases sat
  · refine (Int.modEq_iff_dvd.2 ⟨-1, ?_⟩)
    simp only [Bool.false_eq_true, if_false]
    omega
  · rw [if_pos rfl, if_neg (by omega), if_pos (by omega), if_pos rfl]

theorem computes_div (sat : Bool) : Computes2 (opDiv sat) fun ty p q => divTable ty sat (readAs ty p) (readAs ty q) := by
  intro ty a b hi ha hb
  unfold opDiv divTable
  rw [intVal_of_lt ha, intVal_of_lt hb]
  dsimp only
  by_cases h0 : readAs ty b.toNat = 0
  · rw [if_pos h0, if_pos h0, limits_eq]
    cases hs : ty.isSigned
    · have hmax : Fields.maxInt ty = 2 ^ ty.width - 1 := by simp [Fields.maxInt, hs]
      simpa [hmax] using stands_ofInt ty (Fields.maxInt ty)
    · cases sat <;> exact stands_ofInt ty _
  · rw [if_neg h0, if_neg h0]
    refine (stands_finish hi sat _).trans ?_
    split
    next h =>
      obtain ⟨hs, hmin, hone⟩ := h
      rw [hmin, hone]
      exact satIf_min_tdiv hs sat
    next h => rw [satIf_of_mem sat (tdiv_mem_limits (readAs_mem_limits ha) (readAs_mem_limits hb) h0 h)]

theorem computes_rem : Computes2 opRem fun ty p q => remTable (readAs ty p) (readAs ty q) := by
  intro ty a b _ ha hb
  unfold opRem remTable
  rw [intVal_of_lt ha, intVal_of_lt hb]
  dsimp only
  rw [← Int.tmod_def]
  split <;> exact stands_ofInt ty _

/-! ### Shifts and rotations (R141) -/

theorem computes_shl : Computes2 opShl fun ty p n => shlOf ty p n := by
  intro ty a b _ _ _
  unfold opShl shlOf
  dsimp only
  by_cases hn : b.toNat < ty.width
  · rw [if_pos hn, if_pos hn]
    exact stands_of_toNat_mod (by rw [BitVec.toNat_shiftLeft, Nat.shiftLeft_eq])
  · rw [if_neg hn, if_neg hn]
    exact stands_ofNat ty 0

theorem computes_shr : Computes2 opShr fun ty p n => shrOf ty p n := by
  intro ty a b _ _ _
  unfold opShr shrOf
  dsimp only
  by_cases hn : b.toNat < ty.width
  · rw [if_pos hn, if_pos hn]
    exact stands_of_toNat_eq (by rw [BitVec.toNat_ushiftRight, Nat.shiftRight_eq_div_pow])
  · rw [if_neg hn, if_neg hn]
    exact stands_ofNat ty 0

/-- Bit w − 1 of a w-bit pattern. -/
theorem testBit_top (h : p < 2 ^ ty.width) : p.testBit (ty.width - 1) = decide (2 ^ (ty.width - 1) ≤ p) := by
  rw [two_pow_width] at h
  by_cases hp : 2 ^ (ty.width - 1) ≤ p
  · rw [Nat.testBit_of_two_pow_le_and_two_pow_add_one_gt hp (by rw [pow_succ']; exact h), decide_eq_true hp]
  · rw [Nat.testBit_lt_two_pow (not_le.1 hp), decide_eq_false hp]

/-- An n-bit pattern read as signed. -/
theorem bmod_pattern (hn : 0 < n) (h : p < 2 ^ n) : Int.bmod (p : Int) (2 ^ n) = if 2 ^ (n - 1) ≤ p then (p : Int) - 2 ^ n else p := by
  have hw : 2 ^ n = 2 * 2 ^ (n - 1) := by rw [← pow_succ', Nat.sub_add_cancel hn]
  have hmod : ((p : Int) % (2 ^ n : Nat)) = p := Int.emod_eq_of_lt (by omega) (by exact_mod_cast h)
  rw [Int.bmod_def, hmod]
  by_cases hp : 2 ^ (n - 1) ≤ p
  · rw [if_neg (by omega), if_pos hp]
    push_cast; rfl
  · rw [if_pos (by omega), if_neg hp]

/-- From the width on, a shift by w − 1 has the value of R141's last column, 0 or −1. -/
theorem computes_sar : Computes2 opSar fun ty p n => sarOf ty p n := by
  intro ty a b _ ha _
  have hw : (2 : Int) ^ ty.width = 2 * 2 ^ (ty.width - 1) := by exact_mod_cast two_pow_width ty
  have hp : (a.toNat : Int) < 2 ^ ty.width := by exact_mod_cast ha
  unfold opSar sarOf
  rw [bmod_pattern (width_pos ty) ha]
  dsimp only
  rw [testBit_top ha]
  simp only [decide_eq_true_eq]
  by_cases hn : b.toNat < ty.width
  · rw [if_pos hn, Nat.min_eq_left (by omega)]
    exact_mod_cast stands_ofInt ty _
  · rw [if_neg hn, Nat.min_eq_right (by omega)]
    convert stands_ofInt ty _ using 1
    have hpos : (0 : Int) < 2 ^ (ty.width - 1) := by positivity
    by_cases htop : 2 ^ (ty.width - 1) ≤ a.toNat
    · have hle : (2 : Int) ^ (ty.width - 1) ≤ a.toNat := by exact_mod_cast htop
      rw [if_pos htop, if_pos htop, eq_comm]
      push_cast
      rw [Int.ediv_eq_iff_of_pos hpos]
      omega
    · rw [if_neg htop, if_neg htop]
      exact (Int.ediv_eq_zero_of_lt (by omega) (by exact_mod_cast not_le.1 htop)).symm

/-- The bits that a rotation brings round lie below those that it moves up, so that their union is the sum. -/
theorem computes_rot : Computes2 opRot fun ty p n => rotOf ty p n := by
  intro ty a b _ ha _
  have hk : b.toNat % ty.width < ty.width := Nat.mod_lt _ (width_pos ty)
  unfold opRot rotOf
  dsimp only
  generalize b.toNat % ty.width = k at hk
  have hpow : 2 ^ ty.width = 2 ^ k * 2 ^ (ty.width - k) := by rw [← pow_add, Nat.add_sub_cancel' hk.le]
  have hlow : a.toNat / 2 ^ (ty.width - k) < 2 ^ k := by
    rw [Nat.div_lt_iff_lt_mul (Nat.two_pow_pos _), ← hpow]
    exact ha
  have hhigh : a.toNat <<< k % 2 ^ 64 % 2 ^ ty.width = 2 ^ k * (a.toNat % 2 ^ (ty.width - k)) := by
    rw [Nat.mod_mod_of_dvd _ (pow_dvd_pow 2 (width_le ty)), Nat.shiftLeft_eq, Nat.mul_comm, hpow, Nat.mul_mod_mul_left]
  have hlow' : a.toNat / 2 ^ (ty.width - k) % 2 ^ ty.width = a.toNat / 2 ^ (ty.width - k) :=
    Nat.mod_eq_of_lt (hlow.trans_le (Nat.pow_le_pow_right (by decide) hk.le))
  refine stands_of_mod_eq ?_
  rw [BitVec.toNat_or, BitVec.toNat_shiftLeft, BitVec.toNat_ushiftRight, Nat.shiftRight_eq_div_pow, Nat.or_mod_two_pow, hhigh, hlow',
    ← Nat.two_pow_add_eq_or_of_lt hlow, ← hhigh, Nat.mod_mod_of_dvd _ (pow_dvd_pow 2 (width_le ty)), Nat.shiftLeft_eq]

/-! ### Counts and bit reversal (R142) -/

/-- The length of a positive number in bits. -/
theorem size_eq_log2_succ (h : p ≠ 0) : p.size = p.log2 + 1 :=
  le_antisymm (Nat.size_le.2 Nat.lt_log2_self) (Nat.lt_size.2 (Nat.log2_self_le h))

theorem computes_clz : Computes1 opClz fun ty p => leadingZeros ty.width p := by
  intro ty a _ ha
  unfold opClz leadingZeros
  convert stands_ofNat ty _ using 1
  dsimp only
  have hsize : a.toNat.size ≤ ty.width := Nat.size_le.2 ha
  by_cases h0 : a = 0
  · simp [h0]
  · have hne : a.toNat ≠ 0 := fun h => h0 (BitVec.eq_of_toNat_eq h)
    rw [size_eq_log2_succ hne] at hsize ⊢
    rw [if_neg h0]
    omega

/-- Counting by a fold. -/
theorem foldl_count (f : Nat → Bool) (l : List Nat) (k : Nat) :
    l.foldl (fun k i => if f i then k + 1 else k) k = k + (l.filter f).length := by
  induction l generalizing k with
  | nil => rfl
  | cons i l ih =>
    rw [List.foldl_cons, ih]
    cases hi : f i
    · simp [hi]
    · simp only [if_true, List.filter_cons_of_pos hi, List.length_cons]
      omega

theorem computes_pop : Computes1 opPop fun ty p => oneBits ty.width p := by
  intro ty a _ _
  have hcount : popCount ty.width a.toNat = ((List.range ty.width).filter a.toNat.testBit).length := by
    rw [popCount, foldl_count, Nat.zero_add]
  rw [opPop, hcount]
  exact stands_ofNat ty _

/-- After the first n bits, the reversal is the sum of the weights of those set, and uses none of the places for the bits to come. -/
theorem brev_lowest {w : Nat} (hw : w ≤ 64) (a : Word) (n : Nat) (hn : n ≤ w) :
    ∃ k, (((List.range n).filter a.toNat.testBit).map fun i => (2 : Int) ^ (w - 1 - i)).sum = (2 ^ (w - n) * k : Nat) ∧
      ((List.range n).foldl (fun r i => if a.getLsbD i then r ||| BitVec.twoPow 64 (w - 1 - i) else r) 0).toNat = 2 ^ (w - n) * k := by
  induction n with
  | zero => exact ⟨0, rfl, rfl⟩
  | succ n ih =>
    obtain ⟨k, hsum, hfold⟩ := ih (by omega)
    have hpow : 2 ^ (w - n) = 2 ^ (w - (n + 1)) * 2 := by rw [← pow_succ]; congr 1; omega
    have hplace : w - 1 - n = w - (n + 1) := by omega
    rw [List.range_succ, List.filter_append, List.map_append, List.sum_append, hsum, List.foldl_append, List.foldl_cons, List.foldl_nil]
    cases hbit : a.toNat.testBit n
    · refine ⟨2 * k, ?_, ?_⟩
      · rw [List.filter_cons_of_neg (by simp [hbit]), List.filter_nil, List.map_nil, List.sum_nil, add_zero, hpow, Nat.mul_assoc]
      · rw [if_neg (by simpa [BitVec.getLsbD] using hbit), hfold, hpow, Nat.mul_assoc]
    · have hlt : 2 ^ (w - (n + 1)) < 2 ^ (w - n) := Nat.pow_lt_pow_right (by decide) (by omega)
      refine ⟨2 * k + 1, ?_, ?_⟩
      · rw [List.filter_cons_of_pos hbit, List.filter_nil, List.map_singleton, List.sum_singleton, hpow, hplace]
        push_cast
        ring
      · rw [if_pos (by simpa [BitVec.getLsbD] using hbit), BitVec.toNat_or, hfold, BitVec.toNat_twoPow, hplace,
          Nat.mod_eq_of_lt (Nat.pow_lt_pow_right (by decide) (by omega)), ← Nat.two_pow_add_eq_or_of_lt hlt, hpow]
        ring

theorem computes_brev : Computes1 opBrev fun ty p => reversed ty.width p := by
  intro ty a _ _
  obtain ⟨k, hsum, hfold⟩ := brev_lowest (width_le ty) a ty.width le_rfl
  unfold opBrev reversed
  dsimp only
  rw [hsum]
  exact stands_of_toNat_eq hfold

/-! ### Bit fields (R143) -/

/-- VBFE's result for the pattern p under a control word. -/
def extracted (ty : Ty) (p : Nat) (ctl : Elem) : Int :=
  let c := fieldCtl ty ctl
  let x := p / 2 ^ c.1 % 2 ^ c.2
  if ty.isSigned ∧ 0 < c.2 ∧ 2 ^ (c.2 - 1) ≤ x then (x : Int) - 2 ^ c.2 else x

/-- VBFI's result for the patterns p and q under a control word. -/
def inserted (ty : Ty) (p q : Nat) (ctl : Elem) : Nat :=
  let c := fieldCtl ty ctl
  p / 2 ^ (c.1 + c.2) * 2 ^ (c.1 + c.2) + q % 2 ^ c.2 * 2 ^ c.1 + p % 2 ^ c.1

/-- The control word as R143 reads it. -/
theorem fieldOf_eq (ty : Ty) (ctl : Elem) : fieldOf ty ctl = fieldCtl ty ctl := by
  simp only [fieldOf, fieldCtl, BitVec.extractLsb'_toNat, Nat.shiftRight_eq_div_pow, pow_zero, Nat.div_one]

/-- A field lies within the width. -/
theorem fieldCtl_le (ty : Ty) (ctl : Elem) : (fieldCtl ty ctl).1 + (fieldCtl ty ctl).2 ≤ ty.width := by
  unfold fieldCtl
  dsimp only
  omega

theorem stands_bfe (ty : Ty) (a : Word) (ctl : Elem) : Stands ty (opBfe ty a ctl) (extracted ty a.toNat ctl) := by
  unfold opBfe extracted
  rw [fieldOf_eq]
  generalize fieldCtl ty ctl = c
  dsimp only
  have hlt : a.toNat / 2 ^ c.1 % 2 ^ c.2 < 2 ^ c.2 := Nat.mod_lt _ (Nat.two_pow_pos _)
  generalize a.toNat / 2 ^ c.1 % 2 ^ c.2 = x at hlt
  by_cases hs : ty.isSigned = true ∧ c.2 ≠ 0
  · rw [if_pos hs, bmod_pattern (Nat.pos_of_ne_zero hs.2) hlt]
    simp only [hs.1, Nat.pos_of_ne_zero hs.2, true_and]
    exact stands_ofInt ty _
  · rw [if_neg hs, if_neg fun h => hs ⟨h.1, h.2.1.ne'⟩]
    exact stands_ofNat ty x

/-- The bits of VBFI's result: those of q within the field, and those of p elsewhere. -/
theorem testBit_field (s n p q i : Nat) :
    (p / 2 ^ (s + n) * 2 ^ (s + n) + q % 2 ^ n * 2 ^ s + p % 2 ^ s).testBit i = if s ≤ i ∧ i < s + n then q.testBit (i - s) else p.testBit i := by
  have hlow : p % 2 ^ s < 2 ^ s := Nat.mod_lt _ (Nat.two_pow_pos _)
  have hfield : q % 2 ^ n + 1 ≤ 2 ^ n := Nat.mod_lt _ (Nat.two_pow_pos _)
  have hlt : 2 ^ s * (q % 2 ^ n) + p % 2 ^ s < 2 ^ (s + n) :=
    calc 2 ^ s * (q % 2 ^ n) + p % 2 ^ s < 2 ^ s * (q % 2 ^ n + 1) := by rw [Nat.mul_succ]; omega
      _ ≤ 2 ^ s * 2 ^ n := Nat.mul_le_mul_left _ hfield
      _ = 2 ^ (s + n) := (pow_add ..).symm
  rw [Nat.add_assoc, Nat.mul_comm _ (2 ^ (s + n)), Nat.mul_comm _ (2 ^ s), Nat.testBit_two_pow_mul_add _ hlt, Nat.testBit_two_pow_mul_add _ hlow,
    Nat.testBit_mod_two_pow, Nat.testBit_mod_two_pow, Nat.testBit_div_two_pow]
  by_cases hs : i < s
  · simp [hs, show i < s + n by omega]
  · by_cases hn : i < s + n
    · simp [hs, hn, show s ≤ i by omega, show i - s < n by omega]
    · simp [hn, show i - (s + n) + (s + n) = i by omega]

/-- The bits of VBFI's mask. -/
theorem getLsbD_fieldMask {s n : Nat} (h : s + n ≤ 64) (i : Nat) :
    (BitVec.ofNat 64 ((2 ^ n - 1) * 2 ^ s)).getLsbD i = decide (s ≤ i ∧ i < s + n) := by
  rw [← BitVec.testBit_toNat, BitVec.toNat_ofNat, Nat.testBit_mod_two_pow, Nat.testBit_mul_two_pow, Nat.testBit_two_pow_sub_one]
  by_cases hs : s ≤ i
  · by_cases hn : i < s + n
    · simp [hs, hn, show i < 64 by omega, show i - s < n by omega]
    · simp [hn, show ¬ i - s < n by omega]
  · simp [hs]

theorem stands_bfi (ty : Ty) (a b : Word) (ctl : Elem) : Stands ty (opBfi ty a b ctl) (inserted ty a.toNat b.toNat ctl) := by
  refine stands_of_toNat_eq (Nat.eq_of_testBit_eq fun i => ?_)
  have hle := (fieldCtl_le ty ctl).trans (width_le ty)
  unfold opBfi inserted
  rw [fieldOf_eq]
  generalize fieldCtl ty ctl = c at hle
  dsimp only
  rw [testBit_field]
  simp only [BitVec.testBit_toNat, BitVec.getLsbD_or, BitVec.getLsbD_and, BitVec.getLsbD_not, BitVec.getLsbD_shiftLeft, getLsbD_fieldMask hle]
  by_cases hi : c.1 ≤ i ∧ i < c.1 + c.2
  · simp [hi, show ¬ i < c.1 by omega, show i < 64 by omega]
  · by_cases h64 : i < 64
    · simp [hi, h64]
    · simp [hi, h64, BitVec.getLsbD_of_ge a i (by omega)]

/-! ### Addresses (R146) -/

/-- The object identifier of an address. -/
theorem toNat_objectId (a : Word) : (a &&& 0xFFFF000000000000).toNat = 2 ^ 48 * (a.toNat / 2 ^ 48) := by
  have hmask : (0xFFFF000000000000 : Word) = BitVec.allOnes 64 <<< 48 := by decide
  refine Nat.eq_of_testBit_eq fun i => ?_
  rw [hmask, BitVec.testBit_toNat, Nat.testBit_two_pow_mul, Nat.testBit_div_two_pow, BitVec.testBit_toNat, BitVec.getLsbD_and,
    BitVec.getLsbD_shiftLeft, BitVec.getLsbD_allOnes]
  by_cases hi : 48 ≤ i
  · by_cases h64 : i < 64
    · simp [hi, h64, show ¬ i < 48 by omega, show i - 48 < 64 by omega]
    · simp [h64, show i - 48 + 48 = i by omega, BitVec.getLsbD_of_ge a i (by omega)]
  · simp [hi, show i < 48 by omega]

/-- The offset of an address. -/
theorem toNat_offset (a : Word) : (a &&& 0x0000FFFFFFFFFFFF).toNat = a.toNat % 2 ^ 48 := toNat_low a (w := 48) (by decide)

/-- For n64 the low part of the sum meets no bit of the object identifier; b counts as signed, which does not show modulo 2^48. -/
theorem computes_lea (sh : Nat) : Computes2 (opLea sh) fun ty p q => leaOf ty sh p q := by
  intro ty a b _ _ _
  have hsum : (a + b <<< sh).toNat = (a.toNat + b.toNat * 2 ^ sh) % 2 ^ 64 := by
    rw [BitVec.toNat_add, BitVec.toNat_shiftLeft, Nat.shiftLeft_eq, Nat.add_mod_mod]
  unfold leaOf
  dsimp only
  by_cases hty : ty = .n64
  · subst hty
    have hsigned : readAs .i64 b.toNat ≡ b.toNat [ZMOD 2 ^ 48] := Int.ModEq.of_dvd (by decide) (readAs_emod .i64 b.toNat)
    have hoff : ((a.toNat + readAs .i64 b.toNat * 2 ^ sh) % 2 ^ 48 : Int) = ((a.toNat + b.toNat * 2 ^ sh) % 2 ^ 48 : Nat) := by
      push_cast
      exact (hsigned.mul_right _).add_left _
    rw [if_pos rfl, hoff]
    refine stands_of_toNat_eq ?_
    have hlt : (a.toNat + b.toNat * 2 ^ sh) % 2 ^ 48 < 2 ^ 48 := Nat.mod_lt _ (by decide)
    unfold opLea
    dsimp only
    rw [BitVec.toNat_or, toNat_objectId, toNat_offset, hsum, Nat.mod_mod_of_dvd _ (by decide : 2 ^ 48 ∣ 2 ^ 64),
      ← Nat.two_pow_add_eq_or_of_lt hlt, Nat.mul_comm (_ / _)]
  · have hop : opLea sh ty a b = a + b <<< sh := by
      unfold opLea
      split
      · exact absurd rfl hty
      · rfl
    rw [if_neg hty, hop]
    exact_mod_cast stands_of_toNat_mod (ty := ty) hsum

end Sys2Proof.Integer
end

section
/-!
PROOF. The family of the document on integer instructions, second part: what R113's checks leave of an instruction's fields, what the frames of R138
write once it is known what their operation computes, and the opcodes of the encoder.
-/

namespace Sys2Proof.Integer

open Sys2Proof.Machine

/-! ### The types and immediates that the checks of R113 leave (R16, R137) -/

section Checks

variable {i : Instr} {f : VForm} {g : IForm} {ty rnd sat sub lea : Bool}

/-- An instruction that may issue has passed the checks on its word. -/
theorem ok_of_ready {s : State} {u : Nat} {t : Team} {se fs : Bool} (h : s.Ready u t i se fs) : i.rule.ok = true := by
  have hadmits := h.admits
  simp only [Team.admits, Bool.and_eq_true] at hadmits
  obtain ⟨⟨⟨-, hok⟩, -⟩, -⟩ := hadmits
  exact hok

theorem ok_of_wellFormed (h : i.wellFormed = true) : i.rule.ok = true := by
  simp only [Instr.wellFormed, Bool.and_eq_true] at h
  obtain ⟨⟨-, hok⟩, -⟩ := h
  exact hok

/-- The type field holds an integer type, frame by frame. -/
theorem isInt_of_s1 (h : (Fields.s1 f).ok = true) : f.ty.isInt = true := by
  simp only [Fields.s1, Bool.and_eq_true] at h
  obtain ⟨⟨⟨⟨hty, -⟩, -⟩, -⟩, -⟩ := h
  exact hty

theorem isInt_of_s2 (h : (Fields.s2 f sat sub).ok = true) : f.ty.isInt = true := by
  simp only [Fields.s2, Bool.and_eq_true] at h
  obtain ⟨⟨⟨⟨⟨hty, -⟩, -⟩, -⟩, -⟩, -⟩ := h
  exact hty

theorem ty_of_v1 (h : (Fields.v1 f ty rnd sat sub).ok = true) : ty = true := by
  simp only [Fields.v1, Bool.and_eq_true] at h
  obtain ⟨⟨⟨⟨hty, -⟩, -⟩, -⟩, -⟩ := h
  exact hty

theorem ty_of_v2 (h : (Fields.v2 f ty rnd sat sub).ok = true) : ty = true := by
  simp only [Fields.v2, Bool.and_eq_true] at h
  obtain ⟨⟨⟨⟨⟨hty, -⟩, -⟩, -⟩, -⟩, -⟩ := h
  exact hty

theorem ty_of_v3 (h : (Fields.v3 f ty rnd sat).ok = true) : ty = true := by
  simp only [Fields.v3, Bool.and_eq_true] at h
  obtain ⟨⟨⟨⟨⟨⟨hty, -⟩, -⟩, -⟩, -⟩, -⟩, -⟩ := h
  exact hty

theorem isInt_of_isSigned {ty : Ty} (h : ty.isSigned = true) : ty.isInt = true := by
  unfold Ty.isSigned at h
  split at h
  any_goals rfl
  cases h

/-- So it is for the instructions with a rule of their own. -/
theorem isInt_of_ownRule (hi : i ∈ [Instr.ssel f, .vsel f, .vbfe f, .vbfi f, .vsplat f, .vext f, .vcvti f]) (h : i.rule.ok = true) :
    f.ty.isInt = true := by
  simp only [List.mem_cons, List.not_mem_nil, or_false] at hi
  rcases hi with rfl | rfl | rfl | rfl | rfl | rfl | rfl
  all_goals
    simp only [Instr.rule, Fields.conv, Bool.and_eq_true] at h
    simp only [h]

theorem isInt_of_vidx (h : (Instr.vidx f).rule.ok = true) : f.ty.isInt = true := by
  simp only [Instr.rule, Bool.and_eq_true, Bool.or_eq_true, beq_iff_eq] at h
  obtain ⟨⟨⟨hty | hty, -⟩, -⟩, -⟩ := h <;> rw [hty] <;> rfl

theorem isInt_of_slea (h : (Instr.slea f).rule.ok = true) : f.ty.isInt = true := by
  simp only [Instr.rule, Bool.and_eq_true] at h
  exact isInt_of_s2 h.1

theorem isInt_of_vlea (h : (Instr.vlea f).rule.ok = true) : f.ty.isInt = true := by
  have hty := ty_of_v2 h
  simp only [Bool.or_eq_true, beq_iff_eq] at hty
  rcases hty with hty | hty <;> rw [hty] <;> rfl

/-- An immediate of an integer type: of any class but that of the float patterns (R16). -/
structure IntImm (g : IForm) : Prop where
  int : g.ty.isInt = true
  cls : g.cls ≠ 2

theorem isFloat_of_isInt {ty : Ty} (h : ty.isInt = true) : ty.isFloat = false := by
  unfold Ty.isInt at h
  split at h
  any_goals rfl
  cases h

theorem intImm_of_immOk (hi : g.ty.isInt = true) (h : Fields.immOk g lea = true) : IntImm g := by
  refine ⟨hi, fun hcls => ?_⟩
  have hfloat : g.ty.isFloat = true := by simpa [Fields.immOk, hcls] using h
  simp [isFloat_of_isInt hi] at hfloat

theorem intImm_of_sImm (h : (Fields.sImm g lea).ok = true) : IntImm g := by
  simp only [Fields.sImm, Bool.and_eq_true] at h
  obtain ⟨⟨⟨⟨hty, -⟩, -⟩, -⟩, himm⟩ := h
  exact intImm_of_immOk hty himm

theorem intImm_of_vImm (h : (Fields.vImm g lea).ok = true) : IntImm g := by
  simp only [Fields.vImm, Bool.and_eq_true] at h
  obtain ⟨⟨⟨⟨hty, -⟩, -⟩, -⟩, himm⟩ := h
  exact intImm_of_immOk hty himm

theorem intImm_of_smovi (h : (Instr.smovi g).rule.ok = true) : IntImm g := by
  simp only [Instr.rule, Bool.and_eq_true] at h
  obtain ⟨⟨⟨hty, -⟩, -⟩, himm⟩ := h
  exact intImm_of_immOk hty himm

theorem intImm_of_vmovi (h : (Instr.vmovi g).rule.ok = true) : IntImm g := by
  simp only [Instr.rule, Bool.and_eq_true] at h
  obtain ⟨⟨⟨hty, -⟩, -⟩, himm⟩ := h
  exact intImm_of_immOk hty himm

end Checks

/-! ### The frames of R138: what an instruction writes, from what its operation computes -/

section Frames

variable {i : Instr} {f : VForm} {g : IForm} {ty : Ty} {op1 : Ty → Word → Word} {y1 : Ty → Nat → Int} {op2 : Ty → Word → Word → Word}
  {y2 : Ty → Nat → Nat → Int}

theorem spat_lt (t : Team) (ty : Ty) (n : Nat) : (t.spat ty n).toNat < 2 ^ ty.width := t.spat_toNat ty n ▸ t.sbits_lt ty n

theorem pat_lt (t : Team) (ty : Ty) (n l : Nat) : (t.pat ty n l).toNat < 2 ^ ty.width := t.pat_toNat ty n l ▸ t.vbits_lt ty n l

theorem immPat_lt (g : IForm) : (immPat g).toNat < 2 ^ g.ty.width := by
  rw [immPat, lowBits, toNat_low _ (width_le g.ty)]
  exact Nat.mod_lt _ (Nat.two_pow_pos _)

/-- A scalar instruction writes what its operation's pattern stands for. -/
theorem scalarResult_of_stands {op : Team → Word} {y : Team → Int} (he : ∀ s, exec i s = scalarV i f op s)
    (hty : i.rule.ok = true → f.ty.isInt = true) (hv : f.ty.isInt = true → ∀ t, Stands f.ty (op t) (y t)) : ScalarResult i f y := by
  intro s u t hr
  have hi := hty (ok_of_ready hr)
  rw [← extend64_eq hi _ _ (hv hi t)]
  exact issues_of_emit hr (he s) rfl

/-- So does a scalar twin. -/
theorem scalarTwin_of_stands {op : Team → Word} {y : Team → Int} (he : ∀ s, exec i s = scalarI i g op s)
    (himm : i.rule.ok = true → IntImm g) (hv : IntImm g → ∀ t, Stands g.ty (op t) (y t)) : ScalarTwin i g y := by
  intro s u t hr
  have hi := himm (ok_of_ready hr)
  rw [← extend64_eq hi.int _ _ (hv hi t)]
  exact issues_of_emit hr (he s) rfl

/-- The lanes' writes, when no lane raises a flag. -/
theorem vecWrites_of_stands (hi : ty.isInt = true) (n : Nat) (ls : List Nat) {op : Nat → Word} {y : Nat → Int}
    (h : ∀ l, Stands ty (op l) (y l)) : vecWrites ty n ls (fun l => (op l, 0)) = (ls.flatMap fun l => vput ty n l (y l), 0) := by
  induction ls with
  | nil => rfl
  | cons l ls ih =>
    unfold vecWrites at ih ⊢
    rw [List.foldr_cons, ih, List.flatMap_cons]
    simp [putPat_eq hi _ _ (h l)]

/-- A vector instruction writes, in each active lane, what its operation's pattern stands for, and raises nothing. -/
theorem vectorResult_of_stands {op : Team → Nat → Word} {y : Team → Nat → Int}
    (he : ∀ s, exec i s = vectorV i f f.ty false (fun t l => (op t l, 0)) s) (hty : i.rule.ok = true → f.ty.isInt = true)
    (hv : f.ty.isInt = true → ∀ t l, Stands f.ty (op t l) (y t l)) : VectorResult i f y := by
  intro s u t hr
  have hi := hty (ok_of_ready hr)
  refine issues_of_emit (raiser := false) hr (he s) ?_
  rw [vecWrites_of_stands hi _ _ (hv hi t)]

/-- So does a vector twin, in every lane of m0. -/
theorem vectorTwin_of_stands {op : Team → Nat → Word} {y : Team → Nat → Int}
    (he : ∀ s, exec i s = vectorI i g false (fun t l => (op t l, 0)) s) (himm : i.rule.ok = true → IntImm g)
    (hv : IntImm g → ∀ t l, Stands g.ty (op t l) (y t l)) : VectorTwin i g y := by
  intro s u t hr
  have hi := himm (ok_of_ready hr)
  refine issues_of_emit (raiser := false) hr (he s) ?_
  rw [vecWrites_of_stands hi.int _ _ (hv hi t)]

/-! ### The same of an operation of one source or of two -/

theorem Computes1.scalar (hc : Computes1 op1 y1) (he : ∀ s, exec i s = scalar1 i f op1 s) (hty : i.rule.ok = true → f.ty.isInt = true) :
    ScalarResult i f fun t => y1 f.ty (t.sbits f.ty f.a.toNat) := by
  refine scalarResult_of_stands he hty fun hi t => ?_
  rw [← Team.spat_toNat]
  exact hc _ _ hi (spat_lt ..)

theorem Computes2.scalar (hc : Computes2 op2 y2) (he : ∀ s, exec i s = scalar2 i f op2 s) (hty : i.rule.ok = true → f.ty.isInt = true) :
    ScalarResult i f fun t => y2 f.ty (t.sbits f.ty f.a.toNat) (t.sbits f.ty f.b.toNat) := by
  refine scalarResult_of_stands he hty fun hi t => ?_
  rw [← Team.spat_toNat, ← Team.spat_toNat]
  exact hc _ _ _ hi (spat_lt ..) (spat_lt ..)

theorem Computes2.scalarTwin (hc : Computes2 op2 y2) (he : ∀ s, exec i s = scalar2I i g op2 s) (himm : i.rule.ok = true → IntImm g) :
    ScalarTwin i g fun t => y2 g.ty (t.sbits g.ty g.a.toNat) (immBits g) := by
  refine scalarTwin_of_stands he himm fun hi t => ?_
  rw [← Team.spat_toNat, ← immPat_toNat hi.int hi.cls]
  exact hc _ _ _ hi.int (spat_lt ..) (immPat_lt g)

theorem Computes1.vector (hc : Computes1 op1 y1) (he : ∀ s, exec i s = vector1 i f op1 s) (hty : i.rule.ok = true → f.ty.isInt = true) :
    VectorResult i f fun t l => y1 f.ty (t.vbits f.ty f.a.toNat l) := by
  refine vectorResult_of_stands he hty fun hi t l => ?_
  rw [← Team.pat_toNat]
  exact hc _ _ hi (pat_lt ..)

theorem Computes2.vector (hc : Computes2 op2 y2) (he : ∀ s, exec i s = vector2 i f op2 s) (hty : i.rule.ok = true → f.ty.isInt = true) :
    VectorResult i f fun t l => y2 f.ty (t.vbits f.ty f.a.toNat l) (t.vbits f.ty f.b.toNat l) := by
  refine vectorResult_of_stands he hty fun hi t l => ?_
  rw [← Team.pat_toNat, ← Team.pat_toNat]
  exact hc _ _ _ hi (pat_lt ..) (pat_lt ..)

theorem Computes2.vectorTwin (hc : Computes2 op2 y2) (he : ∀ s, exec i s = vector2I i g op2 s) (himm : i.rule.ok = true → IntImm g) :
    VectorTwin i g fun t l => y2 g.ty (t.vbits g.ty g.a.toNat l) (immBits g) := by
  refine vectorTwin_of_stands he himm fun hi t l => ?_
  rw [← Team.pat_toNat, ← immPat_toNat hi.int hi.cls]
  exact hc _ _ _ hi.int (pat_lt ..) (immPat_lt g)

end Frames

/-- A scalar's pattern stands for the integer that it is read as. -/
theorem stands_spat (t : Team) (ty : Ty) (n : Nat) : Stands ty (t.spat ty n) (t.sval ty n) := by
  rw [Team.sval, ← Team.spat_toNat]
  exact stands_readAs ty _

theorem stands_pat (t : Team) (ty : Ty) (n l : Nat) : Stands ty (t.pat ty n l) (t.val ty n l) := by
  rw [Team.val, ← Team.pat_toNat]
  exact stands_readAs ty _

/-- An immediate's pattern stands for the integer that it is read as. -/
theorem stands_immPat {g : IForm} (h : IntImm g) : Stands g.ty (immPat g) (readAs g.ty (immBits g)) :=
  immPat_toNat h.int h.cls ▸ stands_readAs g.ty (immPat g)

/-! ### Opcodes (R109) -/

section Opcodes

variable {i : Instr} {f : VForm} {g : IForm} {w : Word}

/-- The opcode of an instruction's word, by the packing that the encoder uses. -/
theorem opcodeOf_of_packV {op : BitVec 10} (h : encode i = some w) (hp : encode i = some (packV op f)) : opcodeOf w = op.toNat := by
  obtain rfl : packV op f = w := Option.some.inj (hp.symm.trans h)
  exact opcodeOf_packV op f

theorem opcodeOf_of_packI {op : BitVec 10} (h : encode i = some w) (hp : encode i = some (packI op g)) : opcodeOf w = op.toNat := by
  obtain rfl : packI op g = w := Option.some.inj (hp.symm.trans h)
  exact opcodeOf_packI op g

/-- An opcode that selects nothing is in no word that decodes. -/
theorem decodeWord_of_unassigned {op : Nat} (hop : opcodeOf w = op) (h : selectOpcode op w = none) : decodeWord w = none := by
  simp [decodeWord, hop, h]

end Opcodes

/-! ### Fields that are zero (R106, R140, R142) -/

theorem sat_of_s2 {f : VForm} {sub : Bool} (h : (Fields.s2 f false sub).ok = true) : f.sat = false := by
  simp only [Fields.s2, Fields.vOk, Bool.and_eq_true, Bool.false_or, Bool.not_eq_true'] at h
  obtain ⟨⟨-, -, hsat⟩, -⟩ := h
  exact hsat

theorem sat_of_v2 {f : VForm} {ty rnd sub : Bool} (h : (Fields.v2 f ty rnd false sub).ok = true) : f.sat = false := by
  simp only [Fields.v2, Fields.vOk, Bool.and_eq_true, Bool.false_or, Bool.not_eq_true'] at h
  obtain ⟨⟨-, -, hsat⟩, -⟩ := h
  exact hsat

theorem b_of_s1 {f : VForm} (h : (Fields.s1 f).ok = true) : f.b = 0 := by
  simp only [Fields.s1, Fields.vOk, Bool.and_eq_true, Bool.false_or, beq_iff_eq] at h
  obtain ⟨⟨-, ⟨⟨⟨⟨hb, -⟩, -⟩, -⟩, -⟩, -⟩, -⟩ := h
  exact hb

theorem b_of_v1 {f : VForm} {ty rnd sat sub : Bool} (h : (Fields.v1 f ty rnd sat sub).ok = true) : f.b = 0 := by
  simp only [Fields.v1, Fields.vOk, Bool.and_eq_true, Bool.false_or, beq_iff_eq] at h
  obtain ⟨⟨-, ⟨⟨⟨⟨hb, -⟩, -⟩, -⟩, -⟩, -⟩, -⟩ := h
  exact hb

end Sys2Proof.Integer
end

section
/-!
PROOF. The family of the document on integer instructions, third part: the forms that no frame of R138 covers. Comparisons write a flag or the bits of a
mask register (R144); the packer writes two elements of each group and their positions (R149).
-/

namespace Sys2Proof.Integer

open Sys2Proof.Machine

/-! ### Comparisons (R144) -/

/-- The six conditions. -/
theorem intCond_iff {c : Nat} (h : c ≤ 5) (x y : Int) : intCond c x y = true ↔ compares c x y := by
  have hc : c = 0 ∨ c = 1 ∨ c = 2 ∨ c = 3 ∨ c = 4 ∨ c = 5 := by omega
  rcases hc with rfl | rfl | rfl | rfl | rfl | rfl <;> simp [intCond, compares]

/-- The lanes of a list. -/
theorem getLsbD_lanesOf {ls : List Nat} {l : Nat} (h : l < 1024) : (lanesOf ls).getLsbD l = decide (l ∈ ls) := by
  induction ls with
  | nil => simp [lanesOf]
  | cons k ls ih =>
    rw [lanesOf, BitVec.getLsbD_or, ih, BitVec.getLsbD_twoPow]
    by_cases hk : k = l
    · simp [hk, h]
    · simp [hk, Ne.symm hk]

/-- An active lane is one of the 1024. -/
theorem lt_of_mem_active {t : Team} {m : BitVec 4} {l : Nat} (h : l ∈ t.active m) : l < 1024 := by
  have hbit : (t.activeSet m).getLsbD l = true := (List.mem_filter.1 h).2
  exact BitVec.lt_of_getLsbD hbit

/-- The bits that a comparison of the lanes writes to a mask register. -/
def maskBits (ls : List Nat) (p : Nat → Bool) : Lanes := lanesOf (ls.filter p)

theorem getLsbD_maskBits {ls : List Nat} {p : Nat → Bool} {l : Nat} (hl : l ∈ ls) (h : l < 1024) : (maskBits ls p).getLsbD l = p l := by
  rw [maskBits, getLsbD_lanesOf h]
  simp [hl]

/-- An instruction that writes a bit of each active lane to a mask register and raises nothing. -/
theorem issues_of_maskV {i : Instr} {f : VForm} {p : Team → Nat → Bool} (he : ∀ s, exec i s = maskV i f false (fun t l => (p t l, 0)) s)
    {s : State} {u : Nat} {t : Team} (hr : s.Ready u t i f.se f.fs) :
    Issues s u t i f.se f.fs [.m f.d.toNat] [.m f.d.toNat (t.activeSet f.m) (maskBits (t.active f.m) (p t))] 0 := by
  have hvals : ((((t.active f.m).map fun l => (l, p t l, (0 : Sticky))).filter fun r => r.2.1).map (·.1)) = (t.active f.m).filter (p t) := by
    rw [List.filter_map, List.map_map]
    exact List.map_id _
  have hflags : ((t.active f.m).map fun l => (l, p t l, (0 : Sticky))).foldl (fun a r => a ||| r.2.2) 0 = 0 := by
    simp [List.foldl_map]
  refine issues_of_emit (raiser := false) hr (he s) ?_
  dsimp only
  rw [hvals, hflags, maskBits]

theorem sub_of_scmp {f : VForm} (h : (Instr.scmp f).rule.ok = true) : f.sub.toNat ≤ 5 := by
  simp only [Instr.rule, Fields.s2, Bool.and_eq_true, decide_eq_true_eq] at h
  exact h.2

theorem fields_of_vcmp {f : VForm} (h : (Instr.vcmp f).rule.ok = true) : f.sub.toNat ≤ 5 ∧ 1 ≤ f.d.toNat ∧ f.d.toNat ≤ 15 := by
  simp only [Instr.rule, Fields.mdst, Bool.and_eq_true, decide_eq_true_eq] at h
  obtain ⟨⟨⟨⟨⟨-, hpos, hlt⟩, -⟩, -⟩, -⟩, hsub⟩ := h
  exact ⟨hsub, hpos, Nat.le_of_lt_succ hlt⟩

/-- SCMP. -/
theorem issues_scmp {f : VForm} {s : State} {u : Nat} {t : Team} (hr : s.Ready u t (.scmp f) f.se f.fs) :
    Issues s u t (.scmp f) f.se f.fs [.s f.d.toNat]
      [.s f.d.toNat (if compares f.sub.toNat (t.sval f.ty f.a.toNat) (t.sval f.ty f.b.toNat) then 1 else 0)] 0 := by
  have hexec : exec (.scmp f) s = execScmp f s := rfl
  refine issues_of_emit (raiser := false) hr (hexec.trans (by rw [execScmp])) ?_
  simp only [Team.intVal_spat, intCond_iff (sub_of_scmp (ok_of_ready hr))]

/-- VCMP. -/
theorem issues_vcmp {f : VForm} {s : State} {u : Nat} {t : Team} (hr : s.Ready u t (.vcmp f) f.se f.fs) : ∃ bits : Lanes,
    Issues s u t (.vcmp f) f.se f.fs [.m f.d.toNat] [.m f.d.toNat (t.activeSet f.m) bits] 0 ∧
    ∀ l ∈ t.active f.m, bits.getLsbD l = decide (compares f.sub.toNat (t.val f.ty f.a.toNat l) (t.val f.ty f.b.toNat l)) := by
  refine ⟨_, issues_of_maskV (fun _ => rfl) hr, fun l hl => ?_⟩
  obtain ⟨hsub, -⟩ := fields_of_vcmp (ok_of_ready hr)
  rw [getLsbD_maskBits hl (lt_of_mem_active hl), Team.intVal_pat, Team.intVal_pat, Bool.eq_iff_iff, decide_eq_true_iff]
  exact intCond_iff hsub _ _

/-! ### The sparsity packer (R149) -/

/-- `largestAt` gives a position at which none is exceeded, and of those the lowest. -/
theorem largestAt_spec (g : Nat → Nat) : ∀ ps : List Nat, ps ≠ [] → ps.Pairwise (· < ·) →
    largestAt g ps ∈ ps ∧ ∀ j ∈ ps, g j < g (largestAt g ps) ∨ (g j = g (largestAt g ps) ∧ largestAt g ps ≤ j)
  | [], h, _ => absurd rfl h
  | [p], _, _ => by simp [largestAt]
  | p :: q :: r, _, hsort => by
    obtain ⟨hfirst, hrest⟩ := List.pairwise_cons.1 hsort
    obtain ⟨hmem, hmax⟩ := largestAt_spec g (q :: r) (List.cons_ne_nil _ _) hrest
    rw [largestAt]
    · generalize largestAt g (q :: r) = k at hmem hmax
      split
      next hk =>
        refine ⟨List.mem_cons_of_mem _ hmem, fun j hj => ?_⟩
        rcases List.mem_cons.1 hj with rfl | hj
        · exact .inl hk
        · exact hmax j hj
      next hk =>
        refine ⟨List.mem_cons_self, fun j hj => ?_⟩
        rcases List.mem_cons.1 hj with rfl | hj
        · exact .inr ⟨rfl, le_rfl⟩
        · have := hmax j hj
          have := hfirst j hj
          omega
    · exact List.cons_ne_nil _ _

/-- The positions of the two largest of four, as SPK24 chooses them. -/
def keptPositions (g : Nat → Nat) : Nat × Nat :=
  let p := largestAt g [0, 1, 2, 3]
  (p, largestAt g ([0, 1, 2, 3].filter fun j => j != p))

/-- The two maxima of R149. -/
theorem keptPositions_spec (g : Nat → Nat) :
    (keptPositions g).1 < 4 ∧ (keptPositions g).2 < 4 ∧ (keptPositions g).1 ≠ (keptPositions g).2 ∧
      (∀ j < 4, g j < g (keptPositions g).1 ∨ (g j = g (keptPositions g).1 ∧ (keptPositions g).1 ≤ j)) ∧
      ∀ j < 4, j ≠ (keptPositions g).1 → g j < g (keptPositions g).2 ∨ (g j = g (keptPositions g).2 ∧ (keptPositions g).2 ≤ j) := by
  have hmem4 : ∀ j, j ∈ [0, 1, 2, 3] ↔ j < 4 := fun j => by simp; omega
  obtain ⟨hfirst, hmax⟩ := largestAt_spec g [0, 1, 2, 3] (by decide) (by decide)
  unfold keptPositions
  dsimp only
  generalize largestAt g [0, 1, 2, 3] = p at hfirst hmax
  have hother : ∀ j, j ∈ [0, 1, 2, 3].filter (fun j => j != p) ↔ j < 4 ∧ j ≠ p := fun j => by
    rw [List.mem_filter, hmem4, bne_iff_ne]
  have hnonempty : [0, 1, 2, 3].filter (fun j => j != p) ≠ [] := by
    by_cases hp : p = 0
    · exact List.ne_nil_of_mem ((hother 1).2 (by omega))
    · exact List.ne_nil_of_mem ((hother 0).2 (by omega))
  obtain ⟨hsecond, hmax2⟩ := largestAt_spec g _ hnonempty (List.Pairwise.filter _ (by decide))
  generalize largestAt g ([0, 1, 2, 3].filter fun j => j != p) = q at hsecond hmax2
  obtain ⟨hq, hne⟩ := (hother q).1 hsecond
  exact ⟨(hmem4 p).1 hfirst, hq, hne.symm, fun j hj => hmax j ((hmem4 j).2 hj), fun j hj hjp => hmax2 j ((hother j).2 ⟨hj, hjp⟩)⟩

theorem width_of_spk24 {f : VForm} (h : (Instr.spk24 f).rule.ok = true) : f.ty.width = 8 ∨ f.ty.width = 16 := by
  simp only [Instr.rule, Bool.and_eq_true, Bool.or_eq_true, beq_iff_eq] at h
  obtain ⟨⟨⟨((((h | h) | h) | h) | ((h | h) | h)), -⟩, -⟩, -⟩ := h <;> simp [h, Ty.width]

/-- An element's pattern fits its type. -/
theorem packElem_lt {f : VForm} (h : f.ty.width = 8 ∨ f.ty.width = 16) (t : Team) (l j : Nat) : packElem t f l j < 2 ^ f.ty.width := by
  unfold packElem
  rcases h with h | h
  · rw [if_pos h, h]
    exact Nat.mod_lt _ (by decide)
  · rw [if_neg (by omega), h]
    exact Nat.mod_lt _ (by decide)

/-- The size of a two's complement number. -/
theorem natAbs_toInt_ofNat {w e : Nat} (hw : 0 < w) (h : e < 2 ^ w) :
    (BitVec.ofNat w e).toInt.natAbs = if 2 ^ (w - 1) ≤ e then 2 ^ w - e else e := by
  have hdouble : 2 ^ w = 2 * 2 ^ (w - 1) := by rw [← pow_succ', Nat.sub_add_cancel hw]
  rw [BitVec.toInt_eq_toNat_cond, BitVec.toNat_ofNat, Nat.mod_eq_of_lt h]
  split
  · rw [if_neg (by omega)]; omega
  · rw [if_pos (by omega)]; omega

/-- Mag, as the model has it. -/
theorem spkMag_eq {ty : Ty} {e : Nat} (h : e < 2 ^ ty.width) : spkMag ty e = magnitude ty e := by
  cases ty
  case i8 => exact natAbs_toInt_ofNat (by decide) h
  case i16 => exact natAbs_toInt_ofNat (by decide) h
  case rq8 => exact natAbs_toInt_ofNat (by decide) h
  all_goals rfl

/-- What a lane of elements `e` and magnitudes `g` is packed into. -/
def packedLane (d l w : Nat) (e g : Nat → Nat) : List RegWr :=
  let lo := min (keptPositions g).1 (keptPositions g).2
  let hi := max (keptPositions g).1 (keptPositions g).2
  [.v d l (BitVec.allOnes 32) (BitVec.ofNat 32 (e lo + 2 ^ w * e hi)), .v (d + 1) l (BitVec.allOnes 32) (BitVec.ofNat 32 (lo + 4 * hi))]

/-- Element j of a lane, as SPK24 reads it. -/
def laneElem (t : Team) (f : VForm) (l j : Nat) : Nat :=
  if f.ty.width = 8 then (t.elem f.a.toNat l).toNat / 2 ^ (8 * j) % 256
  else if j < 2 then (t.elem f.a.toNat l).toNat / 2 ^ (16 * j) % 65536 else (t.elem f.b.toNat l).toNat / 2 ^ (16 * (j - 2)) % 65536

theorem laneElem_eq (t : Team) (f : VForm) (l j : Nat) : laneElem t f l j = packElem t f l j := by
  unfold laneElem packElem
  rw [apply_ite (· % 2 ^ 16)]
  rfl

/-- SPK24. -/
theorem issues_spk24 {f : VForm} {s : State} {u : Nat} {t : Team} (hr : s.Ready u t (.spk24 f) f.se f.fs) :
    Issues s u t (.spk24 f) f.se f.fs [.v f.d.toNat, .v (f.d.toNat + 1)]
      ((t.active f.m).flatMap fun l =>
        packedLane f.d.toNat l f.ty.width (packElem t f l) fun j => magnitude f.ty (packElem t f l j)) 0 := by
  have hw := width_of_spk24 (ok_of_ready hr)
  have hexec : exec (.spk24 f) s = execSpk24 f s := rfl
  have hlane : ∀ l, packedLane f.d.toNat l f.ty.width (packElem t f l) (fun j => magnitude f.ty (packElem t f l j)) =
      packedLane f.d.toNat l f.ty.width (laneElem t f l) fun j => spkMag f.ty (laneElem t f l j) := fun l => by
    simp only [funext (laneElem_eq t f l), spkMag_eq (packElem_lt hw t l _)]
  simp only [hlane]
  exact issues_of_emit (raiser := false) hr (hexec.trans (by rw [execSpk24])) rfl

end Sys2Proof.Integer
end

section
/-!
PROOF. The family of the document on integer instructions, fourth part: the statements. `Obligations.ArithmeticAndLogic` (O1), `Division` (O2),
`ShiftsAndRotations` (O3), `CountsAndBitFields` (O4), `CompareAndSelect` (O5), `AddressesAndLanes` (O6) and `ConversionAndPacking` (O7) hold.
-/

namespace Sys2Proof.Integer

open Sys2Proof.Machine

/-- Settles O1: each form by what its operation computes and the checks of its frame. -/
theorem arithmeticAndLogic : Obligations.ArithmeticAndLogic := by
  unfold Obligations.ArithmeticAndLogic
  refine ⟨fun f => ⟨?_, ?_, ?_, ?_, ?_, ?_, ?_, ?_, ?_, ?_, ?_⟩, fun g => ⟨?_, ?_, ?_, ?_, ?_, ?_, ?_, ?_, ?_⟩,
    fun f => ⟨?_, ?_, ?_, ?_, ?_, ?_, ?_, ?_, ?_, ?_, ?_, ?_, ?_, ?_⟩, fun g => ⟨?_, ?_, ?_, ?_, ?_, ?_, ?_, ?_, ?_⟩⟩
  · exact computes_mov.scalar (fun _ => rfl) isInt_of_s1
  · exact (computes_arith (· + ·) f.sat).scalar (fun _ => rfl) isInt_of_s2
  · exact (computes_arith (· - ·) f.sat).scalar (fun _ => rfl) isInt_of_s2
  · exact (computes_arith (· * ·) f.sat).scalar (fun _ => rfl) isInt_of_s2
  · exact computes_mulh.scalar (fun _ => rfl) isInt_of_s2
  · exact computes_and.scalar (fun _ => rfl) isInt_of_s2
  · exact computes_or.scalar (fun _ => rfl) isInt_of_s2
  · exact computes_xor.scalar (fun _ => rfl) isInt_of_s2
  · exact computes_not.scalar (fun _ => rfl) isInt_of_s1
  · exact computes_min.scalar (fun _ => rfl) isInt_of_s2
  · exact computes_max.scalar (fun _ => rfl) isInt_of_s2
  · exact scalarTwin_of_stands (fun _ => rfl) intImm_of_smovi fun h _ => stands_immPat h
  · exact (computes_arith (· + ·) false).scalarTwin (fun _ => rfl) intImm_of_sImm
  · exact (computes_arith (· - ·) false).scalarTwin (fun _ => rfl) intImm_of_sImm
  · exact (computes_arith (· * ·) false).scalarTwin (fun _ => rfl) intImm_of_sImm
  · exact computes_and.scalarTwin (fun _ => rfl) intImm_of_sImm
  · exact computes_or.scalarTwin (fun _ => rfl) intImm_of_sImm
  · exact computes_xor.scalarTwin (fun _ => rfl) intImm_of_sImm
  · exact computes_min.scalarTwin (fun _ => rfl) intImm_of_sImm
  · exact computes_max.scalarTwin (fun _ => rfl) intImm_of_sImm
  · exact computes_mov.vector (fun _ => rfl) ty_of_v1
  · exact (computes_arith (· + ·) f.sat).vector (fun _ => rfl) ty_of_v2
  · exact (computes_arith (· - ·) f.sat).vector (fun _ => rfl) ty_of_v2
  · exact (computes_arith (· * ·) f.sat).vector (fun _ => rfl) ty_of_v2
  · exact computes_mulh.vector (fun _ => rfl) ty_of_v2
  · exact vectorResult_of_stands (fun _ => rfl) ty_of_v3 fun hi t l => by
      rw [Team.intVal_pat, Team.intVal_pat, Team.intVal_pat]
      exact stands_finish hi f.sat _
  · exact computes_and.vector (fun _ => rfl) ty_of_v2
  · exact computes_or.vector (fun _ => rfl) ty_of_v2
  · exact computes_xor.vector (fun _ => rfl) ty_of_v2
  · exact computes_not.vector (fun _ => rfl) ty_of_v1
  · exact computes_min.vector (fun _ => rfl) ty_of_v2
  · exact computes_max.vector (fun _ => rfl) ty_of_v2
  · exact (computes_abs f.sat).vector (fun _ => rfl) fun h => isInt_of_isSigned (ty_of_v1 h)
  · exact (computes_neg f.sat).vector (fun _ => rfl) fun h => isInt_of_isSigned (ty_of_v1 h)
  · exact vectorTwin_of_stands (fun _ => rfl) intImm_of_vmovi fun h _ _ => stands_immPat h
  · exact (computes_arith (· + ·) false).vectorTwin (fun _ => rfl) intImm_of_vImm
  · exact (computes_arith (· - ·) false).vectorTwin (fun _ => rfl) intImm_of_vImm
  · exact (computes_arith (· * ·) false).vectorTwin (fun _ => rfl) intImm_of_vImm
  · exact computes_and.vectorTwin (fun _ => rfl) intImm_of_vImm
  · exact computes_or.vectorTwin (fun _ => rfl) intImm_of_vImm
  · exact computes_xor.vectorTwin (fun _ => rfl) intImm_of_vImm
  · exact computes_min.vectorTwin (fun _ => rfl) intImm_of_vImm
  · exact computes_max.vectorTwin (fun _ => rfl) intImm_of_vImm

/-- R140's table. -/
theorem division_claim : Claims.Division := by
  unfold Claims.Division
  refine ⟨fun f => ⟨?_, ?_, ?_, ?_⟩, fun op hop w hw => ?_⟩
  · exact (computes_div f.sat).scalar (fun _ => rfl) isInt_of_s2
  · exact computes_rem.scalar (fun _ => rfl) isInt_of_s2
  · exact (computes_div f.sat).vector (fun _ => rfl) ty_of_v2
  · exact computes_rem.vector (fun _ => rfl) ty_of_v2
  · refine decodeWord_of_unassigned hw ?_
    simp only [List.mem_cons, List.not_mem_nil, or_false] at hop
    rcases hop with rfl | rfl | rfl | rfl <;> rfl

/-- Settles O2: the table of R140, the opcodes of the encoder, and a saturate bit that the checks of REM keep zero. -/
theorem division : Obligations.Division := by
  unfold Obligations.Division
  refine ⟨division_claim, fun f w => ⟨fun h => ?_, fun h => ?_, fun h => ?_, fun h => ?_, ?_⟩⟩
  · exact opcodeOf_of_packV (op := 0x006) h rfl
  · exact opcodeOf_of_packV (op := 0x007) h rfl
  · exact opcodeOf_of_packV (op := 0x086) h rfl
  · exact opcodeOf_of_packV (op := 0x087) h rfl
  · rintro (h | h)
    · exact sat_of_s2 (ok_of_wellFormed h)
    · exact sat_of_v2 (ok_of_wellFormed h)

/-- R141's table. -/
theorem shiftsAndRotations_claim : Claims.ShiftsAndRotations := by
  unfold Claims.ShiftsAndRotations
  refine ⟨fun f => ⟨?_, ?_, ?_, ?_, ?_, ?_, ?_, ?_⟩, fun g => ⟨?_, ?_, ?_, ?_, ?_, ?_, ?_, ?_⟩⟩
  · exact computes_shl.scalar (fun _ => rfl) isInt_of_s2
  · exact computes_shr.scalar (fun _ => rfl) isInt_of_s2
  · exact computes_sar.scalar (fun _ => rfl) isInt_of_s2
  · exact computes_rot.scalar (fun _ => rfl) isInt_of_s2
  · exact computes_shl.vector (fun _ => rfl) ty_of_v2
  · exact computes_shr.vector (fun _ => rfl) ty_of_v2
  · exact computes_sar.vector (fun _ => rfl) ty_of_v2
  · exact computes_rot.vector (fun _ => rfl) ty_of_v2
  · exact computes_shl.scalarTwin (fun _ => rfl) intImm_of_sImm
  · exact computes_shr.scalarTwin (fun _ => rfl) intImm_of_sImm
  · exact computes_sar.scalarTwin (fun _ => rfl) intImm_of_sImm
  · exact computes_rot.scalarTwin (fun _ => rfl) intImm_of_sImm
  · exact computes_shl.vectorTwin (fun _ => rfl) intImm_of_vImm
  · exact computes_shr.vectorTwin (fun _ => rfl) intImm_of_vImm
  · exact computes_sar.vectorTwin (fun _ => rfl) intImm_of_vImm
  · exact computes_rot.vectorTwin (fun _ => rfl) intImm_of_vImm

/-- Settles O3: R141's table, then the opcodes of the encoder. -/
theorem shiftsAndRotations : Obligations.ShiftsAndRotations := by
  unfold Obligations.ShiftsAndRotations
  simp only [List.forall_mem_cons]
  refine ⟨shiftsAndRotations_claim, fun f w => ⟨fun h => ?_, fun h => ?_, fun h => ?_, fun h => ?_, fun h => ?_, fun h => ?_, fun h => ?_, fun h => ?_,
    List.forall_mem_nil _⟩, fun g w => ⟨fun h => ?_, fun h => ?_, fun h => ?_, fun h => ?_, fun h => ?_, fun h => ?_, fun h => ?_, fun h => ?_,
    List.forall_mem_nil _⟩⟩
  · exact opcodeOf_of_packV (op := 0x00C) h rfl
  · exact opcodeOf_of_packV (op := 0x00D) h rfl
  · exact opcodeOf_of_packV (op := 0x00E) h rfl
  · exact opcodeOf_of_packV (op := 0x00F) h rfl
  · exact opcodeOf_of_packV (op := 0x08C) h rfl
  · exact opcodeOf_of_packV (op := 0x08D) h rfl
  · exact opcodeOf_of_packV (op := 0x08E) h rfl
  · exact opcodeOf_of_packV (op := 0x08F) h rfl
  · exact opcodeOf_of_packI (op := 0x04C) h rfl
  · exact opcodeOf_of_packI (op := 0x04D) h rfl
  · exact opcodeOf_of_packI (op := 0x04E) h rfl
  · exact opcodeOf_of_packI (op := 0x04F) h rfl
  · exact opcodeOf_of_packI (op := 0x0CC) h rfl
  · exact opcodeOf_of_packI (op := 0x0CD) h rfl
  · exact opcodeOf_of_packI (op := 0x0CE) h rfl
  · exact opcodeOf_of_packI (op := 0x0CF) h rfl

/-- R142. -/
theorem countsAndReversal_claim : Claims.CountsAndReversal := by
  unfold Claims.CountsAndReversal
  refine fun f => ⟨?_, ?_, ?_, ?_, ?_⟩
  · exact computes_clz.scalar (fun _ => rfl) isInt_of_s1
  · exact computes_clz.vector (fun _ => rfl) ty_of_v1
  · exact computes_pop.scalar (fun _ => rfl) isInt_of_s1
  · exact computes_pop.vector (fun _ => rfl) ty_of_v1
  · exact computes_brev.vector (fun _ => rfl) ty_of_v1

/-- R143. -/
theorem bitFields_claim : Claims.BitFields := by
  unfold Claims.BitFields
  refine fun f => ⟨vectorResult_of_stands (fun _ => rfl) (isInt_of_ownRule (by simp)) fun _ t l => ?_,
    vectorResult_of_stands (fun _ => rfl) (isInt_of_ownRule (by simp)) fun _ t l => ?_⟩
  · rw [← Team.pat_toNat]
    exact stands_bfe f.ty _ _
  · rw [← Team.pat_toNat, ← Team.pat_toNat]
    exact stands_bfi f.ty _ _ _

/-- Settles O4: R142 and R143, the opcodes of the encoder, a source b that the checks keep zero, and the opcodes that no twin has. -/
theorem countsAndBitFields : Obligations.CountsAndBitFields := by
  unfold Obligations.CountsAndBitFields
  refine ⟨countsAndReversal_claim, bitFields_claim, fun f w => ?_, fun f w => ⟨fun h => ?_, fun h => ?_, fun op hop hw => ?_⟩⟩
  · simp only [List.forall_mem_cons]
    exact ⟨⟨fun h => opcodeOf_of_packV (op := 0x014) h rfl, fun h => b_of_s1 (ok_of_wellFormed h)⟩,
      ⟨fun h => opcodeOf_of_packV (op := 0x096) h rfl, fun h => b_of_v1 (ok_of_wellFormed h)⟩,
      ⟨fun h => opcodeOf_of_packV (op := 0x015) h rfl, fun h => b_of_s1 (ok_of_wellFormed h)⟩,
      ⟨fun h => opcodeOf_of_packV (op := 0x097) h rfl, fun h => b_of_v1 (ok_of_wellFormed h)⟩,
      ⟨fun h => opcodeOf_of_packV (op := 0x098) h rfl, fun h => b_of_v1 (ok_of_wellFormed h)⟩, List.forall_mem_nil _⟩
  · exact opcodeOf_of_packV (op := 0x099) h rfl
  · exact opcodeOf_of_packV (op := 0x09A) h rfl
  · refine decodeWord_of_unassigned hw ?_
    simp only [List.mem_cons, List.not_mem_nil, or_false] at hop
    rcases hop with rfl | rfl | rfl | rfl | rfl <;> rfl

/-- R145. -/
theorem select_claim : Claims.Select := by
  unfold Claims.Select
  refine fun f => ⟨scalarResult_of_stands (fun _ => rfl) (isInt_of_ownRule (by simp)) fun _ t => ?_,
    vectorResult_of_stands (fun _ => rfl) (isInt_of_ownRule (by simp)) fun _ t l => ?_⟩
  · simp only [bne_iff_ne]
    split
    · exact stands_spat ..
    · exact stands_spat ..
  · split
    · exact stands_pat ..
    · exact stands_pat ..

/-- Settles O5: R144 and R145, the opcodes of the encoder, and what the checks leave of the condition and of VCMP's destination. -/
theorem compareAndSelect : Obligations.CompareAndSelect := by
  unfold Obligations.CompareAndSelect
  refine ⟨fun f => ⟨fun _ _ _ => issues_scmp, fun _ _ _ => issues_vcmp⟩, select_claim, fun f w => ⟨fun h => ?_, fun h => ?_, ?_, fun h => ?_⟩⟩
  · exact opcodeOf_of_packV (op := 0x010) h rfl
  · exact opcodeOf_of_packV (op := 0x090) h rfl
  · rintro (h | h)
    · exact sub_of_scmp (ok_of_wellFormed h)
    · exact (fields_of_vcmp (ok_of_wellFormed h)).1
  · exact (fields_of_vcmp (ok_of_wellFormed h)).2

/-- R146. -/
theorem formingAddresses_claim : Claims.FormingAddresses := by
  unfold Claims.FormingAddresses
  refine ⟨fun f => ⟨?_, ?_⟩, fun g => ⟨?_, ?_⟩⟩
  · exact (computes_lea f.sub.toNat).scalar (fun _ => rfl) isInt_of_slea
  · exact (computes_lea f.sub.toNat).vector (fun _ => rfl) isInt_of_vlea
  · exact (computes_lea 0).scalarTwin (fun _ => rfl) intImm_of_sImm
  · exact (computes_lea 0).vectorTwin (fun _ => rfl) intImm_of_vImm

/-- R147. -/
theorem laneIndexBroadcastExtract_claim : Claims.LaneIndexBroadcastExtract := by
  unfold Claims.LaneIndexBroadcastExtract
  refine fun f => ⟨?_, ?_, ?_⟩
  · exact vectorResult_of_stands (fun _ => rfl) isInt_of_vidx fun _ _ l => stands_ofNat f.ty l
  · exact vectorResult_of_stands (fun _ => rfl) (isInt_of_ownRule (by simp)) fun _ t _ => stands_spat ..
  · refine scalarResult_of_stands (fun _ => rfl) (isInt_of_ownRule (by simp)) fun _ t => ?_
    dsimp only
    by_cases h : (t.scal f.b.toNat).toNat < t.lanes ∧ t.live.getLsbD (t.scal f.b.toNat).toNat = true
    · rw [if_pos h, if_pos h]
      exact stands_pat ..
    · rw [if_neg h, if_neg h]
      exact stands_ofNat f.ty 0

/-- Settles O6: address formation, then lane index, broadcast and extract. -/
theorem addressesAndLanes : Obligations.AddressesAndLanes := ⟨formingAddresses_claim, laneIndexBroadcastExtract_claim⟩

/-- R148. -/
theorem integerConversion_claim : Claims.IntegerConversion := by
  unfold Claims.IntegerConversion
  refine fun f => vectorResult_of_stands (fun _ => rfl) (isInt_of_ownRule (by simp)) fun hi t l => ?_
  rw [Team.intVal_pat]
  exact stands_finish hi f.sat _

/-- R149: the two positions of a lane are those of the two maxima. -/
theorem sparsityPacker_claim : Claims.SparsityPacker := by
  unfold Claims.SparsityPacker
  intro f s u t hr
  exact ⟨fun l => keptPositions fun j => magnitude f.ty (packElem t f l j), fun l _ => keptPositions_spec _, issues_spk24 hr⟩

/-- Settles O7: integer conversion, then the packer. -/
theorem conversionAndPacking : Obligations.ConversionAndPacking := ⟨integerConversion_claim, sparsityPacker_claim⟩

end Sys2Proof.Integer
end

end

section
/-!
PROOF. The family of the document on number formats. `Obligations.ResiduesAndRandomNumbers` (O12) holds: a write at any type depends on the w low bits of a
word alone, `resEnc` gives the digits of an integer modulo the three moduli, whose product is M, and `resVal` is the mixed-radix form of the Chinese remainder.
-/

namespace Sys2Proof.NumberFormats

open Sys2Proof.Machine Sys2Proof.Integer

/-! ### What a lane writes (R73, R173) -/

/-- RN24, whose 24 bits are extended by zeros. -/
theorem putPat_eq_vput_rn24 {x : Word} {y : Int} (h : Stands .rn24 x y) (n l : Nat) : putPat .rn24 n l x = vput .rn24 n l y := by
  have hmod : (x.toNat : Int) % 2 ^ 24 = y % 2 ^ 24 := h
  have hextend : extend32 .rn24 x = BitVec.ofInt 32 (y % 2 ^ 24) := by
    change (x &&& BitVec.ofNat 64 (2 ^ 24 - 1)).setWidth 32 = _
    apply BitVec.eq_of_toNat_eq
    rw [BitVec.toNat_setWidth, toNat_low x (by decide), BitVec.toNat_ofInt, ← hmod]
    rfl
  exact congrArg (fun v => [RegWr.v n l (BitVec.allOnes 32) v]) hextend

/-- A write at a type of any kind depends on the w low bits alone: a float or RQ8 type is written as the unsigned integer type of its width. -/
theorem putPat_eq_vput {ty : Ty} {x : Word} {y : Int} (h : Stands ty x y) (n l : Nat) : putPat ty n l x = vput ty n l y := by
  cases ty
  case rn24 => exact putPat_eq_vput_rn24 h n l
  case f64 => exact putPat_eq (ty := .n64) rfl x y h n l
  case f32 => exact putPat_eq (ty := .n32) rfl x y h n l
  case f16 | bf16 => exact putPat_eq (ty := .n16) rfl x y h n l
  case e4m3 | e5m2 | rq8 => exact putPat_eq (ty := .n8) rfl x y h n l
  all_goals exact putPat_eq rfl x y h n l

/-- The writes of the active lanes and the flags that they raise. -/
theorem vecWrites_eq {ty : Ty} {op : Nat → Word × Sticky} {y : Nat → Int} (h : ∀ l, Stands ty (op l).1 (y l)) (n : Nat) (ls : List Nat) :
    vecWrites ty n ls op = (ls.flatMap fun l => vput ty n l (y l), raisedBy ls fun l => (op l).2) := by
  induction ls with
  | nil => rfl
  | cons l ls ih =>
    unfold vecWrites raisedBy at ih ⊢
    rw [List.foldr_cons, List.foldr_cons, ih, List.flatMap_cons, ← putPat_eq_vput (h l)]

/-- A vector instruction writes in each active lane what its pattern stands for, and raises what its lanes raise. -/
theorem lanesResult_of_stands {i : Instr} {f : VForm} {ty : Ty} {raiser : Bool} {op : Team → Nat → Word × Sticky} {r : Team → Nat → Int × Sticky}
    (he : ∀ s, exec i s = vectorV i f ty raiser op s)
    (hv : i.rule.ok = true → ∀ t l, Stands ty (op t l).1 (r t l).1 ∧ (op t l).2 = (r t l).2) : LanesResult i f ty r := by
  intro s u t hr
  have hlane := hv (ok_of_ready hr) t
  refine issues_of_emit (raiser := raiser) hr (he s) ?_
  rw [vecWrites_eq fun l => (hlane l).1]
  simp only [fun l => (hlane l).2]

/-! ### Residue integers (R166) -/

/-- The encoder's pattern has the digits of the integer itself: each modulus divides M. -/
theorem resEnc_eq_digits (x : Int) : (resEnc x : Int) = digits x := by
  simp only [resEnc, digits, resM]
  omega

theorem stands_resEnc (x : Int) : Stands .rn24 (BitVec.ofNat 64 (resEnc x)) (digits x) := by
  rw [← resEnc_eq_digits]
  exact stands_ofNat _ _

/-- The mixed-radix form that `resVal` evaluates, before it is centred: it lies below M and has the three residues. 211 is the inverse of 65280 modulo 253. -/
theorem mixedRadix_spec {a b c : Int} (ha : 0 ≤ a ∧ a < 255) (hb : 0 ≤ b ∧ b < 256) (hc : 0 ≤ c ∧ c < 253) :
    let c2 := (a - b) % 255
    let x := b + 256 * c2 + 65280 * (((c - b - 256 * c2) * 211) % 253)
    0 ≤ x ∧ x < resM ∧ x % 255 = a ∧ x % 256 = b ∧ x % 253 = c := by
  simp only [resM]
  generalize hd : (a - b) % 255 = d
  generalize he : (c - b - 256 * d) * 211 % 253 = e
  refine ⟨by omega, by omega, by omega, by omega, by omega⟩

/-- `resVal` gives, of the integers with the pattern's residues, the one in the canonical range. -/
theorem resVal_spec (p : Nat) : resVal p < 8257920 ∧ -8257920 ≤ resVal p ∧ resVal p % 255 = (p % 256 % 255 : Nat) ∧ resVal p % 256 = (p / 256 % 256 : Nat) ∧
    resVal p % 253 = (p / 65536 % 256 % 253 : Nat) := by
  obtain ⟨hnonneg, hlt, h255, h256, h253⟩ := mixedRadix_spec (a := (p % 256 % 255 : Nat)) (b := (p / 256 % 256 : Nat)) (c := (p / 65536 % 256 % 253 : Nat))
    (by omega) (by omega) (by omega)
  unfold resVal
  dsimp only at hnonneg hlt h255 h256 h253 ⊢
  simp only [resM] at hlt ⊢
  generalize ((p / 256 % 256 : Nat) : Int) + 256 * _ + 65280 * _ = x at *
  split
  · refine ⟨by omega, by omega, ?_, ?_, ?_⟩ <;> omega
  · exact ⟨by omega, by omega, h255, h256, h253⟩

/-! ### The residue instructions (R187, R188) -/

/-- RNDEC writes an integer type. -/
theorem isInt_of_rndec {f : VForm} (h : (Instr.rndec f).rule.ok = true) : f.ty.isInt = true := by
  simp only [Instr.rule, Bool.and_eq_true] at h
  obtain ⟨⟨⟨hty, -⟩, -⟩, -⟩ := h
  exact hty

/-- RNENC takes the clamped integer, and raises OF outside the canonical range. -/
theorem lanesResult_rnenc (f : VForm) : LanesResult (.rnenc f) f .rn24 fun t l =>
    (digits (if f.sat then max (-8257920) (min (t.val f.ty f.a.toNat l) 8257919) else t.val f.ty f.a.toNat l),
      if t.val f.ty f.a.toNat l < -8257920 ∨ 8257920 ≤ t.val f.ty f.a.toNat l then fOF else 0) := by
  refine lanesResult_of_stands (fun _ => rfl) fun _ t l => ?_
  dsimp only
  rw [Team.intVal_pat]
  refine ⟨stands_resEnc _, ?_⟩
  have hout : (8257919 < t.val f.ty f.a.toNat l) = (8257920 ≤ t.val f.ty f.a.toNat l) := propext Int.lt_iff_add_one_le
  simp only [flagIf, decide_eq_true_eq, hout]

theorem lanesResult_rndec (f : VForm) : LanesResult (.rndec f) f f.ty fun t l => (satIf f.sat f.ty (resVal (t.elem f.a.toNat l).toNat), 0) :=
  lanesResult_of_stands (fun _ => rfl) fun hok _ _ => ⟨stands_finish (isInt_of_rndec hok) f.sat _, rfl⟩

theorem lanesResult_rnadd (f : VForm) : LanesResult (.rnadd f) f .rn24 fun t l =>
    (digits (if f.sub = 1 then resVal (t.elem f.a.toNat l).toNat - resVal (t.elem f.b.toNat l).toNat
      else resVal (t.elem f.a.toNat l).toNat + resVal (t.elem f.b.toNat l).toNat), 0) := by
  refine lanesResult_of_stands (fun _ => rfl) fun _ t l => ⟨?_, rfl⟩
  convert stands_resEnc _ using 2
  simp only [Team.res, beq_iff_eq]
  split
  · exact sub_eq_add_neg _ _
  · rfl

theorem lanesResult_rnmul (f : VForm) : LanesResult (.rnmul f) f .rn24 fun t l =>
    (digits (if f.sub = 1 then resVal (t.elem f.a.toNat l).toNat * resVal (t.elem f.b.toNat l).toNat + resVal (t.elem f.c.toNat l).toNat
      else resVal (t.elem f.a.toNat l).toNat * resVal (t.elem f.b.toNat l).toNat), 0) := by
  refine lanesResult_of_stands (fun _ => rfl) fun _ t l => ⟨?_, rfl⟩
  convert stands_resEnc _ using 2
  simp only [Team.res, beq_iff_eq]
  split
  · rfl
  · exact (add_zero _).symm

/-- R166, R187, R188. -/
theorem residues_claim : Claims.Residues := by
  unfold Claims.Residues
  exact ⟨fun f => ⟨lanesResult_rnenc f, lanesResult_rndec f, lanesResult_rnadd f, lanesResult_rnmul f⟩, resVal_spec⟩

/-! ### Random numbers (R189) -/

section Rng

variable {f : VForm} {s : State} {u : Nat} {t : Team}

theorem ty_of_rng (h : (Instr.rng f).rule.ok = true) : f.ty = .n32 ∨ f.ty = .n64 ∨ f.ty = .f32 := by
  simp only [Instr.rule, Bool.and_eq_true, Bool.or_eq_true, beq_iff_eq] at h
  obtain ⟨⟨⟨⟨(hty | hty) | hty, -⟩, -⟩, -⟩, -⟩ := h
  · exact .inl hty
  · exact .inr (.inl hty)
  · exact .inr (.inr hty)

/-- The integer that RNG writes of h: the pattern of its 24 high bits as a fraction, or h itself. -/
def rngNumber (ty : Ty) (h : Word) : Int :=
  if ty = .f32 then (roundEx .f32 .rn false { neg := false, m := h.toNat / 2 ^ 40, e := -24, sticky := false }).pat else h.toNat

theorem stands_rngPat {ty : Ty} (hty : ty = .n32 ∨ ty = .n64 ∨ ty = .f32) (h : Word) : Stands ty (rngPat ty h) (rngNumber ty h) := by
  rcases hty with rfl | rfl | rfl
  · have hlow : ((rngPat .n32 h).toNat : Int) = h.toNat % 2 ^ 32 := by exact_mod_cast toNat_low h (w := 32) (by decide)
    unfold Stands
    rw [hlow]
    exact Int.mod_modEq _ _
  · exact stands_of_toNat_eq rfl
  · rw [rngPat, BitVec.toNat_ushiftRight, Nat.shiftRight_eq_div_pow]
    exact stands_ofNat _ _

/-- The number h of a lane of a team, by its counter and its global identifier. -/
def laneWord (s : State) (t : Team) (l : Nat) : Word :=
  rngWord (match s.launchOf t.wg with | some x => x.seed | none => 0) (Store.get t.rngC l) (BitVec.ofNat 64 (s.laneBase t + l))

/-- The team once the counters of the active lanes have advanced. -/
def counted (f : VForm) (t : Team) : Team :=
  { t with rngC := (t.active f.m).foldl (fun c l => Store.set c l (Store.get c l + 1)) t.rngC }

/-- RNG advances the counters, then issues. -/
theorem exec_rng (hr : s.Ready u t (.rng f) f.se f.fs) : exec (.rng f) s =
    .next ((s.setTeam u (counted f t)).emit u (counted f t) f.se f.fs (destsV f.ty f.d.toNat)
      ((t.active f.m).flatMap fun l => vput f.ty f.d.toNat l (rngNumber f.ty (laneWord s t l))) 0 false) := by
  have hexec : exec (.rng f) s = execRng f s := rfl
  have hwrites := congrArg Prod.fst (vecWrites_eq (op := fun l => (rngPat f.ty (laneWord s t l), 0))
    (fun l => stands_rngPat (ty_of_rng (ok_of_ready hr)) (laneWord s t l)) f.d.toNat (t.active f.m))
  dsimp only at hwrites
  rw [hexec, execRng, State.issue_ready _ hr, ← hwrites]
  rfl

end Rng

/-- R189. -/
theorem randomNumbers_claim : Claims.RandomNumbers := by
  unfold Claims.RandomNumbers
  intro f s u t hr
  obtain ⟨t', o, hteam, same, frame, hops, -, howner, -, -, -, -, hflag, hdests, hwrites, hraises⟩ :=
    State.emit_spec (State.team?_setTeam_self s u (counted f t)) hr.cur f.se f.fs (destsV f.ty f.d.toNat)
      ((t.active f.m).flatMap fun l => vput f.ty f.d.toNat l (rngNumber f.ty (laneWord s t l))) 0 false
  obtain ⟨hfstat, -, -, -, hcounters⟩ := same.status
  exact ⟨_, t', o, exec_rng hr, hteam, hops, (State.SameBut.setTeam s u _).trans frame, same.sregs, same.vregs, hfstat, howner, hdests, hraises, hflag,
    hwrites, hcounters⟩

/-- Settles O12: the residue instructions, then RNG. -/
theorem residuesAndRandomNumbers : Obligations.ResiduesAndRandomNumbers := ⟨residues_claim, randomNumbers_claim⟩

end Sys2Proof.NumberFormats
end

section
/-!
PROOF. The family of the document on number formats, second part. `Obligations.MatrixExecution` (O41) fails: its part on MMA bounds the tile's depth kc by 256,
the greatest Kt of any type (R294), and not by the Kt of the command's type, so that it asks for products with bytes of the FIFO that the row does not take.
-/

namespace Sys2Proof.MatrixRows

open Sys2Proof.Machine

/-! ### A row of a multiply (R296, R304) -/

/-- Taking bytes from a FIFO leaves the tile. -/
theorem setFifo_bt (m : MxState) (k : Nat) (bs : List Byte) : (m.setFifo k bs).bt = m.bt := by
  unfold MxState.setFifo
  split_ifs <;> rfl

/-- MATRIX_COMMAND_COMPLETE goes on with the command that the unit executes for its holder. -/
theorem exec_matrixCommandComplete {s : State} {col u : Nat} {t : Team} {c : MCmd} (harg : s.arg = .id col) (hbusy : (s.column col).mx.busy = some c)
    (hholder : (s.column col).mxHolder = some u) (ht : s.team? u = some t) (hruns : s.streamsRun t = true) :
    exec .matrixCommandComplete s = .next (s.stepMx col u t c) := by
  have hexec : exec .matrixCommandComplete s = execMatrixCommandComplete s := rfl
  simp only [hexec, execMatrixCommandComplete, harg, hbusy, hholder, ht, hruns, if_true]

/-- MMA whose bytes have landed multiplies the row that it takes, and that alone, into its accumulator. -/
theorem accW_stepMx_mma {s : State} {col u : Nat} {t : Team} {c : MCmd} {f : GForm} {b : Tile} (hinstr : c.instr = .mma f) (hvals : c.vals = none)
    (htile : (s.column col).mx.bt = some b) (hlanded : rowBytes f false ≤ ((s.column col).mx.fifo f.fa.toNat).length) (k : Nat) :
    ((s.stepMx col u t c).column col).mx.accW k =
      (((s.column col).mx.setFifo f.fa.toNat (((s.column col).mx.fifo f.fa.toNat).drop (rowBytes f false))).mulRow f.ty f.acc.toNat c.row b.els
        (denseRow (((s.column col).mx.fifo f.fa.toNat).take (rowBytes f false)) f.ty.bytes b.kc)).1.accW k := by
  unfold State.stepMx
  simp only [hinstr, hvals, if_neg (not_lt.2 hlanded), Bool.false_eq_true, if_false, MxState.stepMul, setFifo_bt, htile]
  split
  · simp only [State.endMx, State.modMx, State.column_delOp, State.column_modCol_self, State.column_modTeam]
    rfl
  · simp only [State.modMx, State.column_modCol_self, State.column_modTeam]
    rfl

/-! ### Products of zeros, and of a NaN (R174, R297) -/

/-- The pattern 0 is +0. -/
theorem decodeF_zero : decodeF .f64 0 = .fin false 0 (-1074) := rfl

/-- The pattern of the canonical NaN of binary64. -/
theorem decodeF_nan : decodeF .f64 0x7FF8000000000000 = .nan false true 0x8000000000000 52 := rfl

/-- 0 × 0 + 0 is +0, and raises nothing. -/
theorem ffmaV_zero (e : Int) : ffmaV .f64 .rn false (.fin false 0 e) (.fin false 0 e) (.fin false 0 e) = { pat := 0, flags := 0 } := by
  have hsum : (sumEx .rn [(false, prodMag (.fin false 0 e) (.fin false 0 e)), (false, (0, e))]).m = 0 := by
    simp [sumEx, exOfInt, prodMag, Val.mag, sgn]
  have hsign : (sumEx .rn [(false, prodMag (.fin false 0 e) (.fin false 0 e)), (false, (0, e))]).neg = false := by
    simp [sumEx, exOfInt, prodMag, Val.mag, sgn, zeroSign]
  simp only [ffmaV, arith, firstNaN, zeroTimesInf, Val.isInf, Val.isZero, Val.isNaN, Val.neg, Val.mag, Bool.false_and, Bool.and_false, Bool.or_false,
    Bool.false_eq_true, if_false, bne_self_eq_false]
  rw [roundEx, if_pos hsum, hsign]
  rfl

/-- A product with a NaN is that NaN, whatever it is added to. -/
theorem ffmaV_nan (y c : Val) : (ffmaV .f64 .rn false (decodeF .f64 0x7FF8000000000000) y c).pat = 0x7FF8000000000000 := by
  rw [decodeF_nan]
  rfl

/-- A row of zeros with a tile of zeros leaves a zero. -/
theorem floatDot_zero (n : Nat) {row : List (Nat × Nat)} (h : ∀ e ∈ row, e.2 = 0) : floatDot .f64 .f64 [] n row 0 = (0, 0) := by
  induction row with
  | nil => rfl
  | cons e row ih =>
    obtain ⟨he, hrow⟩ := List.forall_mem_cons.1 h
    have hstep : ffmaV .f64 .rn false (decodeF .f64 e.2) (decodeF .f64 (Store.get ([] : Store 64) (e.1 * 64 + n)).toNat) (decodeF .f64 0) =
        { pat := 0, flags := 0 } := by
      have hget : (Store.get ([] : Store 64) (e.1 * 64 + n)).toNat = 0 := rfl
      rw [he, hget, decodeF_zero, ffmaV_zero]
    unfold floatDot at ih ⊢
    rw [List.foldl_cons]
    simp only [fmtOf, hstep]
    exact ih hrow

/-- With a tile of zeros it leaves an accumulator of zeros as it is. -/
theorem accW_mulRow_zero {m : MxState} (hacc : m.accW 4 = []) (k : Nat) {row : List (Nat × Nat)} (h : ∀ e ∈ row, e.2 = 0) :
    (m.mulRow .f64 4 k [] row).1.accW 4 = [] := by
  unfold MxState.mulRow
  generalize List.range 64 = ns, (0 : Sticky) = fl
  induction ns generalizing m fl with
  | nil => exact hacc
  | cons n ns ih =>
    rw [List.foldl_cons]
    refine ih ?_ _
    have hget : (Store.get ([] : Store 64) (64 * k + n)).toNat = 0 := rfl
    simp only [hacc, hget, floatDot_zero n h]
    rfl

/-! ### The counterexample -/

/-- MMA of one row of f64 from QA into w0. -/
def multiplyF64 : GForm :=
  { ty := .f64, se := false, fs := false, acc := 4, fa := 0, fm := 1, clr := false, sm := 0, b := 0, c := 0, kc := 0, mc := 0, off := 0 }

/-- The command, at its first row. -/
def multiplyCmd : MCmd := { op := 0, instr := .mma multiplyF64, snap := [], follow := false, row := 0, seq := 0, vals := none }

/-- A tile of zeros, of 17 positions: one more than Kt of f64. -/
def deepTile : Tile := { ty := .f64, kc := 17, els := [] }

/-- The 128 bytes of a row of f64 (R294), 16 zeros. -/
def zeroRow : List Byte := List.replicate 128 0

/-- QA: that row, and the first element of the next one, a NaN. -/
def rowAndNext : List Byte := zeroRow ++ [0, 0, 0, 0, 0, 0, 0xF8, 0x7F]

/-- The matrix unit that executes the command with these, its accumulators zero. -/
def deepUnit : MxState := { MxState.initial with qa := rowAndNext, bt := some deepTile, busy := some multiplyCmd }

/-- A device whose team 0, in a resident workgroup, holds that unit, at the turn of its column. -/
def deepState : State :=
  { State.reset with
    arg := .id 0
    columns := [(0, { Column.initial with mxHolder := some 0, mx := deepUnit })]
    wgs := [(0, { (default : Workgroup) with st := .resident, teams := [0] })]
    teams := [(0, default)] }

/-- Any element read from bytes that are zero is zero. -/
theorem elemAt_replicate_zero (n w k : Nat) : elemAt (List.replicate n 0) w k = 0 := by
  have hzeros : ∀ n, natOfBytes (List.replicate n 0) = 0 := by
    intro n
    induction n with
    | zero => rfl
    | succ n ih => rw [List.replicate_succ, natOfBytes, ih]; rfl
  rw [elemAt, List.drop_replicate, List.take_replicate, hzeros]

theorem length_zeroRow : zeroRow.length = 128 := List.length_replicate

/-- The unit has the bytes of a row. -/
theorem landed_deepUnit : rowBytes multiplyF64 false ≤ (deepUnit.fifo 0).length := by
  have hfifo : deepUnit.fifo 0 = rowAndNext := rfl
  rw [hfifo, rowAndNext, List.length_append, length_zeroRow]
  decide

/-- It takes those 16 elements alone: position 16 of the tile is multiplied with no byte of QA, and w0 stays zero. -/
theorem exec_deepState : ∃ s', exec .matrixCommandComplete deepState = .next s' ∧ (s'.column 0).mx.accW 4 = [] := by
  have hrow : (deepUnit.fifo 0).take (rowBytes multiplyF64 false) = zeroRow := List.take_left' length_zeroRow
  refine ⟨_, exec_matrixCommandComplete (s := deepState) (u := 0) (t := default) (c := multiplyCmd) rfl rfl rfl rfl (by decide), ?_⟩
  refine (accW_stepMx_mma (s := deepState) (col := 0) (f := multiplyF64) (b := deepTile) rfl rfl rfl landed_deepUnit 4).trans ?_
  refine accW_mulRow_zero rfl 0 fun e he => ?_
  obtain ⟨k, -, rfl⟩ := List.mem_map.1 he
  exact (congrArg (elemAt · 8 k) hrow).trans (elemAt_replicate_zero 128 8 k)

/-- The accumulators of the unit are empty. -/
theorem wf_deepUnit (a : Nat) : Store.wf (deepUnit.accA a) = true ∧ Store.wf (deepUnit.accW a) = true := by
  unfold MxState.accA MxState.accW
  constructor
  · split_ifs <;> rfl
  · split_ifs <;> rfl

/-- The elements at the front of QA, by their positions: the statement multiplies the first 17, of which the row has 16. -/
def positions (n : Nat) : List (Nat × Nat) := (List.range n).map fun k => (k, natOfBytes ((rowAndNext.drop (k * 8)).take 8))

/-- The 17th is the next row's NaN. -/
theorem positions_17 : positions 17 = positions 16 ++ [(16, 0x7FF8000000000000)] := by
  have hnext : rowAndNext.drop (16 * 8) = [0, 0, 0, 0, 0, 0, 0xF8, 0x7F] := List.drop_left' length_zeroRow
  rw [positions, List.range_succ, List.map_append, List.map_singleton, hnext]
  rfl

/-- With these, the statement asks for the product of position 16 too, which is a NaN. -/
theorem get_accW_of_rowDone {s' : State} (h : RowDone deepState s' 0 0 default multiplyCmd multiplyF64 deepTile (positions 17) false) :
    Store.get ((s'.column 0).mx.accW 4) 0 = 0x7FF8000000000000 := by
  obtain ⟨-, -, -, -, -, helements, -⟩ := h
  have h0 := helements 0 (by decide)
  rw [if_neg (by decide), if_pos (show multiplyF64.ty = .f64 from rfl)] at h0
  refine h0.trans (congrArg (BitVec.ofNat 64) ?_)
  rw [positions_17]
  dsimp only
  rw [List.foldl_append, List.foldl_cons, List.foldl_nil]
  generalize List.foldl _ _ (positions 16) = r
  exact ffmaV_nan (decodeF .f64 0) (decodeF .f64 r.1)

/-- Refutes O41, in its part on MMA: with a tile of 17 positions, which no hypothesis excludes, and a row of 16 elements of f64, the model multiplies the 16
elements of the row that it takes, and the statement a 17th, which is the next row's. -/
theorem not_matrixExecution : ¬ Obligations.MatrixExecution := by
  unfold Obligations.MatrixExecution Claims.RowsMultiply
  rintro ⟨-, rowsMultiply, -, -⟩
  obtain ⟨mma, -, -⟩ := rowsMultiply deepState 0 0 default multiplyCmd multiplyF64 deepTile rfl rfl rfl rfl (by decide) rfl (by decide) (by decide) wf_deepUnit
    (by decide) (by decide)
  obtain ⟨s', hexec, hdone, -⟩ := (mma rfl rfl).2 landed_deepUnit
  obtain ⟨s'', hexec', hzero⟩ := exec_deepState
  obtain rfl : s' = s'' := by
    rw [hexec] at hexec'
    exact Host.Outcome.next.inj hexec'
  have hnan := get_accW_of_rowDone hdone
  rw [hzero] at hnan
  exact absurd hnan (by decide)

end Sys2Proof.MatrixRows
end

section
-- These proofs too are elaborated one after another, within the memory in which this text is checked.
set_option Elab.async false

section
/-!
PROOF. The family of the document on float and special functions, first part: the frame of R174. The patterns of a format and their NaNs, what a value
carries of its pattern (`Carries`), and each operation of the model as that frame around the exact result rounded once (`arith_eq_frame174`); the bounds of
a rounded pattern and the widening of an operand.
-/

namespace Sys2Proof.Floats

open Sys2Proof.Machine Sys2Proof.Integer Sys2Proof.NumberFormats

/-! ### The fields of a pattern (R152, R153) -/

variable {F : Fmt} {n : Bool} {m p : Nat}

/-- The magnitude bits of an infinity, in a format that has infinities. -/
def infMag (F : Fmt) : Nat := (2 ^ F.eb - 1) * 2 ^ F.p

/-- A magnitude has an exponent field and a fraction. -/
theorem two_pow_mag (F : Fmt) : 2 ^ (F.width - 1) = 2 ^ F.eb * 2 ^ F.p := by
  rw [Fmt.width, Nat.add_assoc, Nat.add_sub_cancel_left, pow_add]

theorem two_pow_format (F : Fmt) : 2 ^ F.width = 2 * 2 ^ (F.width - 1) := by
  rw [← pow_succ', Fmt.width, Nat.add_assoc, Nat.add_sub_cancel_left, Nat.add_comm]

theorem infMag_add (F : Fmt) : infMag F + 2 ^ F.p = 2 ^ (F.width - 1) := by
  rw [two_pow_mag, infMag, ← Nat.succ_mul, Nat.succ_eq_add_one, Nat.sub_add_cancel Nat.one_le_two_pow]

theorem lt_of_le_infMag (h : m ≤ infMag F) : m < 2 ^ (F.width - 1) := by
  have hpos := Nat.two_pow_pos F.p
  rw [← infMag_add]
  omega

theorem p_pos (F : Fmt) : 0 < F.p := by
  cases F <;> decide

/-- The quiet bit is a bit of the fraction. -/
theorem quietBit_lt (F : Fmt) : 2 ^ (F.p - 1) < 2 ^ F.p := by
  cases F <;> decide

theorem two_pow_p_le_infMag (F : Fmt) : 2 ^ F.p ≤ infMag F := by
  cases F <;> decide

/-- The sign bit is above every magnitude. -/
theorem testBit_signPat_add (h : m < 2 ^ (F.width - 1)) : (F.signPat n + m).testBit (F.width - 1) = n := by
  cases n
  · rw [Fmt.signPat, if_neg Bool.false_ne_true, Nat.zero_add, Nat.testBit_lt_two_pow h]
  · rw [Fmt.signPat, if_pos rfl, Nat.testBit_two_pow_add_eq, Nat.testBit_lt_two_pow h]
    rfl

theorem signPat_add_mod (h : m < 2 ^ (F.width - 1)) : (F.signPat n + m) % 2 ^ (F.width - 1) = m := by
  unfold Fmt.signPat
  split
  · rw [Nat.add_mod_left, Nat.mod_eq_of_lt h]
  · rw [Nat.zero_add, Nat.mod_eq_of_lt h]

theorem signPat_add_lt (h : m < 2 ^ (F.width - 1)) : F.signPat n + m < 2 ^ F.width := by
  rw [two_pow_format, Fmt.signPat]
  split <;> omega

/-- The sign bit and the magnitude of a pattern, by its size. -/
theorem signBit_eq (h : p < 2 ^ F.width) : p.testBit (F.width - 1) = decide (2 ^ (F.width - 1) ≤ p) := by
  rw [two_pow_format] at h
  by_cases hp : 2 ^ (F.width - 1) ≤ p
  · rw [Nat.testBit_of_two_pow_le_and_two_pow_add_one_gt hp (by rw [pow_succ']; exact h), decide_eq_true hp]
  · rw [Nat.testBit_lt_two_pow (not_le.1 hp), decide_eq_false hp]

theorem mag_eq (h : p < 2 ^ F.width) : p % 2 ^ (F.width - 1) = if 2 ^ (F.width - 1) ≤ p then p - 2 ^ (F.width - 1) else p := by
  rw [two_pow_format] at h
  split
  next hp => rw [Nat.mod_eq_sub_mod hp, Nat.mod_eq_of_lt (by omega)]
  next hp => exact Nat.mod_eq_of_lt (not_le.1 hp)

/-- Every pattern is its sign bit and its magnitude. -/
theorem signPat_add_mag (h : p < 2 ^ F.width) : F.signPat (p.testBit (F.width - 1)) + p % 2 ^ (F.width - 1) = p := by
  rw [signBit_eq h, mag_eq h, Fmt.signPat]
  by_cases hp : 2 ^ (F.width - 1) ≤ p
  · rw [decide_eq_true hp, if_pos rfl, if_pos hp, Nat.add_sub_cancel' hp]
  · rw [decide_eq_false hp, if_neg Bool.false_ne_true, if_neg hp, Nat.zero_add]

/-- The fraction and the exponent field are those of the magnitude. -/
theorem frac_eq (F : Fmt) (p : Nat) : p % 2 ^ F.p = p % 2 ^ (F.width - 1) % 2 ^ F.p := by
  rw [two_pow_mag, Nat.mod_mod_of_dvd _ (Dvd.intro_left _ rfl)]

theorem expField_eq (F : Fmt) (p : Nat) : p / 2 ^ F.p % 2 ^ F.eb = p % 2 ^ (F.width - 1) / 2 ^ F.p := by
  rw [two_pow_mag, Nat.mul_comm, Nat.mod_mul_right_div_self]

/-- The exponent field is all ones from an infinity on. -/
theorem expField_max_iff (h : m < 2 ^ (F.width - 1)) : m / 2 ^ F.p = 2 ^ F.eb - 1 ↔ infMag F ≤ m := by
  have hpos : 0 < 2 ^ F.p := Nat.two_pow_pos _
  have hlt : m / 2 ^ F.p < 2 ^ F.eb := by rwa [Nat.div_lt_iff_lt_mul hpos, ← two_pow_mag]
  rw [infMag, ← Nat.le_div_iff_mul_le hpos]
  omega

/-! ### NaNs (R154) -/

/-- What a pattern that decodes to a NaN has as its fields. -/
theorem decodeF_nan_fields {n q : Bool} {fr k : Nat} (h : decodeF F p = .nan n q fr k) :
    n = p.testBit (F.width - 1) ∧ fr = p % 2 ^ F.p ∧ k = F.p := by
  unfold decodeF at h
  dsimp only at h
  split_ifs at h <;> cases h <;> exact ⟨rfl, rfl, rfl⟩

/-- The magnitude of a pattern whose exponent field is all ones. -/
theorem mag_eq_infMag_add (h : infMag F ≤ p % 2 ^ (F.width - 1)) : p % 2 ^ (F.width - 1) = infMag F + p % 2 ^ F.p := by
  have hsplit := Nat.div_add_mod (p % 2 ^ (F.width - 1)) (2 ^ F.p)
  rw [(expField_max_iff (Nat.mod_lt _ (Nat.two_pow_pos _))).2 h, ← frac_eq, Nat.mul_comm] at hsplit
  exact hsplit.symm

/-- In a format with infinities, a pattern above an infinity is a NaN, quiet by the highest bit of its fraction, and no other is. -/
theorem decodeF_of_infMag_lt (hF : F.hasInf = true) (h : infMag F < p % 2 ^ (F.width - 1)) :
    decodeF F p = .nan (p.testBit (F.width - 1)) ((p % 2 ^ F.p).testBit (F.p - 1)) (p % 2 ^ F.p) F.p := by
  have hex := (expField_max_iff (Nat.mod_lt _ (Nat.two_pow_pos _))).2 h.le
  have hmag := mag_eq_infMag_add h.le
  unfold decodeF
  dsimp only
  rw [if_pos ⟨(expField_eq F p).trans hex, hF⟩, if_neg (by omega)]

theorem isNaNPat_eq (hF : F.hasInf = true) : isNaNPat F p = decide (infMag F < p % 2 ^ (F.width - 1)) := by
  have hmag : p % 2 ^ (F.width - 1) < 2 ^ (F.width - 1) := Nat.mod_lt _ (Nat.two_pow_pos _)
  by_cases h : infMag F < p % 2 ^ (F.width - 1)
  · rw [isNaNPat, decodeF_of_infMag_lt hF h, decide_eq_true h]
    rfl
  · have he : ¬(F = .e4m3 ∧ p / 2 ^ F.p % 2 ^ F.eb = 15 ∧ p % 2 ^ F.p = 7) := by
      rintro ⟨rfl, -⟩
      cases hF
    have hfr : p / 2 ^ F.p % 2 ^ F.eb = 2 ^ F.eb - 1 → p % 2 ^ F.p = 0 := by
      rw [expField_eq, expField_max_iff hmag, frac_eq]
      intro hle
      rw [le_antisymm (not_lt.1 h) hle, infMag, Nat.mul_mod_left]
    rw [isNaNPat, decide_eq_false h, decodeF]
    rw [if_neg he]
    split_ifs with h1 h2 h3
    · rfl
    · exact absurd (hfr h1.1) h2
    · rfl
    · rfl

/-- The pattern of a NaN, from its fields. -/
theorem decodeF_nan {fr : Nat} (hF : F.hasInf = true) (hpos : 0 < fr) (hfr : fr < 2 ^ F.p) :
    decodeF F (F.signPat n + infMag F + fr) = .nan n (fr.testBit (F.p - 1)) fr F.p := by
  have hlt : infMag F + fr < 2 ^ (F.width - 1) := by
    rw [← infMag_add]
    exact Nat.add_lt_add_left hfr _
  have hmod : (F.signPat n + (infMag F + fr)) % 2 ^ F.p = fr := by
    rw [frac_eq, signPat_add_mod hlt, infMag, Nat.mul_add_mod', Nat.mod_eq_of_lt hfr]
  rw [Nat.add_assoc, decodeF_of_infMag_lt hF (by rw [signPat_add_mod hlt]; omega), testBit_signPat_add hlt, hmod]

/-- A NaN pattern has the fields of a NaN. -/
theorem exists_nan_fields (hF : F.hasInf = true) (hp : p < 2 ^ F.width) (h : isNaNPat F p = true) :
    ∃ n fr, 0 < fr ∧ fr < 2 ^ F.p ∧ p = F.signPat n + infMag F + fr := by
  rw [isNaNPat_eq hF, decide_eq_true_eq] at h
  have hmag := mag_eq_infMag_add h.le
  refine ⟨p.testBit (F.width - 1), p % 2 ^ F.p, by omega, Nat.mod_lt _ (Nat.two_pow_pos _), ?_⟩
  rw [Nat.add_assoc, ← hmag, signPat_add_mag hp]

/-- A number or an infinity is no NaN. -/
theorem isNaNPat_of_le (hF : F.hasInf = true) (h : m ≤ infMag F) : isNaNPat F (F.signPat n + m) = false := by
  rw [isNaNPat_eq hF, signPat_add_mod (lt_of_le_infMag h), decide_eq_false (not_lt.2 h)]

/-- A NaN taken to a format with infinities keeps its sign and the fraction bits that fit, quieted (R154, R155). -/
theorem nanTo_eq (hF : F.hasInf = true) (fr k : Nat) :
    nanTo F n fr k = F.signPat n + infMag F + ((if k ≤ F.p then fr * 2 ^ (F.p - k) else fr / 2 ^ (k - F.p)) ||| 2 ^ (F.p - 1)) := by
  unfold nanTo
  split
  · cases hF
  · cases hF
  · rfl

/-- Quieting sets a bit of the fraction (R154). -/
theorem quietPat_eq {fr : Nat} (hF : F.hasInf = true) (hfr : fr < 2 ^ F.p) :
    quietPat F (F.signPat n + infMag F + fr) = F.signPat n + infMag F + (fr ||| 2 ^ (F.p - 1)) := by
  have hq : F ≠ .e4m3 ∧ F ≠ .e2m1 := by constructor <;> rintro rfl <;> cases hF
  obtain ⟨k, hk⟩ : 2 ^ F.p ∣ F.signPat n + infMag F := by
    refine (Nat.dvd_add_right ?_).2 (Dvd.intro_left _ rfl)
    unfold Fmt.signPat
    split
    · rw [two_pow_mag]; exact Dvd.intro_left _ rfl
    · exact dvd_zero _
  have hor : fr ||| 2 ^ (F.p - 1) < 2 ^ F.p := Nat.or_lt_two_pow hfr (quietBit_lt F)
  rw [quietPat, if_neg (by simp [hq]), hk, Nat.two_pow_add_eq_or_of_lt hfr, Nat.two_pow_add_eq_or_of_lt hor, Nat.or_assoc]

theorem quietPat_lt (hp : p < 2 ^ F.width) : quietPat F p < 2 ^ F.width := by
  unfold quietPat
  split
  · exact hp
  · exact Nat.or_lt_two_pow hp (Nat.pow_lt_pow_right (by decide) (by unfold Fmt.width; omega))

/-! ### The NaN rules of R174 over decoded operands and over patterns -/

/-- An operand counts in the rules for NaNs as a pattern of the format of the result does. -/
structure Carries (F : Fmt) (v : Val) (p : Nat) : Prop where
  nan : v.isNaN = isNaNPat F p
  sig : v.isSig = (decodeF F p).isSig
  quieted : ∀ n q fr k, v = .nan n q fr k → nanTo F n fr k = quietPat F p

/-- A pattern of the format itself. -/
theorem carries_decodeF (hF : F.hasInf = true) (hp : p < 2 ^ F.width) : Carries F (decodeF F p) p := by
  refine ⟨rfl, rfl, fun n q fr k h => ?_⟩
  have hnan : isNaNPat F p = true := by rw [isNaNPat, h]; rfl
  obtain ⟨n', fr', hpos, hlt, rfl⟩ := exists_nan_fields hF hp hnan
  rw [decodeF_nan hF hpos hlt] at h
  cases h
  rw [nanTo_eq hF, if_pos le_rfl, Nat.sub_self, pow_zero, Nat.mul_one, quietPat_eq hF hlt]

/-- Neither has a NaN, or the first NaN of each is the same. -/
theorem firstNaN_find? {vs : List Val} {ps : List Nat} (h : List.Forall₂ (Carries F) vs ps) :
    (firstNaN vs = none ∧ ps.find? (isNaNPat F) = none) ∨
    ∃ n fr k p, firstNaN vs = some (n, fr, k) ∧ ps.find? (isNaNPat F) = some p ∧ nanTo F n fr k = quietPat F p := by
  induction h with
  | nil => exact .inl ⟨rfl, rfl⟩
  | @cons v p vs ps hvp _ ih =>
    cases hnan : v.isNaN
    · rw [List.find?_cons_of_neg (by rw [← hvp.nan, hnan]; decide), firstNaN, List.find?_cons_of_neg (by rw [hnan]; decide)]
      exact ih
    · obtain ⟨n, q, fr, k, rfl⟩ : ∃ n q fr k, v = .nan n q fr k := by
        cases v
        case nan => exact ⟨_, _, _, _, rfl⟩
        all_goals cases hnan
      refine .inr ⟨n, fr, k, p, ?_, List.find?_cons_of_pos (by rw [← hvp.nan]; rfl), hvp.quieted _ _ _ _ rfl⟩
      rw [firstNaN, List.find?_cons_of_pos rfl]
      rfl

theorem any_isSig {vs : List Val} {ps : List Nat} (h : List.Forall₂ (Carries F) vs ps) :
    vs.any Val.isSig = ps.any fun q => (decodeF F q).isSig := by
  induction h with
  | nil => rfl
  | cons hvp _ ih => rw [List.any_cons, List.any_cons, ih, hvp.sig]

/-- The frame of R174, with the result of the operation asked for only where it counts. -/
theorem arith_eq_frame174 {vs : List Val} {ps : List Nat} {invalid : Bool} {rest rest' : Rounded} (sat : Bool)
    (h : List.Forall₂ (Carries F) vs ps) (hrest : (∀ v ∈ vs, v.isNaN = false) → invalid = false → rest = rest') :
    arith F vs invalid rest = frame174 F sat ps invalid none rest' := by
  unfold arith frame174
  rw [any_isSig h]
  rcases firstNaN_find? h with ⟨hv, hp⟩ | ⟨n, fr, k, p, hv, hp, hq⟩
  · rw [hv, hp]
    dsimp only
    cases invalid
    · refine hrest (fun v hmem => ?_) rfl
      have hnone : vs.find? Val.isNaN = none := by
        cases hfind : vs.find? Val.isNaN with
        | none => rfl
        | some w =>
          have hw := List.find?_some hfind
          cases w
          case nan => rw [firstNaN, hfind] at hv; cases hv
          all_goals cases hw
      exact Bool.eq_false_iff.2 (List.find?_eq_none.1 hnone v hmem)
    · rfl
  · rw [hv, hp]
    exact congrArg (Rounded.mk · _) hq

/-- R174's DivZero is a result that comes after the NaNs and Invalid. -/
theorem frame174_divZero (F : Fmt) (sat : Bool) (ps : List Nat) (invalid : Bool) (n : Bool) (rest : Rounded) :
    frame174 F sat ps invalid (some n) rest =
      frame174 F sat ps invalid none { pat := if sat then F.signPat n + F.maxPat else F.infPat n, flags := fDZ } := by
  unfold frame174
  split
  · rfl
  · rfl

/-! ### Rounded patterns (R157 to R159) -/

theorem infPat_eq (hF : F.hasInf = true) (n : Bool) : F.infPat n = F.signPat n + infMag F := by
  cases F
  case e4m3 | e2m1 => cases hF
  all_goals rfl

theorem maxPat_lt_infMag (hF : F.hasInf = true) : F.maxPat < infMag F := by
  cases F
  case e4m3 | e2m1 => cases hF
  all_goals decide

/-- What replaces an overflow is at most an infinity. -/
theorem overflowPat_eq (hF : F.hasInf = true) (mode : RMode) (sat neg : Bool) : ∃ m ≤ infMag F, overflowPat F mode sat neg = F.signPat neg + m := by
  have hbig : ∃ m ≤ infMag F, F.signPat neg + F.maxPat = F.signPat neg + m := ⟨_, (maxPat_lt_infMag hF).le, rfl⟩
  have hinf : ∃ m ≤ infMag F, F.infPat neg = F.signPat neg + m := ⟨_, le_rfl, infPat_eq hF neg⟩
  unfold overflowPat
  dsimp only
  split
  · exact hbig
  · split
    · exact hinf
    · exact hbig
    · split
      · exact hinf
      · exact hbig
    · split
      · exact hbig
      · exact hinf

/-- A finite real rounds to a number or an infinity. -/
theorem roundEx_pat (hF : F.hasInf = true) (mode : RMode) (sat : Bool) (x : Ex) :
    ∃ m ≤ infMag F, (roundEx F mode sat x).pat = F.signPat x.neg + m := by
  unfold roundEx
  dsimp only
  split
  · exact ⟨0, Nat.zero_le _, rfl⟩
  · generalize (if x.e ≤ max _ _ then _ else _ : Nat × Bool) = r
    generalize (if r.1 = 2 ^ (F.p + 1) then 2 ^ F.p else r.1) = m1, (if r.1 = 2 ^ (F.p + 1) then _ else _ : Int) = q1
    split
    next h => exact ⟨_, h.le.trans (two_pow_p_le_infMag F), rfl⟩
    next =>
      split
      · exact overflowPat_eq hF mode sat x.neg
      next h => exact ⟨_, (not_lt.1 h).trans (maxPat_lt_infMag hF).le, rfl⟩

theorem roundInf_pat (hF : F.hasInf = true) (sat neg : Bool) : ∃ m ≤ infMag F, (roundInf F sat neg).pat = F.signPat neg + m := by
  unfold roundInf
  dsimp only
  split
  · exact ⟨_, (maxPat_lt_infMag hF).le, rfl⟩
  · exact ⟨_, le_rfl, infPat_eq hF neg⟩

/-- A pattern's fraction, taken to another width, fits it. -/
theorem resized_lt {fr k q : Nat} (h : fr < 2 ^ k) : (if k ≤ q then fr * 2 ^ (q - k) else fr / 2 ^ (k - q)) < 2 ^ q := by
  split
  next hle =>
    calc fr * 2 ^ (q - k) < 2 ^ k * 2 ^ (q - k) := Nat.mul_lt_mul_of_pos_right h (Nat.two_pow_pos _)
      _ = 2 ^ q := by rw [← pow_add, Nat.add_sub_cancel' hle]
  next hgt =>
    rw [Nat.div_lt_iff_lt_mul (Nat.two_pow_pos _), ← pow_add, Nat.add_sub_cancel' (not_le.1 hgt).le]
    exact h

theorem nan_pattern_lt {fr : Nat} (h : fr < 2 ^ F.p) : F.signPat n + infMag F + fr < 2 ^ F.width := by
  rw [Nat.add_assoc]
  refine signPat_add_lt ?_
  rw [← infMag_add]
  exact Nat.add_lt_add_left h _

theorem number_lt (h : m ≤ infMag F) : F.signPat n + m < 2 ^ F.width :=
  signPat_add_lt (lt_of_le_infMag h)

theorem roundEx_lt (hF : F.hasInf = true) (mode : RMode) (sat : Bool) (x : Ex) : (roundEx F mode sat x).pat < 2 ^ F.width := by
  obtain ⟨m, hm, heq⟩ := roundEx_pat hF mode sat x
  exact heq ▸ number_lt hm

theorem roundInf_lt (hF : F.hasInf = true) (sat neg : Bool) : (roundInf F sat neg).pat < 2 ^ F.width := by
  obtain ⟨m, hm, heq⟩ := roundInf_pat hF sat neg
  exact heq ▸ number_lt hm

/-- A decoded pattern rounds to a pattern of the format. -/
theorem roundVal_decodeF_lt {S : Fmt} (hF : F.hasInf = true) (mode : RMode) (sat : Bool) (p : Nat) :
    (roundVal F mode sat (decodeF S p)).pat < 2 ^ F.width := by
  cases h : decodeF S p with
  | nan n q fr k =>
    obtain ⟨-, rfl, rfl⟩ := decodeF_nan_fields h
    rw [roundVal, roundNaN, nanTo_eq hF]
    exact nan_pattern_lt (Nat.or_lt_two_pow (resized_lt (Nat.mod_lt _ (Nat.two_pow_pos _))) (quietBit_lt F))
  | inf n => exact roundInf_lt hF sat n
  | fin n m e => exact roundEx_lt hF mode sat _

/-! ### Widened operands (R162) -/

section Widening

variable {S : Fmt}

/-- An operand that is a number or an infinity widens to one. -/
theorem isNaNPat_widenPat (hF : F.hasInf = true) (h : (decodeF S p).isNaN = false) : isNaNPat F (widenPat S F p) = false := by
  unfold widenPat
  cases hv : decodeF S p with
  | nan n q fr k => rw [hv] at h; cases h
  | inf n =>
    obtain ⟨m, hm, heq⟩ := roundInf_pat hF false n
    dsimp only [roundVal]
    rw [heq, isNaNPat_of_le hF hm]
  | fin n m e =>
    obtain ⟨m', hm, heq⟩ := roundEx_pat hF .rn false { neg := n, m := m, e := e, sticky := false }
    dsimp only [roundVal]
    rw [heq, isNaNPat_of_le hF hm]

/-- A widened NaN. -/
theorem widenPat_nan {q : Bool} {fr k : Nat} (h : decodeF S p = .nan n q fr k) :
    widenPat S F p = F.signPat n + infMag F + fr * 2 ^ (F.p - k) := by
  unfold widenPat
  rw [h]
  rfl

theorem widenPat_lt (hF : F.hasInf = true) (hle : S.p ≤ F.p) (p : Nat) : widenPat S F p < 2 ^ F.width := by
  cases h : decodeF S p with
  | nan n q fr k =>
    obtain ⟨-, rfl, rfl⟩ := decodeF_nan_fields h
    rw [widenPat_nan h]
    have hlt := resized_lt (q := F.p) (Nat.mod_lt p (Nat.two_pow_pos S.p))
    rw [if_pos hle] at hlt
    exact nan_pattern_lt hlt
  | inf n => simp only [widenPat, h]; exact roundInf_lt hF false n
  | fin n m e => simp only [widenPat, h]; exact roundEx_lt hF .rn false _

/-- A pattern of a narrower format counts as the pattern that it is widened to: a NaN keeps its quiet bit. -/
theorem carries_widenPat (hS : S.hasInf = true) (hF : F.hasInf = true) (hle : S.p ≤ F.p) (hp : p < 2 ^ S.width) :
    Carries F (decodeF S p) (widenPat S F p) := by
  cases hnan : isNaNPat S p
  · have hw := isNaNPat_widenPat hF hnan
    have hsig : ∀ v : Val, v.isNaN = false → v.isSig = false := fun v hv => by
      cases v
      case nan => cases hv
      all_goals rfl
    refine ⟨hnan.trans hw.symm, (hsig _ hnan).trans (hsig _ hw).symm, fun n q fr k h => ?_⟩
    rw [isNaNPat, h] at hnan
    cases hnan
  · obtain ⟨n, fr, hpos, hlt, rfl⟩ := exists_nan_fields hS hp hnan
    have hdec := decodeF_nan (n := n) hS hpos hlt
    have hlt' := resized_lt (q := F.p) hlt
    rw [if_pos hle] at hlt'
    have hwide := decodeF_nan (n := n) hF (Nat.mul_pos hpos (Nat.two_pow_pos (F.p - S.p))) hlt'
    have hquiet : (fr * 2 ^ (F.p - S.p)).testBit (F.p - 1) = fr.testBit (S.p - 1) := by
      have hS1 := p_pos S
      rw [Nat.testBit_mul_two_pow, show F.p - 1 - (F.p - S.p) = S.p - 1 by omega, decide_eq_true (by omega), Bool.true_and]
    rw [widenPat_nan hdec]
    refine ⟨?_, ?_, fun n' q fr' k h => ?_⟩
    · rw [isNaNPat, hwide, hdec]
      rfl
    · rw [hwide, hdec, hquiet]
      rfl
    · rw [hdec] at h
      cases h
      rw [nanTo_eq hF, if_pos hle, quietPat_eq hF hlt']

end Widening

end Sys2Proof.Floats

end

section
/-!
PROOF. The family of the document on float and special functions, second part: what a lane reads at a float type, and how the results of the forms over lanes
follow from those of the operations on values (`lanesResult_of_float1`, `lanesResult_of_float2`).
-/

namespace Sys2Proof.Floats

open Sys2Proof.Machine Sys2Proof.Integer Sys2Proof.NumberFormats

/-! ### The float types (R171) and what a lane reads -/

section Operands

variable {ty : Ty} {f : VForm} {g : IForm} {t : Team} {l : Nat}

theorem hasInf_fmtOf (h : ty.isFloat = true) : (fmtOf ty).hasInf = true := by
  cases ty
  case f16 | bf16 | f32 | f64 => rfl
  all_goals cases h

theorem width_fmtOf (h : ty.isFloat = true) : (fmtOf ty).width = ty.width := by
  cases ty
  case f16 | bf16 | f32 | f64 => rfl
  all_goals cases h

theorem fval_eq (t : Team) (ty : Ty) (n : BitVec 8) (l : Nat) : t.fval ty n l = decodeF (fmtOf ty) (t.vbits ty n.toNat l) := by
  rw [Team.fval, Team.pat_toNat]

theorem vbits_lt_format (h : ty.isFloat = true) (t : Team) (n l : Nat) : t.vbits ty n l < 2 ^ (fmtOf ty).width := by
  rw [width_fmtOf h]
  exact t.vbits_lt ty n l

theorem carries_vbits (h : ty.isFloat = true) (t : Team) (n l : Nat) :
    Carries (fmtOf ty) (decodeF (fmtOf ty) (t.vbits ty n l)) (t.vbits ty n l) :=
  carries_decodeF (hasInf_fmtOf h) (vbits_lt_format h t n l)

/-- What R113's checks leave of the immediate of a float twin (R16). -/
theorem fields_of_fImm (h : (Fields.fImm g).ok = true) : g.ty.isFloat = true ∧ (g.cls = 3 → g.ty = .f64) := by
  simp only [Fields.fImm, Bool.and_eq_true, Bool.or_eq_true, beq_iff_eq] at h
  obtain ⟨⟨⟨hty, -⟩, -⟩, hcls | ⟨-, h64⟩⟩ := h
  · exact ⟨hty, fun h3 => by rw [hcls] at h3; cases h3⟩
  · exact ⟨hty, fun _ => h64⟩

/-- A float immediate is a pattern of its type. -/
theorem immFloat_lt (h : (Fields.fImm g).ok = true) : immFloat g < 2 ^ (fmtOf g.ty).width := by
  obtain ⟨hty, h64⟩ := fields_of_fImm h
  have himm := g.imm.isLt
  unfold immFloat
  split
  next h3 =>
    rw [h64 (beq_iff_eq.1 h3)]
    exact (Nat.mul_lt_mul_of_pos_right himm (Nat.two_pow_pos 32)).trans_eq rfl
  next =>
    split
    next h32 => rw [h32]; exact himm
    next hf64 => rw [hf64]; exact widenPat_lt rfl (by decide) _
    next => exact roundVal_decodeF_lt (hasInf_fmtOf hty) .rn false _

theorem carries_immFloat (h : (Fields.fImm g).ok = true) : Carries (fmtOf g.ty) (decodeF (fmtOf g.ty) (immFloat g)) (immFloat g) :=
  carries_decodeF (hasInf_fmtOf (fields_of_fImm h).1) (immFloat_lt h)

end Operands

/-! ### Instructions whose lanes have a rounded result (R73, R173) -/

section Lanes

variable {i : Instr} {f : VForm} {g : IForm} {ty : Ty} {raiser : Bool}

theorem lanesResult_of_rounded {op : Team → Nat → Rounded} {r : Team → Nat → Int × Sticky}
    (he : ∀ s, exec i s = vectorV i f ty raiser (fun t l => (op t l).lane) s) (h : i.rule.ok = true → ∀ t l, (op t l).out = r t l) :
    LanesResult i f ty r :=
  lanesResult_of_stands he fun hok t l => h hok t l ▸ ⟨stands_ofNat ty _, rfl⟩

/-- An immediate twin writes in each lane of m0 what its pattern stands for, and raises what its lanes raise. -/
theorem lanesTwin_of_stands {op : Team → Nat → Word × Sticky} {r : Team → Nat → Int × Sticky} (he : ∀ s, exec i s = vectorI i g raiser op s)
    (hv : i.rule.ok = true → ∀ t l, Stands g.ty (op t l).1 (r t l).1 ∧ (op t l).2 = (r t l).2) : LanesTwin i g r := by
  intro s u t hr
  have hlane := hv (ok_of_ready hr) t
  refine issues_of_emit (raiser := raiser) hr (he s) ?_
  rw [vecWrites_eq fun l => (hlane l).1]
  simp only [fun l => (hlane l).2]

theorem lanesTwin_of_rounded {op : Team → Nat → Rounded} {r : Team → Nat → Int × Sticky}
    (he : ∀ s, exec i s = vectorI i g raiser (fun t l => (op t l).lane) s) (h : i.rule.ok = true → ∀ t l, (op t l).out = r t l) :
    LanesTwin i g r :=
  lanesTwin_of_stands he fun hok t l => h hok t l ▸ ⟨stands_ofNat g.ty _, rfl⟩

/-- A float instruction of one source. -/
theorem lanesResult_of_float1 {op : Team → Nat → Val → Rounded} {r : Team → Nat → Rounded}
    (he : ∀ s, exec i s = vectorV i f f.ty raiser (fun t l => (op t l (t.fval f.ty f.a l)).lane) s) (hty : i.rule.ok = true → f.ty.isFloat = true)
    (h : ∀ t l, Carries (fmtOf f.ty) (decodeF (fmtOf f.ty) (t.fbits f f.a l)) (t.fbits f f.a l) →
      op t l (decodeF (fmtOf f.ty) (t.fbits f f.a l)) = r t l) : LanesResult i f f.ty fun t l => (r t l).out :=
  lanesResult_of_rounded he fun hok t l => by
    rw [fval_eq]
    exact congrArg Rounded.out (h t l (carries_vbits (hty hok) t _ l))

/-- A float instruction of two sources. -/
theorem lanesResult_of_float2 {op : Fmt → RMode → Bool → Val → Val → Rounded} {r : Team → Nat → Rounded}
    (he : ∀ s, exec i s = float2 i f op s) (hty : i.rule.ok = true → f.ty.isFloat = true)
    (h : ∀ t l, Carries (fmtOf f.ty) (decodeF (fmtOf f.ty) (t.fbits f f.a l)) (t.fbits f f.a l) →
      Carries (fmtOf f.ty) (decodeF (fmtOf f.ty) (t.fbits f f.b l)) (t.fbits f f.b l) →
      op (fmtOf f.ty) f.rnd f.sat (decodeF (fmtOf f.ty) (t.fbits f f.a l)) (decodeF (fmtOf f.ty) (t.fbits f f.b l)) = r t l) :
    LanesResult i f f.ty fun t l => (r t l).out :=
  lanesResult_of_rounded he fun hok t l => by
    rw [fval_eq, fval_eq]
    exact congrArg Rounded.out (h t l (carries_vbits (hty hok) t _ l) (carries_vbits (hty hok) t _ l))

/-- Its immediate twin. -/
theorem lanesTwin_of_float2 {op : Fmt → RMode → Bool → Val → Val → Rounded} {r : Team → Nat → Rounded}
    (he : ∀ s, exec i s = float2I i g op s) (hok : i.rule.ok = true → (Fields.fImm g).ok = true)
    (h : ∀ t l, Carries (fmtOf g.ty) (decodeF (fmtOf g.ty) (t.vbits g.ty g.a.toNat l)) (t.vbits g.ty g.a.toNat l) →
      Carries (fmtOf g.ty) (decodeF (fmtOf g.ty) (immFloat g)) (immFloat g) →
      op (fmtOf g.ty) .rn false (decodeF (fmtOf g.ty) (t.vbits g.ty g.a.toNat l)) (decodeF (fmtOf g.ty) (immFloat g)) = r t l) :
    LanesTwin i g fun t l => (r t l).out :=
  lanesTwin_of_rounded he fun hrule t l => by
    rw [fval_eq]
    exact congrArg Rounded.out (h t l (carries_vbits (fields_of_fImm (hok hrule)).1 t _ l) (carries_immFloat (hok hrule)))

end Lanes

/-! ### The operations of R174: each is the frame over the operands' patterns -/

section Operations

variable {F : Fmt} {v w x : Val} {a b c : Nat} (mode : RMode) (sat : Bool)

/-- An operand that is no NaN. -/
theorem inf_or_fin (h : v.isNaN = false) : (∃ n, v = .inf n) ∨ ∃ n m e, v = .fin n m e := by
  cases v
  case nan => cases h
  case inf n => exact .inl ⟨n, rfl⟩
  case fin n m e => exact .inr ⟨n, m, e, rfl⟩

theorem eq_fin_of_isZero (h : v.isZero = true) : ∃ n e, v = .fin n 0 e := by
  cases v
  case fin n m e => exact ⟨n, e, by rw [beq_iff_eq.1 h]⟩
  all_goals cases h

theorem carries_pair (ha : Carries F v a) (hb : Carries F w b) : List.Forall₂ (Carries F) [v, w] [a, b] := .cons ha (.cons hb .nil)

/-- FADD. -/
theorem faddV_eq (ha : Carries F v a) (hb : Carries F w b) :
    faddV F mode sat false v w =
      frame174 F sat [a, b] (v.isInf && w.isInf && v.neg != w.neg) none
        (if v.isInf then roundInf F sat v.neg else if w.isInf then roundInf F sat w.neg
          else roundEx F mode sat (sumEx mode [(v.neg, v.mag), (w.neg, w.mag)])) := by
  simp only [faddV, Bool.bne_false]
  exact arith_eq_frame174 sat (carries_pair ha hb) fun _ _ => rfl

/-- FSUB: the sign of b is inverted in the sum, and not in a NaN. -/
theorem fsubV_eq (ha : Carries F v a) (hb : Carries F w b) :
    faddV F mode sat true v w =
      frame174 F sat [a, b] (v.isInf && w.isInf && v.neg == w.neg) none
        (if v.isInf then roundInf F sat v.neg else if w.isInf then roundInf F sat (!w.neg)
          else roundEx F mode sat (sumEx mode [(v.neg, v.mag), (!w.neg, w.mag)])) := by
  have hsign : (v.neg != !w.neg) = (v.neg == w.neg) := by
    cases v.neg <;> cases w.neg <;> rfl
  simp only [faddV, Bool.bne_true, hsign]
  exact arith_eq_frame174 sat (carries_pair ha hb) fun _ _ => rfl

/-- FMUL. -/
theorem fmulV_eq (ha : Carries F v a) (hb : Carries F w b) :
    fmulV F mode sat v w =
      frame174 F sat [a, b] ((v.isZero && w.isInf) || (v.isInf && w.isZero)) none
        (if v.isInf || w.isInf then roundInf F sat (v.neg != w.neg)
          else roundEx F mode sat { neg := v.neg != w.neg, m := v.mag.1 * w.mag.1, e := v.mag.2 + w.mag.2, sticky := false }) :=
  arith_eq_frame174 sat (carries_pair ha hb) fun _ _ => rfl

/-- FFMA: a product with an infinite factor is infinite, unless the other is a NaN, which comes first. -/
theorem ffmaV_eq (ha : Carries F v a) (hb : Carries F w b) (hc : Carries F x c) :
    let n := v.neg != w.neg
    let inf := (v.isInf || w.isInf) && !v.isNaN && !w.isNaN
    ffmaV F mode sat v w x =
      frame174 F sat [a, b, c] ((v.isZero && w.isInf) || (v.isInf && w.isZero) || (inf && x.isInf && x.neg != n)) none
        (if x.isInf then roundInf F sat x.neg else if inf then roundInf F sat n
          else roundEx F mode sat (sumEx mode [(n, v.mag.1 * w.mag.1, v.mag.2 + w.mag.2), (x.neg, x.mag)])) := by
  intro n inf
  refine arith_eq_frame174 sat (.cons ha (carries_pair hb hc)) fun hnum _ => ?_
  have hinf : inf = (v.isInf || w.isInf) := by
    simp only [inf, hnum v (by simp), hnum w (by simp), Bool.not_false, Bool.and_true]
  rw [hinf]
  rfl

/-- FDIV: an infinite dividend, an infinite divisor, DivZero, then the quotient. -/
theorem fdivV_eq (ha : Carries F v a) (hb : Carries F w b) :
    let n := v.neg != w.neg
    fdivV F mode sat v w =
      frame174 F sat [a, b] ((v.isZero && w.isZero) || (v.isInf && w.isInf)) (if w.isZero && !v.isInf then some n else none)
        (if v.isInf then roundInf F sat n else if w.isInf then { pat := F.signPat n, flags := 0 }
          else roundEx F mode sat (divEx v.neg v.mag.1 v.mag.2 w.neg w.mag.1 w.mag.2)) := by
  intro n
  by_cases hdz : (w.isZero && !v.isInf) = true
  · rw [if_pos hdz, frame174_divZero]
    rw [Bool.and_eq_true, Bool.not_eq_true'] at hdz
    obtain ⟨hz, hfin⟩ := hdz
    obtain ⟨nw, e, rfl⟩ := eq_fin_of_isZero hz
    exact arith_eq_frame174 sat (carries_pair ha hb) fun _ _ => by
      rw [if_neg (Bool.eq_false_iff.1 hfin)]
      simp only [Val.isInf, Val.mag, Bool.false_eq_true, if_false, if_true, n]
  · rw [if_neg hdz]
    refine arith_eq_frame174 sat (carries_pair ha hb) fun hnum _ => ?_
    obtain ⟨nv, rfl⟩ | ⟨nv, m, e, rfl⟩ := inf_or_fin (hnum v (by simp))
    · simp only [Val.isInf, if_true, n]
    · obtain ⟨nw, rfl⟩ | ⟨nw, mw, ew, rfl⟩ := inf_or_fin (hnum w (by simp))
      · simp only [Val.isInf, if_true, Bool.false_eq_true, if_false, n]
      · have hm : mw ≠ 0 := fun h => hdz (by rw [h]; rfl)
        simp only [Val.isInf, Val.mag, hm, Bool.false_eq_true, if_false]

/-- FSQRT. -/
theorem fsqrtV_eq (ha : Carries F v a) :
    fsqrtV F mode v =
      frame174 F false [a] (v.neg && !v.isZero && !v.isNaN) none
        (if v.isInf then roundInf F false false else if v.isZero then { pat := F.signPat v.neg, flags := 0 }
          else roundEx F mode false (sqrtEx v.mag.1 v.mag.2)) := by
  refine arith_eq_frame174 false (.cons ha .nil) fun hnum _ => ?_
  obtain ⟨n, rfl⟩ | ⟨n, m, e, rfl⟩ := inf_or_fin (hnum v (by simp))
  · rfl
  · simp only [Val.isInf, Val.isZero, Val.neg, Val.mag, Bool.false_eq_true, if_false, beq_iff_eq]

/-- FSCL. -/
theorem fsclV_eq (ha : Carries F v a) (n : Int) :
    fsclV F mode sat v n =
      frame174 F sat [a] false none
        (if v.isInf then roundInf F sat v.neg
          else roundEx F mode sat { neg := v.neg, m := v.mag.1, e := v.mag.2 + n, sticky := false }) := by
  refine arith_eq_frame174 sat (.cons ha .nil) fun hnum _ => ?_
  obtain ⟨n, rfl⟩ | ⟨n, m, e, rfl⟩ := inf_or_fin (hnum v (by simp))
  · rfl
  · rfl

/-- FRND and FRND.x. -/
theorem frndV_eq (ha : Carries F v a) (exact : Bool) :
    let r := intRound mode v.neg v.mag.1 v.mag.2
    frndV F mode exact v =
      frame174 F false [a] false none
        (if v.isInf then roundInf F false v.neg
          else { pat := (roundEx F mode false { neg := v.neg, m := r.1, e := 0, sticky := false }).pat,
                 flags := if exact && r.2 then fNX else 0 }) := by
  intro r
  refine arith_eq_frame174 false (.cons ha .nil) fun hnum _ => ?_
  obtain ⟨n, rfl⟩ | ⟨n, m, e, rfl⟩ := inf_or_fin (hnum v (by simp))
  · rfl
  · rfl

/-- The signs of the infinite terms among some. -/
def infiniteSigns (terms : List (Bool × Bool)) : List Bool := (terms.filter fun x => x.1).map fun x => x.2

/-- Of some signs, one differs from the first just when both occur. -/
theorem any_ne_head (n : Bool) (r : List Bool) :
    (r.any fun x => x != n) = ((n :: r).contains true && (n :: r).contains false) := by
  induction r with
  | nil => cases n <;> rfl
  | cons m r ih =>
    rw [List.any_cons, ih]
    cases n <;> cases m <;> simp

/-- FDOT2: the sum of two products and a term. Its infinite terms agree, or it is Invalid. -/
theorem fdot2V_eq {y z : Val} {d e : Nat} (ha : Carries .f32 v a) (hb : Carries .f32 w b) (hc : Carries .f32 x c) (hd : Carries .f32 y d)
    (he : Carries .f32 z e) :
    let infs := infiniteSigns [((v.isInf || w.isInf) && !v.isNaN && !w.isNaN, v.neg != w.neg),
      ((x.isInf || y.isInf) && !x.isNaN && !y.isNaN, x.neg != y.neg), (z.isInf, z.neg)]
    fdot2V mode sat v w x y z =
      frame174 .f32 sat [a, b, c, d, e]
        (((v.isZero && w.isInf) || (v.isInf && w.isZero)) || ((x.isZero && y.isInf) || (x.isInf && y.isZero)) ||
          (infs.contains true && infs.contains false)) none
        (match infs with
          | n :: _ => roundInf .f32 sat n
          | [] => roundEx .f32 mode sat (sumEx mode
            [(v.neg != w.neg, v.mag.1 * w.mag.1, v.mag.2 + w.mag.2), (x.neg != y.neg, x.mag.1 * y.mag.1, x.mag.2 + y.mag.2), (z.neg, z.mag)])) := by
  intro infs
  have hinfs : (if (v.isInf || w.isInf) && !v.isNaN && !w.isNaN then [v.neg != w.neg] else []) ++
      (if (x.isInf || y.isInf) && !x.isNaN && !y.isNaN then [x.neg != y.neg] else []) ++ (if z.isInf then [z.neg] else []) = infs := by
    simp only [infs, infiniteSigns, List.filter_cons, List.filter_nil]
    split_ifs <;> rfl
  simp only [fdot2V, hinfs]
  clear_value infs
  have hcarries : List.Forall₂ (Carries .f32) [v, w, x, y, z] [a, b, c, d, e] := .cons ha (.cons hb (.cons hc (carries_pair hd he)))
  cases infs with
  | nil => exact arith_eq_frame174 sat hcarries fun _ _ => rfl
  | cons n r =>
    dsimp only
    rw [any_ne_head]
    exact arith_eq_frame174 sat hcarries fun _ _ => rfl

end Operations

end Sys2Proof.Floats

end

section
/-!
PROOF. The family of the document on float and special functions, third part: `Obligations.FloatArithmetic` (O8) holds: each form is a function of its operands'
patterns by the second part, and that function is the frame of R174 by the first. That each form completes follows from what it writes.
-/

namespace Sys2Proof.Floats

open Sys2Proof.Machine Sys2Proof.Integer Sys2Proof.NumberFormats

section Fields

variable {f : VForm}

theorem isFloat_of_fscl (h : (Instr.fscl f).rule.ok = true) : f.ty.isFloat = true := by
  simp only [Instr.rule, Bool.and_eq_true] at h
  obtain ⟨⟨⟨⟨hty, -⟩, -⟩, -⟩, -⟩ := h
  exact hty

theorem ty_of_fdot2 (h : (Instr.fdot2 f).rule.ok = true) : f.ty = .f16 ∨ f.ty = .bf16 := by
  simp only [Instr.rule, Bool.and_eq_true, Bool.or_eq_true, beq_iff_eq] at h
  obtain ⟨⟨hty, -⟩, -⟩ := h
  exact hty

/-- An element of a packed pair counts as the f32 pattern that it is widened to (R162, R175). -/
theorem carries_packed {ty : Ty} (h : ty = .f16 ∨ ty = .bf16) {k : Nat} (hk : k < 2 ^ 16) :
    Carries .f32 (decodeF (fmtOf ty) k) (widenPat (fmtOf ty) .f32 k) := by
  rcases h with rfl | rfl
  · exact carries_widenPat rfl rfl (by decide) hk
  · exact carries_widenPat rfl rfl (by decide) hk

end Fields

theorem packed16_zero (ty : Ty) (x : Elem) : packed16 ty x 0 = decodeF (fmtOf ty) (x.toNat % 2 ^ 16) := by
  rw [packed16, BitVec.extractLsb'_toNat, Nat.mul_zero, Nat.shiftRight_zero]

theorem packed16_one (ty : Ty) (x : Elem) : packed16 ty x 1 = decodeF (fmtOf ty) (x.toNat / 2 ^ 16) := by
  have hx := x.isLt
  rw [packed16, BitVec.extractLsb'_toNat, Nat.mul_one, Nat.shiftRight_eq_div_pow, Nat.mod_eq_of_lt (by omega)]

/-- R174 and R176. -/
theorem floatArithmetic_claim : Claims.FloatArithmetic := by
  unfold Claims.FloatArithmetic
  refine ⟨fun f => ⟨?_, ?_, ?_, ?_, ?_, ?_, ?_, ?_⟩, fun g => ⟨?_, ?_, ?_⟩⟩
  · exact lanesResult_of_float2 (op := fun F m sat a b => faddV F m sat false a b) (fun _ => rfl) ty_of_v2 fun _ _ => faddV_eq f.rnd f.sat
  · exact lanesResult_of_float2 (op := fun F m sat a b => faddV F m sat true a b) (fun _ => rfl) ty_of_v2 fun _ _ => fsubV_eq f.rnd f.sat
  · exact lanesResult_of_float2 (op := fmulV) (fun _ => rfl) ty_of_v2 fun _ _ => fmulV_eq f.rnd f.sat
  · refine lanesResult_of_rounded (fun _ => rfl) fun hok t l => congrArg Rounded.out ?_
    have hty := ty_of_v3 hok
    rw [fval_eq, fval_eq, fval_eq]
    exact ffmaV_eq f.rnd f.sat (carries_vbits hty t _ l) (carries_vbits hty t _ l) (carries_vbits hty t _ l)
  · exact lanesResult_of_float2 (op := fdivV) (fun _ => rfl) ty_of_v2 fun _ _ => fdivV_eq f.rnd f.sat
  · exact lanesResult_of_float1 (op := fun _ _ => fsqrtV _ f.rnd) (fun _ => rfl) ty_of_v1 fun _ _ => fsqrtV_eq f.rnd
  · exact lanesResult_of_float1 (op := fun t l v => fsclV _ f.rnd f.sat v (t.elem f.b.toNat l).toInt) (fun _ => rfl) isFloat_of_fscl
      fun _ _ h => fsclV_eq f.rnd f.sat h _
  · exact lanesResult_of_float1 (op := fun _ _ => frndV _ f.rnd (f.sub.getLsbD 0)) (fun _ => rfl) ty_of_v1 fun _ _ h => frndV_eq f.rnd h _
  · exact lanesTwin_of_float2 (op := fun F m sat a b => faddV F m sat false a b) (fun _ => rfl) id fun _ _ => faddV_eq .rn false
  · exact lanesTwin_of_float2 (op := fun F m sat a b => faddV F m sat true a b) (fun _ => rfl) id fun _ _ => fsubV_eq .rn false
  · exact lanesTwin_of_float2 (op := fmulV) (fun _ => rfl) id fun _ _ => fmulV_eq .rn false

/-- R175. -/
theorem dotProduct_claim : Claims.DotProduct := by
  unfold Claims.DotProduct
  intro f
  refine lanesResult_of_rounded (fun _ => rfl) fun hok t l => congrArg Rounded.out ?_
  have hty := ty_of_fdot2 hok
  have hlow : ∀ x : Elem, x.toNat % 2 ^ 16 < 2 ^ 16 := fun x => Nat.mod_lt _ (by decide)
  have hhigh : ∀ x : Elem, x.toNat / 2 ^ 16 < 2 ^ 16 := fun x => by have := x.isLt; omega
  simp only [packed16_zero, packed16_one]
  exact fdot2V_eq f.rnd f.sat (carries_packed hty (hlow _)) (carries_packed hty (hlow _)) (carries_packed hty (hhigh _))
    (carries_packed hty (hhigh _)) (carries_decodeF rfl (t.elem f.c.toNat l).isLt)

/-- An instruction that issues completes. -/
theorem completes_of_issues {s : State} {u : Nat} {t : Team} {i : Instr} {se fs : Bool} {dests : List Dest} {ws : List RegWr} {raises : Sticky}
    (h : Issues s u t i se fs dests ws raises) :
    ∃ s' t' o, exec i s = .next s' ∧ s'.team? u = some t' ∧ t.SameButPc t' ∧ s.SameBut s' u ∧
      s'.ops = s.ops ++ [o] ∧ o.agent = .team u ∧ o.kind = .alu := by
  obtain ⟨s', t', o, hexec, hteam, hpc, hsame, hops, hagent, -, -, hkind, -⟩ := h
  exact ⟨s', t', o, hexec, hteam, hpc, hsame, hops, hagent, hkind⟩

/-- R174 to R176: each form issues with the result that its claim gives. -/
theorem floatFormsComplete_claim : Claims.FloatFormsComplete := by
  unfold Claims.FloatFormsComplete
  intro s u t completes
  refine ⟨fun f => ?_, fun g => ?_⟩
  · obtain ⟨hadd, hsub, hmul, hfma, hdiv, hsqrt, hscl, hrnd⟩ := floatArithmetic_claim.1 f
    exact ⟨fun h => completes_of_issues (hadd s u t h), fun h => completes_of_issues (hsub s u t h), fun h => completes_of_issues (hmul s u t h),
      fun h => completes_of_issues (hfma s u t h), fun h => completes_of_issues (hdiv s u t h), fun h => completes_of_issues (hsqrt s u t h),
      fun h => completes_of_issues (hrnd s u t h), fun h => completes_of_issues (hscl s u t h),
      fun h => completes_of_issues (dotProduct_claim f s u t h)⟩
  · obtain ⟨hadd, hsub, hmul⟩ := floatArithmetic_claim.2 g
    exact ⟨fun h => completes_of_issues (hadd s u t h), fun h => completes_of_issues (hsub s u t h), fun h => completes_of_issues (hmul s u t h)⟩

/-- Settles O8: the frame of R174 over the operands' patterns, the dot product, and the completion that both imply. -/
theorem floatArithmetic : Obligations.FloatArithmetic := ⟨floatArithmetic_claim, dotProduct_claim, floatFormsComplete_claim⟩

end Sys2Proof.Floats

end

section
/-!
PROOF. The family of the document on float and special functions, fourth part: `Obligations.MinMaxCompareClass` (O10) holds. A pattern is placed by an integer,
by which the model's order of two operands is that of totalOrder and of valueOrder; minima, comparisons and the winner over the lanes rest on it, and
classes on the fields of the pattern.
-/

namespace Sys2Proof.Floats

open Sys2Proof.Machine Sys2Proof.Integer Sys2Proof.NumberFormats

/-! ### The orders of R177 and R179 -/

section Orders

variable {F : Fmt} {a b p : Nat}

/-- The magnitude of a negative pattern. -/
theorem cast_mag (h : 2 ^ (F.width - 1) ≤ p) : ((p - 2 ^ (F.width - 1) : Nat) : Int) = p - 2 ^ (F.width - 1) := by
  rw [Nat.cast_sub h]
  push_cast
  rfl

theorem keyOf_eq (h : p < 2 ^ F.width) : keyOf F p = totalOrder F.width p := by
  rw [keyOf, signOf, signBit_eq h, magOf, mag_eq h, totalOrder]
  by_cases hp : 2 ^ (F.width - 1) ≤ p
  · rw [decide_eq_true hp, if_pos rfl, if_pos hp, if_pos hp, cast_mag hp]
    ring
  · rw [decide_eq_false hp, if_neg Bool.false_ne_true, if_neg hp, if_neg hp]

theorem ordOf_eq (h : p < 2 ^ F.width) : ordOf F p = valueOrder F.width p := by
  rw [ordOf, signOf, signBit_eq h, magOf, mag_eq h, valueOrder]
  by_cases hp : 2 ^ (F.width - 1) ≤ p
  · rw [decide_eq_true hp, if_pos rfl, if_pos hp, if_pos hp, cast_mag hp]
    ring
  · rw [decide_eq_false hp, if_neg Bool.false_ne_true, if_neg hp, if_neg hp]

/-- FMIN and FMAX by an order (R177). -/
theorem fminmaxV_out (isMax : Bool) (before : Nat → Nat → Prop) [DecidableRel before]
    (h : before a b ↔ if isMax then keyOf F b ≤ keyOf F a else keyOf F a ≤ keyOf F b) : (fminmaxV F isMax a b).out = minMax F before a b := by
  have hpick : (if isMax then (if keyOf F a ≥ keyOf F b then a else b) else if keyOf F a ≤ keyOf F b then a else b) =
      if before a b then a else b := by
    cases isMax
    · simp only [h, Bool.false_eq_true, if_false]
    · simp only [h, if_true, ge_iff_le]
  unfold fminmaxV minMax Rounded.out
  simp only [hpick, isNaNPat, Nat.cast_ite]
  rfl

theorem fminV_out {ty : Ty} (hty : ty.isFloat = true) (ha : a < 2 ^ ty.width) (hb : b < 2 ^ ty.width) :
    (fminmaxV (fmtOf ty) false a b).out = minMax (fmtOf ty) (fun a b => totalOrder ty.width a ≤ totalOrder ty.width b) a b := by
  rw [← width_fmtOf hty] at ha hb ⊢
  exact fminmaxV_out false _ (by rw [keyOf_eq ha, keyOf_eq hb]; rfl)

theorem fmaxV_out {ty : Ty} (hty : ty.isFloat = true) (ha : a < 2 ^ ty.width) (hb : b < 2 ^ ty.width) :
    (fminmaxV (fmtOf ty) true a b).out = minMax (fmtOf ty) (fun a b => totalOrder ty.width b ≤ totalOrder ty.width a) a b := by
  rw [← width_fmtOf hty] at ha hb ⊢
  exact fminmaxV_out true _ (by rw [keyOf_eq ha, keyOf_eq hb]; rfl)

/-- Wins of R180. -/
theorem winsV_iff {ty : Ty} (hty : ty.isFloat = true) (isMax : Bool) {x y : Nat × Nat} (hx : x.1 < 2 ^ ty.width) (hy : y.1 < 2 ^ ty.width) :
    winsV (fmtOf ty) isMax x.1 x.2 y.1 y.2 = true ↔ wins ty isMax x y := by
  have hw := width_fmtOf hty
  rw [← hw] at hx hy
  unfold winsV wins
  rw [keyOf_eq hx, keyOf_eq hy, hw]
  simp only [Bool.or_eq_true, Bool.and_eq_true]
  split_ifs <;> simp_all

/-- The winner of R180. -/
theorem fmaxiV_eq {ty : Ty} (hty : ty.isFloat = true) (isMax : Bool) {x y : Nat × Nat} (hx : x.1 < 2 ^ ty.width) (hy : y.1 < 2 ^ ty.width) :
    fmaxiV (fmtOf ty) isMax x.1 x.2 y.1 y.2 = winner ty isMax x y := by
  have hwins := winsV_iff hty isMax hx hy
  unfold fmaxiV winner
  dsimp only
  by_cases h : wins ty isMax x y
  · rw [if_pos h, if_pos (hwins.2 h)]
  · rw [if_neg h, if_neg (mt hwins.1 h)]

end Orders

/-! ### Sign operations (R178) and classes (R181) -/

section Signs

variable {k : Nat} {x : Word}

/-- Clearing the highest bit of k + 1. -/
theorem toNat_clear_top (hk : k < 64) (h : x.toNat < 2 ^ (k + 1)) : (x &&& ~~~BitVec.twoPow 64 k).toNat = x.toNat % 2 ^ k := by
  refine Nat.eq_of_testBit_eq fun i => ?_
  rw [Nat.testBit_mod_two_pow, BitVec.testBit_toNat, BitVec.getLsbD_and, BitVec.getLsbD_not, BitVec.getLsbD_twoPow, BitVec.testBit_toNat]
  rcases lt_trichotomy i k with hi | rfl | hi
  · simp [hi, hi.ne', show i < 64 by omega]
  · simp [hk]
  · have hbit : x.getLsbD i = false := by
      rw [← BitVec.testBit_toNat]
      exact Nat.testBit_lt_two_pow (h.trans_le (Nat.pow_le_pow_right (by decide) hi))
    simp [hbit]

/-- Inverting it. -/
theorem toNat_flip_top (hk : k < 64) (h : x.toNat < 2 ^ (k + 1)) :
    (x ^^^ BitVec.twoPow 64 k).toNat = if 2 ^ k ≤ x.toNat then x.toNat - 2 ^ k else x.toNat + 2 ^ k := by
  have hpos : 0 < 2 ^ k := Nat.two_pow_pos k
  rw [pow_succ] at h
  have hsplit := Nat.div_add_mod (x.toNat ^^^ 2 ^ k) (2 ^ k)
  rw [Nat.xor_div_two_pow, Nat.xor_mod_two_pow, Nat.div_self hpos, Nat.mod_self, Nat.xor_zero] at hsplit
  rw [BitVec.toNat_xor, BitVec.toNat_twoPow, Nat.mod_eq_of_lt (Nat.pow_lt_pow_right (by decide) hk), ← hsplit]
  by_cases hx : 2 ^ k ≤ x.toNat
  · have hdiv : x.toNat / 2 ^ k = 1 := Nat.div_eq_of_lt_le (by omega) (by omega)
    rw [if_pos hx, hdiv, Nat.xor_self, Nat.mul_zero, Nat.zero_add, Nat.mod_eq_sub_mod hx, Nat.mod_eq_of_lt (by omega)]
  · rw [if_neg hx, Nat.div_eq_of_lt (not_le.1 hx), Nat.zero_xor, Nat.mul_one, Nat.mod_eq_of_lt (not_le.1 hx), Nat.add_comm]

theorem pat_lt_two_pow (t : Team) (ty : Ty) (n l : Nat) : (t.pat ty n l).toNat < 2 ^ (ty.width - 1 + 1) := by
  rw [Nat.sub_add_cancel (width_pos ty)]
  exact pat_lt t ty n l

theorem top_lt (ty : Ty) : ty.width - 1 < 64 := by
  cases ty <;> decide

theorem fclassV_eq (F : Fmt) (p : Nat) : (fclassV F p : Int) = classOf F p := by
  unfold fclassV classOf
  cases decodeF F p with
  | nan n q fr k => cases q <;> rfl
  | inf n => cases n <;> rfl
  | fin n m e =>
    dsimp only
    split_ifs <;> rfl

end Signs

/-! ### Comparisons (R179) -/

/-- The eight conditions, by the order of the values and by whether the operands are ordered. -/
theorem fcmpV_iff {F : Fmt} {c a b : Nat} (hc : c ≤ 7) (ha : a < 2 ^ F.width) (hb : b < 2 ^ F.width) :
    let ordered := isNaNPat F a = false ∧ isNaNPat F b = false
    let x := valueOrder F.width a
    let y := valueOrder F.width b
    (fcmpV F c a b).1 = true ↔
      (c = 0 ∧ ordered ∧ x = y) ∨ (c = 1 ∧ (¬ordered ∨ x ≠ y)) ∨ (c = 2 ∧ ordered ∧ x < y) ∨ (c = 3 ∧ ordered ∧ x ≤ y) ∨
      (c = 4 ∧ ordered ∧ x > y) ∨ (c = 5 ∧ ordered ∧ x ≥ y) ∨ (c = 6 ∧ ¬ordered) ∨ (c = 7 ∧ ordered) := by
  have hcase : c = 0 ∨ c = 1 ∨ c = 2 ∨ c = 3 ∨ c = 4 ∨ c = 5 ∨ c = 6 ∨ c = 7 := by omega
  simp only [fcmpV, ordOf_eq ha, ordOf_eq hb, isNaNPat]
  generalize (decodeF F a).isNaN = na, (decodeF F b).isNaN = nb
  rcases hcase with rfl | rfl | rfl | rfl | rfl | rfl | rfl | rfl
  all_goals simp [imp_iff_not_or]

/-- Flags gathered from the first lane on, or from the last. -/
theorem foldl_raises {α : Type} (ls : List α) (fl : α → Sticky) (a : Sticky) :
    ls.foldl (fun a l => a ||| fl l) a = a ||| ls.foldr (fun l a => fl l ||| a) 0 := by
  induction ls generalizing a with
  | nil => exact (BitVec.or_zero).symm
  | cons l ls ih => rw [List.foldl_cons, List.foldr_cons, ih, BitVec.or_assoc]

theorem foldl_raises_eq_foldr {α : Type} (ls : List α) (fl : α → Sticky) : ls.foldl (fun a l => a ||| fl l) 0 = ls.foldr (fun l a => fl l ||| a) 0 :=
  (foldl_raises ls fl 0).trans BitVec.zero_or

/-- An instruction that writes a bit of each active lane to a mask register, and raises what its lanes raise. -/
theorem issues_of_maskV_raising {i : Instr} {f : VForm} {raiser : Bool} {op : Team → Nat → Bool × Sticky} (he : ∀ s, exec i s = maskV i f raiser op s)
    {s : State} {u : Nat} {t : Team} (hr : s.Ready u t i f.se f.fs) :
    Issues s u t i f.se f.fs [.m f.d.toNat] [.m f.d.toNat (t.activeSet f.m) (maskBits (t.active f.m) fun l => (op t l).1)]
      (raisedBy (t.active f.m) fun l => (op t l).2) := by
  have hvals : ((((t.active f.m).map fun l => (l, op t l)).filter fun r => r.2.1).map (·.1)) = (t.active f.m).filter fun l => (op t l).1 := by
    rw [List.filter_map, List.map_map]
    exact List.map_id _
  have hflags : ((t.active f.m).map fun l => (l, op t l)).foldl (fun a r => a ||| r.2.2) 0 = raisedBy (t.active f.m) fun l => (op t l).2 := by
    rw [List.foldl_map]
    exact foldl_raises_eq_foldr _ _
  refine issues_of_emit (raiser := raiser) hr (he s) ?_
  dsimp only
  rw [hvals, hflags, maskBits]

section Instructions

variable {f : VForm} {g : IForm} {s : State} {u : Nat} {t : Team}

theorem fields_of_fcmp (h : (Instr.fcmp f).rule.ok = true) : f.ty.isFloat = true ∧ f.sub.toNat ≤ 7 := by
  simp only [Instr.rule, Bool.and_eq_true, decide_eq_true_eq] at h
  obtain ⟨⟨⟨⟨⟨hty, -⟩, -⟩, -⟩, -⟩, hsub⟩ := h
  exact ⟨hty, hsub⟩

theorem isFloat_of_fmaxi (h : (Instr.fmaxi f).rule.ok = true) : f.ty.isFloat = true := by
  simp only [Instr.rule, Bool.and_eq_true, Bool.or_eq_true, beq_iff_eq] at h
  obtain ⟨⟨⟨⟨⟨(hty | hty) | hty, -⟩, -⟩, -⟩, -⟩, -⟩ := h <;> rw [hty] <;> rfl

theorem lanesResult_fmin (f : VForm) : LanesResult (.fmin f) f f.ty fun t l =>
    minMax (fmtOf f.ty) (fun a b => totalOrder f.ty.width a ≤ totalOrder f.ty.width b) (t.fbits f f.a l) (t.fbits f f.b l) :=
  lanesResult_of_rounded (fun _ => rfl) fun hok t l => by
    rw [Team.pat_toNat, Team.pat_toNat]
    exact fminV_out (ty_of_v2 hok) (t.vbits_lt ..) (t.vbits_lt ..)

theorem lanesResult_fmax (f : VForm) : LanesResult (.fmax f) f f.ty fun t l =>
    minMax (fmtOf f.ty) (fun a b => totalOrder f.ty.width b ≤ totalOrder f.ty.width a) (t.fbits f f.a l) (t.fbits f f.b l) :=
  lanesResult_of_rounded (fun _ => rfl) fun hok t l => by
    rw [Team.pat_toNat, Team.pat_toNat]
    exact fmaxV_out (ty_of_v2 hok) (t.vbits_lt ..) (t.vbits_lt ..)

theorem lanesTwin_fminImm (g : IForm) : LanesTwin (.fminImm g) g fun t l =>
    minMax (fmtOf g.ty) (fun a b => totalOrder g.ty.width a ≤ totalOrder g.ty.width b) (t.vbits g.ty g.a.toNat l) (immFloat g) :=
  lanesTwin_of_rounded (fun _ => rfl) fun hok t l => by
    have hty := (fields_of_fImm hok).1
    rw [Team.pat_toNat]
    exact fminV_out hty (t.vbits_lt ..) (width_fmtOf hty ▸ immFloat_lt hok)

theorem lanesTwin_fmaxImm (g : IForm) : LanesTwin (.fmaxImm g) g fun t l =>
    minMax (fmtOf g.ty) (fun a b => totalOrder g.ty.width b ≤ totalOrder g.ty.width a) (t.vbits g.ty g.a.toNat l) (immFloat g) :=
  lanesTwin_of_rounded (fun _ => rfl) fun hok t l => by
    have hty := (fields_of_fImm hok).1
    rw [Team.pat_toNat]
    exact fmaxV_out hty (t.vbits_lt ..) (width_fmtOf hty ▸ immFloat_lt hok)

theorem lanesResult_fabs (f : VForm) : LanesResult (.fabs f) f f.ty fun t l => ((t.fbits f f.a l % 2 ^ (f.ty.width - 1) : Nat), 0) :=
  lanesResult_of_stands (fun _ => rfl) fun _ t l => by
    refine ⟨stands_of_toNat_eq ?_, rfl⟩
    rw [toNat_clear_top (top_lt _) (pat_lt_two_pow ..), Team.pat_toNat, Team.fbits]

theorem lanesResult_fneg (f : VForm) : LanesResult (.fneg f) f f.ty fun t l =>
    ((if 2 ^ (f.ty.width - 1) ≤ t.fbits f f.a l then (t.fbits f f.a l : Int) - 2 ^ (f.ty.width - 1) else t.fbits f f.a l + 2 ^ (f.ty.width - 1)), 0) :=
  lanesResult_of_stands (fun _ => rfl) fun _ t l => by
    have hflip := toNat_flip_top (top_lt f.ty) (pat_lt_two_pow t f.ty f.a.toNat l)
    rw [Team.pat_toNat] at hflip
    refine ⟨?_, rfl⟩
    convert stands_of_toNat_eq hflip using 1
    unfold Team.fbits
    split
    next h => push_cast [h]; rfl
    next => push_cast; rfl

theorem lanesResult_fclass (f : VForm) : LanesResult (.fclass f) f .n32 fun t l => (classOf (fmtOf f.ty) (t.fbits f f.a l), 0) :=
  lanesResult_of_stands (fun _ => rfl) fun _ t l => by
    refine ⟨?_, rfl⟩
    rw [Team.pat_toNat, ← fclassV_eq]
    exact stands_ofNat _ _

/-- FCMP: the bits, and Invalid for any NaN of the conditions that order their operands, else for a signalling one. -/
theorem issues_fcmp (hr : s.Ready u t (.fcmp f) f.se f.fs) :
    Issues s u t (.fcmp f) f.se f.fs [.m f.d.toNat]
      [.m f.d.toNat (t.activeSet f.m) (maskBits (t.active f.m) fun l => (fcmpV (fmtOf f.ty) f.sub.toNat (t.fbits f f.a l) (t.fbits f f.b l)).1)]
      (raisedBy (t.active f.m) fun l => (fcmpV (fmtOf f.ty) f.sub.toNat (t.fbits f f.a l) (t.fbits f f.b l)).2) := by
  have hissues := issues_of_maskV_raising (fun _ => rfl) hr
  simp only [Team.pat_toNat] at hissues
  exact hissues

theorem fcmpV_flags (F : Fmt) (c a b : Nat) : (fcmpV F c a b).2 =
    if (if 2 ≤ c ∧ c ≤ 5 then isNaNPat F a || isNaNPat F b else (decodeF F a).isSig || (decodeF F b).isSig) then fNV else 0 := by
  simp only [fcmpV, flagIf, decide_eq_true_eq]
  rfl

/-- An index as a register write. -/
theorem putElem_eq_vput (n l k : Nat) : putElem n l (BitVec.ofNat 32 k) = vput .n32 n l k := by
  refine congrArg (fun v => [RegWr.v n l (BitVec.allOnes 32) v]) (BitVec.eq_of_toNat_eq ?_)
  rw [BitVec.toNat_ofNat, BitVec.toNat_ofInt]
  simp only [wrapTo, Ty.isSigned, Ty.width, Bool.false_eq_true, if_false]
  omega

/-- FMAXI and FMINI. -/
theorem issues_fmaxi {i : Instr} {isMax : Bool} (he : ∀ s, exec i s = fmaxi i f isMax s) (hty : i.rule.ok = true → f.ty.isFloat = true)
    (hr : s.Ready u t i f.se f.fs) :
    Issues s u t i f.se f.fs [.v f.d.toNat, .v (f.d.toNat + 1)]
      ((t.active f.m).flatMap fun l =>
        let z := winner f.ty isMax (t.fbits f f.a l, (t.elem (f.a.toNat + 1) l).toNat) (t.fbits f f.b l, (t.elem (f.b.toNat + 1) l).toNat)
        vput f.ty f.d.toNat l z.1 ++ vput .n32 (f.d.toNat + 1) l z.2) 0 := by
  have hwinner := fun l => fmaxiV_eq (hty (ok_of_ready hr)) isMax (x := (t.fbits f f.a l, (t.elem (f.a.toNat + 1) l).toNat))
    (y := (t.fbits f f.b l, (t.elem (f.b.toNat + 1) l).toNat)) (t.vbits_lt ..) (t.vbits_lt ..)
  refine issues_of_emit (raiser := false) hr (he s) ?_
  simp only [Team.pat_toNat, ← hwinner, putElem_eq_vput, putPat_eq_vput (stands_ofNat f.ty _)]
  rfl

end Instructions

/-- Settles O10: each form by the order, the condition or the class of its operands' patterns. -/
theorem minMaxCompareClass : Obligations.MinMaxCompareClass := by
  unfold Obligations.MinMaxCompareClass
  refine ⟨fun f => ⟨lanesResult_fmin f, lanesResult_fmax f, lanesResult_fabs f, lanesResult_fneg f, lanesResult_fclass f, fun s u t hr => ?_⟩,
    fun g => ⟨lanesTwin_fminImm g, lanesTwin_fmaxImm g⟩, fun f p hp s u t hr => ?_⟩
  · obtain ⟨hty, hsub⟩ := fields_of_fcmp (ok_of_ready hr)
    have hissues := issues_fcmp hr
    simp only [fcmpV_flags] at hissues
    refine ⟨_, hissues, fun l hl => ?_⟩
    have hiff := fcmpV_iff hsub (vbits_lt_format hty t f.a.toNat l) (vbits_lt_format hty t f.b.toNat l)
    rw [getLsbD_maskBits hl (lt_of_mem_active hl), Bool.eq_iff_iff, decide_eq_true_iff]
    rw [width_fmtOf hty] at hiff
    refine hiff.trans ?_
    have hcode : ∀ k : Nat, k ≤ 7 → (f.sub.toNat = k ↔ f.sub = BitVec.ofNat 9 k) := fun k hk => by
      rw [← BitVec.toNat_inj, BitVec.toNat_ofNat, Nat.mod_eq_of_lt (by omega)]
    rw [hcode 0 (by decide), hcode 1 (by decide), hcode 2 (by decide), hcode 3 (by decide), hcode 4 (by decide), hcode 5 (by decide),
      hcode 6 (by decide), hcode 7 (by decide)]
    rfl
  · simp only [List.mem_cons, List.not_mem_nil, or_false] at hp
    rcases hp with rfl | rfl
    · exact issues_fmaxi (fun _ => rfl) isFloat_of_fmaxi hr
    · exact issues_fmaxi (fun _ => rfl) isFloat_of_fmaxi hr

end Sys2Proof.Floats

end

section
/-!
PROOF. The family of the document on float and special functions, fifth part: `Obligations.FloatConversions` (O11) holds: each conversion reads a pattern at
one type and rounds its value once at another (log 72), or clamps it to an integer (log 25).
-/

namespace Sys2Proof.Floats

open Sys2Proof.Machine Sys2Proof.Integer Sys2Proof.NumberFormats

section Fields

variable {f : VForm}

/-- The type that a conversion reads (R148, R182 to R184). -/
def sourceTy (f : VForm) : Ty := Ty.ofCode (f.sub.setWidth 4)

/-- The types of a conversion. -/
theorem types_of_conv {d s : Ty → Bool} {rnd sat : Bool} (h : (Fields.conv f d s rnd sat).ok = true) : d f.ty = true ∧ s (sourceTy f) = true := by
  simp only [Fields.conv, Bool.and_eq_true] at h
  obtain ⟨⟨⟨⟨⟨hd, hs⟩, -⟩, -⟩, -⟩, -⟩ := h
  exact ⟨hd, hs⟩

end Fields

/-! ### Between float types (R182) -/

/-- .sat acts on a narrowing alone (log 25). -/
theorem narrows_iff {dst src : Ty} (hd : dst.isFloat = true) (hs : src.isFloat = true) :
    (!widens (fmtOf src) (fmtOf dst) && fmtOf src != fmtOf dst) = !decide (dst = src ∨ dst = .f64 ∨ (dst = .f32 ∧ src ≠ .f64)) := by
  cases dst
  case f16 | bf16 | f32 | f64 =>
    cases src
    case f16 | bf16 | f32 | f64 => rfl
    all_goals cases hs
  all_goals cases hd

theorem lanesResult_fcvt (f : VForm) : LanesResult (.fcvt f) f f.ty fun t l =>
    (roundVal (fmtOf f.ty) f.rnd (f.sat && !decide (f.ty = sourceTy f ∨ f.ty = .f64 ∨ (f.ty = .f32 ∧ sourceTy f ≠ .f64)))
      (decodeF (fmtOf (sourceTy f)) (t.vbits (sourceTy f) f.a.toNat l))).out :=
  lanesResult_of_rounded (fun _ => rfl) fun hok t l => by
    obtain ⟨hd, hs⟩ := types_of_conv hok
    rw [fcvtV, Bool.and_assoc, Team.pat_toNat]
    exact congrArg (fun b => (roundVal _ f.rnd (f.sat && b) _).out) (narrows_iff hd hs)

/-! ### To integers and from them (R183, R184) -/

/-- Saturation, by the limits of the type (R26). -/
theorem satInt_eq (ty : Ty) (y : Int) :
    satInt y ty = if y < (limits ty).1 then (limits ty).1 else if (limits ty).2 < y then (limits ty).2 else y := by
  have hle : (limits ty).1 ≤ (limits ty).2 := by cases ty <;> decide
  rw [limits_eq] at hle ⊢
  rw [satInt]
  split_ifs <;> omega

/-- FCVTI of a number that rounds to y. -/
theorem fcvti_clamps (ty : Ty) (y : Int) (flags : Sticky) :
    let z := if satInt y ty = y then (ofInt y, flags) else (ofInt (satInt y ty), fNV)
    let r := if y < (limits ty).1 then ((limits ty).1, fNV) else if (limits ty).2 < y then ((limits ty).2, fNV) else (y, flags)
    Stands ty z.1 r.1 ∧ z.2 = r.2 := by
  rw [satInt_eq]
  by_cases hlo : y < (limits ty).1
  · rw [if_pos hlo, if_neg hlo.ne', if_pos hlo]
    exact ⟨stands_ofInt ty _, rfl⟩
  · by_cases hhi : (limits ty).2 < y
    · rw [if_neg hlo, if_pos hhi, if_neg hhi.ne, if_neg hlo, if_pos hhi]
      exact ⟨stands_ofInt ty _, rfl⟩
    · rw [if_neg hlo, if_neg hhi, if_pos rfl, if_neg hlo, if_neg hhi]
      exact ⟨stands_ofInt ty _, rfl⟩

/-- FCVTI. -/
theorem fcvtiV_spec (ty : Ty) (mode : RMode) (v : Val) :
    Stands ty (fcvtiV ty mode v).1 (toInteger ty mode v).1 ∧ (fcvtiV ty mode v).2 = (toInteger ty mode v).2 := by
  cases v with
  | nan n q fr k => exact ⟨stands_ofInt ty 0, rfl⟩
  | inf n =>
    refine ⟨?_, rfl⟩
    rw [fcvtiV, toInteger, limits_eq]
    exact stands_ofInt ty _
  | fin n m e => exact fcvti_clamps ty (sgn n (intRound mode n m e).1) _

theorem lanesResult_fcvti (f : VForm) : LanesResult (.fcvti f) f f.ty fun t l =>
    toInteger f.ty f.rnd (decodeF (fmtOf (sourceTy f)) (t.vbits (sourceTy f) f.a.toNat l)) :=
  lanesResult_of_stands (fun _ => rfl) fun _ t l => by
    rw [fval_eq]
    exact fcvtiV_spec _ _ _

theorem lanesResult_icvtf (f : VForm) : LanesResult (.icvtf f) f f.ty fun t l =>
    let x := t.val (sourceTy f) f.a.toNat l
    (roundEx (fmtOf f.ty) f.rnd f.sat { neg := decide (x < 0), m := x.natAbs, e := 0, sticky := false }).out :=
  lanesResult_of_rounded (fun _ => rfl) fun _ t l => by
    rw [Team.intVal_pat]
    have hsign : ∀ x : Int, (if x = 0 then false else decide (x < 0)) = decide (x < 0) := fun x => by
      split
      next h => rw [h]; rfl
      next => rfl
    exact congrArg (fun b => (roundEx _ f.rnd f.sat { neg := b, m := _, e := 0, sticky := false }).out) (hsign _)

/-! ### Narrow formats (R185, R186) -/

/-- A field of a word replaced. -/
theorem replaced_field (x y s n : Nat) : x - x / 2 ^ s % 2 ^ n * 2 ^ s + y * 2 ^ s = x / 2 ^ (s + n) * 2 ^ (s + n) + y * 2 ^ s + x % 2 ^ s := by
  have hlow := Nat.div_add_mod x (2 ^ s)
  have hhigh := Nat.div_add_mod (x / 2 ^ s) (2 ^ n)
  rw [Nat.div_div_eq_div_mul, ← pow_add] at hhigh
  have hfield : x = x / 2 ^ (s + n) * 2 ^ (s + n) + x / 2 ^ s % 2 ^ n * 2 ^ s + x % 2 ^ s :=
    calc x = 2 ^ s * (2 ^ n * (x / 2 ^ (s + n)) + x / 2 ^ s % 2 ^ n) + x % 2 ^ s := by rw [hhigh, hlow]
      _ = _ := by rw [pow_add]; ring
  omega

theorem lanesResult_ncvt (f : VForm) : LanesResult (.ncvt f) f (if f.sub.getLsbD 3 then f.ty else .n32) fun t l =>
      let k := f.sub.toNat % 8
      let w := if k = 3 then 4 else 8
      let at0 := w * (f.sub.toNat / 16 % 8)
      let sc := decodeF .f32 (t.elem f.b.toNat l).toNat
      if f.sub.getLsbD 3 then (ncvtDec (fmtOf f.ty) k f.rnd f.sat ((t.elem f.a.toNat l).toNat / 2 ^ at0 % 2 ^ w) sc).out
      else
        let x := decodeF (fmtOf f.ty) (t.fbits f f.a l)
        let e := if k = 2 then ncvtEncQ f.rnd x sc else ncvtEnc (ncvtFmt k) f.rnd f.sat x sc
        let old := (t.elem f.d.toNat l).toNat
        (old / 2 ^ (at0 + w) * 2 ^ (at0 + w) + e.pat * 2 ^ at0 + old % 2 ^ at0, e.flags) := by
  refine lanesResult_of_stands (fun _ => rfl) fun _ t l => ?_
  have hk : (f.sub.extractLsb' 0 3).toNat = f.sub.toNat % 8 := by rw [BitVec.extractLsb'_toNat]; rfl
  have hpos : (f.sub.extractLsb' 4 3).toNat = f.sub.toNat / 16 % 8 := by
    rw [BitVec.extractLsb'_toNat, Nat.shiftRight_eq_div_pow]
  simp only [hk, hpos, ncvtWidth, fval_eq]
  cases f.sub.getLsbD 3
  · simp only [Bool.false_eq_true, if_false, replaced_field]
    exact ⟨stands_ofNat _ _, rfl⟩
  · exact ⟨stands_ofNat _ _, rfl⟩

/-- Settles O11: each conversion rounds its value once; FCVTI clamps it, and NCVT replaces a field. -/
theorem floatConversions : Obligations.FloatConversions := by
  unfold Obligations.FloatConversions
  exact fun f => ⟨lanesResult_fcvt f, lanesResult_fcvti f, lanesResult_icvtf f, lanesResult_ncvt f⟩

end Sys2Proof.Floats

end

section
/-!
PROOF. The family of the document on float and special functions, sixth part: the log-step trees and scans of R235 and R236 over combinations with their
flags, as functions of a lane's position.
-/

namespace Sys2Proof.Reductions

open Sys2Proof.Machine Sys2Proof.Integer Sys2Proof.NumberFormats Sys2Proof.Floats

/-! ### Flags of several lanes -/

section Flags

variable {ls ms : List Nat} {fl : Nat → Sticky}

theorem raisedBy_append (ls ms : List Nat) (fl : Nat → Sticky) : raisedBy (ls ++ ms) fl = raisedBy ls fl ||| raisedBy ms fl := by
  induction ls with
  | nil => exact BitVec.zero_or.symm
  | cons l ls ih =>
    unfold raisedBy at ih ⊢
    rw [List.cons_append, List.foldr_cons, List.foldr_cons, ih, BitVec.or_assoc]

theorem raisedBy_flatMap (ls : List Nat) (ms : Nat → List Nat) (fl : Nat → Sticky) :
    raisedBy (ls.flatMap ms) fl = raisedBy ls fun l => raisedBy (ms l) fl := by
  induction ls with
  | nil => rfl
  | cons l ls ih => rw [List.flatMap_cons, raisedBy_append, ih]; rfl

/-- Lanes that raise the same. -/
theorem raisedBy_const {x : Sticky} (hne : ls ≠ []) (h : ∀ l ∈ ls, fl l = x) : raisedBy ls fl = x := by
  induction ls with
  | nil => exact absurd rfl hne
  | cons l ls ih =>
    obtain ⟨hl, hls⟩ := List.forall_mem_cons.1 h
    have hcons : raisedBy (l :: ls) fl = x ||| raisedBy ls fl := congrArg (· ||| raisedBy ls fl) hl
    rw [hcons]
    by_cases hnil : ls = []
    · rw [hnil]; exact BitVec.or_zero
    · rw [ih hnil hls, BitVec.or_self]

theorem raisedBy_congr {fl' : Nat → Sticky} (h : ∀ l ∈ ls, fl l = fl' l) : raisedBy ls fl = raisedBy ls fl' := by
  induction ls with
  | nil => rfl
  | cons l ls ih =>
    obtain ⟨hl, hls⟩ := List.forall_mem_cons.1 h
    exact congrArg₂ (· ||| ·) hl (ih hls)

end Flags

/-! ### The tree of R235 -/

section Tree

variable (code : Nat) (ty : Ty) (x : Nat → Option CElem)

/-- The elements after one step: neighbours combine. -/
def paired (j : Nat) : Option CElem := (combineOpt code ty (x (2 * j)) (x (2 * j + 1))).1

/-- The flags of that combination. -/
def pairFlags (j : Nat) : Sticky := (combineOpt code ty (x (2 * j)) (x (2 * j + 1))).2

/-- The tree of s + 1 steps is that of s steps over neighbours that have combined. -/
theorem redAt_succ_eq_paired (s j : Nat) : redAt code ty x (s + 1) (2 * j) =
    ((redAt code ty (paired code ty x) s j).1,
      (redAt code ty (paired code ty x) s j).2 ||| raisedBy (List.range' j (2 ^ s)) (pairFlags code ty x)) := by
  induction s generalizing j with
  | zero =>
    have hone : raisedBy (List.range' j (2 ^ 0)) (pairFlags code ty x) = pairFlags code ty x j := BitVec.or_zero
    rw [hone]
    simp only [redAt, paired, pairFlags, pow_zero, BitVec.or_self]
    exact Prod.ext rfl (BitVec.or_comm _ _)
  | succ s ih =>
    have hright : 2 * j + 2 ^ (s + 1) = 2 * (j + 2 ^ s) := by rw [pow_succ']; omega
    have hsplit : List.range' j (2 ^ (s + 1)) = List.range' j (2 ^ s) ++ List.range' (j + 2 ^ s) (2 ^ s) := by
      rw [List.range'_append_1, ← two_mul, ← pow_succ']
    rw [redAt, hright, ih j, ih (j + 2 ^ s), hsplit, raisedBy_append, redAt]
    dsimp only
    refine Prod.ext rfl ?_
    dsimp only
    ac_rfl

/-- One step over 2m elements from position 2j on. -/
theorem pairUp_map (j m : Nat) : pairUp code ty ((List.range' (2 * j) (2 * m)).map x) =
    ((List.range' j m).map (paired code ty x), raisedBy (List.range' j m) (pairFlags code ty x)) := by
  induction m generalizing j with
  | zero => rfl
  | succ m ih =>
    rw [Nat.mul_succ, List.range'_succ, List.range'_succ, List.range'_succ, List.map_cons, List.map_cons, pairUp, show 2 * j + 1 + 1 = 2 * (j + 1) by ring,
      ih]
    rfl

/-- The log-step tree over 2^n elements is R235's x(0) after n steps. -/
theorem treeReduce_eq_redAt (n : Nat) : treeReduce code ty n ((List.range (2 ^ n)).map x) = redAt code ty x n 0 := by
  induction n generalizing x with
  | zero => rfl
  | succ n ih =>
    have hpairs := pairUp_map code ty x 0 (2 ^ n)
    have hstep := redAt_succ_eq_paired code ty x n 0
    rw [Nat.mul_zero] at hpairs hstep
    rw [List.range_eq_range', pow_succ', treeReduce, hpairs, hstep, ← List.range_eq_range', ih]
    exact Prod.ext rfl (BitVec.or_comm _ _)

/-- A tree without elements raises nothing. -/
theorem redAt_none {x : Nat → Option CElem} (s i : Nat) (h : ∀ k < 2 ^ s, x (i + k) = none) : redAt code ty x s i = (none, 0) := by
  induction s generalizing i with
  | zero => rw [redAt, ← Nat.add_zero i, h 0 (by decide)]
  | succ s ih =>
    have hpow : 2 ^ (s + 1) = 2 ^ s + 2 ^ s := by rw [pow_succ]; ring
    rw [redAt, ih i fun k hk => h k (by omega), ih (i + 2 ^ s) fun k hk => by rw [Nat.add_assoc]; exact h _ (by omega)]
    simp only [combineOpt, BitVec.or_self]

end Tree

/-! ### The scan of R236 -/

section Scan

variable (code : Nat) (ty : Ty) (x : Nat → Option CElem)

/-- One step over n elements. -/
theorem scanStep_map (s n : Nat) :
    List.zipWith (combineFlagged code ty) (List.replicate (2 ^ s) (none, 0) ++ (List.range n).map (scanAt code ty x s))
      ((List.range n).map (scanAt code ty x s)) = (List.range n).map (scanAt code ty x (s + 1)) := by
  have habsent : ∀ b : Option CElem × Sticky, combineFlagged code ty (none, 0) b = b := fun b => by
    rw [combineFlagged, combineOpt]
    exact Prod.ext rfl (by simp)
  refine List.ext_getElem (by simp) fun i hi _ => ?_
  have hin : i < n := by simpa using hi
  rw [List.getElem_zipWith, List.getElem_map, List.getElem_map, List.getElem_range, scanAt]
  dsimp only
  by_cases hlow : i < 2 ^ s
  · rw [if_pos hlow, List.getElem_append_left (by simpa using hlow), List.getElem_replicate, habsent]
  · rw [if_neg hlow, List.getElem_append_right (by simpa using hlow)]
    simp only [List.length_replicate, List.getElem_map, List.getElem_range, combineFlagged]
    exact Prod.ext rfl (by dsimp only; ac_rfl)

/-- The values of the log-step scan after n steps more. -/
theorem scanSteps_eq_scanAt (n s len : Nat) :
    scanSteps code ty n s ((List.range len).map (scanAt code ty x s)) = (List.range len).map (scanAt code ty x (s + n)) := by
  induction n generalizing s with
  | zero => rfl
  | succ n ih => rw [scanSteps, scanStep_map, ih, Nat.add_assoc, Nat.add_comm 1 n]

end Scan

end Sys2Proof.Reductions

end

section
/-!
PROOF. The family of the document on float and special functions, seventh part: XRED and XSCAN issue with the values of their segments' trees and scans, and
trap where the segment size is none of R234's.
-/

namespace Sys2Proof.Reductions

open Sys2Proof.Machine Sys2Proof.Integer Sys2Proof.NumberFormats Sys2Proof.Floats

/-! ### Segments (R234) -/

section Segments

variable {t : Team} {m : BitVec 4} {f : XForm} {p g : Nat}

/-- The segment sizes that no trap refuses. -/
theorem segOk_iff (p : Nat) : segOk p = true ↔ ∃ k, 1 ≤ k ∧ k ≤ 10 ∧ p = 2 ^ k := by
  rw [segOk, List.any_eq_true]
  constructor
  · rintro ⟨k, hk, heq⟩
    have hlt := List.mem_range.1 hk
    exact ⟨k + 1, by omega, by omega, beq_iff_eq.1 heq⟩
  · rintro ⟨k, hpos, hle, heq⟩
    exact ⟨k - 1, List.mem_range.2 (by omega), by rw [Nat.sub_add_cancel hpos]; exact beq_iff_eq.2 heq⟩

/-- Position k of segment g holds an active lane. -/
def activeAt (t : Team) (m : BitVec 4) (l : Nat) : Bool := (t.activeSet m).getLsbD l && decide (l < t.lanes)

theorem mem_active_iff {l : Nat} : l ∈ t.active m ↔ activeAt t m l = true := by
  rw [Team.active, laneList, List.mem_filter, List.mem_range, activeAt, Bool.and_eq_true, decide_eq_true_iff, and_comm]

/-- The lanes of a segment, of G segments. -/
theorem range_mul (n p : Nat) : List.range (n * p) = (List.range n).flatMap fun g => (List.range p).map (g * p + ·) := by
  induction n with
  | zero => rw [Nat.zero_mul]; rfl
  | succ n ih => rw [Nat.succ_mul, List.range_add, ih, List.range_succ, List.flatMap_append, List.flatMap_singleton]

/-- The segments of a team. -/
def segments (t : Team) (p : Nat) : List Nat := List.range ((t.lanes + p - 1) / p)

/-- The positions of active lanes in a segment. -/
def activeIn (t : Team) (m : BitVec 4) (p g : Nat) : List Nat := (List.range p).filter fun k => activeAt t m (g * p + k)

/-- The active lanes are those of the segments, one segment after another. -/
theorem active_eq_segments (hp : 0 < p) : t.active m = (segments t p).flatMap fun g => (activeIn t m p g).map (g * p + ·) := by
  have hcover : t.lanes ≤ (t.lanes + p - 1) / p * p := by
    have hdiv := Nat.div_add_mod (t.lanes + p - 1) p
    have hmod := Nat.mod_lt (t.lanes + p - 1) hp
    rw [Nat.mul_comm] at hdiv
    omega
  obtain ⟨d, hd⟩ := Nat.exists_eq_add_of_le hcover
  have hsegments : (List.range ((t.lanes + p - 1) / p * p)).filter (activeAt t m) =
      (segments t p).flatMap fun g => (activeIn t m p g).map (g * p + ·) := by
    rw [range_mul, List.filter_flatMap]
    simp only [List.filter_map]
    rfl
  have hbeyond : ((List.range d).map (t.lanes + ·)).filter (activeAt t m) = [] := List.filter_eq_nil_iff.2 fun l hl => by
    obtain ⟨k, -, rfl⟩ := List.mem_map.1 hl
    simp [activeAt]
  rw [← hsegments, hd, List.range_add, List.filter_append, hbeyond, List.append_nil, Team.active, laneList]
  refine List.filter_congr fun l hl => ?_
  rw [activeAt, decide_eq_true (List.mem_range.1 hl), Bool.and_true]

theorem segment_eq (f : XForm) (p g k : Nat) : t.segment f p g k =
    if activeAt t f.m (g * p + k) then some (t.cElem (f.pat.toNat % 16) f.ty f.a.toNat (g * p + k)) else none := by
  rw [Team.segment]
  simp only [mem_active_iff]

/-- A position within a segment of p lanes. -/
theorem lane_div_mod {k : Nat} (h : k < p) : (g * p + k) / p = g ∧ (g * p + k) % p = k := by
  have hp : 0 < p := by omega
  rw [Nat.mul_comm]
  exact ⟨by rw [Nat.mul_add_div hp, Nat.div_eq_of_lt h, Nat.add_zero], by rw [Nat.mul_add_mod, Nat.mod_eq_of_lt h]⟩

/-- Over the segments, each with its active positions, and over the active lanes. -/
theorem flatMap_segments {α : Type} (hp : 0 < p) (h : Nat → Nat → List α) :
    ((segments t p).flatMap fun g => (activeIn t m p g).flatMap (h g)) = (t.active m).flatMap fun l => h (l / p) (l % p) := by
  rw [active_eq_segments hp, List.flatMap_assoc]
  refine List.flatMap_congr fun g _ => ?_
  rw [List.flatMap_map]
  refine List.flatMap_congr fun k hk => ?_
  obtain ⟨hdiv, hmod⟩ := lane_div_mod (g := g) (List.mem_range.1 (List.mem_filter.1 hk).1)
  rw [hdiv, hmod]

theorem raisedBy_segments (hp : 0 < p) (h : Nat → Nat → Sticky) :
    (raisedBy (segments t p) fun g => raisedBy (activeIn t m p g) (h g)) = raisedBy (t.active m) fun l => h (l / p) (l % p) := by
  rw [active_eq_segments hp, raisedBy_flatMap]
  refine raisedBy_congr fun g _ => ?_
  have hmap : ∀ fl : Nat → Sticky, raisedBy ((activeIn t m p g).map (g * p + ·)) fl = raisedBy (activeIn t m p g) fun k => fl (g * p + k) :=
    fun fl => List.foldr_map
  rw [hmap]
  refine raisedBy_congr fun k hk => ?_
  obtain ⟨hdiv, hmod⟩ := lane_div_mod (g := g) (List.mem_range.1 (List.mem_filter.1 hk).1)
  rw [hdiv, hmod]

end Segments

/-! ### The frame of XRED and XSCAN (R234) -/

section Frame

variable {i : Instr} {f : XForm} {res : Nat → List (Option CElem) → List (Option CElem × Sticky)} {s : State} {u : Nat} {t : Team} {p : Nat}

/-- The operation code, as the model reads it. -/
theorem opCode_eq (f : XForm) : (f.pat.extractLsb' 0 4).toNat = f.pat.toNat % 16 := by
  rw [BitVec.extractLsb'_toNat, Nat.shiftRight_zero]

/-- Results with their positions. -/
theorem zipIdx_map_range {α : Type} (n : Nat) (h : Nat → α) : ((List.range n).map h).zipIdx = (List.range n).map fun k => (h k, k) := by
  refine List.ext_getElem (by simp) fun k _ _ => ?_
  simp

/-- An instruction that gives each position of each segment a result writes those of the active lanes. -/
theorem issues_of_segX (he : ∀ s, exec i s = segX i f res s) (hr : s.Ready u t i false false)
    (hparam : Fields.param Config.colw t.lanes f.par = some p) (hok : segOk p = true) (hp : 0 < p) (y : Nat → Nat → Option CElem × Sticky)
    (hres : ∀ g, res p ((List.range p).map (t.segment f p g)) = (List.range p).map (y g)) :
    Issues s u t i false false (cDests (f.pat.toNat % 16) f.ty f.d.toNat)
      ((t.active f.m).flatMap fun l => cWrite (f.pat.toNat % 16) f.ty f.d.toNat l ((y (l / p) (l % p)).1.getD { val := 0, idx := 0 }))
      (raisedBy (t.active f.m) fun l => (y (l / p) (l % p)).2) := by
  have hseg : ∀ g, ((List.range p).map fun k =>
      if (t.activeSet f.m).getLsbD (g * p + k) && decide (g * p + k < t.lanes) then some (t.cElem (f.pat.toNat % 16) f.ty f.a.toNat (g * p + k))
      else none) = (List.range p).map (t.segment f p g) := fun g => List.map_congr_left fun k _ => (segment_eq f p g k).symm
  have hactive : ∀ g, (((List.range p).map (y g)).zipIdx.filter fun zk => (t.activeSet f.m).getLsbD (g * p + zk.2) && decide (g * p + zk.2 < t.lanes)) =
      (activeIn t f.m p g).map fun k => (y g k, k) := fun g => by
    rw [zipIdx_map_range, List.filter_map]
    rfl
  have hwrites : ((t.active f.m).flatMap fun l => cWrite (f.pat.toNat % 16) f.ty f.d.toNat l ((y (l / p) (l % p)).1.getD { val := 0, idx := 0 })) =
      (segments t p).flatMap fun g => (activeIn t f.m p g).flatMap fun k =>
        cWrite (f.pat.toNat % 16) f.ty f.d.toNat (g * p + k) ((y g k).1.getD { val := 0, idx := 0 }) := by
    rw [flatMap_segments hp fun g k => cWrite (f.pat.toNat % 16) f.ty f.d.toNat (g * p + k) ((y g k).1.getD { val := 0, idx := 0 })]
    refine List.flatMap_congr fun l _ => ?_
    rw [Nat.div_add_mod']
  refine issues_of_emit (raiser := decide (6 ≤ f.pat.toNat % 16)) hr (he s) ?_
  simp only [hparam, hok, Bool.not_true, Bool.false_eq_true, if_false, opCode_eq, hseg, hres, hactive, hwrites, List.flatMap_map, List.foldl_map,
    foldl_raises_eq_foldr]
  rw [← raisedBy_segments hp fun g k => (y g k).2]
  rfl

/-- A segment size that R234 does not name raises IINS. -/
theorem trapsAtIssue_of_segX (he : ∀ s, exec i s = segX i f res s) (hr : s.Ready u t i false false)
    (hparam : ∀ k, 1 ≤ k → k ≤ 10 → Fields.param Config.colw t.lanes f.par ≠ some (2 ^ k)) (hpriv : t.priv = false) (hspec : t.spec = none) :
    TrapsAtIssue s u t i .iins t.slot 0 [] (t.mask 0) := by
  refine Accesses.trapsAtIssue_of_trap (rskip := 0) (lanes := none) hr.team hpriv hspec ?_
  rw [he, segX, State.issue_ready _ hr]
  dsimp only
  split
  · rfl
  next p hp =>
    have hbad : segOk p = false := Bool.eq_false_iff.2 fun h => by
      obtain ⟨k, hpos, hle, rfl⟩ := (segOk_iff p).1 h
      exact hparam k hpos hle hp
    rw [hbad]
    rfl

end Frame

/-! ### XRED and XSCAN (R235, R236) -/

section Instructions

variable {f : XForm} {s : State} {u : Nat} {t : Team} {k : Nat}

theorem segOk_two_pow (hpos : 1 ≤ k) (hle : k ≤ 10) : segOk (2 ^ k) = true := (segOk_iff _).2 ⟨k, hpos, hle, rfl⟩

theorem exec_xred (f : XForm) (s : State) : exec (.xred f) s = segX (.xred f) f (fun p xs =>
    List.replicate p (treeReduce (f.pat.extractLsb' 0 4).toNat f.ty (Nat.log2 p) xs)) s := rfl

theorem exec_xscan (f : XForm) (s : State) : exec (.xscan f) s = segX (.xscan f) f (fun p xs =>
    let r := scanSteps (f.pat.extractLsb' 0 4).toNat f.ty (Nat.log2 p) 0 (xs.map fun x => (x, 0))
    if f.pat.getLsbD 4 then (none, 0) :: r.take (p - 1) else r) s := rfl

/-- A segment raises what its tree raises, once for all its active lanes; one without active lanes has no elements. -/
theorem raisedBy_activeIn_redAt (t : Team) (f : XForm) (k g : Nat) :
    (raisedBy (activeIn t f.m (2 ^ k) g) fun _ => (redAt (f.pat.toNat % 16) f.ty (t.segment f (2 ^ k) g) k 0).2) =
      (redAt (f.pat.toNat % 16) f.ty (t.segment f (2 ^ k) g) k 0).2 := by
  by_cases hnil : activeIn t f.m (2 ^ k) g = []
  · have hnone : ∀ j < 2 ^ k, t.segment f (2 ^ k) g (0 + j) = none := fun j hj => by
      rw [Nat.zero_add, segment_eq, if_neg (List.filter_eq_nil_iff.1 hnil j (List.mem_range.2 hj))]
    rw [hnil, redAt_none _ _ _ _ hnone]
    rfl
  · exact raisedBy_const hnil fun _ _ => rfl

/-- XRED. -/
theorem issues_xred (hr : s.Ready u t (.xred f) false false) (hpos : 1 ≤ k) (hle : k ≤ 10)
    (hparam : Fields.param Config.colw t.lanes f.par = some (2 ^ k)) :
    Issues s u t (.xred f) false false (cDests (f.pat.toNat % 16) f.ty f.d.toNat)
      ((t.active f.m).flatMap fun l => cWrite (f.pat.toNat % 16) f.ty f.d.toNat l
        ((redAt (f.pat.toNat % 16) f.ty (t.segment f (2 ^ k) (l / 2 ^ k)) k 0).1.getD { val := 0, idx := 0 }))
      (raisedBy (segments t (2 ^ k)) fun g => (redAt (f.pat.toNat % 16) f.ty (t.segment f (2 ^ k) g) k 0).2) := by
  have hissues := issues_of_segX (exec_xred f) hr hparam (segOk_two_pow hpos hle) (Nat.two_pow_pos k)
    (fun g _ => redAt (f.pat.toNat % 16) f.ty (t.segment f (2 ^ k) g) k 0) fun g => by
      rw [Nat.log2_two_pow, opCode_eq, treeReduce_eq_redAt, List.map_const', List.length_range]
  rw [← raisedBy_segments (Nat.two_pow_pos k) fun g _ => (redAt (f.pat.toNat % 16) f.ty (t.segment f (2 ^ k) g) k 0).2] at hissues
  simp only [raisedBy_activeIn_redAt] at hissues
  exact hissues

/-- What the scan gives the lane at position i: the value of its own position, or with `.ex` of the one before it. -/
def scanResult (f : XForm) (t : Team) (k g i : Nat) : Option CElem × Sticky :=
  let y := scanAt (f.pat.toNat % 16) f.ty (t.segment f (2 ^ k) g) k
  if f.pat.getLsbD 4 then (if i = 0 then (none, 0) else y (i - 1)) else y i

/-- XSCAN. -/
theorem issues_xscan (hr : s.Ready u t (.xscan f) false false) (hpos : 1 ≤ k) (hle : k ≤ 10)
    (hparam : Fields.param Config.colw t.lanes f.par = some (2 ^ k)) :
    Issues s u t (.xscan f) false false (cDests (f.pat.toNat % 16) f.ty f.d.toNat)
      ((t.active f.m).flatMap fun l => cWrite (f.pat.toNat % 16) f.ty f.d.toNat l ((scanResult f t k (l / 2 ^ k) (l % 2 ^ k)).1.getD { val := 0, idx := 0 }))
      (raisedBy (t.active f.m) fun l => (scanResult f t k (l / 2 ^ k) (l % 2 ^ k)).2) := by
  refine issues_of_segX (exec_xscan f) hr hparam (segOk_two_pow hpos hle) (Nat.two_pow_pos k) (scanResult f t k) fun g => ?_
  have hscan := scanSteps_eq_scanAt (f.pat.toNat % 16) f.ty (t.segment f (2 ^ k) g) k 0 (2 ^ k)
  have hstart : ((List.range (2 ^ k)).map (t.segment f (2 ^ k) g)).map (fun x => (x, (0 : Sticky))) =
      (List.range (2 ^ k)).map (scanAt (f.pat.toNat % 16) f.ty (t.segment f (2 ^ k) g) 0) := List.map_map
  rw [Nat.log2_two_pow, opCode_eq, hstart, hscan, Nat.zero_add]
  unfold scanResult
  cases f.pat.getLsbD 4
  · rfl
  · obtain ⟨n, hn⟩ : ∃ n, 2 ^ k = n + 1 := ⟨2 ^ k - 1, (Nat.sub_add_cancel Nat.one_le_two_pow).symm⟩
    simp only [if_true, hn, Nat.add_sub_cancel]
    rw [← List.map_take, List.take_range, Nat.min_eq_left (Nat.le_succ n), List.range_succ_eq_map, List.map_cons, List.map_map]
    rfl

end Instructions

/-- R234 to R236. -/
theorem reductionsAndScans_claim : Claims.ReductionsAndScans := by
  unfold Claims.ReductionsAndScans
  intro f s u t
  exact ⟨fun hr => ⟨fun k => issues_xred hr, trapsAtIssue_of_segX (exec_xred f) hr⟩, fun hr k => issues_xscan hr⟩

end Sys2Proof.Reductions

end

section
/-!
PROOF. The family of the document on float and special functions, eighth part: `Obligations.ReductionsAndScans` (O23) holds: the combinations of R234 over
integers, floats and pairs, beside the trees and scans of the two parts before.
-/

namespace Sys2Proof.Reductions

open Sys2Proof.Machine Sys2Proof.Integer Sys2Proof.NumberFormats Sys2Proof.Floats

/-! ### Integer combinations (R234) -/

section Integers

variable {ty : Ty} {x y : CElem}

theorem toNat_lowBits (ty : Ty) (v : Word) : (lowBits ty.width v).toNat = v.toNat % 2 ^ ty.width := toNat_low v (width_le ty)

/-- A pattern is its own wrapped value. -/
theorem readAs_eq_wrapTo {p : Nat} (h : p < 2 ^ ty.width) : readAs ty p = wrapTo ty p := by
  unfold readAs wrapTo
  cases ty.isSigned
  · simp only [Bool.false_eq_true, false_and, if_false]
    exact (Int.emod_eq_of_lt (Int.natCast_nonneg p) (by exact_mod_cast h)).symm
  · simp only [true_and, if_true]
    rw [bmod_pattern (width_pos ty) h]

theorem wrapTo_congr {a b : Int} (h : a ≡ b [ZMOD 2 ^ ty.width]) : wrapTo ty a = wrapTo ty b := by
  have hmod : a % (2 ^ ty.width : Nat) = b % (2 ^ ty.width : Nat) := by exact_mod_cast h
  unfold wrapTo
  split
  · rw [← Int.emod_bmod, hmod, Int.emod_bmod]
  · exact h

/-- The low bits of what stands for an integer are read as that integer wrapped. -/
theorem readAs_lowBits {v : Word} {a : Int} (h : Stands ty v a) : readAs ty (lowBits ty.width v).toNat = wrapTo ty a := by
  rw [readAs_eq_wrapTo (by rw [toNat_lowBits]; exact Nat.mod_lt _ (Nat.two_pow_pos _)), toNat_lowBits]
  exact wrapTo_congr ((stands_of_mod_eq rfl).symm.trans h)

theorem lowBits_lt (ty : Ty) (v : Word) : (lowBits ty.width v).toNat < 2 ^ ty.width := by
  rw [toNat_lowBits]
  exact Nat.mod_lt _ (Nat.two_pow_pos _)

theorem toNat_lowBits_of_lt {v : Word} (h : v.toNat < 2 ^ ty.width) : (lowBits ty.width v).toNat = v.toNat := by
  rw [toNat_lowBits, Nat.mod_eq_of_lt h]

variable (hx : x.val.toNat < 2 ^ ty.width) (hy : y.val.toNat < 2 ^ ty.width)
include hx hy

theorem combine_add : readAs ty (combine 0 ty x y).1.val.toNat = wrapTo ty (readAs ty x.val.toNat + readAs ty y.val.toNat) := by
  rw [← intVal_of_lt hx, ← intVal_of_lt hy]
  exact readAs_lowBits (stands_ofInt ty _)

theorem combine_min : readAs ty (combine 1 ty x y).1.val.toNat = min (readAs ty x.val.toNat) (readAs ty y.val.toNat) := by
  change readAs ty (lowBits ty.width (opMin ty x.val y.val)).toNat = _
  rw [opMin, intVal_of_lt hx, intVal_of_lt hy]
  split
  next h => rw [toNat_lowBits_of_lt hx, min_eq_left h]
  next h => rw [toNat_lowBits_of_lt hy, min_eq_right (le_of_not_ge h)]

theorem combine_max : readAs ty (combine 2 ty x y).1.val.toNat = max (readAs ty x.val.toNat) (readAs ty y.val.toNat) := by
  change readAs ty (lowBits ty.width (opMax ty x.val y.val)).toNat = _
  rw [opMax, intVal_of_lt hx, intVal_of_lt hy]
  split
  next h => rw [toNat_lowBits_of_lt hx, max_eq_left h]
  next h => rw [toNat_lowBits_of_lt hy, max_eq_right (le_of_not_ge h)]

theorem combine_logic : (combine 3 ty x y).1.val.toNat = x.val.toNat &&& y.val.toNat ∧ (combine 4 ty x y).1.val.toNat = x.val.toNat ||| y.val.toNat ∧
    (combine 5 ty x y).1.val.toNat = x.val.toNat ^^^ y.val.toNat := by
  refine ⟨?_, ?_, ?_⟩
  · rw [← BitVec.toNat_and]
    exact toNat_lowBits_of_lt (by rw [BitVec.toNat_and]; exact Nat.and_lt_two_pow _ hy)
  · rw [← BitVec.toNat_or]
    exact toNat_lowBits_of_lt (by rw [BitVec.toNat_or]; exact Nat.or_lt_two_pow hx hy)
  · rw [← BitVec.toNat_xor]
    exact toNat_lowBits_of_lt (by rw [BitVec.toNat_xor]; exact Nat.xor_lt_two_pow hx hy)

omit hx hy in
/-- The combinations of integers raise nothing and stay within the type. -/
theorem combine_integer {k : Nat} (hk : k < 6) : (combine k ty x y).2 = 0 ∧ (combine k ty x y).1.val.toNat < 2 ^ ty.width := by
  have hcase : k = 0 ∨ k = 1 ∨ k = 2 ∨ k = 3 ∨ k = 4 ∨ k = 5 := by omega
  rcases hcase with rfl | rfl | rfl | rfl | rfl | rfl <;> exact ⟨rfl, lowBits_lt ty _⟩

end Integers

/-! ### Float combinations (R180, R234) -/

section FloatCombinations

variable {F : Fmt} {ty : Ty} {x y : CElem}

/-- The frame of R174 gives a pattern of its format. -/
theorem frame174_lt (hF : F.hasInf = true) (sat : Bool) {ops : List Nat} (hops : ∀ p ∈ ops, p < 2 ^ F.width) (invalid : Bool) {rest : Rounded}
    (hrest : rest.pat < 2 ^ F.width) : (frame174 F sat ops invalid none rest).pat < 2 ^ F.width := by
  have hnan : F.canonicalNaN < 2 ^ F.width := by cases F <;> decide
  unfold frame174
  split
  next p hp => exact quietPat_lt (hops p (List.mem_of_find?_eq_some hp))
  next =>
    split
    · exact hnan
    · exact hrest

theorem fminmaxV_lt (isMax : Bool) {a b : Nat} (ha : a < 2 ^ F.width) (hb : b < 2 ^ F.width) : (fminmaxV F isMax a b).pat < 2 ^ F.width := by
  have hq := quietPat_lt ha
  unfold fminmaxV
  dsimp only
  split_ifs <;> assumption

theorem fmaxiV_lt (isMax : Bool) {a b i j : Nat} (ha : a < 2 ^ F.width) (hb : b < 2 ^ F.width) (hi : i < 2 ^ 64) (hj : j < 2 ^ 64) :
    (fmaxiV F isMax a i b j).1 < 2 ^ F.width ∧ (fmaxiV F isMax a i b j).2 < 2 ^ 64 := by
  have hquiet : ∀ p < 2 ^ F.width, (if isNaNPat F p then quietPat F p else p) < 2 ^ F.width := fun p hp => by
    split
    · exact quietPat_lt hp
    · exact hp
  unfold fmaxiV
  dsimp only
  split
  · exact ⟨hquiet _ ha, hi⟩
  · exact ⟨hquiet _ hb, hj⟩

/-- A pattern is a word. -/
theorem toNat_pattern {p : Nat} (h : p < 2 ^ F.width) : (BitVec.ofNat 64 p).toNat = p := by
  have hw : F.width ≤ 64 := by cases F <;> decide
  rw [BitVec.toNat_ofNat, Nat.mod_eq_of_lt (h.trans_le (Nat.pow_le_pow_right (by decide) hw))]

variable (hty : ty.isFloat = true) (hx : x.val.toNat < 2 ^ ty.width) (hy : y.val.toNat < 2 ^ ty.width)
include hty hx hy

theorem combine_fadd :
    let D := decodeF (fmtOf ty)
    let p := x.val.toNat
    let q := y.val.toNat
    let r := frame174 (fmtOf ty) false [p, q] ((D p).isInf && (D q).isInf && (D p).neg != (D q).neg) none
      (if (D p).isInf then roundInf (fmtOf ty) false (D p).neg else if (D q).isInf then roundInf (fmtOf ty) false (D q).neg
        else roundEx (fmtOf ty) .rn false (sumEx .rn [((D p).neg, (D p).mag), ((D q).neg, (D q).mag)]))
    (combine 6 ty x y).1.val.toNat = r.pat ∧ (combine 6 ty x y).2 = r.flags := by
  intro D p q r
  have hF := hasInf_fmtOf hty
  rw [← width_fmtOf hty] at hx hy
  have hr : faddV (fmtOf ty) .rn false false (D p) (D q) = r := faddV_eq .rn false (carries_decodeF hF hx) (carries_decodeF hF hy)
  have hlt : r.pat < 2 ^ (fmtOf ty).width := by
    refine frame174_lt hF false (by simp [p, q, hx, hy]) _ ?_
    split_ifs
    · exact roundInf_lt hF false _
    · exact roundInf_lt hF false _
    · exact roundEx_lt hF .rn false _
  change (BitVec.ofNat 64 (faddV (fmtOf ty) .rn false false (D p) (D q)).pat).toNat = _ ∧ (faddV (fmtOf ty) .rn false false (D p) (D q)).flags = _
  rw [hr]
  exact ⟨toNat_pattern hlt, rfl⟩

/-- FMIN and FMAX as combinations. -/
theorem combine_fminmax (isMax : Bool) {before : Nat → Nat → Prop} [DecidableRel before]
    (hout : (fminmaxV (fmtOf ty) isMax x.val.toNat y.val.toNat).out = minMax (fmtOf ty) before x.val.toNat y.val.toNat) :
    let c := combine (if isMax then 8 else 7) ty x y
    let z := minMax (fmtOf ty) before x.val.toNat y.val.toNat
    (c.1.val.toNat, c.2) = (z.1.toNat, z.2) := by
  rw [← width_fmtOf hty] at hx hy
  have hpat := toNat_pattern (fminmaxV_lt isMax hx hy)
  have hc : combine (if isMax then 8 else 7) ty x y =
      ({ val := BitVec.ofNat 64 (fminmaxV (fmtOf ty) isMax x.val.toNat y.val.toNat).pat, idx := 0 },
        (fminmaxV (fmtOf ty) isMax x.val.toNat y.val.toNat).flags) := by
    cases isMax <;> rfl
  rw [hc, ← hout]
  dsimp only [Rounded.out]
  rw [hpat, Int.toNat_natCast]

/-- The winner of two pairs. -/
theorem combine_pair (isMax : Bool) :
    let c := combine (if isMax then 9 else 10) ty x y
    (c.1.val.toNat, c.1.idx.toNat) = winner ty isMax (x.val.toNat, x.idx.toNat) (y.val.toNat, y.idx.toNat) ∧ c.2 = 0 := by
  have hw := fmaxiV_eq hty isMax (x := (x.val.toNat, x.idx.toNat)) (y := (y.val.toNat, y.idx.toNat)) hx hy
  rw [← width_fmtOf hty] at hx hy
  obtain ⟨hval, hidx⟩ := fmaxiV_lt isMax hx hy x.idx.isLt y.idx.isLt
  have hc : combine (if isMax then 9 else 10) ty x y =
      ({ val := BitVec.ofNat 64 (fmaxiV (fmtOf ty) isMax x.val.toNat x.idx.toNat y.val.toNat y.idx.toNat).1,
         idx := BitVec.ofNat 64 (fmaxiV (fmtOf ty) isMax x.val.toNat x.idx.toNat y.val.toNat y.idx.toNat).2 }, 0) := by
    cases isMax <;> rfl
  rw [hc, ← hw]
  refine ⟨?_, rfl⟩
  dsimp only
  rw [toNat_pattern hval, BitVec.toNat_ofNat, Nat.mod_eq_of_lt hidx]

end FloatCombinations

/-- R234's combinations. -/
theorem combination_claim : Claims.Combination := by
  unfold Claims.Combination
  intro ty x y hx hy
  refine ⟨⟨combine_add hx hy, combine_min hx hy, combine_max hx hy, combine_logic hx hy⟩, fun k hk => combine_integer hk, fun h => ?_, fun h => ?_⟩
  · have hty : ty.isFloat = true := by rcases h with rfl | rfl | rfl | rfl <;> rfl
    exact ⟨combine_fadd hty hx hy, combine_fminmax hty hx hy false (fminV_out hty hx hy), combine_fminmax hty hx hy true (fmaxV_out hty hx hy)⟩
  · have hty : ty.isFloat = true := by rcases h with rfl | rfl | rfl <;> rfl
    obtain ⟨hmax, hmax0⟩ := combine_pair hty hx hy true
    obtain ⟨hmin, hmin0⟩ := combine_pair hty hx hy false
    exact ⟨hmax, hmin, hmax0, hmin0⟩

/-- Settles O23: the trees and scans over a team's segments, then the combinations that they are made of. -/
theorem reductionsAndScans : Obligations.ReductionsAndScans := ⟨reductionsAndScans_claim, combination_claim⟩

end Sys2Proof.Reductions

end

section
/-!
PROOF. The family of the document on float and special functions, ninth part: special functions. The service order of R193, the rows of R192 and the entry into
the queue hold; `Obligations.SpecialFunctions` (O13) is equivalent to its case of QSCP (`specialFunctions_iff`).
-/

namespace Sys2Proof.SpecialFunctions

open Sys2Proof.Machine Sys2Proof.Integer Sys2Proof.NumberFormats Sys2Proof.Performed

/-! ### SF_QUEUE_WRITE (R193) -/

/-- The operation at the front of a column's service order completes; the order goes on with the next. -/
theorem exec_sfQueueWrite {s : State} {c n : Nat} {o : Op} {rest : List Nat} (harg : s.arg = .id c) (hq : (s.column c).sfq = n :: rest)
    (ho : s.op? n = some o) : exec .sfQueueWrite s = .next ((s.modCol c fun k => { k with sfq := rest }).completeOp o) := by
  have hexec : exec .sfQueueWrite s = execSfQueueWrite s := rfl
  have ho' : (s.modCol c fun k => { k with sfq := rest }).op? n = some o := ho
  simp only [hexec, execSfQueueWrite, harg, hq, ho']

/-- The columns when an operation completes. -/
theorem column_completeOp (s : State) (o : Op) (c : Nat) : (s.completeOp o).column c = s.column c := by
  have hmod : ∀ (s : State) (u : Nat) (f : Team → Team), (s.modTeam u f).columns = s.columns := fun s u f => by
    unfold State.modTeam
    split <;> rfl
  unfold State.column State.completeOp State.giveRaise State.writeRegs
  dsimp only
  split
  · exact congrArg (fun l => (assoc l c).getD _) (hmod s _ _)
  · exact congrArg (fun l => (assoc l c).getD _) ((hmod _ _ _).trans (hmod s _ _))

/-- An operation that completes finishes (R20, R77, R89). -/
theorem finishes_completeOp (s : State) (o : Op) : Finishes s (s.completeOp o) o o.writes o.raises := by
  refine ⟨List.find?_eq_none.2 fun p hp => by simpa using (mem_completeOp_ops hp).1, State.completeOp_store s o, fun t ht hspec => ?_⟩
  have regs := applyAll_sameButRegs t (o.writes ++ o.later.map (·.wr))
  obtain ⟨fstat, sregs, vregs, masks, pc, live, -⟩ := raise_fields (t.applyAll (o.writes ++ o.later.map (·.wr))) o.raises
  exact ⟨_, team?_completeOp ht hspec, sregs, vregs, masks, fstat.trans (by rw [regs.status.1]), pc.trans regs.pc, live.trans regs.live⟩

/-- R193. -/
theorem specialFunctionsWrite_claim : Claims.SpecialFunctionsWrite := by
  unfold Claims.SpecialFunctionsWrite
  intro s c n o rest harg
  refine ⟨fun hq ho => ⟨_, exec_sfQueueWrite harg hq ho, ?_⟩, fun hq => ?_⟩
  · refine ⟨finishes_completeOp _ o, ?_⟩
    rw [column_completeOp, State.column_modCol_self]
  · have hexec : exec .sfQueueWrite s = execSfQueueWrite s := rfl
    simp only [hexec, execSfQueueWrite, harg, hq]

/-! ### The rows of R192 -/

theorem sfF_row {fn : SfFn} {x : Nat} {pat : Nat} {flags : Sticky} (num : Nat) (h : sfExact fn x = sfRow pat flags) :
    (sfF fn num x).1 = { pat := pat, flags := flags } := by
  rw [sfF, h]
  rfl

/-- A NaN is quieted, whatever the function. -/
theorem sfExact_nan (fn : SfFn) {x : Nat} (h : isNaNPat .f32 x = true) :
    sfExact fn x = sfRow (quietPat .f32 x) (if (decodeF .f32 x).isSig then fNV else 0) := by
  rw [isNaNPat] at h
  unfold sfExact
  cases hv : decodeF .f32 x with
  | nan n q fr k => rfl
  | inf n => rw [hv] at h; cases h
  | fin n m e => rw [hv] at h; cases h

/-- R192, where no approximation is needed. -/
theorem specialFunctionRows_claim : Claims.SpecialFunctionRows := by
  unfold Claims.SpecialFunctionRows
  simp only [List.forall_mem_cons, List.not_mem_nil, false_imp_iff, implies_true, and_true]
  refine ⟨fun fn num x _ hnan => sfF_row num (sfExact_nan fn hnan), fun num => ?_, fun num => ?_, fun num => ?_⟩
  · exact ⟨⟨sfF_row num rfl, sfF_row num rfl⟩, ⟨sfF_row num rfl, sfF_row num rfl⟩, ⟨sfF_row num rfl, sfF_row num rfl⟩, sfF_row num rfl,
      sfF_row num rfl⟩
  · exact ⟨⟨sfF_row num rfl, sfF_row num rfl, sfF_row num rfl, sfF_row num rfl, sfF_row num rfl, sfF_row num rfl⟩, sfF_row num rfl,
      sfF_row num rfl, sfF_row num rfl, sfF_row num rfl, sfF_row num rfl, sfF_row num rfl⟩
  · exact ⟨sfF_row num rfl, sfF_row num rfl, sfF_row num rfl, sfF_row num rfl, sfF_row num rfl, sfF_row num rfl, sfF_row num rfl,
      sfF_row num rfl, sfF_row num rfl, sfF_row num rfl, sfF_row num rfl, sfF_row num rfl, sfF_row num rfl⟩

/-! ### Entering the queue (R190, R193) -/

/-- A special-function instruction enters its column's queue with the results of some functions, each under the number of its free values; with 8 of its
team held it waits. -/
def EntersQueue (i : Instr) (f : VForm) (fns : List (SfFn × Nat)) : Prop :=
  ∀ s u t, s.Ready u t i f.se f.fs →
    (8 ≤ s.sfHeld u → exec i s = .next s) ∧
    (s.sfHeld u < 8 → ∃ s' t' o, exec i s = .next s' ∧ s'.team? u = some t' ∧ t.SameButPc t' ∧ s.SameBut s' u ∧
      s'.ops = s.ops ++ [o] ∧ (s'.column (s.colOf t)).sfq = (s.column (s.colOf t)).sfq ++ [o.id] ∧
      o.team = u ∧ o.kind = .sf ∧ o.flag = selFlag t.hdr f.se f.fs ∧ o.dests = (List.range fns.length).map (fun k => .v (f.d.toNat + k)) ∧
      o.writes = fns.zipIdx.flatMap (fun e => (t.active f.m).flatMap fun l =>
        vput f.ty (f.d.toNat + e.2) l (sfResult e.1.1 e.1.2 f.ty (t.pat f.ty f.a.toNat l)).1.toNat) ∧
      o.raises = fns.zipIdx.foldl (fun a e => a ||| raisedBy (t.active f.m) fun l =>
        (sfResult e.1.1 e.1.2 f.ty (t.pat f.ty f.a.toNat l)).2) 0)

/-- The end of a slot leaves a column's special-function order. -/
theorem sfq_advance (s : State) (u c : Nat) : ((s.advance u).column c).sfq = (s.column c).sfq := by
  have hfree : ((s.freeDp u).column c).sfq = (s.column c).sfq := by
    unfold State.freeDp
    split
    · rfl
    · dsimp only
      split
      next t _ _ =>
        by_cases hc : s.colOf t = c
        · rw [hc, State.column_modCol_self]
        · rw [State.column_modCol_other _ _ (Ne.symm hc)]
      next => rfl
  unfold State.advance
  split
  · rfl
  · split
    · unfold State.endClause
      split
      · rfl
      · exact hfree
    · rfl

/-- An operation enters a column's special-function order, and the slot has issued. -/
theorem enqueue_spec {s : State} {u : Nat} {t : Team} (ht : s.team? u = some t) (c : Nat) (g : Op → Op) :
    let s' := ((s.addOp u .sf g).modCol c fun k => { k with sfq := k.sfq ++ [s.nextId] }).advance u
    ∃ t', s'.team? u = some t' ∧ t.SameButPc t' ∧ s.SameBut s' u ∧
      s'.ops = s.ops ++ [g { Op.blank s.nextId s.cur u s.seq .sf with sup := s.cur == .team u && s.inHandler u }] ∧
      (s'.column c).sfq = (s.column c).sfq ++ [s.nextId] := by
  intro s'
  have hteam : ((s.addOp u .sf g).modCol c fun k => { k with sfq := k.sfq ++ [s.nextId] }).team? u = some t := ht
  obtain ⟨t', hteam', hpc, hsame, hops⟩ := State.advance_spec hteam
  refine ⟨t', hteam', hpc, ((State.SameBut.addOp s u _ _).trans (.modCol _ u _ _)).trans hsame, hops, ?_⟩
  rw [sfq_advance, State.column_modCol_self]
  rfl

/-- The operation of a special-function instruction. -/
def queuedOp (f : VForm) (t : Team) (fns : List (SfFn × Nat)) (o : Op) : Op :=
  let rs := fns.zipIdx.map fun e =>
    vecWrites f.ty (f.d.toNat + e.2) (t.active f.m) fun l => sfResult e.1.1 e.1.2 f.ty (t.pat f.ty f.a.toNat l)
  { o with flag := selFlag t.hdr f.se f.fs, dests := (List.range fns.length).map (fun k => .v (f.d.toNat + k)), writes := rs.flatMap (·.1),
           raises := rs.foldl (fun a r => a ||| r.2) 0, raiser := true, slot := t.slot }

/-- Such an instruction enters the queue. -/
theorem entersQueue_special {i : Instr} {f : VForm} {fns : List (SfFn × Nat)} (he : ∀ s, exec i s = special i f fns s) : EntersQueue i f fns := by
  intro s u t hr
  refine ⟨fun hheld => ?_, fun hheld => ?_⟩
  · rw [he, special, State.issue_ready _ hr, if_pos hheld]
  · obtain ⟨t', hteam, hpc, hsame, hops, hsfq⟩ := enqueue_spec hr.team (s.colOf t) (queuedOp f t fns)
    refine ⟨_, t', _, ?_, hteam, hpc, hsame, hops, hsfq, rfl, rfl, rfl, rfl, ?_, ?_⟩
    · rw [he, special, State.issue_ready _ hr, if_neg (not_le.2 hheld)]
      rfl
    · simp only [queuedOp, List.flatMap_map, vecWrites_eq fun l => stands_of_toNat_eq rfl]
    · simp only [queuedOp, List.foldl_map, vecWrites_eq fun l => stands_of_toNat_eq rfl]

/-- QSCP takes the free values of QSINP and QCOSP (R387). -/
theorem entersQueue_qscp (f : VForm) : EntersQueue (.qscp f) f [(.sinp, 0x306), (.cosp, 0x308)] := entersQueue_special fun _ => rfl

/-- `Claims.SpecialFunctions` stands on its case of QSCP. -/
theorem specialFunctions_claim_iff : Claims.SpecialFunctions ↔ ∀ f, EntersQueue (.qscp f) f [(.sinp, 0x30A), (.cosp, 0x30B)] := by
  unfold Claims.SpecialFunctions
  simp only [List.forall_mem_cons, List.not_mem_nil, false_imp_iff, implies_true, and_true]
  refine ⟨fun h f => (h f).2.2.2.2.2.1, fun h f => ⟨?_, ?_, ?_, ?_, ?_, h f, ?_, ?_, ?_, ?_, ?_⟩⟩
  · exact entersQueue_special (fns := [(.sin, 0x300)]) fun _ => rfl
  · exact entersQueue_special (fns := [(.cos, 0x302)]) fun _ => rfl
  · exact entersQueue_special (fns := [(.sin, 0x304), (.cos, 0x305)]) fun _ => rfl
  · exact entersQueue_special (fns := [(.sinp, 0x306)]) fun _ => rfl
  · exact entersQueue_special (fns := [(.cosp, 0x308)]) fun _ => rfl
  · exact entersQueue_special (fns := [(.ex2, 0x30C)]) fun _ => rfl
  · exact entersQueue_special (fns := [(.lg2, 0x30E)]) fun _ => rfl
  · exact entersQueue_special (fns := [(.tnh, 0x310)]) fun _ => rfl
  · exact entersQueue_special (fns := [(.rcp, 0x312)]) fun _ => rfl
  · exact entersQueue_special (fns := [(.rsq, 0x314)]) fun _ => rfl

/-- What O13 comes to. Its case of QSCP asks for free values (log 7) of numbers of its own, 0x30A and 0x30B, where the model takes those of QSINP and QCOSP,
0x306 and 0x308 (`entersQueue_qscp`, R387): as the free value is opaque, neither agreement nor difference of the two can be proved. -/
theorem specialFunctions_iff : Obligations.SpecialFunctions ↔ ∀ f, EntersQueue (.qscp f) f [(.sinp, 0x30A), (.cosp, 0x30B)] :=
  ⟨fun h => specialFunctions_claim_iff.1 h.1, fun h => ⟨specialFunctions_claim_iff.2 h, specialFunctionRows_claim, specialFunctionsWrite_claim⟩⟩

end Sys2Proof.SpecialFunctions

end

end
